-- ==== Sys2Proof/Word.lean ====
section
/-! DEFINITION. The word types of the device (sizes of R3) and their plainest arithmetic. -/

namespace Sys2Proof

/-- 8 bits (R3). -/
abbrev Byte := BitVec 8
/-- 16 bits (R3). -/
abbrev Half := BitVec 16
/-- 32 bits (R3). -/
abbrev Word := BitVec 32
/-- 64 bits (R3). -/
abbrev Double := BitVec 64
/-- A set of lanes of a course: bit i stands for lane i (R34). -/
abbrev LaneSet := BitVec 32

/-- The lanes of a course, in ascending order (R34). -/
def allLanes : List Nat := List.range 32

/-- Whether lane `i` belongs to the set. -/
def LaneSet.has (m : LaneSet) (i : Nat) : Bool := m.getLsbD i

/-- The set that holds lane `i` alone. -/
def LaneSet.only (i : Nat) : LaneSet := BitVec.ofNat 32 (2 ^ (i % 32))

/-- The members of a set in ascending lane order. -/
def LaneSet.toList (m : LaneSet) : List Nat := allLanes.filter (fun i => m.getLsbD i)

/-- The set of the lanes for which `f` holds. -/
def LaneSet.ofFn (f : Nat → Bool) : LaneSet :=
  BitVec.ofNat 32 (allLanes.foldl (fun acc i => if f i then acc + 2 ^ i else acc) 0)

end Sys2Proof
end

