-- ==== Sys2Proof/Syntax.lean ====
section
/-! DEFINITION. The rows of the opcode table as syntax: operand specifiers (R95, R96), guards (R94), layouts (R93), the payload of an
instruction, and the one inductive `Instr` with a constructor for every row: the Quenar instructions, the clause header, every encoding
that is no instruction (R107), and the events of the device that the table lists beside them. -/

namespace Sys2Proof

/-- An operand specifier (R95 Table 3; R96 Table 4 for 6-bit short specifiers, which name a subset of these). -/
inductive Opd where
  /-- v0–v255 -/
  | v (r : BitVec 8)
  /-- o0–o7 -/
  | o (r : BitVec 3)
  /-- l0–l1 -/
  | l (r : BitVec 1)
  /-- 0x10A -/
  | zero
  /-- 0x10B -/
  | one
  /-- 0x10C, the lane id -/
  | lane
  /-- 0x10D, as sr.CID -/
  | cid
  /-- 0x10E, as sr.BID -/
  | bid
  /-- 0x10F, as sr.PIERIX -/
  | pier
  /-- 0x110, minus one -/
  | mone
  /-- 0x111 -/
  | two
  /-- 0x112, the issuing mask -/
  | imask
  /-- 0x113, courses per bond -/
  | ncourse
  /-- 0x114, bonds per pier -/
  | nbond
  /-- 0x13F, the literal word -/
  | lit
  /-- s0–s63 -/
  | s (r : BitVec 6)
  /-- 0x1C0–0x1FF, an immediate of -32 to 31 -/
  | imm (k : BitVec 6)
  /-- 0x180–0x1BF: illegal operand, sub-code 0 -/
  | hole (k : BitVec 6)
  /-- 0x115–0x13E: reserved, illegal operand, sub-code 1 -/
  | resv (code : BitVec 9)
  /-- short specifiers 61–63: illegal operand, sub-code 7 -/
  | short (k : BitVec 2)
deriving DecidableEq, Repr

/-- GUARD = {NEG, PRED} (R94). -/
structure Guard where
  neg : Bool
  pred : BitVec 3
deriving DecidableEq, Repr

/-- The unguarded form 0b0111. -/
def Guard.always : Guard := { neg := false, pred := 7 }

/-- The layout an instruction is written in (R93). -/
inductive Form where
  /-- 32-bit layout S -/
  | s
  /-- 32-bit layout SJ, with its signed word offset -/
  | sj (off : BitVec 18)
  /-- 64-bit layout L -/
  | l
  /-- 96-bit layout LX, with its literal word -/
  | lx (lit : Word)
deriving DecidableEq, Repr

/-- What one instruction carries (R93): its layout, guard, the specifiers D, A, B, C, bits [13:12] of word 1 (FS or SM, R103) and the
12-bit minor field (R104), into which layout S's M4 is expanded (R138). -/
structure Ops where
  form : Form
  guard : Guard
  d : Opd
  a : Opd
  b : Opd
  c : Opd
  sel : BitVec 2
  minor : BitVec 12
deriving DecidableEq, Repr

/-- A clause header (R109 Table 12). -/
structure Header where
  stall : BitVec 4
  yield : Bool
  len : BitVec 5
  setB : BitVec 4
  setA : BitVec 4
  wait : BitVec 12
deriving DecidableEq, Repr

/-- A word that is no instruction (R107, R108 Table 11): the lowest class-0 sub-code its bits give, its first word (which fixes its
length), its FS bits and whether its major opcode is a control transfer of R110, on which the sub-codes of a clause body depend. -/
structure BadWord where
  sub : BitVec 4
  word : Word
  fs : BitVec 2
  ctl : Bool
deriving DecidableEq, Repr

/-- The registers that REGISTER_WRITE names: the special registers of R166 without a row of their own, and a word of a die's
counter page at a byte offset (R414, R431, R486). -/
inductive RegName where
  | frame | tvec1 | tvec2 | tvec3
  | counterPage (die off : Nat)
deriving DecidableEq, Repr

/-- A pre-emption request block (R431 Table 6), without KIND. -/
structure Prq where
  tenant : Nat
  hold : Bool
  slot : Nat
  spanId : Word
  pierIx : Word
  qid : Nat
  save : Nat
  /-- a reserved bit or a limit of Table 6 is broken -/
  bad : Bool
deriving DecidableEq, Repr

/-- A host access to a VF's BAR (R443, R444): the VF, the offset, the host's tag, the IDE stream whose prefix the TLP carries (none for no prefix),
whether its integrity check passed (R447), and the EP bit. The offset is that in BAR2; for a read also 2^36 plus that in BAR0; for HOST_COUNTER_WRITE
that in BAR0. -/
structure HostAccess where
  vf : Nat
  off : Nat
  tag : Nat
  stream : Option Nat
  intact : Bool
  ep : Bool
deriving DecidableEq, Repr

/-- Where an SPDM request arrives (R446): the PF's DOE mailbox, a VF's, or MCTP. -/
inductive Endpoint where
  | pf | vf (n : Nat) | mctp
deriving DecidableEq, Repr

/-- A Brynmer Link packet (R453 Table 6): its header fields and data beats. -/
structure Packet where
  opc : Byte
  src : Nat
  dst : Nat
  vf : Nat
  cls : Bool
  rly : Bool
  status : Nat
  tag : Nat
  poison : BitVec 2
  psn : Nat
  laddr : Nat
  /-- byte mask of WR and XWR; operation, width and flags of ATM -/
  mask : BitVec 128
  data : List Byte
deriving DecidableEq, Repr

/-- The rows of spec/opcode_table.json. -/
inductive Instr where
  /-- `nop`, major opcode 0x00 (R177). -/
  | nop (x : Ops)
  /-- `bra`, major opcode 0x01 (R179). -/
  | bra (x : Ops)
  /-- `brx`, major opcode 0x02 (R180). -/
  | brx (x : Ops)
  /-- `call`, major opcode 0x03 (R179). -/
  | call (x : Ops)
  /-- `calli`, major opcode 0x04 (R180). -/
  | calli (x : Ops)
  /-- `ret`, major opcode 0x05 (R181). -/
  | ret (x : Ops)
  /-- `join`, major opcode 0x06 (R161). -/
  | join (x : Ops)
  /-- `leave`, major opcode 0x07 (R161). -/
  | leave (x : Ops)
  /-- `waitm`, major opcode 0x08 (R161). -/
  | waitm (x : Ops)
  /-- `mget`, major opcode 0x09 (R184). -/
  | mget (x : Ops)
  /-- `mput`, major opcode 0x0A (R184). -/
  | mput (x : Ops)
  /-- `exit`, major opcode 0x0B (R182). -/
  | exit (x : Ops)
  /-- `yield`, major opcode 0x0C (R185). -/
  | yield (x : Ops)
  /-- `sleep`, major opcode 0x0D (R186). -/
  | sleep (x : Ops)
  /-- `brk`, major opcode 0x0E (R187). -/
  | brk (x : Ops)
  /-- `srd`, major opcode 0x10 (R190). -/
  | srd (x : Ops)
  /-- `swr`, major opcode 0x11 (R190). -/
  | swr (x : Ops)
  /-- `trap`, major opcode 0x12 (R188). -/
  | trap (x : Ops)
  /-- `rett`, major opcode 0x13 (R189). -/
  | rett (x : Ops)
  /-- `rgn`, major opcode 0x14 (R191). -/
  | rgn (x : Ops)
  /-- `rgend`, major opcode 0x15 (R191). -/
  | rgend (x : Ops)
  /-- `ctxsv`, major opcode 0x16 (R193). -/
  | ctxsv (x : Ops)
  /-- `ctxld`, major opcode 0x17 (R194). -/
  | ctxld (x : Ops)
  /-- `gangsync`, major opcode 0x18 (R196). -/
  | gangsync (x : Ops)
  /-- `mov`, major opcode 0x20 (R142). -/
  | mov (x : Ops)
  /-- `movi`, major opcode 0x21 (R142). -/
  | movi (x : Ops)
  /-- `add`, major opcode 0x22 (R143). -/
  | add (x : Ops)
  /-- `sub`, major opcode 0x23 (R143). -/
  | sub (x : Ops)
  /-- `addc`, major opcode 0x24 (R143). -/
  | addc (x : Ops)
  /-- `subb`, major opcode 0x25 (R143). -/
  | subb (x : Ops)
  /-- `mul`, major opcode 0x26 (R143). -/
  | mul (x : Ops)
  /-- `mulhi`, major opcode 0x27 (R143). -/
  | mulhi (x : Ops)
  /-- `mad`, major opcode 0x28 (R143). -/
  | mad (x : Ops)
  /-- `min`, major opcode 0x29 (R142). -/
  | min (x : Ops)
  /-- `max`, major opcode 0x2A (R142). -/
  | max (x : Ops)
  /-- `abs`, major opcode 0x2B (R143). -/
  | abs (x : Ops)
  /-- `neg`, major opcode 0x2C (R143). -/
  | neg (x : Ops)
  /-- `sad`, major opcode 0x2D (R143). -/
  | sad (x : Ops)
  /-- `dp4a`, major opcode 0x2E (R143). -/
  | dp4a (x : Ops)
  /-- `and`, major opcode 0x2F (R142). -/
  | and (x : Ops)
  /-- `or`, major opcode 0x30 (R142). -/
  | or (x : Ops)
  /-- `xor`, major opcode 0x31 (R142). -/
  | xor (x : Ops)
  /-- `andn`, major opcode 0x32 (R142). -/
  | andn (x : Ops)
  /-- `not`, major opcode 0x33 (R142). -/
  | not (x : Ops)
  /-- `shl`, major opcode 0x34 (R144). -/
  | shl (x : Ops)
  /-- `shr`, major opcode 0x35 (R144). -/
  | shr (x : Ops)
  /-- `sar`, major opcode 0x36 (R144). -/
  | sar (x : Ops)
  /-- `rot`, major opcode 0x37 (R144). -/
  | rot (x : Ops)
  /-- `bfe`, major opcode 0x38 (R144). -/
  | bfe (x : Ops)
  /-- `bfi`, major opcode 0x39 (R144). -/
  | bfi (x : Ops)
  /-- `bfrev`, major opcode 0x3A (R144). -/
  | bfrev (x : Ops)
  /-- `popc`, major opcode 0x3B (R144). -/
  | popc (x : Ops)
  /-- `clz`, major opcode 0x3C (R144). -/
  | clz (x : Ops)
  /-- `ctz`, major opcode 0x3D (R144). -/
  | ctz (x : Ops)
  /-- `sel`, major opcode 0x3E (R144). -/
  | sel (x : Ops)
  /-- `cmp`, major opcode 0x3F (R144). -/
  | cmp (x : Ops)
  /-- `clamp`, major opcode 0x40 (R144). -/
  | clamp (x : Ops)
  /-- `lea`, major opcode 0x41 (R144). -/
  | lea (x : Ops)
  /-- `sext`, major opcode 0x42 (R144). -/
  | sext (x : Ops)
  /-- `prmt`, major opcode 0x43 (R144). -/
  | prmt (x : Ops)
  /-- `fadd`, major opcode 0x50 (R146). -/
  | fadd (x : Ops)
  /-- `fsub`, major opcode 0x51 (R146). -/
  | fsub (x : Ops)
  /-- `fmul`, major opcode 0x52 (R146). -/
  | fmul (x : Ops)
  /-- `ffma`, major opcode 0x53 (R146). -/
  | ffma (x : Ops)
  /-- `fmin`, major opcode 0x54 (R147). -/
  | fmin (x : Ops)
  /-- `fmax`, major opcode 0x55 (R147). -/
  | fmax (x : Ops)
  /-- `fcmp`, major opcode 0x56 (R149). -/
  | fcmp (x : Ops)
  /-- `fclass`, major opcode 0x57 (R149). -/
  | fclass (x : Ops)
  /-- `frcp`, major opcode 0x58 (R148). -/
  | frcp (x : Ops)
  /-- `frsq`, major opcode 0x59 (R148). -/
  | frsq (x : Ops)
  /-- `fsqrt`, major opcode 0x5A (R148). -/
  | fsqrt (x : Ops)
  /-- `fdiv`, major opcode 0x5B (R148). -/
  | fdiv (x : Ops)
  /-- `fexp2`, major opcode 0x5C (R148). -/
  | fexp2 (x : Ops)
  /-- `flog2`, major opcode 0x5D (R148). -/
  | flog2 (x : Ops)
  /-- `fsin`, major opcode 0x5E (R148). -/
  | fsin (x : Ops)
  /-- `fcos`, major opcode 0x5F (R148). -/
  | fcos (x : Ops)
  /-- `ftanh`, major opcode 0x60 (R148). -/
  | ftanh (x : Ops)
  /-- `fsigm`, major opcode 0x61 (R148). -/
  | fsigm (x : Ops)
  /-- `fscale`, major opcode 0x62 (R146). -/
  | fscale (x : Ops)
  /-- `ffrac`, major opcode 0x63 (R146). -/
  | ffrac (x : Ops)
  /-- `frnd`, major opcode 0x64 (R146). -/
  | frnd (x : Ops)
  /-- `cvt`, major opcode 0x65 (R150). -/
  | cvt (x : Ops)
  /-- `fpack`, major opcode 0x66 (R151). -/
  | fpack (x : Ops)
  /-- `funpack`, major opcode 0x67 (R151). -/
  | funpack (x : Ops)
  /-- `fdot2`, major opcode 0x68 (R151). -/
  | fdot2 (x : Ops)
  /-- `shfl`, major opcode 0x80 (R154). -/
  | shfl (x : Ops)
  /-- `lbal`, major opcode 0x81 (R155). -/
  | lbal (x : Ops)
  /-- `lany`, major opcode 0x82 (R155). -/
  | lany (x : Ops)
  /-- `lall`, major opcode 0x83 (R155). -/
  | lall (x : Ops)
  /-- `lfirst`, major opcode 0x84 (R154). -/
  | lfirst (x : Ops)
  /-- `bcast`, major opcode 0x85 (R154). -/
  | bcast (x : Ops)
  /-- `lperm`, major opcode 0x86 (R154). -/
  | lperm (x : Ops)
  /-- `lred`, major opcode 0x87 (R156). -/
  | lred (x : Ops)
  /-- `lscan`, major opcode 0x88 (R156). -/
  | lscan (x : Ops)
  /-- `lmatch`, major opcode 0x89 (R155). -/
  | lmatch (x : Ops)
  /-- `ld`, major opcode 0x90 (R243). -/
  | ld (x : Ops)
  /-- `st`, major opcode 0x91 (R245). -/
  | st (x : Ops)
  /-- `lds`, major opcode 0x92 (R243). -/
  | lds (x : Ops)
  /-- `sts`, major opcode 0x93 (R245). -/
  | sts (x : Ops)
  /-- `ldc`, major opcode 0x94 (R243). -/
  | ldc (x : Ops)
  /-- `atom`, major opcode 0x95 (R249). -/
  | atom (x : Ops)
  /-- `atoms`, major opcode 0x96 (R249). -/
  | atoms (x : Ops)
  /-- `put`, major opcode 0x97 (R252). -/
  | put (x : Ops)
  /-- `phase`, major opcode 0x98 (R256). -/
  | phase (x : Ops)
  /-- `fence`, major opcode 0x99 (R217). -/
  | fence (x : Ops)
  /-- `afence`, major opcode 0x9A (R257). -/
  | afence (x : Ops)
  /-- `pref`, major opcode 0x9B (R260). -/
  | pref (x : Ops)
  /-- `pflush`, major opcode 0x9C (R258). -/
  | pflush (x : Ops)
  /-- `arrive`, major opcode 0xB0 (R400). -/
  | arrive (x : Ops)
  /-- `waitb`, major opcode 0xB1 (R401). -/
  | waitb (x : Ops)
  /-- `barr`, major opcode 0xB2 (R400). -/
  | barr (x : Ops)
  /-- `waitc`, major opcode 0xB3 (R403). -/
  | waitc (x : Ops)
  /-- `waitf`, major opcode 0xB4 (R395). -/
  | waitf (x : Ops)
  /-- `fcnt`, major opcode 0xB5 (R404). -/
  | fcnt (x : Ops)
  /-- `bstat`, major opcode 0xB6 (R404). -/
  | bstat (x : Ops)
  /-- `mxld`, major opcode 0xC0 (R288). -/
  | mxld (x : Ops)
  /-- `mxsw`, major opcode 0xC1 (R289). -/
  | mxsw (x : Ops)
  /-- `mxm`, major opcode 0xC2 (R290). -/
  | mxm (x : Ops)
  /-- `mxz`, major opcode 0xC3 (R291). -/
  | mxz (x : Ops)
  /-- `mxrd`, major opcode 0xC4 (R292). -/
  | mxrd (x : Ops)
  /-- `mxwr`, major opcode 0xC5 (R292). -/
  | mxwr (x : Ops)
  /-- `had`, major opcode 0xC6 (R294). -/
  | had (x : Ops)
  /-- `qnt`, major opcode 0xC7 (R295). -/
  | qnt (x : Ops)
  /-- `mxst`, major opcode 0xC8 (R293). -/
  | mxst (x : Ops)
  /-- `mxsv`, major opcode 0xC9 (R296). -/
  | mxsv (x : Ops)
  /-- `mxrs`, major opcode 0xCA (R296). -/
  | mxrs (x : Ops)
  /-- `enq`, major opcode 0xD0 (R310). -/
  | enq (x : Ops)
  /-- `lease.req`, major opcode 0xD1 (R377). -/
  | leaseReq (x : Ops)
  /-- `lease.rel`, major opcode 0xD1 (R377). -/
  | leaseRel (x : Ops)
  /-- `lease.qry`, major opcode 0xD1 (R377). -/
  | leaseQry (x : Ops)
  /-- `cpy`, major opcode 0xD2 (R342). -/
  | cpy (x : Ops)
  /-- `xch`, major opcode 0xD3 (R346). -/
  | xch (x : Ops)
  /-- `xred`, major opcode 0xD4 (R351). -/
  | xred (x : Ops)
  /-- `hash`, major opcode 0xD5 (R353). -/
  | hash (x : Ops)
  /-- `sigv`, major opcode 0xD6 (R354). -/
  | sigv (x : Ops)
  /-- `scrub`, major opcode 0xD7 (R355). -/
  | scrub (x : Ops)
  /-- CLAUSE (R111). R109, R111: a clause header. -/
  | clause (h : Header)
  /-- FPM_WRITE (R68). R68: a write of sr.FPM by course `c`. -/
  | fpmWrite (c : Nat) (v : Word)
  /-- SRSEED_WRITE (R76). R76: a write of sr.SRSEED in the lanes `m` of course `c`. -/
  | srseedWrite (c : Nat) (m : LaneSet) (v : Word)
  /-- LFMODE_WRITE (R169). R169: a write of sr.LFMODE by course `c`. -/
  | lfmodeWrite (c : Nat) (v : Word)
  /-- TCOMMIT_WRITE (R175). R175: a write of sr.TCOMMIT.TABLES by course `c`. -/
  | tcommitWrite (c : Nat) (tables : Byte)
  /-- REGISTER_WRITE (R167). R167, R414: a write of another special or counter-page register. -/
  | registerWrite (c : Nat) (r : RegName) (v : Double)
  /-- HBEAT_WRITE (R414). R414: a write or add to HBEAT. -/
  | hbeatWrite (die : Nat)
  /-- WDCTL_WRITE (R488). R488: a write of WDCTL. -/
  | wdctlWrite (die : Nat) (v : Word)
  /-- PREEMPT_SPAN (R431). R431: request of KIND 1. -/
  | preemptSpan (die : Nat) (q : Prq)
  /-- PREEMPT_PIER (R431). R431: request of KIND 2. -/
  | preemptPier (die : Nat) (q : Prq)
  /-- PREEMPT_TENANT (R431). R431: request of KIND 3. -/
  | preemptTenant (die : Nat) (q : Prq)
  /-- PREEMPT_RELEASE (R431). R431: request of KIND 4. -/
  | preemptRelease (die : Nat) (q : Prq)
  /-- DEBUG_STOP (R430). R430, R431: request of KIND 5. -/
  | debugStop (die : Nat) (q : Prq)
  /-- FIXED_LATENCY_RESULT (R140). R140, R99: the oldest fixed-latency result of course `c` lands. -/
  | fixedLatencyResult (c : Nat)
  /-- SET_ASIDE (R321). R321: the instruction of harvest course `c` is set aside after pass `pass`. -/
  | setAside (c : Nat) (pass : Nat)
  /-- SET_ASIDE_PASSES_ISSUE (R321). R321: the passes set aside issue. -/
  | setAsidePassesIssue (c : Nat)
  /-- LOAD_DATA_RETURN (R246). R246: operation `k` of course `c` returns. -/
  | loadDataReturn (c k : Nat)
  /-- STORE_ORDERING_POINT (R246). R246: store `k` of course `c` is accepted. -/
  | storeOrderingPoint (c k : Nat)
  /-- ATOMIC_PERFORMED_AT_HOME (R249). R249: atomic `k` of course `c` is performed. -/
  | atomicPerformedAtHome (c k : Nat)
  /-- PUT_LANDING (R254). R254: put `k` of course `c` lands. -/
  | putLanding (c k : Nat)
  /-- PAGE_WALK_COMPLETE (R371). R371: the walk for operation `k` of course `c` ends. -/
  | pageWalkComplete (c k : Nat)
  /-- MISS_SLOT_RETRY (R369). R369: a refused miss is sent again. -/
  | missSlotRetry (c k : Nat)
  /-- PARK (R481). R481: operation `k` of course `c` parks. -/
  | park (c k : Nat)
  /-- PIN_RETRY (R228). R228: a request refused by a pin is sent again. -/
  | pinRetry (c k : Nat)
  /-- PIN_FORCED_WRITEBACK (R229). R229: the pin on a line is ended by its home. -/
  | pinForcedWriteback (asid line : Nat)
  /-- FRAME_TAKEN (R424). R424: the pending trap of course `c` takes its frame. -/
  | frameTaken (c : Nat)
  /-- HANDLER_COURSE_START (R428). R428: an idle handler course starts. -/
  | handlerCourseStart (die ring : Nat)
  /-- REPLAY_DATA_ARRIVAL (R425). R425: data for entry `k` of a live frame arrives. -/
  | replayDataArrival (c k : Nat)
  /-- COURSE_HALT (R59). R59: course `c` halts at a reconvergence point. -/
  | courseHalt (c : Nat)
  /-- FORCED_FULL_SAVE (R59). R59: course `c` is saved as its lanes stand. -/
  | forcedFullSave (c : Nat)
  /-- EVICTION_DEMAND (R323). R323: a guaranteed demand reaches a quoin. -/
  | evictionDemand (qid : Nat)
  /-- EVICTION_DRAIN_COMPLETE (R325). R325: the victims' drain ends. -/
  | evictionDrainComplete (qid : Nat)
  /-- SPILL_COMPLETE (R325). R325: the victims' state has been read. -/
  | spillComplete (qid : Nat)
  /-- RESTORE_COMPLETE (R328). R328: a halted pier is restored. -/
  | restoreComplete (pier : Nat)
  /-- DISPATCHER_DECISION (R316). R316: one decision of a die's dispatcher. -/
  | dispatcherDecision (die : Nat)
  /-- PIER_PLACEMENT (R318). R318: a placement reaches its cores. -/
  | pierPlacement (pier : Nat)
  /-- WAITC_REREAD (R403). R403: course `c` re-reads its watched word. -/
  | waitcReread (c : Nat)
  /-- PEER_WAITC_POLL (R403). R403: course `c` re-reads a watched word of a remote part. -/
  | peerWaitcPoll (c : Nat)
  /-- ENQ_APPEND (R310). R310: the record of `enq` `k` of course `c` is checked and appended. -/
  | enqAppend (c k : Nat)
  /-- LEASE_STEP (R377). R377: the table step of `lease` `k` of course `c`. -/
  | leaseStep (c k : Nat)
  /-- ARRIVAL_POINT (R399). R399: the arrival of course `c` is counted. -/
  | arrivalPoint (c : Nat)
  /-- SLEEP_EXPIRY (R186). R186: the sleep of course `c` runs out. -/
  | sleepExpiry (c : Nat)
  /-- ARRAY_COMMAND_START (R281). R281: array command `k` of a bond starts. -/
  | arrayCommandStart (bond k : Nat)
  /-- ARRAY_COMMAND_COMPLETION (R283). R283: array command `k` of a bond completes. -/
  | arrayCommandCompletion (bond k : Nat)
  /-- ENGINE_COMMAND_START (R337). R337: engine command `k` of course `c` starts. -/
  | engineCommandStart (c k : Nat)
  /-- ENGINE_COMMAND_COMPLETION (R337). R337: engine command `k` of course `c` completes. -/
  | engineCommandCompletion (c k : Nat)
  /-- COMMIT_COMPLETE (R389). R389: the table commit of a die completes. -/
  | commitComplete (die : Nat)
  /-- WAY_MASK_SWEEP (R384). R384: lines in removed ways are written back. -/
  | wayMaskSweep (tenant : Nat)
  /-- WATCHDOG_EXPIRY (R415). R415: the watchdog of a die expires. -/
  | watchdogExpiry (die : Nat)
  /-- LOADSLOT (R486). R486: monitor call LOADSLOT. -/
  | loadslot (die : Nat)
  /-- SETPENDING (R486). R486: monitor call SETPENDING. -/
  | setpending (die : Nat)
  /-- MEASURE (R486). R486: monitor call MEASURE. -/
  | measure (die : Nat)
  /-- COMMIT (R486). R486: monitor call COMMIT. -/
  | commitCall (die : Nat)
  /-- PERF_COUNTER_SNAPSHOT (R416). R416: a partition counter page is written. -/
  | perfCounterSnapshot (tenant : Nat)
  /-- CORE_CONTAINMENT (R437). R437: a core is fenced; `bad` names the courses that cannot be read, with their sub-codes. -/
  | coreContainment (core : Nat) (bad : List (Nat × Nat))
  /-- DIE_L2_FAILURE (R436). R436: a die's L2 or loop station fails. -/
  | dieL2Failure (die : Nat)
  /-- THERMAL_ABOVE_95 (R469). R469. -/
  | thermalAbove95 (die : Nat)
  /-- THERMAL_BELOW_90 (R469). R469. -/
  | thermalBelow90 (die : Nat)
  /-- THERMAL_ABOVE_105 (R469). R469. -/
  | thermalAbove105 (die : Nat)
  /-- PERST_RELEASE (R464). R464, R466: PERST# is released; `results` are the result codes of the boot steps run, in order. -/
  | perstRelease (results : List Word)
  /-- HOST_WRITE (R444). R444: a host write to a BAR2 window. -/
  | hostWrite (a : HostAccess) (data : List Byte)
  /-- HOST_READ (R444). R444: a host read of a BAR2 window. -/
  | hostRead (a : HostAccess) (len : Nat)
  /-- HOST_COUNTER_WRITE (R308). R308: a host write to a counter-page word. -/
  | hostCounterWrite (a : HostAccess) (v : Word)
  /-- FLR (R459). R459: a function-level reset of a VF. -/
  | flr (vf : Nat)
  /-- GET_VERSION (R446). R446. -/
  | getVersion (e : Endpoint)
  /-- GET_CAPABILITIES (R446). R446. -/
  | getCapabilities (e : Endpoint)
  /-- NEGOTIATE_ALGORITHMS (R446). R446. -/
  | negotiateAlgorithms (e : Endpoint)
  /-- GET_DIGESTS (R446). R446. -/
  | getDigests (e : Endpoint)
  /-- GET_CERTIFICATE (R446). R446. -/
  | getCertificate (e : Endpoint) (slot : Nat)
  /-- CHALLENGE (R446). R446. -/
  | challenge (e : Endpoint) (slot nonce : Nat)
  /-- GET_MEASUREMENTS (R446). R446: `block` 1 to 4, or 0 for all of them. -/
  | getMeasurements (e : Endpoint) (block : Nat)
  /-- KEY_EXCHANGE (R446). R446. -/
  | keyExchange (e : Endpoint) (session : Nat)
  /-- FINISH (R446). R446. -/
  | finish (e : Endpoint) (session : Nat)
  /-- END_SESSION (R446). R446. -/
  | endSession (e : Endpoint) (session : Nat)
  /-- SPDM_UNSUPPORTED_REQUEST (R446). R446. -/
  | spdmUnsupportedRequest (e : Endpoint) (code : Nat)
  /-- IDE_KM (R447). R447: keys of a stream, with its address-association ranges. -/
  | ideKm (session stream : Nat) (ranges : List (Nat × Nat))
  /-- LOCK_INTERFACE (R448). R448. -/
  | lockInterface (vf : Nat)
  /-- START_INTERFACE (R448). R448. -/
  | startInterface (vf : Nat)
  /-- GET_DEVICE_INTERFACE_REPORT (R448). R448. -/
  | getDeviceInterfaceReport (vf : Nat)
  /-- REQUEST_RESET (R464). R464, R471: a reset over MCTP; `results` as for PERST_RELEASE. -/
  | requestReset (results : List Word)
  /-- SELECT_ACTIVE (R471). R471. -/
  | selectActive (slot : Byte)
  /-- FLIT_RECEIVED (R455). R455. -/
  | flitReceived (port : Nat) (seq : Nat) (crcOk : Bool)
  /-- PORT_RETRAIN (R455). R455. -/
  | portRetrain (port : Nat) (ok : Bool)
  /-- RD (R457). R457. -/
  | rd (p : Packet)
  /-- RDR (R453). R453. -/
  | rdr (p : Packet)
  /-- WR (R454). R454. -/
  | wr (p : Packet)
  /-- INV (R457). R457. -/
  | inv (p : Packet)
  /-- INVA (R457). R457. -/
  | inva (p : Packet)
  /-- ATM (R453). R453. -/
  | atm (p : Packet)
  /-- ATMR (R453). R453. -/
  | atmr (p : Packet)
  /-- FRD (R458). R458. -/
  | frd (p : Packet)
  /-- FRR (R458). R458. -/
  | frr (p : Packet)
  /-- XWR (R347). R347. -/
  | xwr (p : Packet)
  /-- XACK (R347). R347. -/
  | xack (p : Packet)
  /-- GNG_READY (R55). R55. -/
  | gngReady (p : Packet)
  /-- GNG_RELEASE (R55). R55. -/
  | gngRelease (p : Packet)
  /-- GNG_ABORT (R56). R56. -/
  | gngAbort (p : Packet)
  /-- GNG_QUERY (R460). R460. -/
  | gngQuery (p : Packet)
  /-- UNKNOWN_PACKET (R453). R453. -/
  | unknownPacket (p : Packet)
  /-- GANG_TIMEOUT (R55). R55. -/
  | gangTimeout (key : Nat)
  /-- GANG_DECISION_TIMEOUT (R460). R460. -/
  | gangDecisionTimeout (key : Nat)
  /-- LOSS_OF_LOCK (R455). R455. -/
  | lossOfLock (port : Nat)
  /-- MAIN_POWER_RETURN (R464). R464. -/
  | mainPowerReturn (results : List Word)
  /-- DEBUG_STOP_TIMEOUT (R430). R430. -/
  | debugStopTimeout (c : Nat)
  /-- HBM_BUCKET_REFILL (R410). R410. -/
  | hbmBucketRefill (ctrl : Nat)
  /-- ILLEGAL_ENCODING (R107). R107: a word that is no instruction, or no defined form of one. -/
  | illegalEncoding (w : BadWord)
  /-- PREEMPT_REQUEST_DONE (R432). R432: every acknowledgement of the running request of the lowest such die is in. -/
  | preemptRequestDone
  /-- PREEMPT_OVERDUE (R432). R432: acknowledgements of the running request of the lowest such die are missing after 100 us. -/
  | preemptOverdue
  /-- PIER_RETIREMENT (R42). R42: the first pier that can retire does. -/
  | pierRetirement
  /-- BROADCAST_WINDOW (R21). R21: the notification network opens a window. -/
  | broadcastWindow
  /-- XCH_TIMEOUT (R348). R348: the oldest waiting exchange command times out. -/
  | xchTimeout
  /-- QUOIN_VACATED (R438). R438: the lowest vacating quoin that holds nothing of its old owner. -/
  | quoinVacated
  /-- BUDGET_PERIOD_BOUNDARY (R409). R409: a budget period ends. -/
  | budgetPeriodBoundary
  /-- TOKEN_CHARGE (R408). R408: resident quoins charge one token. -/
  | tokenCharge
  /-- ALLOWANCE_REFILL (R411). R411: send allowances refill. -/
  | allowanceRefill
  /-- CORRECTION_WINDOW_CLEAR (R208). R208: correction counts are cleared. -/
  | correctionWindowClear
  /-- PERST_ASSERT (R464). R464: PERST# is asserted or main power falls below 40 V. -/
  | perstAssert
  /-- HOST_ACCESS_TIMEOUT (R444). R444: the oldest host access waiting on an absent part has waited too long. -/
  | hostAccessTimeout
  /-- VF_DRAINED (R459). R459: the lowest draining VF with nothing outstanding. -/
  | vfDrained
  /-- READ_SENSORS (R471). R471. -/
  | readSensors
  /-- READ_BOOT_RECORD (R471). R471. -/
  | readBootRecord
deriving DecidableEq, Repr

end Sys2Proof
end

