-- ==== Sys2Proof/Machine/Encoding.lean ====
section
/-! DEFINITION. How an instruction's fields are laid out: specifier codes (R95, R96), the named subfields of MINOR (R104), the major
opcode of every instruction (R106), and which fields, forms and values each instruction admits (R108, R142, R146, R153, R177, R178,
R236, R286, R309, R335, R376, R398), from which the static class-0 sub-codes of R108 Table 11 follow. -/

namespace Sys2Proof

/-! ### Specifiers -/

/-- The 9-bit code of a specifier (R95). -/
def Opd.code9 : Opd → BitVec 9
  | .v r => BitVec.ofNat 9 r.toNat
  | .o r => BitVec.ofNat 9 (0x100 + r.toNat)
  | .l r => BitVec.ofNat 9 (0x108 + r.toNat)
  | .zero => 0x10A | .one => 0x10B | .lane => 0x10C | .cid => 0x10D | .bid => 0x10E | .pier => 0x10F
  | .mone => 0x110 | .two => 0x111 | .imask => 0x112 | .ncourse => 0x113 | .nbond => 0x114
  | .lit => 0x13F
  | .s r => BitVec.ofNat 9 (0x140 + r.toNat)
  | .hole k => BitVec.ofNat 9 (0x180 + k.toNat)
  | .imm k => BitVec.ofNat 9 (0x1C0 + k.toNat)
  | .resv code => code
  | .short k => BitVec.ofNat 9 (0x13B + k.toNat)

/-- The specifier of a 9-bit code (R95 Table 3). -/
def Opd.ofCode9 (k : BitVec 9) : Opd :=
  let n := k.toNat
  if n < 0x100 then .v (BitVec.ofNat 8 n)
  else if n < 0x108 then .o (BitVec.ofNat 3 (n - 0x100))
  else if n < 0x10A then .l (BitVec.ofNat 1 (n - 0x108))
  else if n = 0x10A then .zero else if n = 0x10B then .one else if n = 0x10C then .lane
  else if n = 0x10D then .cid else if n = 0x10E then .bid else if n = 0x10F then .pier
  else if n = 0x110 then .mone else if n = 0x111 then .two else if n = 0x112 then .imask
  else if n = 0x113 then .ncourse else if n = 0x114 then .nbond
  else if n < 0x13F then .resv k
  else if n = 0x13F then .lit
  else if n < 0x180 then .s (BitVec.ofNat 6 (n - 0x140))
  else if n < 0x1C0 then .hole (BitVec.ofNat 6 (n - 0x180))
  else .imm (BitVec.ofNat 6 (n - 0x1C0))

/-- The specifier of a 6-bit short code (R96 Table 4). -/
def Opd.ofCode6 (k : BitVec 6) : Opd :=
  let n := k.toNat
  if n < 32 then .v (BitVec.ofNat 8 n)
  else if n < 40 then .o (BitVec.ofNat 3 (n - 32))
  else if n < 42 then .l (BitVec.ofNat 1 (n - 40))
  else if n < 58 then .s (BitVec.ofNat 6 (n - 42))
  else if n = 58 then .zero else if n = 59 then .one else if n = 60 then .lane
  else .short (BitVec.ofNat 2 (n - 61))

/-- The 6-bit short code of a specifier; 58 (Zero) for a specifier that has none (`Opd.hasShort` is then false). -/
def Opd.code6 : Opd → BitVec 6
  | .v r => BitVec.ofNat 6 r.toNat
  | .o r => BitVec.ofNat 6 (32 + r.toNat)
  | .l r => BitVec.ofNat 6 (40 + r.toNat)
  | .s r => BitVec.ofNat 6 (42 + r.toNat)
  | .zero => 58 | .one => 59 | .lane => 60
  | .short k => BitVec.ofNat 6 (61 + k.toNat)
  | .cid | .bid | .pier | .mone | .two | .imask | .ncourse | .nbond | .lit | .imm _ | .hole _ | .resv _ => 58

/-- Whether a specifier has a short code (R96). -/
def Opd.hasShort : Opd → Bool
  | .v r => r.toNat < 32
  | .o _ | .l _ | .zero | .one | .lane => true
  | .s r => r.toNat < 16
  | .short k => k.toNat < 3
  | .cid | .bid | .pier | .mone | .two | .imask | .ncourse | .nbond | .lit | .imm _ | .hole _ | .resv _ => false

/-- Whether a specifier has a 9-bit code of its own (R95): every one but a short code, and a reserved one within its range. -/
def Opd.hasLong : Opd → Bool
  | .short _ => false
  | .resv code => 0x115 ≤ code.toNat && code.toNat < 0x13F
  | .v _ | .o _ | .l _ | .zero | .one | .lane | .cid | .bid | .pier | .mone | .two | .imask | .ncourse | .nbond | .lit | .s _
  | .imm _ | .hole _ => true

/-- The 4-bit GUARD field (R94). -/
def Guard.code (g : Guard) : BitVec 4 := BitVec.ofNat 4 ((if g.neg then 8 else 0) + g.pred.toNat)

/-- The guard of a 4-bit field. -/
def Guard.ofCode (k : BitVec 4) : Guard := { neg := k.getLsbD 3, pred := k.extractLsb' 0 3 }

/-! ### Subfields of MINOR (R104 Table 6) and of the instruction -/

namespace Ops

/-- Bits [lo+len-1:lo] of MINOR as a number. -/
def field (x : Ops) (lo len : Nat) : Nat := (x.minor.extractLsb' lo len).toNat
/-- IT, the integer type (R105 Table 7). -/
def it (x : Ops) : Nat := x.field 9 3
/-- COND of `cmp` (R142 Table 6). -/
def cond (x : Ops) : Nat := x.field 6 3
/-- OPX, the extra field of the integer group. -/
def opx (x : Ops) : Nat := x.field 0 6
/-- FT, the first format (R104); W of the memory group and the operation of an atomic. -/
def hi4 (x : Ops) : Nat := x.field 8 4
/-- X, the second format or condition of the floating group; the middle nibble of others. -/
def mid4 (x : Ops) : Nat := x.field 4 4
/-- RND of the floating group (R69). -/
def rnd (x : Ops) : Nat := x.field 1 3
/-- SCOPE of the memory group (R105 Table 9). -/
def scope (x : Ops) : Nat := x.field 5 3
/-- ORD of the memory group (R105 Table 9). -/
def ord (x : Ops) : Nat := x.field 3 2
/-- X of the memory group: cache hint or atomic width. -/
def hint (x : Ops) : Nat := x.field 0 3
/-- The low nibble of MINOR: K of the control group, {NEG, PRED} or OP of the lane group. -/
def low4 (x : Ops) : Nat := x.field 0 4
/-- A single bit of MINOR. -/
def bit (x : Ops) (i : Nat) : Bool := x.minor.getLsbD i
/-- The literal word of the LX form. -/
def lit? (x : Ops) : Option Word := match x.form with | .lx w => some w | .s | .sj _ | .l => none
/-- The length of the instruction in bytes (R91). -/
def len (x : Ops) : Nat := match x.form with | .s | .sj _ => 4 | .l => 8 | .lx _ => 12
/-- FS names slot A (R103). -/
def fsA (x : Ops) : Bool := x.sel.getLsbD 0
/-- FS names slot B (R103). -/
def fsB (x : Ops) : Bool := x.sel.getLsbD 1

end Ops

/-! ### Major opcodes (R106 Table 10) -/

/-- The groups whose layout S carries M4 in its own way (R104, R138). -/
inductive Grp where
  | ctl | sys | int | flt | lane | mem | bar | mat | eng
deriving DecidableEq, Repr

/-- The group of a major opcode. -/
def grpOf (maj : Nat) : Grp :=
  if maj < 0x10 then .ctl else if maj < 0x20 then .sys else if maj < 0x50 then .int else if maj < 0x70 then .flt
  else if maj < 0x90 then .lane else if maj < 0xB0 then .mem else if maj < 0xC0 then .bar else if maj < 0xD0 then .mat else .eng

/-- The major opcode of an instruction; none for the other rows of the table. -/
def Instr.major? : Instr → Option Nat
  | .nop _ => some 0x00
  | .bra _ => some 0x01
  | .brx _ => some 0x02
  | .call _ => some 0x03
  | .calli _ => some 0x04
  | .ret _ => some 0x05
  | .join _ => some 0x06
  | .leave _ => some 0x07
  | .waitm _ => some 0x08
  | .mget _ => some 0x09
  | .mput _ => some 0x0A
  | .exit _ => some 0x0B
  | .yield _ => some 0x0C
  | .sleep _ => some 0x0D
  | .brk _ => some 0x0E
  | .srd _ => some 0x10
  | .swr _ => some 0x11
  | .trap _ => some 0x12
  | .rett _ => some 0x13
  | .rgn _ => some 0x14
  | .rgend _ => some 0x15
  | .ctxsv _ => some 0x16
  | .ctxld _ => some 0x17
  | .gangsync _ => some 0x18
  | .mov _ => some 0x20
  | .movi _ => some 0x21
  | .add _ => some 0x22
  | .sub _ => some 0x23
  | .addc _ => some 0x24
  | .subb _ => some 0x25
  | .mul _ => some 0x26
  | .mulhi _ => some 0x27
  | .mad _ => some 0x28
  | .min _ => some 0x29
  | .max _ => some 0x2A
  | .abs _ => some 0x2B
  | .neg _ => some 0x2C
  | .sad _ => some 0x2D
  | .dp4a _ => some 0x2E
  | .and _ => some 0x2F
  | .or _ => some 0x30
  | .xor _ => some 0x31
  | .andn _ => some 0x32
  | .not _ => some 0x33
  | .shl _ => some 0x34
  | .shr _ => some 0x35
  | .sar _ => some 0x36
  | .rot _ => some 0x37
  | .bfe _ => some 0x38
  | .bfi _ => some 0x39
  | .bfrev _ => some 0x3A
  | .popc _ => some 0x3B
  | .clz _ => some 0x3C
  | .ctz _ => some 0x3D
  | .sel _ => some 0x3E
  | .cmp _ => some 0x3F
  | .clamp _ => some 0x40
  | .lea _ => some 0x41
  | .sext _ => some 0x42
  | .prmt _ => some 0x43
  | .fadd _ => some 0x50
  | .fsub _ => some 0x51
  | .fmul _ => some 0x52
  | .ffma _ => some 0x53
  | .fmin _ => some 0x54
  | .fmax _ => some 0x55
  | .fcmp _ => some 0x56
  | .fclass _ => some 0x57
  | .frcp _ => some 0x58
  | .frsq _ => some 0x59
  | .fsqrt _ => some 0x5A
  | .fdiv _ => some 0x5B
  | .fexp2 _ => some 0x5C
  | .flog2 _ => some 0x5D
  | .fsin _ => some 0x5E
  | .fcos _ => some 0x5F
  | .ftanh _ => some 0x60
  | .fsigm _ => some 0x61
  | .fscale _ => some 0x62
  | .ffrac _ => some 0x63
  | .frnd _ => some 0x64
  | .cvt _ => some 0x65
  | .fpack _ => some 0x66
  | .funpack _ => some 0x67
  | .fdot2 _ => some 0x68
  | .shfl _ => some 0x80
  | .lbal _ => some 0x81
  | .lany _ => some 0x82
  | .lall _ => some 0x83
  | .lfirst _ => some 0x84
  | .bcast _ => some 0x85
  | .lperm _ => some 0x86
  | .lred _ => some 0x87
  | .lscan _ => some 0x88
  | .lmatch _ => some 0x89
  | .ld _ => some 0x90
  | .st _ => some 0x91
  | .lds _ => some 0x92
  | .sts _ => some 0x93
  | .ldc _ => some 0x94
  | .atom _ => some 0x95
  | .atoms _ => some 0x96
  | .put _ => some 0x97
  | .phase _ => some 0x98
  | .fence _ => some 0x99
  | .afence _ => some 0x9A
  | .pref _ => some 0x9B
  | .pflush _ => some 0x9C
  | .arrive _ => some 0xB0
  | .waitb _ => some 0xB1
  | .barr _ => some 0xB2
  | .waitc _ => some 0xB3
  | .waitf _ => some 0xB4
  | .fcnt _ => some 0xB5
  | .bstat _ => some 0xB6
  | .mxld _ => some 0xC0
  | .mxsw _ => some 0xC1
  | .mxm _ => some 0xC2
  | .mxz _ => some 0xC3
  | .mxrd _ => some 0xC4
  | .mxwr _ => some 0xC5
  | .had _ => some 0xC6
  | .qnt _ => some 0xC7
  | .mxst _ => some 0xC8
  | .mxsv _ => some 0xC9
  | .mxrs _ => some 0xCA
  | .enq _ => some 0xD0
  | .leaseReq _ => some 0xD1
  | .leaseRel _ => some 0xD1
  | .leaseQry _ => some 0xD1
  | .cpy _ => some 0xD2
  | .xch _ => some 0xD3
  | .xred _ => some 0xD4
  | .hash _ => some 0xD5
  | .sigv _ => some 0xD6
  | .scrub _ => some 0xD7
  | .clause _ | .fpmWrite _ _ | .srseedWrite _ _ _ | .lfmodeWrite _ _ | .tcommitWrite _ _ | .registerWrite _ _ _ | .hbeatWrite _ | .wdctlWrite _ _ | .preemptSpan _ _ | .preemptPier _ _ | .preemptTenant _ _ | .preemptRelease _ _ | .debugStop _ _ | .fixedLatencyResult _ | .setAside _ _ | .setAsidePassesIssue _ | .loadDataReturn _ _ | .storeOrderingPoint _ _ | .atomicPerformedAtHome _ _ | .putLanding _ _ | .pageWalkComplete _ _ | .missSlotRetry _ _ | .park _ _ | .pinRetry _ _ | .pinForcedWriteback _ _ | .frameTaken _ | .handlerCourseStart _ _ | .replayDataArrival _ _ | .courseHalt _ | .forcedFullSave _ | .evictionDemand _ | .evictionDrainComplete _ | .spillComplete _ | .restoreComplete _ | .dispatcherDecision _ | .pierPlacement _ | .waitcReread _ | .peerWaitcPoll _ | .enqAppend _ _ | .leaseStep _ _ | .arrivalPoint _ | .sleepExpiry _ | .arrayCommandStart _ _ | .arrayCommandCompletion _ _ | .engineCommandStart _ _ | .engineCommandCompletion _ _ | .commitComplete _ | .wayMaskSweep _ | .watchdogExpiry _ | .loadslot _ | .setpending _ | .measure _ | .commitCall _ | .perfCounterSnapshot _ | .coreContainment _ _ | .dieL2Failure _ | .thermalAbove95 _ | .thermalBelow90 _ | .thermalAbove105 _ | .perstRelease _ | .hostWrite _ _ | .hostRead _ _ | .hostCounterWrite _ _ | .flr _ | .getVersion _ | .getCapabilities _ | .negotiateAlgorithms _ | .getDigests _ | .getCertificate _ _ | .challenge _ _ _ | .getMeasurements _ _ | .keyExchange _ _ | .finish _ _ | .endSession _ _ | .spdmUnsupportedRequest _ _ | .ideKm _ _ _ | .lockInterface _ | .startInterface _ | .getDeviceInterfaceReport _ | .requestReset _ | .selectActive _ | .flitReceived _ _ _ | .portRetrain _ _ | .rd _ | .rdr _ | .wr _ | .inv _ | .inva _ | .atm _ | .atmr _ | .frd _ | .frr _ | .xwr _ | .xack _ | .gngReady _ | .gngRelease _ | .gngAbort _ | .gngQuery _ | .unknownPacket _ | .gangTimeout _ | .gangDecisionTimeout _ | .lossOfLock _ | .mainPowerReturn _ | .debugStopTimeout _ | .hbmBucketRefill _ | .illegalEncoding _ | .preemptRequestDone | .preemptOverdue | .pierRetirement | .broadcastWindow | .xchTimeout | .quoinVacated | .budgetPeriodBoundary | .tokenCharge | .allowanceRefill | .correctionWindowClear | .perstAssert | .hostAccessTimeout | .vfDrained | .readSensors | .readBootRecord => none

/-- The payload of an instruction; none for the other rows of the table. -/
def Instr.ops? : Instr → Option Ops
  | .nop x => some x
  | .bra x => some x
  | .brx x => some x
  | .call x => some x
  | .calli x => some x
  | .ret x => some x
  | .join x => some x
  | .leave x => some x
  | .waitm x => some x
  | .mget x => some x
  | .mput x => some x
  | .exit x => some x
  | .yield x => some x
  | .sleep x => some x
  | .brk x => some x
  | .srd x => some x
  | .swr x => some x
  | .trap x => some x
  | .rett x => some x
  | .rgn x => some x
  | .rgend x => some x
  | .ctxsv x => some x
  | .ctxld x => some x
  | .gangsync x => some x
  | .mov x => some x
  | .movi x => some x
  | .add x => some x
  | .sub x => some x
  | .addc x => some x
  | .subb x => some x
  | .mul x => some x
  | .mulhi x => some x
  | .mad x => some x
  | .min x => some x
  | .max x => some x
  | .abs x => some x
  | .neg x => some x
  | .sad x => some x
  | .dp4a x => some x
  | .and x => some x
  | .or x => some x
  | .xor x => some x
  | .andn x => some x
  | .not x => some x
  | .shl x => some x
  | .shr x => some x
  | .sar x => some x
  | .rot x => some x
  | .bfe x => some x
  | .bfi x => some x
  | .bfrev x => some x
  | .popc x => some x
  | .clz x => some x
  | .ctz x => some x
  | .sel x => some x
  | .cmp x => some x
  | .clamp x => some x
  | .lea x => some x
  | .sext x => some x
  | .prmt x => some x
  | .fadd x => some x
  | .fsub x => some x
  | .fmul x => some x
  | .ffma x => some x
  | .fmin x => some x
  | .fmax x => some x
  | .fcmp x => some x
  | .fclass x => some x
  | .frcp x => some x
  | .frsq x => some x
  | .fsqrt x => some x
  | .fdiv x => some x
  | .fexp2 x => some x
  | .flog2 x => some x
  | .fsin x => some x
  | .fcos x => some x
  | .ftanh x => some x
  | .fsigm x => some x
  | .fscale x => some x
  | .ffrac x => some x
  | .frnd x => some x
  | .cvt x => some x
  | .fpack x => some x
  | .funpack x => some x
  | .fdot2 x => some x
  | .shfl x => some x
  | .lbal x => some x
  | .lany x => some x
  | .lall x => some x
  | .lfirst x => some x
  | .bcast x => some x
  | .lperm x => some x
  | .lred x => some x
  | .lscan x => some x
  | .lmatch x => some x
  | .ld x => some x
  | .st x => some x
  | .lds x => some x
  | .sts x => some x
  | .ldc x => some x
  | .atom x => some x
  | .atoms x => some x
  | .put x => some x
  | .phase x => some x
  | .fence x => some x
  | .afence x => some x
  | .pref x => some x
  | .pflush x => some x
  | .arrive x => some x
  | .waitb x => some x
  | .barr x => some x
  | .waitc x => some x
  | .waitf x => some x
  | .fcnt x => some x
  | .bstat x => some x
  | .mxld x => some x
  | .mxsw x => some x
  | .mxm x => some x
  | .mxz x => some x
  | .mxrd x => some x
  | .mxwr x => some x
  | .had x => some x
  | .qnt x => some x
  | .mxst x => some x
  | .mxsv x => some x
  | .mxrs x => some x
  | .enq x => some x
  | .leaseReq x => some x
  | .leaseRel x => some x
  | .leaseQry x => some x
  | .cpy x => some x
  | .xch x => some x
  | .xred x => some x
  | .hash x => some x
  | .sigv x => some x
  | .scrub x => some x
  | .clause _ | .fpmWrite _ _ | .srseedWrite _ _ _ | .lfmodeWrite _ _ | .tcommitWrite _ _ | .registerWrite _ _ _ | .hbeatWrite _ | .wdctlWrite _ _ | .preemptSpan _ _ | .preemptPier _ _ | .preemptTenant _ _ | .preemptRelease _ _ | .debugStop _ _ | .fixedLatencyResult _ | .setAside _ _ | .setAsidePassesIssue _ | .loadDataReturn _ _ | .storeOrderingPoint _ _ | .atomicPerformedAtHome _ _ | .putLanding _ _ | .pageWalkComplete _ _ | .missSlotRetry _ _ | .park _ _ | .pinRetry _ _ | .pinForcedWriteback _ _ | .frameTaken _ | .handlerCourseStart _ _ | .replayDataArrival _ _ | .courseHalt _ | .forcedFullSave _ | .evictionDemand _ | .evictionDrainComplete _ | .spillComplete _ | .restoreComplete _ | .dispatcherDecision _ | .pierPlacement _ | .waitcReread _ | .peerWaitcPoll _ | .enqAppend _ _ | .leaseStep _ _ | .arrivalPoint _ | .sleepExpiry _ | .arrayCommandStart _ _ | .arrayCommandCompletion _ _ | .engineCommandStart _ _ | .engineCommandCompletion _ _ | .commitComplete _ | .wayMaskSweep _ | .watchdogExpiry _ | .loadslot _ | .setpending _ | .measure _ | .commitCall _ | .perfCounterSnapshot _ | .coreContainment _ _ | .dieL2Failure _ | .thermalAbove95 _ | .thermalBelow90 _ | .thermalAbove105 _ | .perstRelease _ | .hostWrite _ _ | .hostRead _ _ | .hostCounterWrite _ _ | .flr _ | .getVersion _ | .getCapabilities _ | .negotiateAlgorithms _ | .getDigests _ | .getCertificate _ _ | .challenge _ _ _ | .getMeasurements _ _ | .keyExchange _ _ | .finish _ _ | .endSession _ _ | .spdmUnsupportedRequest _ _ | .ideKm _ _ _ | .lockInterface _ | .startInterface _ | .getDeviceInterfaceReport _ | .requestReset _ | .selectActive _ | .flitReceived _ _ _ | .portRetrain _ _ | .rd _ | .rdr _ | .wr _ | .inv _ | .inva _ | .atm _ | .atmr _ | .frd _ | .frr _ | .xwr _ | .xack _ | .gngReady _ | .gngRelease _ | .gngAbort _ | .gngQuery _ | .unknownPacket _ | .gangTimeout _ | .gangDecisionTimeout _ | .lossOfLock _ | .mainPowerReturn _ | .debugStopTimeout _ | .hbmBucketRefill _ | .illegalEncoding _ | .preemptRequestDone | .preemptOverdue | .pierRetirement | .broadcastWindow | .xchTimeout | .quoinVacated | .budgetPeriodBoundary | .tokenCharge | .allowanceRefill | .correctionWindowClear | .perstAssert | .hostAccessTimeout | .vfDrained | .readSensors | .readBootRecord => none

/-- The instruction of a major opcode and a payload (R106 Table 10); `lease` is three rows of the table, by OPC in MINOR [11:10]
(R376). None for a code marked "—" or reserved. -/
def Instr.ofMajor (maj : Nat) (x : Ops) : Option Instr :=
  match maj with
  | 0x00 => some (.nop x)
  | 0x01 => some (.bra x)
  | 0x02 => some (.brx x)
  | 0x03 => some (.call x)
  | 0x04 => some (.calli x)
  | 0x05 => some (.ret x)
  | 0x06 => some (.join x)
  | 0x07 => some (.leave x)
  | 0x08 => some (.waitm x)
  | 0x09 => some (.mget x)
  | 0x0A => some (.mput x)
  | 0x0B => some (.exit x)
  | 0x0C => some (.yield x)
  | 0x0D => some (.sleep x)
  | 0x0E => some (.brk x)
  | 0x10 => some (.srd x)
  | 0x11 => some (.swr x)
  | 0x12 => some (.trap x)
  | 0x13 => some (.rett x)
  | 0x14 => some (.rgn x)
  | 0x15 => some (.rgend x)
  | 0x16 => some (.ctxsv x)
  | 0x17 => some (.ctxld x)
  | 0x18 => some (.gangsync x)
  | 0x20 => some (.mov x)
  | 0x21 => some (.movi x)
  | 0x22 => some (.add x)
  | 0x23 => some (.sub x)
  | 0x24 => some (.addc x)
  | 0x25 => some (.subb x)
  | 0x26 => some (.mul x)
  | 0x27 => some (.mulhi x)
  | 0x28 => some (.mad x)
  | 0x29 => some (.min x)
  | 0x2A => some (.max x)
  | 0x2B => some (.abs x)
  | 0x2C => some (.neg x)
  | 0x2D => some (.sad x)
  | 0x2E => some (.dp4a x)
  | 0x2F => some (.and x)
  | 0x30 => some (.or x)
  | 0x31 => some (.xor x)
  | 0x32 => some (.andn x)
  | 0x33 => some (.not x)
  | 0x34 => some (.shl x)
  | 0x35 => some (.shr x)
  | 0x36 => some (.sar x)
  | 0x37 => some (.rot x)
  | 0x38 => some (.bfe x)
  | 0x39 => some (.bfi x)
  | 0x3A => some (.bfrev x)
  | 0x3B => some (.popc x)
  | 0x3C => some (.clz x)
  | 0x3D => some (.ctz x)
  | 0x3E => some (.sel x)
  | 0x3F => some (.cmp x)
  | 0x40 => some (.clamp x)
  | 0x41 => some (.lea x)
  | 0x42 => some (.sext x)
  | 0x43 => some (.prmt x)
  | 0x50 => some (.fadd x)
  | 0x51 => some (.fsub x)
  | 0x52 => some (.fmul x)
  | 0x53 => some (.ffma x)
  | 0x54 => some (.fmin x)
  | 0x55 => some (.fmax x)
  | 0x56 => some (.fcmp x)
  | 0x57 => some (.fclass x)
  | 0x58 => some (.frcp x)
  | 0x59 => some (.frsq x)
  | 0x5A => some (.fsqrt x)
  | 0x5B => some (.fdiv x)
  | 0x5C => some (.fexp2 x)
  | 0x5D => some (.flog2 x)
  | 0x5E => some (.fsin x)
  | 0x5F => some (.fcos x)
  | 0x60 => some (.ftanh x)
  | 0x61 => some (.fsigm x)
  | 0x62 => some (.fscale x)
  | 0x63 => some (.ffrac x)
  | 0x64 => some (.frnd x)
  | 0x65 => some (.cvt x)
  | 0x66 => some (.fpack x)
  | 0x67 => some (.funpack x)
  | 0x68 => some (.fdot2 x)
  | 0x80 => some (.shfl x)
  | 0x81 => some (.lbal x)
  | 0x82 => some (.lany x)
  | 0x83 => some (.lall x)
  | 0x84 => some (.lfirst x)
  | 0x85 => some (.bcast x)
  | 0x86 => some (.lperm x)
  | 0x87 => some (.lred x)
  | 0x88 => some (.lscan x)
  | 0x89 => some (.lmatch x)
  | 0x90 => some (.ld x)
  | 0x91 => some (.st x)
  | 0x92 => some (.lds x)
  | 0x93 => some (.sts x)
  | 0x94 => some (.ldc x)
  | 0x95 => some (.atom x)
  | 0x96 => some (.atoms x)
  | 0x97 => some (.put x)
  | 0x98 => some (.phase x)
  | 0x99 => some (.fence x)
  | 0x9A => some (.afence x)
  | 0x9B => some (.pref x)
  | 0x9C => some (.pflush x)
  | 0xB0 => some (.arrive x)
  | 0xB1 => some (.waitb x)
  | 0xB2 => some (.barr x)
  | 0xB3 => some (.waitc x)
  | 0xB4 => some (.waitf x)
  | 0xB5 => some (.fcnt x)
  | 0xB6 => some (.bstat x)
  | 0xC0 => some (.mxld x)
  | 0xC1 => some (.mxsw x)
  | 0xC2 => some (.mxm x)
  | 0xC3 => some (.mxz x)
  | 0xC4 => some (.mxrd x)
  | 0xC5 => some (.mxwr x)
  | 0xC6 => some (.had x)
  | 0xC7 => some (.qnt x)
  | 0xC8 => some (.mxst x)
  | 0xC9 => some (.mxsv x)
  | 0xCA => some (.mxrs x)
  | 0xD0 => some (.enq x)
  | 0xD1 => match x.field 10 2 with | 0 => some (.leaseReq x) | 1 => some (.leaseRel x) | 2 => some (.leaseQry x) | _ => none
  | 0xD2 => some (.cpy x)
  | 0xD3 => some (.xch x)
  | 0xD4 => some (.xred x)
  | 0xD5 => some (.hash x)
  | 0xD6 => some (.sigv x)
  | 0xD7 => some (.scrub x)
  | _ => none

/-! ### What each instruction admits -/

/-- What the description of one instruction admits of its fields: which specifiers it uses, whether it has layout S or SJ, whether
only GUARD 0b0111 is allowed (sub-code 12), and whether FS/SM and MINOR hold defined values (sub-code 3). `need8` marks a
long-latency register write with FS = 00 (sub-code 8). -/
structure Shape where
  d : Bool := false
  a : Bool := false
  b : Bool := false
  c : Bool := false
  short : Bool := false
  jump : Bool := false
  p7 : Bool := false
  selOk : Bool := true
  minorOk : Bool := true
  need8 : Bool := false
deriving DecidableEq, Repr

/-- FS and SM are 00 (R103). -/
def Ops.selNone (x : Ops) : Bool := x.sel = 0
/-- SM of the integer group where `.sat` is accepted (R103). -/
def Ops.selSat (x : Ops) : Bool := x.sel = 0 || x.sel = 1
/-- SM of the floating group (R103). -/
def Ops.selFlt (x : Ops) : Bool := x.sel = 0 || x.sel = 1 || x.sel = 2

/-- The fraction bits of a floating format code; none for another format (R61 to R64). -/
def fracBits (f : Nat) : Option Nat :=
  match f with
  | 0 => some 23 | 1 => some 7 | 2 => some 10 | 3 => some 3 | 4 => some 2 | 5 => some 2 | 6 => some 3 | 7 => some 1 | 14 => some 52
  | _ => none

/-- RND of an instruction that rounds: 0–4 or 7 (R69, R145). -/
def rndOk (r : Nat) : Bool := r ≤ 4 || r = 7

/-- `cvt` with rounding code 5 needs floating formats, the source with more fraction bits (R150). -/
def srOk (ft xf : Nat) : Bool :=
  match fracBits ft, fracBits xf with
  | some t, some s => t < s
  | _, _ => false

/-- The special-register numbers of R166 Table 1. -/
def srnOk (n : Nat) : Bool :=
  n ≤ 0x0A || (0x10 ≤ n && n ≤ 0x12) || (0x18 ≤ n && n ≤ 0x1D) || (0x20 ≤ n && n ≤ 0x22) || n = 0x28

/-- A width code of Table 8 that a load accepts. -/
def loadW (w : Nat) : Bool := w ≤ 6
/-- A width code that a store accepts (R236). -/
def storeW (w : Nat) : Bool := w = 0 || w = 2 || w = 4 || w = 5 || w = 6
/-- SCOPE 7 is reserved, and a non-zero SCOPE needs an ORD (R236). -/
def scopeOk (x : Ops) : Bool := x.scope ≠ 7 && (x.scope = 0 || x.ord ≠ 0)
/-- FT of the vector formats (R146). -/
def fltFt (f : Nat) (f64 : Bool) : Bool := f = 0 || f = 1 || f = 2 || (f64 && f = 14)

/-- The fields of an integer instruction (R142): accepted IT codes as a mask, SM, COND and OPX. -/
def intShape (x : Ops) (short : Bool) (b c : Bool) (its : BitVec 8) (sat : Bool) (condOk opxOk : Bool) : Shape :=
  { d := true, a := true, b := b, c := c, short := short,
    selOk := if sat then x.selSat else x.selNone,
    minorOk := its.getLsbD x.it && condOk && opxOk }

/-- The fields of a floating instruction (R145, R146). -/
def fltShape (x : Ops) (short : Bool) (b c : Bool) (ftOk xOk rOk : Bool) (sm : Bool) : Shape :=
  { d := true, a := true, b := b, c := c, short := short,
    selOk := if sm then x.selFlt else x.selNone,
    minorOk := ftOk && xOk && rOk && !x.bit 0 }

/-- The shape of the instruction with major opcode `maj` (the tables named at the head of this file). -/
def shapeOf (maj : Nat) (x : Ops) : Shape :=
  let c0 : Bool := x.cond = 0
  let o0 : Bool := x.opx = 0
  let m0 : Bool := x.minor = 0
  let k12 : Bool := x.minor.toNat < 12
  let rr := rndOk x.rnd
  let r7 : Bool := x.rnd = 7
  let x0 : Bool := x.mid4 = 0
  let f64 := fltFt x.hi4 true
  let f32 := fltFt x.hi4 false
  let sc0 : Bool := x.scope = 0 && x.ord = 0
  let fs1 : Bool := x.sel ≠ 0
  let ret : Bool := x.d ≠ .zero
  match maj with
  | 0x00 => { short := true, selOk := x.selNone, minorOk := m0 }
  | 0x01 => { jump := true, selOk := x.selNone, minorOk := x.lit?.isNone || m0 }
  | 0x02 => { a := true, short := true, selOk := x.selNone, minorOk := m0 }
  | 0x03 => { jump := true, selOk := x.selNone, minorOk := x.lit?.isNone || m0 }
  | 0x04 => { a := true, short := true, selOk := x.selNone, minorOk := m0 }
  | 0x05 => { short := true, selOk := x.selNone, minorOk := m0 }
  | 0x06 => { short := true, selOk := x.selNone, minorOk := k12 }
  | 0x07 => { short := true, selOk := x.selNone, minorOk := k12 }
  | 0x08 => { short := true, selOk := x.selNone, minorOk := k12 }
  | 0x09 => { d := true, short := true, selOk := x.selNone, minorOk := x.field 5 7 = 0 && x.low4 < 12 }
  | 0x0A => { a := true, short := true, selOk := x.selNone, minorOk := k12 }
  | 0x0B => { short := true, selOk := x.selNone, minorOk := m0 }
  | 0x0C => { short := true, selOk := x.selNone, minorOk := m0 }
  | 0x0D => { a := true, short := true, selOk := x.selNone, minorOk := m0 }
  | 0x0E => { short := true, selOk := x.selNone, minorOk := x.hi4 = 0 }
  | 0x10 => { d := true, selOk := x.selNone, minorOk := srnOk x.minor.toNat }
  | 0x11 => { a := true, selOk := x.selNone, minorOk := srnOk x.minor.toNat }
  | 0x12 => { selOk := x.selNone, minorOk := x.minor.toNat < 16 }
  | 0x13 => { p7 := true, selOk := x.selNone, minorOk := m0 }
  | 0x14 => { p7 := true, selOk := x.selNone, minorOk := m0 }
  | 0x15 => { p7 := true, selOk := x.selNone, minorOk := m0 }
  | 0x16 => { a := true, c := true, p7 := true, selOk := x.selNone, minorOk := m0 }
  | 0x17 => { a := true, c := true, p7 := true, selOk := x.selNone, minorOk := m0 }
  | 0x18 => { p7 := true, selOk := x.selNone, minorOk := m0 }
  | 0x20 => intShape x true false false 0xFF false c0 o0
  | 0x21 => intShape x true false false 0xFF false c0 o0
  | 0x22 => intShape x true true false 0xFF true c0 o0
  | 0x23 => intShape x true true false 0xFF true c0 o0
  | 0x24 => intShape x true true false 0x03 false c0 (x.opx < 8)
  | 0x25 => intShape x true true false 0x03 false c0 (x.opx < 8)
  | 0x26 => intShape x true true false 0xFF true c0 o0
  | 0x27 => intShape x true true false 0xFF false c0 o0
  | 0x28 => intShape x false true true 0xFF true c0 (x.opx = 0 || (x.opx = 1 && x.it < 2 && x.selNone))
  | 0x29 => intShape x true true false 0xFF false c0 o0
  | 0x2A => intShape x true true false 0xFF false c0 o0
  | 0x2B => intShape x true false false 0x55 true c0 o0
  | 0x2C => intShape x true false false 0x55 true c0 o0
  | 0x2D => intShape x false true true 0xC3 false c0 o0
  | 0x2E => intShape x false true true 0xC0 true c0 (x.opx < 2)
  | 0x2F => intShape x true true false 0xFF false c0 o0
  | 0x30 => intShape x true true false 0xFF false c0 o0
  | 0x31 => intShape x true true false 0xFF false c0 o0
  | 0x32 => intShape x true true false 0xFF false c0 o0
  | 0x33 => intShape x true false false 0xFF false c0 o0
  | 0x34 => intShape x true true false 0x0F false c0 o0
  | 0x35 => intShape x true true false 0x0F false c0 o0
  | 0x36 => intShape x true true false 0x0F false c0 o0
  | 0x37 => intShape x true true false 0x0F false c0 o0
  | 0x38 => intShape x true true false 0x0F false c0 o0
  | 0x39 => intShape x false true true 0x0F false c0 o0
  | 0x3A => intShape x true false false 0x0F false c0 o0
  | 0x3B => intShape x true false false 0x0F false c0 o0
  | 0x3C => intShape x true false false 0x0F false c0 o0
  | 0x3D => intShape x true false false 0x0F false c0 o0
  | 0x3E => intShape x false true false 0xFF false c0 (x.opx < 15)
  | 0x3F => intShape x true true false 0x0F false (x.cond < 6) o0
  | 0x40 => intShape x false true true 0xFF false c0 o0
  | 0x41 => intShape x true true false 0x0F false c0 (x.opx < 16)
  | 0x42 => intShape x true true false 0x05 false c0 o0
  | 0x43 => intShape x false true true 0x03 false c0 o0
  | 0x50 => fltShape x true true false f64 x0 rr true
  | 0x51 => fltShape x true true false f64 x0 rr true
  | 0x52 => fltShape x true true false f64 x0 rr true
  | 0x53 => fltShape x false true true f64 x0 rr true
  | 0x54 => fltShape x true true false f64 x0 r7 false
  | 0x55 => fltShape x true true false f64 x0 r7 false
  | 0x56 => fltShape x true true false f64 (x.mid4 < 8) r7 false
  | 0x57 => fltShape x true false false f64 x0 r7 false
  | 0x58 => fltShape x true false false f32 x0 rr true
  | 0x59 => fltShape x true false false f32 x0 rr true
  | 0x5A => fltShape x true false false f64 x0 rr true
  | 0x5B => fltShape x true true false f64 x0 rr true
  | 0x5C => fltShape x true false false f32 x0 rr true
  | 0x5D => fltShape x true false false f32 x0 rr true
  | 0x5E => fltShape x true false false f32 x0 rr true
  | 0x5F => fltShape x true false false f32 x0 rr true
  | 0x60 => fltShape x true false false f32 x0 rr true
  | 0x61 => fltShape x true false false f32 x0 rr true
  | 0x62 => fltShape x true true false f64 x0 rr true
  | 0x63 => fltShape x true false false f64 x0 r7 false
  | 0x64 => fltShape x true false false f64 x0 rr false
  | 0x65 => fltShape x true false false true true (rr || (x.rnd = 5 && srOk x.hi4 x.mid4)) true
  | 0x66 => fltShape x true true false (x.hi4 = 1 || x.hi4 = 2 || x.hi4 = 3 || x.hi4 = 4 || x.hi4 = 8 || x.hi4 = 9)
              (x.mid4 < 3) rr true
  | 0x67 => fltShape x true true false (x.hi4 < 3) (1 ≤ x.mid4 && x.mid4 < 14) rr true
  | 0x68 => fltShape x false true true (x.hi4 = 1 || x.hi4 = 2) x0 rr true
  | 0x80 => { d := true, a := true, b := true, short := true, selOk := x.selNone, minorOk := x.field 5 7 = 0 }
  | 0x81 => { d := true, short := true, selOk := x.selNone, minorOk := x.field 4 8 = 0 }
  | 0x82 => { d := true, short := true, selOk := x.selNone, minorOk := x.field 5 7 = 0 }
  | 0x83 => { d := true, short := true, selOk := x.selNone, minorOk := x.field 5 7 = 0 }
  | 0x84 => { d := true, a := true, short := true, selOk := x.selNone, minorOk := x.field 5 7 = 0 && x.low4 = 0 }
  | 0x85 => { d := true, a := true, b := true, short := true, selOk := x.selNone, minorOk := x.field 5 7 = 0 && x.low4 = 0 }
  | 0x86 => { d := true, a := true, b := true, short := true, selOk := x.selNone, minorOk := x.field 5 7 = 0 && x.low4 = 0 }
  | 0x87 => { d := true, a := true, short := true, selOk := x.selNone, minorOk := x.field 4 8 = 0 && x.low4 < 11 }
  | 0x88 => { d := true, a := true, short := true, selOk := x.selNone, minorOk := x.field 5 7 = 0 && x.low4 < 11 }
  | 0x89 => { d := true, a := true, short := true, selOk := x.selNone, minorOk := x.field 5 7 = 0 && x.low4 = 0 }
  | 0x90 => { d := true, a := true, c := true, selOk := fs1,
              minorOk := loadW x.hi4 && x.ord < 2 && scopeOk x && x.hint < 3 }
  | 0x91 => { a := true, b := true, c := true,
              minorOk := storeW x.hi4 && (x.ord = 0 || x.ord = 2) && scopeOk x && x.hint < 2 }
  | 0x92 => { d := true, a := true, c := true, selOk := fs1, minorOk := loadW x.hi4 && sc0 && x.hint = 0 }
  | 0x93 => { a := true, b := true, c := true, minorOk := storeW x.hi4 && sc0 && x.hint = 0 }
  | 0x94 => { d := true, a := true, c := true, selOk := fs1,
              minorOk := loadW x.hi4 && x.ord < 2 && scopeOk x && x.hint < 3 }
  | 0x95 => { d := true, a := true, b := true, c := true, selOk := fs1 || !ret,
              minorOk := x.hi4 < 13 && scopeOk x && (x.hint = 4 || x.hint = 5) }
  | 0x96 => { d := true, a := true, b := true, c := true, selOk := fs1 || !ret,
              minorOk := x.hi4 < 13 && sc0 && (x.hint = 4 || x.hint = 5) }
  | 0x97 => { a := true, b := true, c := true, p7 := true, minorOk := m0 }
  | 0x98 => { p7 := true, minorOk := x.hi4 = 0 && x.hint = 0 && x.ord ≠ 0 && x.scope ≠ 7 }
  | 0x99 => { p7 := true, minorOk := m0 }
  | 0x9A => { a := true, b := true, c := true, p7 := true, minorOk := m0 }
  | 0x9B => { a := true, c := true, selOk := x.selNone, minorOk := x.minor.toNat < 2 }
  | 0x9C => { a := true, p7 := true, minorOk := m0 }
  | 0xB0 => { d := true, b := !x.bit 4, p7 := true, selOk := x.selNone, minorOk := x.scope ≠ 7 && x.low4 = 0 }
  | 0xB1 => { a := true, p7 := true, selOk := x.selNone, minorOk := x.scope ≠ 7 && x.field 0 5 = 0 }
  | 0xB2 => { d := true, a := true, b := !x.bit 4, p7 := true, selOk := x.selNone, minorOk := x.scope ≠ 7 && x.low4 < 11 }
  | 0xB3 => { a := true, b := true, c := true, p7 := true, selOk := x.selNone, minorOk := x.field 8 3 ≠ 7 && x.field 0 8 = 0 }
  | 0xB4 => { p7 := true, selOk := x.selNone }
  | 0xB5 => { d := true, p7 := true, selOk := x.selNone, minorOk := k12 }
  | 0xB6 => { d := true, p7 := true, selOk := x.selNone, minorOk := x.minor.toNat < 16 }
  | 0xC0 => { a := true, c := true, p7 := true, minorOk := x.hi4 < 14 && x.mid4 < 14 && x.hint = 0 }
  | 0xC1 => { p7 := true, minorOk := m0 }
  | 0xC2 => { a := true, b := true, c := true, p7 := true,
              minorOk := x.hi4 < 14 && x.field 4 2 ≠ 3 && x.field 0 2 = 0 }
  | 0xC3 => { p7 := true, minorOk := x.field 5 7 = 0 && x.field 0 2 = 0 && (!x.bit 4 || x.field 2 2 = 0) }
  | 0xC4 => { d := true, b := true, selOk := x.selNone, minorOk := x.field 5 7 = 0 && x.field 0 2 = 0 }
  | 0xC5 => { a := true, b := true, selOk := x.selNone, minorOk := x.field 5 7 = 0 && x.field 0 2 = 0 }
  | 0xC6 => { a := true, b := true, c := true, p7 := true, minorOk := x.hi4 < 3 && x.field 2 2 ≠ 3 && x.field 0 2 = 0 }
  | 0xC7 => { a := true, b := true, c := true, p7 := true,
              minorOk := x.hi4 < 3 && ((3 ≤ x.mid4 && x.mid4 < 9) || x.mid4 = 10) && rr && !x.bit 0 }
  | 0xC8 => { a := true, b := true, c := true, p7 := true,
              minorOk := (x.hi4 < 5 || x.hi4 = 8 || x.hi4 = 15) && rndOk (x.field 4 3) && x.field 0 2 ≠ 3 &&
                (x.field 0 2 = 0 || x.hi4 < 5) }
  | 0xC9 => { a := true, c := true, p7 := true, minorOk := x.minor.toNat < 6 }
  | 0xCA => { a := true, c := true, p7 := true, minorOk := x.minor.toNat < 6 }
  | 0xD0 => { d := true, a := true, b := true, c := true, p7 := true, minorOk := m0, need8 := ret && !fs1 }
  | 0xD1 =>
    match x.field 10 2 with
    | 0 => { d := true, a := true, c := true, p7 := true, minorOk := x.field 0 10 = 0, need8 := ret && !fs1 }
    | 1 => { d := true, b := true, p7 := true, minorOk := x.field 0 10 = 0, need8 := ret && !fs1 }
    | 2 => { d := true, b := true, p7 := true, minorOk := x.field 0 10 = 0, need8 := ret && !fs1 }
    | _ => { p7 := true, minorOk := false }
  | 0xD2 | 0xD3 | 0xD4 | 0xD5 | 0xD6 | 0xD7 =>
    { d := true, a := true, c := true, p7 := true, need8 := ret && !fs1,
      minorOk := x.field 0 7 = 0 && x.field 7 3 ≠ 7 && (x.field 7 3 = 0 || x.bit 11 || x.bit 10) }
  | _ => { minorOk := false }

/-- `lease.qry` with the destination Zero takes sub-code 12 (R376). -/
def qryNoDest (maj : Nat) (x : Ops) : Bool := maj = 0xD1 && x.field 10 2 = 2 && x.d = .zero

/-- Whether the layout is one the instruction has (R108). -/
def formOk (maj : Nat) (x : Ops) : Bool :=
  match x.form with
  | .s => (shapeOf maj x).short
  | .sj _ => (shapeOf maj x).jump
  | .l | .lx _ => true

/-- A specifier field that the instruction does not use holds Zero (R93, R138, R177). -/
def unusedOk (maj : Nat) (x : Ops) : Bool :=
  let h := shapeOf maj x
  (h.d || x.d = .zero) && (h.a || x.a = .zero) && (h.b || x.b = .zero) && (h.c || x.c = .zero)

/-- The lowest class-0 sub-code that the bits of an instruction give (R102, R108 Table 11), or none when the encoding is an
instruction. The sub-codes of a clause body (5, 6, 7, 10) depend on the machine and are not among them. A form that the instruction
does not have leaves its other bits without a meaning, so sub-code 11 stands alone (assumption 89). -/
def staticSub (maj : Nat) (x : Ops) : Option Nat :=
  let h := shapeOf maj x
  if !formOk maj x then some 11
  else if !(h.selOk && h.minorOk) then some 3
  else if h.need8 then some 8
  else if x.guard.neg && x.guard.pred = 7 then some 9
  else if !unusedOk maj x || (h.p7 && x.guard ≠ Guard.always) || qryNoDest maj x then some 12
  else none

/-- The control transfers that end a clause body (R110). -/
def isTransfer (maj : Nat) : Bool :=
  maj = 0x01 || maj = 0x02 || maj = 0x03 || maj = 0x04 || maj = 0x05 || maj = 0x0B || maj = 0x0E || maj = 0x12 || maj = 0x13 ||
  maj = 0x17

/-- Whether bits [13:12] of word 1 are FS for this instruction (R103): the memory and engine groups, and the matrix instructions but
`mxrd` and `mxwr`. -/
def bearsFlags (maj : Nat) : Bool :=
  grpOf maj = .mem || grpOf maj = .eng || (grpOf maj = .mat && maj ≠ 0xC4 && maj ≠ 0xC5)

end Sys2Proof
end

