-- ==== Sys2Proof/WellFormed.lean ====
section
/-! DEFINITION. Which instructions have an encoding: every specifier has a code in the layout, the minor field fits the layout, and no
static class-0 cause applies (R102, R108). Rows of the table that are no instruction have no encoding. -/

namespace Sys2Proof

/-- The minor field and SM that layout S gives an instruction from the four bits of M4 (R104, R138). -/
def minorOfM4 (maj : Nat) (m : BitVec 4) : BitVec 12 × BitVec 2 :=
  match grpOf maj with
  | .int => (BitVec.ofNat 12 ((m.extractLsb' 1 3).toNat * 512), if m.getLsbD 0 then 1 else 0)
  | .flt => (BitVec.ofNat 12 (m.toNat * 256 + 14), 0)
  | .ctl | .sys | .lane | .mem | .bar | .mat | .eng => (BitVec.ofNat 12 m.toNat, 0)

/-- The four bits of M4 that carry an instruction's minor field and SM in layout S. -/
def m4Of (maj : Nat) (x : Ops) : BitVec 4 :=
  match grpOf maj with
  | .int => BitVec.ofNat 4 (x.it * 2 + (if x.sel = 1 then 1 else 0))
  | .flt => BitVec.ofNat 4 x.hi4
  | .ctl | .sys | .lane | .mem | .bar | .mat | .eng => BitVec.ofNat 4 x.low4

/-- The layout can carry the payload: layout S carries unguarded instructions whose operands have short codes and whose minor field is
the one M4 expands to; SJ carries only a guard and an offset; L and LX carry everything but short codes. -/
def Ops.fits (maj : Nat) (x : Ops) : Bool :=
  match x.form with
  | .s => x.guard = Guard.always && x.d.hasShort && x.a.hasShort && x.b.hasShort && x.c = .zero &&
      (minorOfM4 maj (m4Of maj x)) = (x.minor, x.sel)
  | .sj _ => x.d = .zero && x.a = .zero && x.b = .zero && x.c = .zero && x.minor = 0 && x.sel = 0
  | .l | .lx _ => x.d.hasLong && x.a.hasLong && x.b.hasLong && x.c.hasLong

/-- OPC of `lease` agrees with the row (R376). -/
def Instr.opcOk : Instr → Bool
  | .leaseReq x => x.field 10 2 = 0
  | .leaseRel x => x.field 10 2 = 1
  | .leaseQry x => x.field 10 2 = 2
  | _ => true

/-- A well-formed row: an instruction that has an encoding, or a clause header (every header word has fields, R109). -/
def Instr.wf (i : Instr) : Bool :=
  match i.major?, i.ops? with
  | some maj, some x => x.fits maj && (staticSub maj x).isNone && i.opcOk
  | _, _ =>
    match i with
    | .clause _ => true
    | _ => false

end Sys2Proof
end

