-- ==== Sys2Proof/Decode.lean ====
section
/-! DEFINITION. Reading and writing instructions (R91, R93, R109): the decoder, total on any list of bytes, and the encoder. A word that
is no instruction decodes to the row ILLEGAL_ENCODING with its sub-code, since the device takes a trap for it (R107); the decoder
itself rejects only a list of bytes that ends inside an instruction. -/

namespace Sys2Proof

/-- Why a list of bytes holds no instruction. -/
inductive DecodeError where
  /-- fewer than four bytes: no first word -/
  | noFirstWord
  /-- the first word's length field calls for more words than there are (R91) -/
  | cutShort
deriving DecidableEq, Repr

/-- Bits [lo+len-1:lo] of a word as a number. -/
def bitsOf (w : Word) (lo len : Nat) : Nat := (w.extractLsb' lo len).toNat

/-- The 32-bit little-endian word of four bytes (R2). -/
def wordOfBytes (b0 b1 b2 b3 : Byte) : Word :=
  BitVec.ofNat 32 (b0.toNat + 256 * b1.toNat + 65536 * b2.toNat + 16777216 * b3.toNat)

/-- The four bytes of a word, lowest address first (R2). -/
def bytesOfWord (w : Word) : List Byte :=
  [w.extractLsb' 0 8, w.extractLsb' 8 8, w.extractLsb' 16 8, w.extractLsb' 24 8]

/-- The major opcode, bits [9:2] of a first word (R91). -/
def majorOf (w : Word) : Nat := bitsOf w 2 8

/-- The number of words of an instruction, from bits [1:0] of its first word (R91 Table 1). -/
def wordsOf (w : Word) : Nat :=
  match bitsOf w 0 2 with
  | 1 => 2
  | 2 => 3
  | _ => 1

/-- The clause header of a word (R109 Table 12). -/
def headerOf (w : Word) : Header :=
  { stall := w.extractLsb' 28 4, yield := w.getLsbD 27, len := w.extractLsb' 22 5, setB := w.extractLsb' 18 4,
    setA := w.extractLsb' 14 4, wait := w.extractLsb' 2 12 }

/-- The word of a clause header. -/
def Header.word (h : Header) : Word :=
  BitVec.ofNat 32 (h.stall.toNat * 2 ^ 28 + (if h.yield then 2 ^ 27 else 0) + h.len.toNat * 2 ^ 22 + h.setB.toNat * 2 ^ 18 +
    h.setA.toNat * 2 ^ 14 + h.wait.toNat * 4 + 3)

/-- The payload of a one-word instruction: layout SJ for `bra` and `call`, layout S for every other (R93, R108). -/
def opsShort (w : Word) : Ops :=
  let maj := majorOf w
  if maj = 0x01 || maj = 0x03 then
    { form := .sj (w.extractLsb' 10 18), guard := Guard.ofCode (w.extractLsb' 28 4), d := .zero, a := .zero, b := .zero, c := .zero,
      sel := 0, minor := 0 }
  else
    let m := minorOfM4 maj (w.extractLsb' 28 4)
    { form := .s, guard := Guard.always, d := Opd.ofCode6 (w.extractLsb' 22 6), a := Opd.ofCode6 (w.extractLsb' 16 6),
      b := Opd.ofCode6 (w.extractLsb' 10 6), c := .zero, sel := m.2, minor := m.1 }

/-- The payload of a two- or three-word instruction (layouts L and LX, R93). -/
def opsLong (w0 w1 : Word) (form : Form) : Ops :=
  { form := form, guard := Guard.ofCode (w0.extractLsb' 28 4), d := Opd.ofCode9 (w0.extractLsb' 19 9),
    a := Opd.ofCode9 (w0.extractLsb' 10 9), b := Opd.ofCode9 (w1.extractLsb' 23 9), c := Opd.ofCode9 (w1.extractLsb' 14 9),
    sel := w1.extractLsb' 12 2, minor := w1.extractLsb' 0 12 }

/-- The row a payload decodes to: its instruction, or ILLEGAL_ENCODING with the lowest class-0 sub-code of its bits (R102, R107). -/
def build (w0 : Word) (x : Ops) : Instr :=
  let maj := majorOf w0
  let bad (sub : Nat) : Instr :=
    .illegalEncoding { sub := BitVec.ofNat 4 sub, word := w0, fs := if bearsFlags maj then x.sel else 0, ctl := isTransfer maj }
  if maj ≥ 0xF0 then bad 2
  else if maj ≥ 0xE0 then bad 1
  else
    match Instr.ofMajor maj x with
    | none => if maj = 0xD1 then bad 3 else bad 0
    | some i =>
      match staticSub maj x with
      | some sub => bad sub
      | none => i

/-- The row that a list of words begins with, and how many words it takes. -/
def decodeWords (ws : List Word) : Except DecodeError (Instr × Nat) :=
  match ws with
  | [] => .error .noFirstWord
  | w0 :: rest =>
    match bitsOf w0 0 2, rest with
    | 0, _ => .ok (build w0 (opsShort w0), 1)
    | 1, w1 :: _ => .ok (build w0 (opsLong w0 w1 .l), 2)
    | 2, w1 :: w2 :: _ => .ok (build w0 (opsLong w0 w1 (.lx w2)), 3)
    | 3, _ => .ok (.clause (headerOf w0), 1)
    | _, _ => .error .cutShort

/-- The words of a list of bytes; bytes that do not fill a word are dropped. -/
def wordsOfBytes : List Byte → List Word
  | b0 :: b1 :: b2 :: b3 :: rest => wordOfBytes b0 b1 b2 b3 :: wordsOfBytes rest
  | _ => []

/-- The row that a list of bytes begins with, and how many bytes it takes. -/
def decodeBytes (bs : List Byte) : Except DecodeError (Instr × Nat) :=
  (decodeWords (wordsOfBytes bs)).map (fun r => (r.1, 4 * r.2))

/-- The bytes of an instruction whose bits are `w`, the first word in bits [31:0] and the bits from `nbits` up zero, padded to the
longest instruction of three words. -/
def tableBytes (nbits w : Nat) : List Byte :=
  let v := w % 2 ^ nbits
  (List.range 12).map (fun k => BitVec.ofNat 8 (v / 2 ^ (8 * k)))

/-- The instruction the decoder reads from an instruction whose bits are `w`, numbered as spec/opcode_table.json numbers them. -/
def decodeTableWord (nbits w : Nat) : Option Instr :=
  match decodeBytes (tableBytes nbits w) with
  | .ok (i, _) => some i
  | .error _ => none

/-! ### The encoder -/

/-- The first word of layout S. -/
def wordS (maj : Nat) (x : Ops) : Word :=
  BitVec.ofNat 32 ((m4Of maj x).toNat * 2 ^ 28 + x.d.code6.toNat * 2 ^ 22 + x.a.code6.toNat * 2 ^ 16 + x.b.code6.toNat * 2 ^ 10 +
    maj * 4)

/-- The word of layout SJ. -/
def wordSJ (maj : Nat) (x : Ops) (off : BitVec 18) : Word :=
  BitVec.ofNat 32 (x.guard.code.toNat * 2 ^ 28 + off.toNat * 2 ^ 10 + maj * 4)

/-- Word 0 of layouts L and LX, with the length field `len`. -/
def wordL0 (maj : Nat) (x : Ops) (len : Nat) : Word :=
  BitVec.ofNat 32 (x.guard.code.toNat * 2 ^ 28 + x.d.code9.toNat * 2 ^ 19 + x.a.code9.toNat * 2 ^ 10 + maj * 4 + len)

/-- Word 1 of layouts L and LX. -/
def wordL1 (x : Ops) : Word :=
  BitVec.ofNat 32 (x.b.code9.toNat * 2 ^ 23 + x.c.code9.toNat * 2 ^ 14 + x.sel.toNat * 2 ^ 12 + x.minor.toNat)

/-- The words of a payload under a major opcode. -/
def encodeOps (maj : Nat) (x : Ops) : List Word :=
  match x.form with
  | .s => [wordS maj x]
  | .sj off => [wordSJ maj x off]
  | .l => [wordL0 maj x 1, wordL1 x]
  | .lx lit => [wordL0 maj x 2, wordL1 x, lit]

/-- The words of a well-formed row; an empty list for a row that is no instruction. -/
def encode (i : Instr) : List Word :=
  match i.major?, i.ops? with
  | some maj, some x => encodeOps maj x
  | _, _ =>
    match i with
    | .clause h => [h.word]
    | _ => []

end Sys2Proof
end

