-- ==== Sys2Proof/Config.lean ====
section
/-! DEFINITION. What an implementation fixes, and the values the spec leaves open. A value the spec leaves open is an opaque constant: no
proof can see what it is, so a statement about it holds whatever it is. A fresh value for each use is drawn by applying the constant to
`State.fresh`, which the step advances. -/

namespace Sys2Proof.Config

/-! ### Free values (assumption 4) -/

/-- A byte the spec leaves undefined: the destination of a mismatched `xch` (R347), a control block after a trapping `ctxsv` (R195), a scale
byte after a region restart (R52). -/
opaque freeByte : Nat → BitVec 8
/-- A 32-bit word the spec leaves undefined: a tile word after a region restart (R52), a TIME stamp in a model without clk (R358,
R361), a sensor reading (R471). -/
opaque freeWord : Nat → BitVec 32
/-- A 48-bit plane slot left undefined by a region restart (R52, R274). -/
opaque freeSlot : Nat → BitVec 48
/-- The bytes of an SPDM answer whose content the spec does not give (certificates, digests, signatures; R446), as a number. -/
opaque freeAnswer : Nat → Nat → Nat
/-- The correctly rounded value of a transcendental function in the one case that the model's bounds on it cannot decide: format,
rounding mode, function code, input bits (R148; assumption 12). -/
opaque freeRounded : Nat → Nat → Nat → Nat → Nat
/-- Whether such a value is inexact is always true (R148); its direction relative to the exact value is open in the same case. -/
opaque freeChoice : Nat → Nat

/-- The lanes of a quoin that boot lane repair is in doubt about (R466). -/
opaque freeLanes : Nat → BitVec 18
/-- What the boot's test of the SRAM die and the L2 finds of a structure: its failing bank where that is below ten (R208, R466). -/
opaque freeBank : Nat → Nat

/-- The clk that remain of a `sleep` when a frame of its course is taken, of at least one (R186). -/
opaque freeCount : Nat → Nat
/-- The entry of a full TLB or page-walk cache that gives way to a new one (R369). -/
opaque freeVictim : Nat → Nat
/-- Where the PF's counter page and its command mailbox lie in memory: a page of HBM, by number (R443; assumption 117). -/
opaque pfPage : Nat → Nat
/-- The bytes of the PF's status block, of which the spec gives what they tell and no layout: by what they tell and offset (R443). -/
opaque freeStatus : List Nat → Nat → BitVec 8
/-- The record of the root span that Keystone places when it makes a partition, as a number, and its queue, by tenant (R44). -/
opaque rootRecord : Nat → Nat
/-- The queue of that span. -/
opaque rootQueue : Nat → Nat

/-! ### What this implementation fixes -/

/-- The number of physical quoins (R10, R11). -/
def quoins : Nat := 768
/-- Cores of the device (R10). -/
def cores : Nat := 192
/-- Bytes of HBM (R17). -/
def hbmBytes : Nat := 2 ^ 40
/-- The size of a part (R3). -/
def partBytes : Nat := 65536
/-- The size of a page (R3). -/
def pageBytes : Nat := 2097152
/-- The size of a line (R3). -/
def lineBytes : Nat := 128
/-- The address space of one ASID (R158, R241). -/
def vaLimit : Nat := 2 ^ 53
/-- An 18-bit fuse value with every lane good (R13; assumption 7). -/
def fusedLanes : BitVec 18 := 0x3FFFF

end Sys2Proof.Config
end

