-- ==== Sys2Proof/Machine/State.lean ====
section
/-! DEFINITION. The state of the device as plain data: the courses, bonds, piers and spans; the memory system; the tables as their
commits installed them; the engines, rings, links and the boot record; and the state right after reset. -/

namespace Sys2Proof.Machine

/-- Sparse storage: pairs of a key and a value, keys strictly rising, no value zero; an unlisted key holds zero. Register files,
scratchpad, tiles, planes and memory are all held so. -/
abbrev Cells (w : Nat) := List (Nat × BitVec w)

/-- Why a step faults. No path of the machine answers with one: where the spec describes a cause, the machine takes it (R391). -/
inductive Fault where
  /-- An access to a physical address beyond HBM (R17). Raised by nothing in this model, since every physical access is checked against
  a frame number below 524,288 (R367); kept so that a later layer can name the case. Safe. -/
  | beyondHbm
deriving DecidableEq, Repr

/-- Why a step is refused. -/
inductive Refusal where
  /-- An instruction without a meaning; raised only by the arms of Dispatch that say so. Safe. -/
  | notModelled (mnemonic : String)
  /-- The bytes at the PC end inside an instruction although the fetch found no cause; raised by `step` only. Safe. -/
  | cutShort
deriving DecidableEq, Repr

/-! ### Courses -/

/-- Where a long-latency result goes (R116). -/
inductive Dest where
  | none
  | vec (r : Nat)
  | scl (r : Nat)
deriving DecidableEq, Repr

/-- What a course waits for (R38). -/
inductive Wait where
  /-- `sleep`, with the clk that remain (R186) -/
  | sleep (clk : Nat)
  /-- `barr` on barrier `k`, its destination and participating lanes (R400) -/
  | barr (k : Nat) (scope : Nat) (dst : Opd) (lanes : LaneSet)
  /-- `waitb` on barrier `k` for the phase of its token (R401) -/
  | waitb (k phase scope : Nat)
  /-- `waitc` on a word (R403), with its address and its issuing subset, against which a later read raises its causes -/
  | waitc (scratch : Bool) (addr : Nat) (target : Word) (scope pc : Nat) (subset : LaneSet)
  /-- `gangsync` (R196) -/
  | gang
deriving DecidableEq, Repr

/-- An issued operation that has not completed (R112, R332, R423). -/
inductive OpKind where
  /-- `ld`: width code, cache hint, acquire scope -/
  | load (dst : Dest) (w hint : Nat) (acq : Option Nat)
  /-- `lds` -/
  | loadS (dst : Dest) (w : Nat)
  /-- `ldc`: one address for the course -/
  | loadC (dst : Dest) (w hint : Nat) (acq : Option Nat)
  /-- `st`, with the lanes' data; `through` with a release at pier scope or wider (R245) -/
  | store (w : Nat) (through : Bool)
  /-- `sts` -/
  | storeS (w : Nat)
  /-- `atom`: operation, width in bytes, acquire scope (R249) -/
  | atomic (dst : Dest) (op size : Nat) (acq : Option Nat)
  /-- `atoms` -/
  | atomicS (dst : Dest) (op size : Nat)
  /-- `put`: target bond index, offsets, length, counter offset and increment (R252) -/
  | put (bond doff soff len coff : Nat) (inc : Word)
  /-- `phase`, `fence` and the ordering half of other instructions: release scope, acquire scope (R256) -/
  | order (rel acq : Option Nat)
  /-- `afence` over a range (R257) -/
  | afence (base len : Nat)
  /-- `pflush` of a peer (R258) -/
  | pflush (peer : Nat)
  /-- `enq`: record address, queue (R310) -/
  | enq (dst : Dest) (addr q : Nat)
  /-- `lease`: form 0 req, 1 rel, 2 qry; handle; ranges as (BASE, NPARTS) (R377) -/
  | lease (dst : Dest) (form : Nat) (handle : Nat) (ranges : List (Nat × Nat))
  /-- an engine command: major opcode, MINOR, command block, status so far, first unit not started, started, parked part (R337) -/
  | engine (dst : Dest) (maj : Nat) (minor : BitVec 12) (block : List Byte) (status unit : Nat) (started : Bool)
  /-- an array command of the bond's queue that bears the flag (R283) -/
  | array (id : Nat)
  /-- an instruction fetch that waits on an absent part, a pin or a peer (R92); `data` may hold lines that a peer returned -/
  | fetch
deriving DecidableEq, Repr

/-- One issued operation. `addrs` and `data` are keyed by lane (0 for an operation that acts once); `got` holds the lanes' returned
values; `lanes` the lanes not yet performed. -/
structure Op where
  seq : Nat
  pc : Nat
  kind : OpKind
  lanes : LaneSet
  all : LaneSet
  /-- the issuing subset, against which a cause of the whole instruction is raised -/
  subset : LaneSet
  addrs : List (Nat × Nat)
  data : List (Nat × Nat)
  got : List (Nat × Nat)
  flags : BitVec 12
  /-- FS of its instruction -/
  sel : BitVec 2
  fpm : Word
  ring : Nat
  /-- refused by a pin (R228) or for want of a miss slot (R369); sent again by PIN_RETRY or MISS_SLOT_RETRY -/
  refused : Bool
  /-- waiting for a reply of a peer (R214) -/
  peerWait : Bool
  /-- the part it is parked on (R358) -/
  parked : Option Nat
  /-- STATE of its replay entry (R423): 1 to be issued, 2 in flight, 3 data held, 0 discarded; 4 for an operation of no frame -/
  entry : Nat
  /-- TYPE of its replay entry; 4 for a parked access of a halted course, which waits with its park record (R359) -/
  etype : Nat
  /-- the clause contexts and the fault mode of its lanes at issue (R113, R168) -/
  chead : Cells 32
  cdist : Cells 5
  hold : Bool
  /-- how far a multi-step operation is: of a release, 1 once its flushing reads have left; of a `put`, 1 once accepted -/
  stage : Nat
  /-- some peer could not be reached: class 22, sub-code 3, at completion (R219, R456) -/
  cut : Bool
  /-- of an engine command: `State.turns` when it entered its engine's queue (R334) -/
  entered : Nat := 0
deriving DecidableEq, Repr

/-- A cause raised against a course and not yet taken (R424): cause code, lanes, TPC, INFO, the ring of the program that raised it, and the
lanes whose fault records its frame carries. -/
structure Trap where
  cause : Nat
  lanes : LaneSet
  tpc : Nat
  info : Nat
  ring : Nat
  recs : LaneSet
deriving DecidableEq, Repr

/-- An instruction set aside at a pass boundary (R321): its lanes not yet issued, its whole subset, the modes that it captured (R80, R168) and, of a
`cvt` with rounding code 5, the states drawn for its lanes (R81, R82). -/
structure Aside where
  instr : Instr
  rest : LaneSet
  whole : LaneSet
  fpm : Word
  lfmode : Word
  drawn : Cells 32
deriving DecidableEq, Repr

/-- The region shadow (R79, R164). -/
structure Shadow where
  srseed : Cells 32
  enr : Cells 32
  depth : Cells 4
  rstack : Cells 53
deriving DecidableEq, Repr

/-- A fixed-latency result in flight (R114, R140): a vector register, o entry, scalar, predicate; per-lane values of 32 or 64 bits. -/
structure Landing where
  dst : Opd
  wide : Bool
  lanes : LaneSet
  vals : List (Nat × Nat)
  push : Bool
deriving DecidableEq, Repr

/-- What exists of a course (R38): nothing, a running course, one halted with a halt frame of a kind (R419), exited, ended, gone; a
handler course of a control core is idle between traps (R428). -/
inductive Life where
  | none | live | halted (kind : Nat) | exited | ended (cause : Nat) | gone | idle
deriving DecidableEq, Repr

/-- One course (R28, R35, R130, R158–R176). Vector-register files are keyed by 32 · register + lane, return stacks by 8 · lane + entry,
masks, predicates, scalar registers and flags by their numbers, other per-lane state by lane. -/
structure Course where
  id : Nat
  life : Life
  /-- issue blocked on a wait -/
  wait : Option Wait
  /-- the wait of the program that a ring-1 handler interrupted -/
  waitBelow : Option Wait
  /-- stopped with a frame at ring 2 or 3 (R428) -/
  stopRing : Option Nat
  /-- traps raised and not yet taken -/
  pend : List Trap
  live : LaneSet
  pc : Cells 53
  /-- the order in which lanes last issued (R36) -/
  last : Cells 64
  issueNo : Nat
  v : Cells 32
  o : Cells 32
  l : Cells 64
  s : Cells 32
  p : Cells 32
  enr : Cells 32
  waitm : Cells 32
  /-- the length of the `waitm` that a waiting lane waits at (R161) -/
  waitLen : Cells 4
  depth : Cells 4
  rstack : Cells 53
  /-- the word of the header whose body the lane is in, and the words from the header to the lane's PC; 0 outside a clause -/
  chead : Cells 32
  cdist : Cells 5
  flags : Cells 8
  vguard : Cells 12
  pguard : Cells 12
  sguard : Cells 12
  fpm : Word
  srseed : Cells 32
  lfmode : Word
  rgnPc : Nat
  rgnOpen : Bool
  restarts : Nat
  /-- the next `rgn` is the re-execution of R491 -/
  restarted : Bool
  shadow : Shadow
  markTiles : BitVec 4
  markActive : Bool
  markShadow : Bool
  ring : Nat
  frameBase : Nat
  frameBusy : Bool
  mine : BitVec 16
  peers : BitVec 16
  faults : Cells 64
  /-- the lanes that the lane-fault mode holds in m11 (R163); under MODE 1 they are its ENR -/
  caught : LaneSet
  /-- those of the program that a ring-1 handler interrupted -/
  caughtBelow : LaneSet
  cid : Nat
  bid : Nat
  pierIx : Word
  spanId : Word
  qid : Nat
  slot : Nat
  bond : Nat
  pier : Nat
  span : Nat
  tenant : Nat
  asid : Nat
  regs : Nat
  harvest : Bool
  prio : Nat
  frameSlot : Nat
  /-- the lines whose write-back at its halt another core's pin has refused (R225, R228) -/
  owing : List (Nat × Nat) := []
  /-- where its image stands in HBM while its pier is spilled (R329) -/
  imageAt : Nat := 0
  /-- the segments of the quoin's main register file that hold its registers: segment number by place (R131, R132) -/
  segs : List Nat := []
  ops : List Op
  nextOp : Nat
  landing : List Landing
  /-- pass after which the next vector instruction is set aside, and the instruction set aside (R321) -/
  asideAt : Option Nat
  aside : Option Aside
  /-- when it last issued or became Ready, as a count of `State.turns`; and whether it has left the state Ready since (R320) -/
  stamp : Nat
  away : Bool
  yielding : Bool
  stepping : Bool
  stepped : Bool
  debugReq : Bool
  haltReq : Bool
  /-- to be saved wherever its lanes stand (R59, R437); it issues nothing more -/
  forced : Bool
  evicting : Bool
  /-- the pre-emption request that halted it holds the pier (R431) -/
  held : Bool
  /-- lanes held at issue by an unsatisfied wait on flags (R111, R395), or every lane by a stall (R114, R389, R394): they take no part in
  selection until something completes -/
  heldLanes : LaneSet
deriving DecidableEq, Repr

/-! ### Bonds, piers, spans -/

/-- A plane record (R272). -/
structure PlaneRec where
  valid : Bool
  fb : Nat
  fa : Nat
  sb : Bool
deriving DecidableEq, Repr

/-- A pair of planes' contents: slots keyed by 1,024 · position + 32 · row + column, scale bytes by 256 · position + 8 · column +
block (R272, R296). -/
structure Plane where
  rcd : PlaneRec
  slots : Cells 48
  scales : Cells 8
  poison : Cells 1
deriving DecidableEq, Repr

/-- An array command in a bond's queue (R279), with what it captured at issue. -/
structure ArrCmd where
  id : Nat
  course : Nat
  opSeq : Nat
  maj : Nat
  minor : BitVec 12
  base : Nat
  arg : Nat
  dest : Nat
  fpm : Word
  rcd : PlaneRec
  pc : Nat
  ring : Nat
  /-- the courses of the bond, each with the number its next operation had when the command entered: operations numbered below were issued
  before it (R282) -/
  prior : List (Nat × Nat)
  /-- of an `mxm`, the exchanges of the planes made since its last row entered (R281) -/
  swaps : Nat
  started : Bool
deriving DecidableEq, Repr

/-- The descriptor of a barrier's phase (R396, R400). -/
structure BarDesc where
  n : Nat
  all : Bool
  barr : Bool
  op : Nat
deriving DecidableEq, Repr

/-- A barrier (R396). `arrived` is a set of course indices. -/
structure Barrier where
  phase : Nat
  cnt : Nat
  desc : Option BarDesc
  arrived : BitVec 64
  vals : List (Nat × Word)
deriving DecidableEq, Repr

/-- A barrier arrival that has issued and not reached its arrival point (R399). -/
structure Arrival where
  course : Nat
  cid : Nat
  k : Nat
  desc : BarDesc
  val : Word
  scope : Nat
  /-- the course's operations issued before it have numbers below this one -/
  seq : Nat
deriving DecidableEq, Repr

/-- A range-scoreboard entry (R231): rows, direction, the copy's course and operation, and the courses of the bond with the number that their
next operation had when the copy issued. -/
structure RangeEntry where
  lo : Nat
  hi : Nat
  write : Bool
  course : Nat
  seq : Nat
  prior : List (Nat × Nat)
deriving DecidableEq, Repr

/-- A bond (R28, R31, R32): scratchpad, barriers, array. -/
structure Bond where
  id : Nat
  pier : Nat
  bid : Nat
  shape : Nat
  quoins : List Nat
  courses : Nat
  size : Nat
  scratch : Cells 8
  spoison : Cells 1
  /-- by row of the bond's scratchpad, its syndromes (R207) -/
  ssyn : Cells 256 := []
  bars : List (Nat × Barrier)
  arrivals : List Arrival
  /-- courses that have exited (R402) -/
  exited : BitVec 64
  tiles : Cells 32
  tpoison : Cells 1
  active : Plane
  shadow : Plane
  queue : List ArrCmd
  nextCmd : Nat
  ranges : List RangeEntry
  placed : Bool
  /-- where the parts of its scratchpad stand in HBM while its pier is spilled (R329) -/
  imageAt : List Nat := []
deriving DecidableEq, Repr

/-- A pier (R28, R39, R42). -/
structure Pier where
  id : Nat
  span : Nat
  ix : Nat
  die : Nat
  bonds : List Nat
  /-- placed but not yet created (R318) -/
  pending : Bool
  resident : Bool
  halted : Bool
  held : Bool
  evicting : Bool
  /-- some course restarts a region: tiles and planes become undefined (R52) -/
  spilled : Bool
  /-- the quoins whose spill slots hold its image (R330) -/
  image : List Nat
  /-- the context save area of the request that halted it, which holds its image instead of the spill slots, and the quoins, ascending, that have slots in
  that area (R433) -/
  save : Option Nat := none
  saveQuoins : List Nat := []
  retired : Bool
deriving DecidableEq, Repr

/-- A span record (R304). -/
structure SpanRec where
  entry : Nat
  args : Nat
  npiers : Nat
  spanId : Word
  shape : Nat
  bonds : Nat
  courses : Nat
  regs : Nat
  scratch : Nat
  fpm : Word
  seed : Word
  lfmode : Word
  gang : Bool
  sysScope : Bool
  lease : Nat
  deps : List (Nat × Word)
  counter : Nat
  status : Nat
deriving DecidableEq, Repr

/-- The states of a span (R313). -/
inductive SpanState where
  | queued | head | eligible | placing | running | completing | done
deriving DecidableEq, Repr

/-- A span (R313). -/
structure Span where
  id : Nat
  tenant : Nat
  queue : Nat
  asid : Nat
  harvest : Bool
  prio : Nat
  rcd : SpanRec
  state : SpanState
  placed : Nat
  retired : Nat
  /-- steps of R46 made: 0 none, 1 the release (its flushes in `flush` outstanding), 2 the status word, 3 the counter add -/
  stage : Nat
  /-- peers whose flushing read has not been answered (R259) -/
  flush : BitVec 16
  /-- the status word's value (R306) -/
  kind : Nat
  cause : Nat
  /-- the lease window's ranges as loaded (R374) -/
  window : List (Nat × Nat)
  /-- its record has been taken from the queue: HEAD counts it (R302) -/
  out : Bool := false
  /-- the peers to which stores of its retired piers were posted (R46, R259) -/
  peers : BitVec 16 := 0
  /-- a completion write has gone to a peer and its reply is awaited (R307) -/
  asked : Bool := false
deriving DecidableEq, Repr

/-- A span queue (R301). -/
structure Queue where
  tenant : Nat
  /-- the physical address of its descriptor (R387) -/
  loc : Nat
  q : Nat
  en : Bool
  susp : Bool
  prio : Nat
  logDepth : Nat
  home : Nat
  base : Nat
  head : Word
  tail : Word
deriving DecidableEq, Repr

/-! ### Memory -/

/-- A line of an L1 or of L2 (R201, R203, R204): bytes held as a row of 1,024 bits, byte j in bits [8j+7:8j]; which bytes are valid and
which dirty; the leaf's W, X, K bits; the clean bytes' staleness is a cleared valid bit. L1 lines name their core; L2 lines have core 0. -/
structure Line where
  core : Nat
  /-- the way of its set it occupies (R201, R383) -/
  way : Nat
  asid : Nat
  addr : Nat
  tenant : Nat
  data : BitVec 1024
  valid : BitVec 128
  dirty : BitVec 128
  w : Bool
  x : Bool
  k : Bool
  sg : Bool
  peer : Option Nat
  cls : Bool
  pin : Option Nat
  refusedOnce : Bool
  sharers : BitVec 16
  poison : BitVec 2
  /-- read since the last acquire (R202) -/
  fresh : Bool
  /-- the syndromes that a read of the row forms: the held P and Q symbols against those of the held data (R207) -/
  syn : BitVec 256 := 0
  /-- of each sector, the CRC that travels with it against the CRC of its data (R264) -/
  crc : BitVec 32 := 0
  /-- the tenant of the core's pin, whose partition is told of a forced write-back (R229) -/
  pinT : Nat := 0
  /-- the courses whose bytes the line holds dirty (R259) -/
  owners : List Nat := []
deriving DecidableEq, Repr

/-- A TLB entry: a leaf with its frame-state check (R369). -/
structure TlbEntry where
  asid : Nat
  page : Nat
  leaf : BitVec 128
  frameOk : Bool
  /-- the memory controller that holds it -/
  ctrl : Nat := 0
deriving DecidableEq, Repr

/-- Corrections and retirement of one bank of one structure (R208). -/
structure BankRec where
  unit : Nat
  bank : Nat
  count : Nat
  retired : Bool
  /-- its retirement has been posted as an event -/
  posted : Bool := true
deriving DecidableEq, Repr

/-! ### Tables as installed (12) -/

structure AsidEntry where
  asid : Nat
  valid : Bool
  clean : Bool
  group : Bool
  tenant : Nat
  root : Nat
deriving DecidableEq, Repr

structure ShareEntry where
  ix : Nat
  gasid : Nat
  npages : Nat
  wbase : Nat
  members : BitVec 64
deriving DecidableEq, Repr

structure FrameEntry where
  frame : Nat
  state : Nat
  scrub : Bool
  inv : Bool
  owner : Nat
  sg : Bool
  gasid : Nat
deriving DecidableEq, Repr

structure QuoinEntry where
  qid : Nat
  en : Bool
  fenced : Bool
  owner : Nat
  owned : Bool
  resv : Bool
  lessee : Nat
  gseg : Nat
  /-- leaving its old owner (R438) -/
  vacating : Option Nat
deriving DecidableEq, Repr

/-- A partition entry (R382, R407). -/
structure Partition where
  tenant : Nat
  valid : Bool
  kasid : Nat
  lrq : Nat
  wmg0 : Word
  wmh0 : Word
  wmg1 : Word
  wmh1 : Word
  spill : Nat
  frames : Nat
  framePages : Nat
  gbud : Nat
  hbud : Nat
  gbor : Nat
  hbor : Nat
  lendG : Bool
  lendH : Bool
  ghbm : Nat
  hhbm : Nat
  ghdep : Nat
  hhdep : Nat
  gfab : Nat
  hfab : Nat
  pcnt : Nat
deriving DecidableEq, Repr

/-- What the dispatcher meters of one tenant and class (R408, R409), in tokens. -/
structure Budget where
  tenant : Nat
  harvest : Bool
  bal : Int
  borrowed : Nat
  /-- amounts owed, by lender; lender 64 stands for nobody -/
  owed : List (Nat × Nat)
deriving DecidableEq, Repr

/-- A memory controller's bucket (R410). -/
structure Bucket where
  ctrl : Nat
  tenant : Nat
  harvest : Bool
  bytes : Nat
deriving DecidableEq, Repr

/-- A VF's send allowance on a port (R411). -/
structure Allowance where
  vf : Nat
  port : Nat
  harvest : Bool
  bytes : Nat
deriving DecidableEq, Repr

/-- A lease entry (R373), its ranges as (BASE, NPARTS). -/
structure Lease where
  tenant : Nat
  ix : Nat
  state : Nat
  asid : Nat
  gen : Nat
  spans : Nat
  ranges : List (Nat × Nat)
deriving DecidableEq, Repr

/-- The kinds of record ring (R357). -/
inductive RingKind where
  | fault (tenant : Nat) | event (tenant : Nat) | dieEvent (die : Nat) | dirty (vf : Nat)
deriving DecidableEq, Repr

/-- A record ring (R356). `va` marks a ring whose BASE is a virtual address of ring 2 (assumption 21). -/
structure Ring where
  kind : RingKind
  /-- the physical address of its descriptor (R387) -/
  loc : Nat
  en : Bool
  ovf : Bool
  lost : Word
  logDepth : Nat
  base : Nat
  head : Word
  tail : Word
  round : Nat
  /-- parts logged in this round (the filter of R362) -/
  filter : List (Nat × Nat)
  /-- the log found no room: every part of the VF's leases counts as logged in this round (R363) -/
  allDirty : Bool := false
deriving DecidableEq, Repr

/-- A VF entry of the domain map (R451) with its running state (R459, R448). -/
structure Vf where
  vf : Nat
  state : Nat
  tenant : Nat
  asid : Nat
  winPages : Nat
  winBase : Nat
  cpage : Nat
  ide : Nat
  ideReq : Bool
  /-- 0 CONFIG_UNLOCKED, 1 CONFIG_LOCKED, 2 RUN, 3 ERROR (R448) -/
  tdi : Nat
  /-- draining, with event code 13 posted (R459) -/
  drained : Bool
deriving DecidableEq, Repr

/-- A Brynmer Link port (R451, R455). -/
structure Port where
  port : Nat
  peer : Nat
  en : Bool
  up : Bool
  seq : Nat
  replays : Nat
deriving DecidableEq, Repr

/-- An exchange tag slot (R347). -/
structure TagSlot where
  vf : Nat
  tag : Nat
  /-- the course and operation of the local command, once issued -/
  owner : Option (Nat × Nat)
  check : Nat
  /-- bytes that have arrived -/
  arrived : Nat
  /-- of packets that arrived before the local command: the check, and the line and bytes written -/
  early : List (Nat × Nat × Nat)
  /-- packets sent and not yet acknowledged, in all and by device -/
  unacked : Nat
  unackedBy : List (Nat × Nat) := []
  status : Nat
  closed : Bool
  /-- contributions held for folding: (member, byte offset in the array, byte) (R351) -/
  parts : List (Nat × Nat × Nat)
deriving DecidableEq, Repr

/-- A gang span's record on this member and, on device 0, as coordinator (R55, R56, R460). -/
structure Gang where
  key : Nat
  arrived : Bool
  ready : BitVec 16
  /-- 0 none, 1 release, 2 abort -/
  decision : Nat
  freed : Bool
  /-- ready messages that belong to the next gang of the key (R56) -/
  next : BitVec 16 := 0
deriving DecidableEq, Repr

/-- A host access waiting (R444). -/
structure HostWait where
  acc : HostAccess
  read : Bool
  len : Nat
  data : List Byte
  /-- it waits for a pin, or a write behind an earlier one of its VF (R228, R308), not for a part -/
  held : Bool := false
deriving DecidableEq, Repr

/-- What the host receives (R444, R445, R446, R448, R471). -/
inductive HostMsg where
  | readData (tag : Nat) (data : List Byte) (ep : Bool)
  | unsupported (tag : Nat)
  | abort (tag : Nat)
  | msix (vf vector : Nat)
  | spdm (e : Endpoint) (code : Nat) (body : List Nat)
  | spdmError (e : Endpoint) (session : Bool)
  | report (vf : Nat) (body : List Nat)
  | sensors (values : List Nat)
  | bootRecord (bytes : List Byte)
  | mctpRefused
  | thermal
  | watchdog (die : Nat)
  /-- the monitor's report of a double fault at ring 3: the address in DF3 (R426) -/
  | doubleFault (die : Nat) (addr : Double)
deriving DecidableEq, Repr

/-- A park-table entry: the part, and its parkers (course, operation) in park order (R358). -/
structure ParkEntry where
  asid : Nat
  part : Nat
  parkers : List (Nat × Nat)
deriving DecidableEq, Repr

/-- Who waits for the reply to a request sent to a peer (R453): a lane of an operation, a span's completion, or a host access. -/
inductive ReqWho where
  | op (course seq lane : Nat)
  | span (id : Nat)
  /-- a prefetch into the L1 of a core: its quoin, ASID, tenant and class (R260) -/
  | pref (core quoin asid tenant : Nat) (harvest : Bool)
  | host (tag : Nat)
deriving DecidableEq, Repr

/-- A request to a peer whose reply is outstanding. -/
structure PeerReq where
  tag : Nat
  dev : Nat
  opc : Nat
  who : ReqWho
deriving DecidableEq, Repr

/-- One pre-emption request in progress on a die (R431, R432). -/
structure PrqRun where
  die : Nat
  kind : Nat
  req : Prq
  courses : List Nat
  overdue : Bool
deriving DecidableEq, Repr

/-- A listed ring-2 or ring-3 trap (R428). -/
structure TrapRec where
  course : Nat
  frame : Nat
  cause : Nat
  /-- 32 × QID + the slot of the trapped course, as the trap was taken -/
  who : Nat := 0
deriving DecidableEq, Repr

/-- A table commit running or held (R389). -/
structure CommitRun where
  die : Nat
  course : Nat
  tables : Byte
  number : BitVec 16
deriving DecidableEq, Repr

/-- The control core, counter page and trap lists of one die (R173, R414, R428, R431, R486, R488). -/
structure Die where
  die : Nat
  tvec2 : Double
  tvec3 : Double
  done : BitVec 16
  lastNo : BitVec 16
  hbeat : Word
  wdctl : Word
  wdlim : Word
  wdcnt : Word
  wdexp : Word
  prqDone : Word
  prqOverdue : Bool
  prq : List Byte
  df3 : Double
  func : Word
  arg0 : Word
  arg1 : Double
  result : Word
  /-- bytes 0x800 to 0xBFF of the counter page (R468, R488) -/
  hand : Cells 8
  shadow : Option (Cells 8)
  /-- the verifying key at 0xE00 (R487) -/
  key : Nat
  list2 : List TrapRec
  list3 : List TrapRec
  serve2 : Option TrapRec
  serve3 : Option TrapRec
  /-- no harvest course issues (R469) -/
  hot : Bool
  /-- unusable until reset (R436) -/
  dead : Bool
  slot : Nat
deriving DecidableEq, Repr

/-- One entry of the boot record's STEP table (R465 Table 2). -/
structure BootStep where
  running : Bool
  failed : Bool
  mode : Nat
  attempts : Nat
  result : Word
deriving DecidableEq, Repr

/-- The boot record (R465) and the firmware slots (R467): digest-checked images are lists of bytes. -/
structure Boot where
  active : Byte
  pending : Byte
  troot : Nat
  cpage0 : Nat
  cpage1 : Nat
  steps : List BootStep
  slot0 : List Byte
  slot1 : List Byte
  /-- the monitor's verifying key, Qx then Qy as they lie in memory (R487) -/
  key : Nat
deriving DecidableEq, Repr

/-- Whether the device runs (R464, R466, R469, R426). -/
inductive Run where
  /-- PERST# asserted or main power low -/
  | held
  /-- halted in recovery at a step (R466) -/
  | recovery (step : Nat)
  | running
  /-- above 105 °C (R469) -/
  | thermal
  /-- stopped by a double fault at ring 3 (R426) -/
  | stopped
deriving DecidableEq, Repr

/-- An SPDM session (R446). -/
structure Session where
  id : Nat
  finished : Bool
deriving DecidableEq, Repr

/-- An IDE stream (R447): its ranges, and whether it is Insecure. -/
structure IdeStream where
  stream : Nat
  ranges : List (Nat × Nat)
  insecure : Bool
deriving DecidableEq, Repr

/-- A tenant's performance counters (R416), by offset. -/
structure Perf where
  tenant : Nat
  counts : Cells 64
deriving DecidableEq, Repr

/-- What the instruction under execution issued with: the lanes, their common PC, and the instruction's length. -/
structure Issue where
  mask : LaneSet
  /-- the whole issuing subset, when the mask is only its lanes of some passes (R321) -/
  whole : LaneSet
  pc : Nat
  len : Nat
  /-- the lanes that stand in a clause body, and those whose body the instruction ends (R113) -/
  bodies : LaneSet
  lasts : LaneSet
  /-- a body that the instruction ends asks for a yield (R111) -/
  yields : Bool
  /-- the states drawn at issue by a `cvt` whose remaining passes issue (R82) -/
  drawn : Option (Cells 32)
  /-- no issue slot is taken: a clause header (R111), or an instruction that waits on flags or is held as a scoreboard stall is held (R395) -/
  kept : Bool
  /-- it is held as a scoreboard stall is held (R114) -/
  stalled : Bool
deriving DecidableEq, Repr

/-- The state of the device. -/
structure State where
  /-- the course in the issue unit -/
  cur : Course
  courses : List Course
  iss : Issue
  bonds : List Bond
  piers : List Pier
  spans : List Span
  queues : List Queue
  nextId : Nat
  -- memory
  mem : List Host.Cell
  hpoison : Cells 1
  /-- by sector of HBM, what its metadata holds against what its data gives: 32 Reed-Solomon check bits, then the 16-bit CRC (R210) -/
  hmeta : Cells 48 := []
  l1 : List Line
  l2 : List Line
  tlb : List TlbEntry
  banks : List BankRec
  /-- what the controllers' page-walk caches hold, the most recent last: controller, ASID, address bits with the level, and the entry (R369) -/
  walkCache : List (Nat × Nat × Nat × Nat) := []
  -- tables
  asids : List AsidEntry
  shares : List ShareEntry
  frames : List FrameEntry
  quoins : List QuoinEntry
  parts : List Partition
  leases : List Lease
  rings : List Ring
  parks : List ParkEntry
  /-- the parkers of every entry, earliest first (R359) -/
  parkOrder : List (Nat × Nat)
  tvec1 : Cells 64
  /-- the physical lanes of each quoin that boot lane repair has marked bad, beyond the fuses (R13, R466) -/
  lbad : Cells 18
  commit : Option CommitRun
  sweeps : List Nat
  -- dispatch and counters
  budgets : List Budget
  lastServed : Cells 7
  /-- the gang spans that are being placed: each keeps the new piers of its partition out (R54) -/
  gangOnly : List Nat
  buckets : List Bucket
  allowances : List Allowance
  perf : List Perf
  window : Nat
  announced : List (Nat × Nat)
  prqs : List PrqRun
  -- links
  domId : Nat
  devId : Nat
  nDev : Nat
  gangTo : Nat
  kasid : Nat
  ken : Bool
  ports : List Port
  vfs : List Vf
  sent : Cells 32
  donePosted : Cells 32
  /-- path sequence numbers sent and accepted, by 16 · device + path slot (R456) -/
  psn : Cells 14
  rxPsn : Cells 14
  tags : List TagSlot
  gangs : List Gang
  tx : List Packet
  reqs : List PeerReq
  nextTag : Nat
  /-- writes at home waiting for INVA (R457): asid, line, devices -/
  invWait : List (Nat × Nat × BitVec 16)
  /-- replies and counts that wait until copies at peers are invalidated (R457): asid, line, and the request performed -/
  acks : List (Nat × Nat × Packet) := []
  /-- requests of peers that a pin has refused (R228) -/
  refusedRx : List Packet := []
  /-- posted writes that found no path, oldest first (R456) -/
  unsent : List Packet
  /-- flushing reads of peers that wait for their counts (R458) -/
  flushes : List Packet
  hostWaits : List HostWait
  toHost : List HostMsg
  msixMask : Cells 16
  msixPend : Cells 16
  sessions : List Session
  streams : List IdeStream
  measure : Cells 384
  -- dies, boot
  die0 : Die
  die1 : Die
  boot : Boot
  run : Run
  -- the model's own
  /-- the count of selections and of moments at which courses became Ready, which orders the STAMPs of R320 -/
  turns : Nat
  inputs : List Instr
  fresh : Nat
deriving DecidableEq, Repr

/-! ### Reset -/

namespace Reset

/-- The region shadow of no region. -/
def shadow : Shadow := { srseed := [], enr := [], depth := [], rstack := [] }

/-- The slot of a course that does not exist (assumption 3). -/
def course : Course :=
  { id := 0, life := .none, wait := none, waitBelow := none, stopRing := none, pend := [], live := 0, pc := [], last := [], issueNo := 0, v := [], o := [],
    l := [], s := [], p := [], enr := [], waitm := [], waitLen := [], depth := [], rstack := [], chead := [], cdist := [], flags := [], vguard := [],
    pguard := [], sguard := [], fpm := 0, srseed := [], lfmode := 0, rgnPc := 0, rgnOpen := false, restarts := 0, restarted := false,
    shadow := shadow, markTiles := 0, markActive := false, markShadow := false, ring := 0, frameBase := 0, frameBusy := false,
    mine := 0, peers := 0, faults := [], caught := 0, caughtBelow := 0, cid := 0, bid := 0, pierIx := 0, spanId := 0, qid := 0, slot := 0, bond := 0, pier := 0,
    span := 0, tenant := 0, asid := 0, regs := 256, harvest := false, prio := 0, frameSlot := 0, segs := [], ops := [], nextOp := 0,
    landing := [], asideAt := none, aside := none, stamp := 0, away := true, yielding := false, stepping := false, stepped := false, debugReq := false,
    haltReq := false, forced := false, evicting := false, held := false, heldLanes := 0 }

/-- Every MSI-X vector is masked (assumption 26): 16 of each VF at its number, and the 64 of the PF at 64 to 67. -/
def masks : Cells 16 := (List.range 67).map (fun v => (v + 1, 0xFFFF))

/-- No instruction under execution. -/
def issue : Issue := { mask := 0, whole := 0, pc := 0, len := 0, bodies := 0, lasts := 0, yields := false, drawn := none, kept := false, stalled := false }

/-- A die after reset (R173, R414, R431, R486); its key and firmware slot before the boot are assumption 8. -/
def die (n : Nat) : Die :=
  { die := n, tvec2 := 0, tvec3 := 0, done := 0, lastNo := 0, hbeat := 0, wdctl := 0, wdlim := 2000, wdcnt := 0, wdexp := 0,
    prqDone := 0, prqOverdue := false, prq := [], df3 := 0, func := 0, arg0 := 0, arg1 := 0, result := 0, hand := [], shadow := none,
    key := 0, list2 := [], list3 := [], serve2 := none, serve3 := none, hot := false, dead := false, slot := 0 }

/-- A boot step that has never run (assumption 8). -/
def bootStep : BootStep := { running := false, failed := false, mode := 0, attempts := 0, result := 0 }

/-- The boot record and the slots before the first boot (assumption 8). -/
def boot : Boot :=
  { active := 0, pending := 0xFF, troot := 0, cpage0 := 0, cpage1 := 0, steps := List.replicate 32 bootStep, slot0 := [],
    slot1 := [], key := 0 }

end Reset

/-- The device right after reset: held until PERST# is released (R464), every cache empty, no course, no table published. -/
def State.reset : State :=
  { cur := Reset.course, courses := [], iss := Reset.issue, bonds := [], piers := [], spans := [], queues := [], nextId := 1,
    mem := [], hpoison := [], l1 := [], l2 := [], tlb := [], banks := [],
    asids := [], shares := [], frames := [], quoins := [], parts := [], leases := [], rings := [], parks := [], parkOrder := [], tvec1 := [], lbad := [], commit := none,
    sweeps := [], budgets := [], lastServed := [], gangOnly := [], buckets := [], allowances := [], perf := [], window := 0,
    announced := [], prqs := [], domId := 0, devId := 0, nDev := 1, gangTo := 20, kasid := 0, ken := false,
    ports := [], vfs := [], sent := [], donePosted := [], psn := [], rxPsn := [], tags := [], gangs := [], tx := [], reqs := [], nextTag := 0, invWait := [], unsent := [], flushes := [], hostWaits := [],
    toHost := [], msixMask := Reset.masks, msixPend := [], sessions := [], streams := [], measure := [], die0 := Reset.die 0,
    die1 := Reset.die 1, boot := Reset.boot, run := .held, turns := 0, inputs := [], fresh := 0 }

end Sys2Proof.Machine
end

