-- ==== Sys2Proof/Machine/Store.lean ====
section
/-! DEFINITION. Sparse storage (`Cells`) and the small list operations that every later file uses: reading and writing one key in
canonical form, replacing the first record that matches, sets held as lists without repeats. -/

namespace Sys2Proof.Machine

/-- The value at a key; an unlisted key holds zero. -/
def Cells.get {w : Nat} (cs : Cells w) (k : Nat) : BitVec w :=
  match cs with
  | [] => 0
  | (a, x) :: rest => if a = k then x else if k < a then 0 else Cells.get rest k

/-- Write a key, keeping the keys rising and listing no zero. -/
def Cells.set {w : Nat} (cs : Cells w) (k : Nat) (v : BitVec w) : Cells w :=
  match cs with
  | [] => if v = 0 then [] else [(k, v)]
  | (a, x) :: rest =>
    if k < a then (if v = 0 then (a, x) :: rest else (k, v) :: (a, x) :: rest)
    else if k = a then (if v = 0 then rest else (k, v) :: rest)
    else (a, x) :: Cells.set rest k v

/-- Every listed key lies above `lo`, keys rise strictly, and no listed value is zero. -/
def Cells.wfAbove {w : Nat} (lo : Option Nat) (cs : Cells w) : Bool :=
  match cs with
  | [] => true
  | (a, x) :: rest => (match lo with | none => true | some b => decide (b < a)) && decide (x ≠ 0) && Cells.wfAbove (some a) rest

/-- The canonical form. -/
def Cells.wf {w : Nat} (cs : Cells w) : Bool := Cells.wfAbove none cs

/-- Write several keys, first to last. -/
def Cells.setAll {w : Nat} (cs : Cells w) (kvs : List (Nat × BitVec w)) : Cells w :=
  kvs.foldl (fun acc kv => Cells.set acc kv.1 kv.2) cs

/-- Drop the keys from `lo` up to but not including `hi`. -/
def Cells.drop {w : Nat} (cs : Cells w) (lo hi : Nat) : Cells w := cs.filter (fun kv => kv.1 < lo || hi ≤ kv.1)

/-! ### Lists of records -/

/-- Replace every record that satisfies `p`. -/
def updWhere {α : Type} (p : α → Bool) (f : α → α) (xs : List α) : List α := xs.map (fun x => if p x then f x else x)

/-- Replace every record that satisfies `p`, or add `x` at the end when none does. -/
def putWhere {α : Type} (p : α → Bool) (x : α) (xs : List α) : List α :=
  if xs.any p then xs.map (fun y => if p y then x else y) else xs ++ [x]

/-- The lowest number of a list, if it has one. -/
def listMin (xs : List Nat) : Option Nat :=
  match xs with
  | [] => none
  | x :: rest => some (rest.foldl Nat.min x)

/-- Look a key up in an association list. -/
def assoc (xs : List (Nat × Nat)) (k : Nat) : Option Nat := (xs.find? (fun p => p.1 == k)).map (fun p => p.2)

/-- Whether a number belongs to a list. -/
def memNat (k : Nat) (xs : List Nat) : Bool := xs.any (fun x => x == k)

/-! ### Bytes and numbers (R2: little-endian) -/

/-- The number held in a list of bytes, lowest address first. -/
def numOf (bs : List Byte) : Nat :=
  match bs with
  | [] => 0
  | b :: rest => b.toNat + 256 * numOf rest

/-- The lowest `n` bytes of a number, lowest address first. -/
def bytesOf (n v : Nat) : List Byte :=
  match n with
  | 0 => []
  | k + 1 => BitVec.ofNat 8 v :: bytesOf k (v / 256)

/-- Bits [lo+len-1:lo] of a number. -/
def bits (v lo len : Nat) : Nat := v / 2 ^ lo % 2 ^ len

/-- Bit `k` of a number. -/
def bitAt (v k : Nat) : Bool := v.testBit k

/-- A number read as two's complement of `w` bits. -/
def toInt (w v : Nat) : Int :=
  let u := v % 2 ^ w
  if 2 * u < 2 ^ w then (u : Int) else (u : Int) - (2 ^ w : Nat)

/-- An integer modulo 2^w as a number. -/
def ofInt (w : Nat) (x : Int) : Nat := (x % ((2 ^ w : Nat) : Int)).toNat

/-- The number of set bits among the lowest `n`. -/
def popCount (n v : Nat) : Nat := ((List.range n).filter (fun i => v.testBit i)).length

end Sys2Proof.Machine
end

