-- ==== Sys2Proof/Machine/Fp.lean ====
section
/-! DEFINITION. Number formats and exact arithmetic (03): values are taken apart into sign, integer significand and exponent, computed
exactly, and rounded once (R61 to R75). A value that is not exactly a multiple of a power of two (a quotient, a root) is given as a
significand whose lowest bit is set for the discarded rest, with at least three bits more than any destination keeps. -/

namespace Sys2Proof.Machine

/-- Which special values a floating format has (R62, R64). -/
inductive FpKind where
  /-- infinities and NaNs -/
  | ieee
  /-- FP8-E4M3: a NaN, no infinity -/
  | nanOnly
  /-- neither -/
  | finite
deriving DecidableEq, Repr

/-- A floating format (R62 Table 2, R64 Table 3). -/
structure FpFmt where
  ebits : Nat
  mbits : Nat
  bias : Nat
  kind : FpKind
  /-- code of the largest finite magnitude -/
  maxFin : Nat
  /-- canonical NaN; for a format without one, 0 (R73) -/
  nan : Nat
deriving DecidableEq, Repr

/-- The format of a code of R61 Table 1; none for an integer or logic format. -/
def fpFmt (code : Nat) : Option FpFmt :=
  match code with
  | 0 => some { ebits := 8, mbits := 23, bias := 127, kind := .ieee, maxFin := 0x7F7FFFFF, nan := 0x7FC00000 }
  | 1 => some { ebits := 8, mbits := 7, bias := 127, kind := .ieee, maxFin := 0x7F7F, nan := 0x7FC0 }
  | 2 => some { ebits := 5, mbits := 10, bias := 15, kind := .ieee, maxFin := 0x7BFF, nan := 0x7E00 }
  | 3 => some { ebits := 4, mbits := 3, bias := 7, kind := .nanOnly, maxFin := 0x7E, nan := 0x7F }
  | 4 => some { ebits := 5, mbits := 2, bias := 15, kind := .ieee, maxFin := 0x7B, nan := 0x7E }
  | 5 => some { ebits := 3, mbits := 2, bias := 3, kind := .finite, maxFin := 0x1F, nan := 0 }
  | 6 => some { ebits := 2, mbits := 3, bias := 1, kind := .finite, maxFin := 0x1F, nan := 0 }
  | 7 => some { ebits := 2, mbits := 1, bias := 1, kind := .finite, maxFin := 0x7, nan := 0 }
  | 14 => some { ebits := 11, mbits := 52, bias := 1023, kind := .ieee, maxFin := 0x7FEFFFFFFFFFFFFF, nan := 0x7FF8000000000000 }
  | _ => none

/-- FP32, the format of the accumulators. -/
def fp32 : FpFmt := { ebits := 8, mbits := 23, bias := 127, kind := .ieee, maxFin := 0x7F7FFFFF, nan := 0x7FC00000 }

/-- Bits of a format code (R61 Table 1). -/
def fmtWidth (code : Nat) : Nat :=
  match code with
  | 0 => 32 | 1 => 16 | 2 => 16 | 3 => 8 | 4 => 8 | 5 => 6 | 6 => 6 | 7 => 4 | 8 => 8 | 9 => 8 | 10 => 4 | 11 => 4 | 12 => 2 | 13 => 1
  | 14 => 64 | _ => 32

/-- The subnormals of FP32, FP16 and BF16 are subject to DAZ and FTZ (R70). -/
def flushable (code : Nat) : Bool := code ≤ 2

/-- A floating value: a NaN (signalling or not), an infinity, or ± m · 2^e. -/
inductive FVal where
  | nan (signalling : Bool)
  | inf (neg : Bool)
  | fin (neg : Bool) (m : Nat) (e : Int)
deriving DecidableEq, Repr

/-- The exponent of the last place of the subnormals of a format. -/
def FpFmt.qmin (f : FpFmt) : Int := 1 - (f.bias : Int) - (f.mbits : Int)

/-- The sign bit's weight. -/
def FpFmt.signBit (f : FpFmt) : Nat := 2 ^ (f.ebits + f.mbits)

/-- The code of infinity. -/
def FpFmt.infCode (f : FpFmt) : Nat := (2 ^ f.ebits - 1) * 2 ^ f.mbits

/-- Take a code apart (R62, R64). A NaN whose top fraction bit is clear is signalling; FP8-E4M3 has quiet NaNs only (assumption 13). -/
def unpackF (f : FpFmt) (code : Nat) : FVal :=
  let fr := bits code 0 f.mbits
  let ex := bits code f.mbits f.ebits
  let neg := bitAt code (f.ebits + f.mbits)
  let top : Nat := 2 ^ f.ebits - 1
  if f.kind = .ieee && ex = top then (if fr = 0 then .inf neg else .nan (!bitAt fr (f.mbits - 1)))
  else if f.kind = .nanOnly && ex = top && fr = 2 ^ f.mbits - 1 then .nan false
  else if ex = 0 then .fin neg fr f.qmin
  else .fin neg (2 ^ f.mbits + fr) (f.qmin + (ex : Int) - 1)

/-- Flag bits of sr.FPM.XF and TE: NV, DZ, OF, UF, NX (R68 Table 5). -/
def fNV : Nat := 1
/-- DZ -/
def fDZ : Nat := 2
/-- OF -/
def fOF : Nat := 4
/-- UF -/
def fUF : Nat := 8
/-- NX -/
def fNX : Nat := 16

/-- The bits of a result and the exceptions it raises. -/
structure FRes where
  bits : Nat
  flags : Nat
deriving DecidableEq, Repr

/-- The mode an instruction rounds under: RM or its own code, DAZ, FTZ, saturation (R68, R69, R80). -/
structure FMode where
  rm : Nat
  daz : Bool
  ftz : Bool
  sat : Bool
deriving DecidableEq, Repr

/-- Round m / 2^sh to an integer under a mode (R69 Table 6) for a value of sign `neg`; says whether anything was discarded. -/
def roundShift (rm : Nat) (neg : Bool) (m sh : Nat) : Nat × Bool :=
  let q := m / 2 ^ sh
  let r := m % 2 ^ sh
  let half : Nat := 2 ^ sh / 2
  let up : Bool :=
    if r = 0 then false
    else match rm with
      | 0 => decide (half < r) || (r == half && q % 2 == 1)
      | 1 => false
      | 2 => neg
      | 3 => !neg
      | _ => decide (half ≤ r)
  (if up then q + 1 else q, r ≠ 0)

/-- Round m · 2^e to a multiple of 2^q: the multiple and whether it is inexact. -/
def roundAt (rm : Nat) (neg : Bool) (m : Nat) (e q : Int) : Nat × Bool :=
  if q ≤ e then (m * 2 ^ (e - q).toNat, false) else roundShift rm neg m (q - e).toNat

/-- The exponent of the last place kept of m · 2^e (m > 0) with precision p and unbounded range. -/
def lastPlace (p m : Nat) (e : Int) : Int := e + ((m.log2 : Int) + 1) - (p : Int)

/-- The result of an overflow (R73 Table 7; R145): `sat` selects the largest finite value. -/
def overflowF (f : FpFmt) (rm : Nat) (sat neg : Bool) : Nat :=
  let s := if neg then f.signBit else 0
  if sat then s + f.maxFin
  else match f.kind with
    | .ieee =>
      let towardZero : Bool := rm = 1 || (rm = 2 && !neg) || (rm = 3 && neg)
      if towardZero then s + f.maxFin else s + f.infCode
    | .nanOnly => f.nan
    | .finite => s + f.maxFin

/-- Round ± m · 2^e once into a format (R69 to R71, R73): bits and flags. FTZ acts where `flush` says so. -/
def roundF (f : FpFmt) (flush : Bool) (md : FMode) (neg : Bool) (m : Nat) (e : Int) : FRes :=
  let s := if neg then f.signBit else 0
  if m = 0 then { bits := s, flags := 0 }
  else
    let qu := lastPlace (f.mbits + 1) m e
    let q := if qu < f.qmin then f.qmin else qu
    let u := roundAt md.rm neg m e qu
    let tiny : Bool := decide ((u.1.log2 : Int) + qu < f.qmin + (f.mbits : Int))
    if tiny && flush && md.ftz then { bits := s, flags := fUF + fNX }
    else
      let r := roundAt md.rm neg m e q
      let mag := (q - f.qmin).toNat * 2 ^ f.mbits + r.1
      if f.maxFin < mag then { bits := overflowF f md.rm md.sat neg, flags := fOF + fNX }
      else { bits := s + mag, flags := (if tiny && r.2 then fUF else 0) + (if r.2 then fNX else 0) }

/-! ### Exact sums and products -/

/-- A finite value as an integer multiple of 2^e. -/
def signedM (neg : Bool) (m : Nat) : Int := if neg then -(m : Int) else (m : Int)

/-- The least exponent of a list of finite terms (sign, m, e). -/
def minExp (ts : List (Bool × Nat × Int)) : Int :=
  match ts with
  | [] => 0
  | t :: rest => rest.foldl (fun acc u => if u.2.2 < acc then u.2.2 else acc) t.2.2

/-- The exact sum of finite terms: sign, magnitude, exponent. An exact zero keeps the sign that all terms share and is otherwise
positive, or negative under RDN (R63). -/
def sumExact (rm : Nat) (ts : List (Bool × Nat × Int)) : Bool × Nat × Int :=
  let e := minExp ts
  let total : Int := ts.foldl (fun acc t => acc + signedM t.1 (t.2.1 * 2 ^ (t.2.2 - e).toNat)) 0
  if total = 0 then
    let neg : Bool := if ts.all (fun t => t.1) then !ts.isEmpty else if ts.all (fun t => !t.1) then false else rm == 2
    (neg, 0, e)
  else (decide (total < 0), total.natAbs, e)

/-- Product of two values as one term of a sum; none for 0 × ∞ and NaN operands; infinities are kept apart. -/
def mulV (a b : FVal) : FVal :=
  match a, b with
  | .nan x, .nan y => .nan (x || y)
  | .nan x, .inf _ => .nan x
  | .nan x, .fin _ _ _ => .nan x
  | .inf _, .nan y => .nan y
  | .fin _ _ _, .nan y => .nan y
  | .inf x, .inf y => .inf (xor x y)
  | .inf x, .fin y m _ => if m = 0 then .nan false else .inf (xor x y)
  | .fin x m _, .inf y => if m = 0 then .nan false else .inf (xor x y)
  | .fin x m e, .fin y n g => .fin (xor x y) (m * n) (e + g)

/-- Whether a value is a NaN. -/
def FVal.isNan : FVal → Bool
  | .nan _ => true
  | .inf _ => false
  | .fin _ _ _ => false
/-- Whether a value is a signalling NaN. -/
def FVal.isSig : FVal → Bool
  | .nan x => x
  | .inf _ => false
  | .fin _ _ _ => false
/-- The sign of a value. -/
def FVal.neg : FVal → Bool
  | .nan _ => false
  | .inf n => n
  | .fin n _ _ => n
/-- Whether a value is an infinity. -/
def FVal.isInf : FVal → Bool
  | .nan _ => false
  | .inf _ => true
  | .fin _ _ _ => false
/-- Whether a value is a zero. -/
def FVal.isZero : FVal → Bool
  | .nan _ => false
  | .inf _ => false
  | .fin _ m _ => m == 0
/-- The value with its sign turned. -/
def FVal.flip : FVal → FVal
  | .nan x => .nan x
  | .inf n => .inf (!n)
  | .fin n m e => .fin (!n) m e
/-- Significand and exponent of a finite value as a term. -/
def FVal.term : FVal → Bool × Nat × Int
  | .nan _ => (false, 0, 0)
  | .inf n => (n, 0, 0)
  | .fin n m e => (n, m, e)

/-- 0 × ∞ (R147). -/
def badProduct (a b : FVal) : Bool := (a.isInf && b.isZero) || (a.isZero && b.isInf)

/-- The sum of values: NaN, or an infinity, or an exact finite sum (R63, R85). `none` for a NaN made here or carried. -/
def sumV (rm : Nat) (vs : List FVal) : FVal :=
  if vs.any FVal.isNan then .nan false
  else if vs.any (fun v => v.isInf && v.neg) then (if vs.any (fun v => v.isInf && !v.neg) then .nan false else .inf true)
  else if vs.any (fun v => v.isInf) then .inf false
  else
    let r := sumExact rm (vs.map FVal.term)
    .fin r.1 r.2.1 r.2.2

/-! ### Inputs and results -/

/-- Read an operand: DAZ turns a subnormal of FP32, FP16 or BF16 into a zero of its sign (R70). -/
def readF (code : Nat) (f : FpFmt) (daz : Bool) (x : Nat) : FVal :=
  match unpackF f x with
  | .fin n m e => if daz && flushable code && m < 2 ^ f.mbits then .fin n 0 e else .fin n m e
  | .inf n => .inf n
  | .nan s => .nan s

/-- A NaN result (R63): canonical, with NV when `nv`. -/
def nanRes (f : FpFmt) (nv : Bool) : FRes := { bits := f.nan, flags := if nv then fNV else 0 }

/-- An infinite result without exceptions. -/
def infRes (f : FpFmt) (neg : Bool) : FRes := { bits := (if neg then f.signBit else 0) + f.infCode, flags := 0 }

/-- Deliver an arithmetic result in a vector format: `nv` when an operand is a signalling NaN. -/
def deliver (code : Nat) (f : FpFmt) (md : FMode) (sig : Bool) (v : FVal) : FRes :=
  match v with
  | .nan _ => nanRes f sig
  | .inf n => infRes f n
  | .fin n m e => roundF f (flushable code) md n m e

/-- The code of an exact result that no rounding made (`fmin`, `fmax`, `ffrac`, `cvt` with FT = X): FTZ flushes a subnormal (R70). -/
def exactRes (code : Nat) (f : FpFmt) (md : FMode) (x : Nat) : FRes :=
  let sgn := if bitAt x (f.ebits + f.mbits) then f.signBit else 0
  if md.ftz && flushable code && bits x f.mbits f.ebits = 0 && bits x 0 f.mbits ≠ 0 then { bits := sgn, flags := fUF + fNX }
  else { bits := bits x 0 (f.ebits + f.mbits + 1), flags := 0 }

/-- The mode of an arithmetic instruction: only `.sat` saturates (R145). -/
def arithMode (md : FMode) (sel : Nat) : FMode := { md with sat := sel == 1 }

/-! ### Arithmetic (R146, R147) -/

/-- a + b. -/
def fAdd (code : Nat) (f : FpFmt) (md : FMode) (a b : FVal) : FRes :=
  let sig := a.isSig || b.isSig
  if a.isNan || b.isNan then nanRes f sig
  else if a.isInf && b.isInf && xor a.neg b.neg then nanRes f true
  else deliver code f md false (sumV md.rm [a, b])

/-- a × b. -/
def fMul (code : Nat) (f : FpFmt) (md : FMode) (a b : FVal) : FRes :=
  let sig := a.isSig || b.isSig
  if a.isNan || b.isNan then nanRes f sig
  else if badProduct a b then nanRes f true
  else deliver code f md false (mulV a b)

/-- a × b + c, rounded once; 0 × ∞ raises NV even when c is a quiet NaN (R147). -/
def fFma (code : Nat) (f : FpFmt) (md : FMode) (a b c : FVal) : FRes :=
  let sig := a.isSig || b.isSig || c.isSig
  if badProduct a b then nanRes f true
  else if a.isNan || b.isNan || c.isNan then nanRes f sig
  else
    let p := mulV a b
    if p.isInf && c.isInf && xor p.neg c.neg then nanRes f true
    else deliver code f md false (sumV md.rm [p, c])

/-- Sum of two products and c, rounded once (R151). -/
def fDot2 (md : FMode) (a0 b0 a1 b1 c : FVal) : FRes :=
  let sig := a0.isSig || b0.isSig || a1.isSig || b1.isSig || c.isSig
  if badProduct a0 b0 || badProduct a1 b1 then nanRes fp32 true
  else if a0.isNan || b0.isNan || a1.isNan || b1.isNan || c.isNan then nanRes fp32 sig
  else
    let ts := [mulV a0 b0, mulV a1 b1, c]
    if ts.any (fun v => v.isInf && v.neg) && ts.any (fun v => v.isInf && !v.neg) then nanRes fp32 true
    else deliver 0 fp32 md false (sumV md.rm ts)

/-- A key that orders the finite and infinite codes of a format, −0 below +0 (R147). -/
def orderKey (f : FpFmt) (x : Nat) : Int :=
  let mag := bits x 0 (f.ebits + f.mbits)
  if bitAt x (f.ebits + f.mbits) then -(mag : Int) - 1 else (mag : Int)

/-- A code with DAZ applied (R70). -/
def dazCode (code : Nat) (f : FpFmt) (daz : Bool) (x : Nat) : Nat :=
  if daz && flushable code && bits x f.mbits f.ebits = 0 then (if bitAt x (f.ebits + f.mbits) then f.signBit else 0)
  else bits x 0 (f.ebits + f.mbits + 1)

/-- `fmin` (`big` false) and `fmax` (R147 Table 8). -/
def fMinMax (big : Bool) (code : Nat) (f : FpFmt) (md : FMode) (x y : Nat) : FRes :=
  let x := dazCode code f md.daz x
  let y := dazCode code f md.daz y
  let a := unpackF f x
  let b := unpackF f y
  let nv := if a.isSig || b.isSig then fNV else 0
  let pick : FRes :=
    if a.isNan && b.isNan then nanRes f false
    else if a.isNan then exactRes code f md y
    else if b.isNan then exactRes code f md x
    else if big then exactRes code f md (if orderKey f x < orderKey f y then y else x)
    else exactRes code f md (if orderKey f y < orderKey f x then y else x)
  { bits := pick.bits, flags := pick.flags ||| nv }

/-- Comparison of two values that are no NaN: −0 and +0 are equal (R149). -/
def fLess (f : FpFmt) (x y : Nat) : Bool :=
  if (unpackF f x).isZero && (unpackF f y).isZero then false else decide (orderKey f x < orderKey f y)

/-- Equality of two values that are no NaN (R149). -/
def fSame (f : FpFmt) (x y : Nat) : Bool := ((unpackF f x).isZero && (unpackF f y).isZero) || orderKey f x == orderKey f y

/-- `fcmp` (R149 Table 9): the predicate and NV. -/
def fCmp (cond code : Nat) (f : FpFmt) (md : FMode) (x y : Nat) : Bool × Nat :=
  let x := dazCode code f md.daz x
  let y := dazCode code f md.daz y
  let a := unpackF f x
  let b := unpackF f y
  let un := a.isNan || b.isNan
  let sig := a.isSig || b.isSig
  let ordered : Bool := 2 ≤ cond && cond ≤ 5
  let nv := if sig || (un && ordered) then fNV else 0
  let r : Bool :=
    match cond with
    | 0 => !un && fSame f x y
    | 1 => un || !fSame f x y
    | 2 => !un && fLess f x y
    | 3 => !un && (fLess f x y || fSame f x y)
    | 4 => !un && fLess f y x
    | 5 => !un && (fLess f y x || fSame f x y)
    | 6 => un
    | _ => !un
  (r, nv)

/-- `fclass` (R149 Table 10). -/
def fClass (f : FpFmt) (x : Nat) : Nat :=
  let k : Nat :=
    match unpackF f x with
    | .nan s => if s then 8 else 9
    | .inf n => if n then 0 else 7
    | .fin n m _ =>
      if m = 0 then (if n then 3 else 4)
      else if m < 2 ^ f.mbits then (if n then 2 else 5)
      else (if n then 1 else 6)
  2 ^ k

/-- The integer square root, by deciding one bit at a time from bit `k` down. -/
def isqrt (k n acc : Nat) : Nat :=
  match k with
  | 0 => if (acc + 1) * (acc + 1) ≤ n then acc + 1 else acc
  | j + 1 => isqrt j n (if (acc + 2 ^ (j + 1)) * (acc + 2 ^ (j + 1)) ≤ n then acc + 2 ^ (j + 1) else acc)

/-- A significand of 64 bits or more for a quotient m / n (n > 0), with the rest in the lowest bit, and its exponent. -/
def quotSticky (m n : Nat) (e : Int) : Nat × Int :=
  let sh := n.log2 + 66
  let q := m * 2 ^ sh / n
  let r := m * 2 ^ sh % n
  (2 * q + (if r = 0 then 0 else 1), e - sh - 1)

/-- A significand for the square root of m · 2^e, with the rest in the lowest bit, and its exponent. -/
def sqrtSticky (m : Nat) (e : Int) : Nat × Int :=
  let m1 := if e % 2 = 0 then m else 2 * m
  let e1 := if e % 2 = 0 then e else e - 1
  let big := m1 * 2 ^ 140
  let r := isqrt (big.log2 / 2 + 1) big 0
  (2 * r + (if r * r = big then 0 else 1), e1 / 2 - 70 - 1)

/-- `fdiv` (R147, R148). -/
def fDiv (code : Nat) (f : FpFmt) (md : FMode) (a b : FVal) : FRes :=
  let neg := xor a.neg b.neg
  if a.isNan || b.isNan then nanRes f (a.isSig || b.isSig)
  else match a, b with
    | .inf _, .inf _ => nanRes f true
    | .inf _, _ => infRes f neg
    | _, .inf _ => { bits := if neg then f.signBit else 0, flags := 0 }
    | .fin _ m e, .fin _ n g =>
      if n = 0 then (if m = 0 then nanRes f true else { infRes f neg with flags := fDZ })
      else if m = 0 then { bits := if neg then f.signBit else 0, flags := 0 }
      else
        let q := quotSticky m n (e - g)
        roundF f (flushable code) md neg q.1 q.2
    | _, _ => nanRes f false

/-- `fsqrt` (R147, R148). -/
def fSqrt (code : Nat) (f : FpFmt) (md : FMode) (a : FVal) : FRes :=
  match a with
  | .nan s => nanRes f s
  | .inf n => if n then nanRes f true else infRes f false
  | .fin n m e =>
    if m = 0 then { bits := if n then f.signBit else 0, flags := 0 }
    else if n then nanRes f true
    else
      let r := sqrtSticky m e
      roundF f (flushable code) md false r.1 r.2

/-- `frsq`: 1/√a (R147, R148). The root of 2^(−e) / m: m is made a divisor of a significand of 400 bits and more. -/
def fRsq (code : Nat) (f : FpFmt) (md : FMode) (a : FVal) : FRes :=
  match a with
  | .nan s => nanRes f s
  | .inf n => if n then nanRes f true else { bits := 0, flags := 0 }
  | .fin n m e =>
    if m = 0 then { infRes f n with flags := fDZ }
    else if n then nanRes f true
    else
      -- 1/(m·2^e) = (2^k / m) · 2^(−e−k), with the parity of the exponent even
      let e1 : Int := if e % 2 = 0 then e else e - 1
      let m1 : Nat := if e % 2 = 0 then m else 2 * m
      let k : Nat := 2 * (m1.log2 + 80)
      let q := 2 ^ k / m1
      let exact : Bool := 2 ^ k % m1 == 0
      let r := isqrt (q.log2 / 2 + 1) q 0
      let sticky := if exact && r * r == q then 0 else 1
      roundF f (flushable code) md false (2 * r + sticky) (-(e1 / 2) - (k / 2 : Nat) - 1)

/-- `fscale`: a × 2^b (R146, R147). -/
def fScale (code : Nat) (f : FpFmt) (md : FMode) (a : FVal) (b : Int) : FRes :=
  match a with
  | .nan s => nanRes f s
  | .inf n => infRes f n
  | .fin n m e =>
    -- beyond ±6000 every significand over- or underflows, so the exponent is held there
    let b1 : Int := if b < -6000 then -6000 else if 6000 < b then 6000 else b
    roundF f (flushable code) md n m (e + b1)

/-- The integer part of ± m · 2^e under a rounding mode, as a magnitude, with inexactness. -/
def roundInt (rm : Nat) (neg : Bool) (m : Nat) (e : Int) : Nat × Bool := roundAt rm neg m e 0

/-- `ffrac`: a − trunc(a), exact (R146, R147). -/
def fFrac (code : Nat) (f : FpFmt) (md : FMode) (a : FVal) : FRes :=
  match a with
  | .nan s => nanRes f s
  | .inf _ => nanRes f true
  | .fin n m e =>
    let r := if 0 ≤ e then 0 else m % 2 ^ (-e).toNat
    let res := roundF f false { md with rm := 1, ftz := false } n r e
    exactRes code f md res.bits

/-- `frnd`: to an integral value, NX never raised (R146, R147). -/
def fRnd (f : FpFmt) (md : FMode) (a : FVal) : FRes :=
  match a with
  | .nan s => nanRes f s
  | .inf n => infRes f n
  | .fin n m e =>
    if 0 ≤ e then { bits := (roundF f false md n m e).bits, flags := 0 }
    else
      let k := roundInt md.rm n m e
      { bits := (roundF f false md n k.1 0).bits, flags := 0 }

/-! ### Conversions (R73 to R75, R150) -/

/-- Range of an integer format (R65). -/
def intRange (code : Nat) : Int × Int :=
  match code with
  | 8 => (-128, 127)
  | 9 => (0, 255)
  | 10 => (-8, 7)
  | 11 => (0, 15)
  | 12 => (-1, 1)
  | _ => (-2147483648, 2147483647)

/-- The integer that an integer or logic code holds (R65); T2 0b10 reads as 0. -/
def readI (code x : Nat) : Int :=
  match code with
  | 8 => toInt 8 x
  | 9 => ((x % 256 : Nat) : Int)
  | 10 => toInt 4 x
  | 11 => ((x % 16 : Nat) : Int)
  | 12 => match x % 4 with | 1 => 1 | 3 => -1 | _ => 0
  | 13 => if x % 2 = 0 then 1 else -1
  | _ => toInt 32 x

/-- The code of an integer in an integer format (R65, R134). -/
def writeI (code : Nat) (v : Int) : Nat := ofInt (fmtWidth code) v

/-- Clamp to a range. -/
def clampI (lo hi v : Int) : Int := if v < lo then lo else if hi < v then hi else v

/-- Conversion of a floating value to an integer format or T2 (R74, R75). -/
def toIntFmt (ft : Nat) (rm : Nat) (a : FVal) : FRes :=
  let r := intRange ft
  match a with
  | .nan _ => { bits := 0, flags := fNV }
  | .inf n => { bits := writeI ft (if n then r.1 else r.2), flags := fNV }
  | .fin n m e =>
    let k := roundInt rm n m e
    let v := signedM n k.1
    if v < r.1 || r.2 < v then { bits := writeI ft (clampI r.1 r.2 v), flags := fNV }
    else { bits := writeI ft v, flags := if k.2 then fNX else 0 }

/-- Conversion of a floating value to B1 (R75). -/
def toB1 (a : FVal) : FRes :=
  match a with
  | .nan _ => { bits := 0, flags := fNV }
  | .inf n => { bits := if n then 1 else 0, flags := 0 }
  | .fin n _ _ => { bits := if n then 1 else 0, flags := 0 }

/-- Conversion of a floating value to another floating format (R73 Table 7). -/
def toFloatFmt (ft : Nat) (f : FpFmt) (md : FMode) (a : FVal) : FRes :=
  match a with
  | .nan s => match f.kind with
    | .finite => { bits := 0, flags := fNV }
    | .ieee => nanRes f s
    | .nanOnly => nanRes f s
  | .inf n =>
    let sgn := if n then f.signBit else 0
    match f.kind with
    | .ieee => infRes f n
    | .nanOnly => { bits := if md.sat then sgn + f.maxFin else f.nan, flags := 0 }
    | .finite => { bits := sgn + f.maxFin, flags := fNV }
  | .fin n m e => roundF f (flushable ft) md n m e

/-- Convert an element of format X to format FT (R150), rounding codes 0 to 4. -/
def convert (x ft : Nat) (md : FMode) (v : Nat) : FRes :=
  match fpFmt x, fpFmt ft with
  | some fx, some f =>
    if x = ft then
      let a := readF x fx md.daz v
      if a.isNan then nanRes f a.isSig else exactRes ft f md (dazCode x fx md.daz v)
    else toFloatFmt ft f md (readF x fx md.daz v)
  | some fx, none =>
    let a := readF x fx md.daz v
    if ft = 13 then toB1 a else toIntFmt ft md.rm a
  | none, some f =>
    let k := readI x v
    roundF f (flushable ft) md (decide (k < 0)) k.natAbs 0
  | none, none =>
    let k := readI x v
    if ft = 13 then { bits := if k < 0 then 1 else 0, flags := 0 }
    else
      let r := intRange ft
      { bits := writeI ft (clampI r.1 r.2 k), flags := 0 }

/-- One step of the 32-bit xorshift (R78). -/
def xorshift (x : Word) : Word :=
  let x := x ^^^ (x <<< 13)
  let x := x ^^^ (x >>> 17)
  x ^^^ (x <<< 5)

/-- `cvt` with rounding code 5 of one element, with the state already advanced to `st` (R70, R78). -/
def convertSr (x ft : Nat) (md : FMode) (st : Word) (v : Nat) : FRes :=
  match fpFmt x, fpFmt ft with
  | some fx, some f =>
    match readF x fx md.daz v with
    | .fin n m e =>
      let s := if n then f.signBit else 0
      if m = 0 then { bits := s, flags := 0 }
      else
        let qu := lastPlace (f.mbits + 1) m e
        let q := if qu < f.qmin then f.qmin else qu
        let tiny : Bool := decide ((m.log2 : Int) + e < f.qmin + (f.mbits : Int))
        if tiny && flushable ft && md.ftz then { bits := s, flags := fUF + fNX }
        else
          let k := roundAt 1 n m e q
          let rest : Nat := if q ≤ e then 0 else m % 2 ^ (q - e).toNat
          let d : Nat := if q ≤ e then 0 else rest * 2 ^ 32 / 2 ^ (q - e).toNat
          let up : Bool := decide (2 ^ 32 ≤ d + st.toNat)
          let mag := (q - f.qmin).toNat * 2 ^ f.mbits + k.1 + (if up then 1 else 0)
          let nx : Bool := rest ≠ 0 || up
          if f.maxFin < mag then { bits := overflowF f 0 md.sat n, flags := fOF + fNX }
          else { bits := s + mag, flags := (if tiny && nx then fUF else 0) + (if nx then fNX else 0) }
    | .inf n => toFloatFmt ft f md (.inf n)
    | .nan sg => toFloatFmt ft f md (.nan sg)
  | _, _ => { bits := 0, flags := 0 }

end Sys2Proof.Machine
end

