-- ==== Sys2Proof/Machine/Symbol.lean ====
section
/-! DEFINITION. The codes that protect stored bytes: the P and Q symbols of a row (R207), the Reed-Solomon code of a sector in HBM (R210), and the
T10-DIF CRC (R264). A store holds, beside its data, what its check symbols give against those that the data gives; zero for an undisturbed one. -/

namespace Sys2Proof.Machine

/-! ### GF(2^8) with polynomial 0x11D (R207) -/

/-- Multiplication by α = 0x02. -/
def gfDouble (a : Nat) : Nat := if a < 128 then 2 * a else Nat.xor (2 * a) 0x11D

/-- The product of two elements; `n` bits of the second are still to be taken. -/
def gfMulN (n a b : Nat) : Nat :=
  match n with
  | 0 => 0
  | k + 1 => Nat.xor (if b % 2 = 1 then a else 0) (gfMulN k (gfDouble a) (b / 2))

/-- The product of two elements. -/
def gfMul (a b : Nat) : Nat := gfMulN 8 a b

/-- α^k. -/
def gfExp (k : Nat) : Nat :=
  match k with
  | 0 => 1
  | n + 1 => gfDouble (gfExp n)

/-- α^i × a. -/
def gfScale (i a : Nat) : Nat :=
  match i with
  | 0 => a
  | n + 1 => gfDouble (gfScale n a)

/-- The inverse of an element that is not zero: its power 254. -/
def gfInv (a : Nat) : Nat :=
  let a2 := gfMul a a
  let a4 := gfMul a2 a2
  let a8 := gfMul a4 a4
  let a16 := gfMul a8 a8
  let a32 := gfMul a16 a16
  let a64 := gfMul a32 a32
  let a128 := gfMul a64 a64
  gfMul a128 (gfMul a64 (gfMul a32 (gfMul a16 (gfMul a8 (gfMul a4 a2)))))

/-! ### The rows of an L1, an L2 slice or a scratchpad (R207) -/

/-- Byte `j` of bank `i` of a row's data. -/
def bankByte (d i j : Nat) : Nat := d / 256 ^ (16 * i + j) % 256

/-- P[j] -/
def symbolP (d j : Nat) : Nat := (List.range 8).foldl (fun acc i => Nat.xor acc (bankByte d i j)) 0
/-- Q[j] -/
def symbolQ (d j : Nat) : Nat := (List.range 8).foldl (fun acc i => Nat.xor acc (gfScale i (bankByte d i j))) 0

/-- A number from sixteen bytes. -/
def fromBytes16 (f : Nat → Nat) : Nat := (List.range 16).foldl (fun acc j => acc + f j * 256 ^ j) 0

/-- The check symbols of a row's data: P in the low half, Q in the high. -/
def checkSymbols (d : Nat) : Nat := fromBytes16 (symbolP d) + 2 ^ 128 * fromBytes16 (symbolQ d)

/-- The syndromes of a row whose banks hold `d` and the check symbols `pq`: SP in the low half, SQ in the high. -/
def syndromes (d pq : Nat) : Nat := Nat.xor (checkSymbols d) pq

/-- SP[j] -/
def synP (y j : Nat) : Nat := y / 256 ^ j % 256
/-- SQ[j] -/
def synQ (y j : Nat) : Nat := y / 256 ^ (16 + j) % 256

/-- Whether the non-zero syndromes all name a bank: 0 to 7 hold data, 8 the P symbol, 9 the Q symbol. -/
def namesBank (y k : Nat) : Bool :=
  (List.range 16).all (fun j => if k < 8 then synQ y j == gfScale k (synP y j) else if k = 8 then synQ y j == 0 else synP y j == 0)

/-- The data with one bank corrected by XOR with SP; a check bank is rebuilt from the data. -/
def correctBank (d y k : Nat) : Nat := if k < 8 then Nat.xor d (fromBytes16 (synP y) * 256 ^ (16 * k)) else d

/-- What a read of a row finds. -/
inductive RowRead where
  | clean
  /-- one bank was at fault: the row's data -/
  | corrected (bank : Nat) (data : Nat)
  /-- the bank that is treated as an erasure has been rebuilt: the row's data (R208) -/
  | rebuilt (data : Nat)
  | uncorrectable
deriving DecidableEq, Repr

/-- Read a row that holds data `d` with syndromes `y`; a retired bank is an erasure (R207, R208). -/
def readRow (retired : Option Nat) (d y : Nat) : RowRead :=
  if y = 0 then .clean
  else match retired with
    | some k => if namesBank y k then .rebuilt (correctBank d y k) else .uncorrectable
    | none => match (List.range 10).find? (namesBank y) with
      | some k => .corrected k (correctBank d y k)
      | none => .uncorrectable

/-! ### The CRC (R264) -/

/-- One bit of the T10-DIF CRC, polynomial 0x8BB7. -/
def crcBit (c : Nat) : Nat := if c.testBit 15 then Nat.xor (2 * c % 65536) 0x8BB7 else 2 * c % 65536

/-- One byte. -/
def crcByte (c : Nat) (b : Byte) : Nat :=
  let x := Nat.xor c (b.toNat * 256)
  crcBit (crcBit (crcBit (crcBit (crcBit (crcBit (crcBit (crcBit x)))))))

/-- The CRC of some bytes in ascending address, initial value 0, no reflection and no final exclusive or. -/
def crcOf (bs : List Byte) : Nat := bs.foldl crcByte 0

/-! ### The sectors of HBM (R210) -/

/-- The place of byte `m` of a sector's code word: four check bytes at the lowest powers, then the data bytes (assumption 99). -/
def rsPlace (k : Nat) : Nat := gfExp k

/-- Syndrome `i` of a sector whose check bytes differ by `r` from those that its data gives: `r`, as a polynomial, at α^i (assumption 99). -/
def rsSyndrome (r i : Nat) : Nat := (List.range 4).foldl (fun acc k => Nat.xor acc (gfScale (i * k) (r / 256 ^ k % 256))) 0

/-- Two byte errors at the places `i` and `j` that give the first two syndromes. -/
def rsPair (r i j : Nat) : Nat × Nat :=
  let x := rsPlace i
  let y := rsPlace j
  let b := gfMul (Nat.xor (gfMul (rsSyndrome r 0) x) (rsSyndrome r 1)) (gfInv (Nat.xor x y))
  (Nat.xor (rsSyndrome r 0) b, b)

/-- Whether errors `a` and `b` at the places `i` and `j` give every syndrome. -/
def rsGives (r i a j b : Nat) : Bool :=
  (List.range 4).all (fun n => rsSyndrome r n == Nat.xor (gfScale (n * i) a) (gfScale (n * j) b))

/-- A byte error at a place, as a change of the sector's 64 data bytes. -/
def rsChange (k e : Nat) : Nat := if k < 4 then 0 else e * 256 ^ (k - 4)

/-- The change that corrects a sector's data, when at most two of its 68 bytes are in error (R210). -/
def rsCorrect (r : Nat) : Option Nat :=
  if r = 0 then some 0
  else match (List.range 68).find? (fun i => rsGives r i (rsSyndrome r 0) i 0) with
    | some i => some (rsChange i (rsSyndrome r 0))
    | none =>
      (List.range 68).findSome? (fun j => (List.range j).findSome? (fun i =>
        let e := rsPair r i j
        if rsGives r i e.1 j e.2 then some (Nat.xor (rsChange i e.1) (rsChange j e.2)) else none))

end Sys2Proof.Machine
end

