-- ==== Sys2Proof/Machine/Tables.lean ====
section
/-! DEFINITION. Looking things up in the tables as their commits installed them (12), the geometry of addresses (R366), the page walk
and the checks of R371. -/

namespace Sys2Proof.Machine

/-! ### Geometry -/

/-- The address of the line that holds `va` (R3). -/
def lineOf (va : Nat) : Nat := va / 128 * 128
/-- The page of `va`. -/
def pageOf (va : Nat) : Nat := va / 2097152 * 2097152
/-- The part of `va`. -/
def partOf (va : Nat) : Nat := va / 65536 * 65536
/-- The die of a core (R10). -/
def dieOfCore (core : Nat) : Nat := if core < 96 then 0 else if core < 192 then 1 else core - 192
/-- The core of a quoin; quoins 768 and 769 stand for the control cores, cores 192 and 193, of the two dies: the model's numbers, which `sr.QID`
and `sr.CORE` of a handler course read (assumption 87). -/
def coreOfQid (qid : Nat) : Nat := if qid < 768 then qid / 4 else qid - 576
/-- The die of a quoin. -/
def dieOfQid (qid : Nat) : Nat := dieOfCore (coreOfQid qid)
/-- The stack that holds an address (R366). -/
def stackOf (a : Nat) : Nat := Nat.xor (Nat.xor (bits a 8 4) (bits a 12 4)) (Nat.xor (bits a 16 4) (bits a 20 1 * 8))
/-- The die of an address's home slice (R366). -/
def homeDie (a : Nat) : Nat := stackOf a / 8
/-- The home slice within its die (R366). -/
def sliceOf (a : Nat) : Nat := bits a 8 13 % 96
/-- The set within the slice (R366). -/
def l2Set (a : Nat) : Nat := Nat.xor (bits a 12 9) (bits a 21 9) * 2 + bits a 7 1
/-- The set of an L1 (R201). -/
def l1Set (a : Nat) : Nat := bits a 7 7

/-! ### Physical memory -/

/-- `n` bytes of a byte store from `lo` as a little-endian number. -/
def readNum (cs : Cells 8) (lo n : Nat) : Nat :=
  match n with
  | 0 => 0
  | k + 1 => (Cells.get cs lo).toNat + 256 * readNum cs (lo + 1) k

/-- Write the lowest `n` bytes of a number from `lo`. -/
def writeNum (cs : Cells 8) (lo n v : Nat) : Cells 8 :=
  match n with
  | 0 => cs
  | k + 1 => writeNum (Cells.set cs lo (BitVec.ofNat 8 v)) (lo + 1) k (v / 256)

/-- What a read of a sector of HBM finds (R210): its data as corrected, whether it could not be corrected, and its CRC against that of its data. -/
structure Sector where
  data : Nat
  bad : Bool
  crc : Nat
deriving DecidableEq, Repr

/-- Read sector `k`: at most two byte errors are corrected (R210). -/
def sectorGet (s : State) (k : Nat) : Sector :=
  let d := readNum s.mem (64 * k) 64
  let m := (Cells.get s.hmeta k).toNat
  if m = 0 then { data := d, bad := false, crc := 0 }
  else match rsCorrect (m % 2 ^ 32) with
    | some e => { data := Nat.xor d e, bad := false, crc := Nat.xor (m / 2 ^ 32) (crcOf (bytesOf 64 e)) }
    | none => { data := d, bad := true, crc := m / 2 ^ 32 }

/-- `n` bytes of HBM as its code corrects them. -/
def readFixed (s : State) (pa n : Nat) : Nat :=
  match n with
  | 0 => 0
  | k + 1 => (sectorGet s (pa / 64)).data / 256 ^ (pa % 64) % 256 + 256 * readFixed s (pa + 1) k

/-- `n` bytes of HBM. -/
def physRead (s : State) (pa n : Nat) : Nat := if s.hmeta.isEmpty then readNum s.mem pa n else readFixed s pa n

/-- A sector before `whole` of it or a part is written: a partial write reads it, and one that cannot be corrected or whose CRC fails becomes
poisoned (R209, R265). -/
def sectorSettle (s : State) (k : Nat) (whole : Bool) : State :=
  if Cells.get s.hmeta k = 0 then s
  else
    let x := sectorGet s k
    { s with
        mem := writeNum s.mem (64 * k) 64 x.data
        hmeta := Cells.set s.hmeta k 0
        hpoison := if !whole && (x.bad || x.crc ≠ 0) then Cells.set s.hpoison k 1 else s.hpoison }

/-- The sectors that `n` bytes from `pa` touch. -/
def sectorsOf (pa n : Nat) : List Nat := (List.range (if n = 0 then 0 else (pa + n - 1) / 64 + 1 - pa / 64)).map (fun j => pa / 64 + j)

/-- The sectors of a write are read first where they are written in part. -/
def settleFor (s : State) (pa n : Nat) : State :=
  if s.hmeta.isEmpty then s
  else (sectorsOf pa n).foldl (fun s k => sectorSettle s k (pa ≤ 64 * k && 64 * k + 64 ≤ pa + n)) s

/-- Write `n` bytes of HBM, with the check bits and the CRC made for them; bytes beyond the device's 1 TiB do not exist and are not written (R17). -/
def physWrite (s : State) (pa n v : Nat) : State :=
  if pa + n ≤ Config.hbmBytes then
    let s := settleFor s pa n
    { s with mem := writeNum s.mem pa n v }
  else s

/-! ### Table lookups -/

/-- The ASID entry, if one is installed and VALID (R380). -/
def asidEntry (s : State) (asid : Nat) : Option AsidEntry := s.asids.find? (fun e => e.asid == asid && e.valid)

/-- The frame-state entry; an entry never published is Free with INV 1 (R378, R379). -/
def frameEntry (s : State) (f : Nat) : FrameEntry :=
  match s.frames.find? (fun e => e.frame == f) with
  | some e => e
  | none => { frame := f, state := 0, scrub := false, inv := true, owner := 0, sg := false, gasid := 0 }

/-- The partition entry of a tenant, when VALID. -/
def partition (s : State) (t : Nat) : Option Partition := s.parts.find? (fun e => e.tenant == t && e.valid)

/-- The 18-bit lane map of a quoin (R13). A control core, which is no quoin, reads a map with every lane good (assumption 87). -/
def laneMap (s : State) (qid : Nat) : BitVec 18 :=
  Config.fusedLanes &&& ~~~ Cells.get s.lbad qid

/-- The good-lane count g of a quoin (R14). -/
def goodLanes (s : State) (qid : Nat) : Nat := Nat.min (popCount 18 (laneMap s qid).toNat) 16

/-- G of a quoin: its g lowest-numbered good physical lanes, in ascending order (R14). -/
def goodList (s : State) (qid : Nat) : List Nat := ((List.range 18).filter (fun i => (laneMap s qid).getLsbD i)).take 16

/-- A quoin with fewer than eight good lanes is fused off whole and never enabled (R14). -/
def quoinWhole (s : State) (qid : Nat) : Bool := decide (8 ≤ goodLanes s qid)

/-- The pass in which thread `t` runs, and its physical lane (R14). -/
def threadPass (s : State) (qid t : Nat) : Nat := t / goodLanes s qid
/-- The physical lane of a thread. -/
def threadLane (s : State) (qid t : Nat) : Nat := (goodList s qid).getD (t % goodLanes s qid) 0

/-- The pass count of a quoin (R14). -/
def passCount (s : State) (qid : Nat) : Nat := (31 + goodLanes s qid) / goodLanes s qid

/-- The quoin entry; one never published is enabled and unowned (R381). -/
def quoinEntry (s : State) (q : Nat) : QuoinEntry :=
  match s.quoins.find? (fun e => e.qid == q) with
  | some e => e
  | none => { qid := q, en := quoinWhole s q, fenced := false, owner := 0, owned := false, resv := false, lessee := 0, gseg := 0, vacating := none }

/-- Whether `va` lies in the window of a share group. -/
def inWindow (g : ShareEntry) (va : Nat) : Bool := g.wbase ≤ va && va < g.wbase + 2097152 * g.npages

/-- The ASID under which a tenant's access is looked up: that of a group of the tenant whose window holds `va` (R382). -/
def effAsid (s : State) (tenant asid va : Nat) : Nat :=
  match s.shares.find? (fun g => g.members.getLsbD tenant && inWindow g va) with
  | some g => g.gasid
  | none => asid

/-- Whether a tenant is a member of the group with ASID `gasid` (R206). -/
def isMember (s : State) (tenant gasid : Nat) : Bool := s.shares.any (fun g => g.gasid == gasid && g.members.getLsbD tenant)

/-! ### The page walk (R367, R368) -/

/-- A table pointer at levels 3 to 1: the next table's address, or the class-7 sub-code. -/
def nextTable (e : Nat) : Except Nat Nat :=
  if bits e 0 2 = 0 then .error 3
  else if bits e 0 2 = 1 && bits e 2 10 = 0 && e / 2 ^ 40 = 0 then .ok (bits e 12 28 * 4096)
  else .error 5

/-- The malformation of a leaf that its bits alone decide (R368). -/
def leafBad (e : Nat) : Bool :=
  bits e 2 6 ≠ 0 || bits e 12 4 ≠ 0 || bits e 20 1 ≠ 0 || bits e 52 12 ≠ 0 || Nat.land (bits e 64 32) (bits e 96 32) ≠ 0

/-- The key of the entry at a level for an address in a page-walk cache. -/
def walkKey (va level : Nat) : Nat := va / 2 ^ (21 + 8 * level) * 4 + level

/-- The entry at a level for an address, from the page-walk cache of the controller of the access or from HBM (R369). -/
def walkEntry (s : State) (asid va table level : Nat) : Nat :=
  match s.walkCache.find? (fun w => w.1 == stackOf va && w.2.1 == asid && w.2.2.1 == walkKey va level) with
  | some w => w.2.2.2
  | none => physRead s (table + 16 * bits va (21 + 8 * level) 8) 16

/-- Walk the four levels of an ASID's table in HBM: the leaf, or the class-7 sub-code. -/
def walk (s : State) (asid va : Nat) : Except Nat Nat :=
  match asidEntry s asid with
  | none => .error 3
  | some a =>
    match nextTable (walkEntry s asid va a.root 3) with
    | .error c => .error c
    | .ok t2 =>
      match nextTable (walkEntry s asid va t2 2) with
      | .error c => .error c
      | .ok t1 =>
        match nextTable (walkEntry s asid va t1 1) with
        | .error c => .error c
        | .ok t0 =>
          let e := physRead s (t0 + 16 * bits va 21 8) 16
          if bits e 0 2 = 0 then .error 3
          else if bits e 0 2 ≠ 2 || leafBad e then .error 5
          else .ok e

/-- Fields of a leaf (R367 Table 1). -/
def leafW (e : Nat) : Bool := bitAt e 8
/-- X -/
def leafX (e : Nat) : Bool := bitAt e 9
/-- K -/
def leafK (e : Nat) : Bool := bitAt e 10
/-- SG -/
def leafSG (e : Nat) : Bool := bitAt e 11
/-- PEER -/
def leafPeer (e : Nat) : Nat := bits e 16 4
/-- FRAME -/
def leafFrame (e : Nat) : Nat := bits e 21 19
/-- GASID -/
def leafGasid (e : Nat) : Nat := bits e 40 12
/-- The state of the part of `va` (R368): local, remote, or neither (absent). -/
def leafLocal (e va : Nat) : Bool := bitAt e (64 + bits va 16 5)
/-- The part is remote. -/
def leafRemote (e va : Nat) : Bool := bitAt e (96 + bits va 16 5)

/-- The entry of a frame in the frame-state table, which a walker reads from HBM (R369). -/
def frameWord (s : State) (f : Nat) : Nat := physRead s (physRead s (s.boot.troot + 0x10) 8 + 8 * f) 8

/-- The frame check of a leaf (R378). -/
def frameOk (s : State) (asid : Nat) (e : Nat) : Bool :=
  let f := frameWord s (leafFrame e)
  if leafSG e then bits f 0 2 == 1 && bits f 17 12 == leafGasid e
  else match asidEntry s asid with
    | some a => bits f 0 2 == 1 && bits f 8 6 == a.tenant
    | none => false

/-! ### An access and its translation (R371) -/

/-- The agent of an access: the core it comes from (none for an agent outside the cores), its ASID, tenant tag, ring and class. -/
structure Acc where
  core : Option Nat
  asid : Nat
  tenant : Nat
  ring : Nat
  harvest : Bool
deriving DecidableEq, Repr

/-- What an access does. -/
inductive Use where
  | read | write | fetch
deriving DecidableEq, Repr

/-- Where an access goes (R371 step 4). -/
inductive XRes where
  | loc (pa : Nat) (leaf : Nat)
  | rem (dev : Nat) (leaf : Nat)
  | absent
  | cause (sub : Nat)
deriving DecidableEq, Repr

/-- The class-7 sub-code of the page's bits, if one applies (R372). -/
def permSub (ring : Nat) (u : Use) (w x k : Bool) : Option Nat :=
  if u = .write && !w then some 0
  else if u = .fetch && !x then some 1
  else if k && ring < 2 then some 2
  else none

/-- Whether a TLB entry is that of an address in the controller that translates it (R369). -/
def TlbEntry.serves (t : TlbEntry) (asid va : Nat) : Bool := t.asid == asid && t.page == pageOf va && t.ctrl == stackOf va

/-- The leaf of a page from the TLB or a walk, with its frame-state check. -/
def leafAt (s : State) (asid va : Nat) : Except Nat (Nat × Bool) :=
  match s.tlb.find? (fun t => t.serves asid va) with
  | some t => .ok (t.leaf.toNat, t.frameOk)
  | none =>
    match walk s asid va with
    | .error c => .error c
    | .ok e => .ok (e, frameOk s asid e)

/-- The checks of R371 step 3 on an access, in order, and its resolution. -/
def translate (s : State) (a : Acc) (va : Nat) (u : Use) : XRes :=
  let as := effAsid s a.tenant a.asid va
  match leafAt s as va with
  | .error c => .cause c
  | .ok (e, fok) =>
    if leafSG e && !s.shares.any (fun g => g.gasid == leafGasid e && inWindow g va) then .cause 5
    else match permSub a.ring u (leafW e) (leafX e) (leafK e) with
      | some c => .cause c
      | none =>
        if leafSG e && !isMember s a.tenant (leafGasid e) then .cause 4
        else if !fok then .cause 6
        else if leafLocal e va then .loc (leafFrame e * 2097152 + va % 2097152) e
        else if leafRemote e va then .rem (leafPeer e) e
        else .absent

/-- Room for one more entry of a controller among at most `most`: where there is none, an entry of its own, which the spec does not name, gives way
(assumption 100). -/
def roomFor {α : Type} (mine : α → Bool) (most pick : Nat) (xs : List α) : List α :=
  let held := xs.filter mine
  if held.length < most then xs else xs.filter (fun x => !mine x) ++ held.eraseIdx (pick % most)

/-- Keep the tables that a walk went through in the controller's page-walk cache (R369). -/
def fillWalk (s : State) (asid va table level : Nat) : State :=
  let mine (w : Nat × Nat × Nat × Nat) : Bool := w.1 == stackOf va
  if s.walkCache.any (fun w => mine w && w.2.1 == asid && w.2.2.1 == walkKey va level) then s
  else
    let e := physRead s (table + 16 * bits va (21 + 8 * level) 8) 16
    { s with walkCache := roomFor mine 1024 (Config.freeVictim s.fresh) s.walkCache ++ [(stackOf va, asid, walkKey va level, e)] }

/-- Keep the entries of a walk from a table at `level` down that lead to a further table. -/
def fillWalks (s : State) (asid va table level : Nat) : State :=
  match level with
  | 0 => s
  | n + 1 => match nextTable (walkEntry s asid va table (n + 1)) with
    | .error _ => s
    | .ok t => fillWalks (fillWalk s asid va table (n + 1)) asid va t n

/-- Keep the leaf that a walk found in the controller's TLB, and the tables that it went through in its page-walk cache (R369). -/
def fillTlb (s : State) (a : Acc) (va : Nat) : State :=
  let as := effAsid s a.tenant a.asid va
  if s.tlb.any (fun t => t.serves as va) then s
  else match walk s as va, asidEntry s as with
    | .ok e, some x =>
      let s := fillWalks s as va x.root 3
      let t : TlbEntry := { asid := as, page := pageOf va, leaf := BitVec.ofNat 128 e, frameOk := frameOk s as e, ctrl := stackOf va }
      { s with tlb := roomFor (fun t => t.ctrl == stackOf va) 16384 (Config.freeVictim s.fresh) s.tlb ++ [t], fresh := s.fresh + 1 }
    | _, _ => s

/-! ### The lease window (R374) -/

/-- A range (BASE, NPARTS) holds `va` and has the flags asked for. -/
def rangeHas (r : Nat × Nat) (va : Nat) : Bool :=
  let b := bits r.1 16 37 * 65536
  b ≤ va && va < b + 65536 * r.2

/-- The sub-code of class 5 for an access, or none when the window admits it (R374 Table 5). -/
def leaseSub (window : List (Nat × Nat)) (va : Nat) (u : Use) : Option Nat :=
  let inside := window.filter (fun r => rangeHas r va)
  match u with
  | .read => if inside.isEmpty then some 0 else none
  | .write => if inside.isEmpty then some 1 else if inside.any (fun r => bitAt r.1 1) then none else some 2
  | .fetch => if inside.any (fun r => bitAt r.1 2) then none else some 3

/-- Whether the part of `va` lies in a soft range. -/
def isSoft (window : List (Nat × Nat)) (va : Nat) : Bool := window.any (fun r => rangeHas r va && bitAt r.1 0)

/-! ### Counter pages of the dies (R414) -/

/-- The die and offset of a physical address inside a die's counter page. -/
def counterPageOf (s : State) (pa : Nat) : Option (Nat × Nat) :=
  if s.boot.cpage0 ≠ 0 && s.boot.cpage0 ≤ pa && pa < s.boot.cpage0 + 4096 then some (0, pa - s.boot.cpage0)
  else if s.boot.cpage1 ≠ 0 && s.boot.cpage1 ≤ pa && pa < s.boot.cpage1 + 4096 then some (1, pa - s.boot.cpage1)
  else none

end Sys2Proof.Machine
end

