-- ==== Sys2Proof/Machine/Links.lean ====
section
/-! DEFINITION. What leaves by Brynmer Link: paths and sequence numbers (R456), counts of posted packets (R458), invalidations (R457) and posted
write-throughs (R214, R453); and the performance counters of a tenant (R416). -/

namespace Sys2Proof.Machine

/-- Add to a performance counter of a tenant (R416), named by its offset. -/
def perfAdd (s : State) (tenant off n : Nat) : State :=
  if (partition s tenant).isNone then s
  else
    let one (p : Perf) : Perf := { p with counts := Cells.set p.counts off (Cells.get p.counts off + BitVec.ofNat 64 n) }
    if s.perf.any (fun p => p.tenant == tenant) then { s with perf := updWhere (fun p => p.tenant == tenant) one s.perf }
    else { s with perf := s.perf ++ [one { tenant := tenant, counts := [] }] }

/-- The VF index that a request of an ASID carries: the lowest active VF entry with it, else 0 (R454). -/
def vfOfAsid (s : State) (asid : Nat) : Nat :=
  match listMin ((s.vfs.filter (fun v => v.state == 1 && v.asid == asid)).map (fun v => v.vf)) with
  | some v => v
  | none => 0

/-- Count a posted packet (R458). -/
def countSent (s : State) (vf dev : Nat) : State :=
  { s with sent := Cells.set s.sent (16 * vf + dev) (Cells.get s.sent (16 * vf + dev) + 1) }

/-- Whether a port to a device is up (R456). -/
def directUp (s : State) (dev : Nat) : Bool := s.ports.any (fun p => p.peer == dev && p.en && p.up)

/-- Whether a packet can reach a device: directly, or through a relay to which a port is up (R456). The relay's own ports are the peer's
state; they are taken as up (assumption 14). -/
def pathTo (s : State) (dev : Nat) : Bool := directUp s dev || s.ports.any (fun p => p.en && p.up)

/-- The path slot of a packet among the ports wired to its device: the slot that its line always takes (R456). -/
def pathSlot (s : State) (dev laddr : Nat) : Nat :=
  let m := (s.ports.filter (fun p => p.peer == dev && p.en)).length
  if m = 0 then 0 else laddr % m

/-- The port that a packet leaves by (R456): the up ports to its device, or where there is none those to the lowest-numbered relay, in port order by
the packet's address. -/
def outPort (s : State) (dev laddr : Nat) : Option Nat :=
  let up := s.ports.filter (fun p => p.en && p.up)
  let hop := if up.any (fun p => p.peer == dev) then some dev else listMin (up.map (fun p => p.peer))
  hop.bind (fun h =>
    let d := up.filter (fun p => p.peer == h)
    (d[laddr % d.length]?).map (fun p => p.port))

/-- Data beats of a packet (R453 Table 7). -/
def pktBeats (p : Packet) : Nat := if p.opc = 3 || p.opc = 10 then 9 else (p.data.length + 15) / 16

/-- The address by which a packet chooses its path (R456): a flushing read, its reply and a gang message carry none. -/
def pktAddr (p : Packet) : Nat := if p.opc = 8 || p.opc = 9 || p.opc = 12 then 0 else p.laddr

/-- Send a packet: it takes the next PSN of its path slot (R456), its bytes from its VF's allowance on the port (R411; a short one only delays it,
assumption 1), and is counted (R416). -/
def sendPkt (s : State) (p : Packet) : State :=
  let k := 16 * p.dst + pathSlot s p.dst (pktAddr p)
  let n := 16 * (1 + pktBeats p)
  let tenant := match s.vfs.find? (fun v => v.vf == p.vf) with | some v => v.tenant | none => 64
  let port := outPort s p.dst (pktAddr p)
  let s := perfAdd s tenant (if p.cls then 0x58 else 0x50) n
  { s with
      tx := s.tx ++ [{ p with psn := (Cells.get s.psn k).toNat }]
      psn := Cells.set s.psn k (Cells.get s.psn k + 1)
      allowances := updWhere (fun a => a.vf == p.vf && some a.port == port && a.harvest == p.cls) (fun a => { a with bytes := a.bytes - n }) s.allowances }

/-- A packet for another device passes through this relay (R456): it leaves on a direct port, drawing on the allowance there, with RLY set; while no
such port is up it waits. -/
def relay (s : State) (p : Packet) : State :=
  let p := { p with rly := true }
  if s.ports.any (fun x => x.peer == p.dst && x.en && x.up) then
    let port := outPort s p.dst (pktAddr p)
    { s with
        tx := s.tx ++ [p]
        allowances := updWhere (fun a => a.vf == p.vf && some a.port == port && a.harvest == p.cls) (fun a => { a with bytes := a.bytes - 16 * (1 + pktBeats p) })
          s.allowances }
  else { s with unsent := s.unsent ++ [p] }

/-- Accept a packet that arrives: each PSN of a path slot once and in order (R456); any other is dropped. One for another device is relayed. -/
def accept (s : State) (p : Packet) (f : State → State) : State :=
  let k := 16 * p.src + pathSlot s p.src (pktAddr p)
  if p.dst ≠ s.devId then relay s p
  else if p.psn = (Cells.get s.rxPsn k).toNat then f { s with rxPsn := Cells.set s.rxPsn k (Cells.get s.rxPsn k + 1) } else s

/-- An INV to every sharer of a line but one (R457); one that no path reaches is answered at once, as R456 answers every request with a reply. -/
def invPackets (s : State) (l : Line) (writer : Option Nat) : List Packet :=
  ((List.range 16).filter (fun d => l.sharers.getLsbD d && some d ≠ writer && d ≠ s.devId && pathTo s d)).map (fun d =>
    { opc := 4, src := s.devId, dst := d, vf := vfOfAsid s l.asid, cls := false, rly := false, status := 0, tag := 0, poison := 0, psn := 0,
      laddr := l.addr / 128, mask := 0, data := [] })

/-- Copies of the line at other devices are invalidated (R457): INV to every sharer but the writer's device. -/
def invalidateSharers (s : State) (l : Line) (writer : Option Nat) : State :=
  let ps := invPackets s l writer
  if ps.isEmpty then s
  else
    let devs : BitVec 16 := BitVec.ofNat 16 (ps.foldl (fun acc p => acc + 2 ^ p.dst) 0)
    ps.foldl sendPkt { s with invWait := s.invWait ++ [(l.asid, l.addr, devs)] }

/-- A line whose last write at home waits for copies at peers to be invalidated: it is not readable yet (R457). -/
def invBusy (s : State) (asid la : Nat) : Bool := s.invWait.any (fun w => w.1 == asid && w.2.1 == la)

/-- A posted write-through of dirty bytes to a peer (R214, R453). -/
def wrPacket (s : State) (vf dev : Nat) (harvest : Bool) (l : Line) (m : BitVec 128) : Packet :=
  { opc := 3, src := s.devId, dst := dev, vf := vf, cls := harvest, rly := false, status := 0, tag := 0, poison := l.poison, psn := 0,
    laddr := l.addr / 128, mask := m, data := bytesOf 128 l.data.toNat }

/-- Post a write-through; without a path it is kept unsent (R456). -/
def postWr (s : State) (vf dev : Nat) (p : Packet) : State :=
  if pathTo s dev then countSent (sendPkt s p) vf dev else { s with unsent := s.unsent ++ [p] }

end Sys2Proof.Machine
end

