-- ==== Sys2Proof/Machine/Mem.lean ====
section
/-! DEFINITION. The memory system at home (07): rows and their protection (R207 to R210, R264, R265), L2 lines, record rings and events, and reads
and writes of home values. -/

namespace Sys2Proof.Machine

/-! ### Bytes of a line -/

/-- A mask of `n` bytes from offset `off`. -/
def byteMask (off n : Nat) : BitVec 128 := BitVec.ofNat 128 ((2 ^ n - 1) * 2 ^ off)

/-- `n` bytes at offset `off` of a line's data. -/
def dataRead (d : BitVec 1024) (off n : Nat) : Nat := d.toNat / 2 ^ (8 * off) % 2 ^ (8 * n)

/-- Put the lowest `n` bytes of `v` at offset `off`. -/
def dataWrite (d : BitVec 1024) (off n v : Nat) : BitVec 1024 :=
  let old := dataRead d off n
  BitVec.ofNat 1024 (d.toNat - old * 2 ^ (8 * off) + v % 2 ^ (8 * n) * 2 ^ (8 * off))

/-- Byte by byte, `a` where the mask has a bit and `b` elsewhere. -/
def dataMerge (m : BitVec 128) (a b : BitVec 1024) : BitVec 1024 :=
  BitVec.ofNat 1024 ((List.range 128).foldl
    (fun acc j => acc + dataRead (if m.getLsbD j then a else b) j 1 * 2 ^ (8 * j)) 0)

/-- Whether all bytes of a mask are among those of another. -/
def covers (big small : BitVec 128) : Bool := (small &&& big) == small

/-- Every byte of a line. -/
def fullMask : BitVec 128 := BitVec.ofNat 128 (2 ^ 128 - 1)

/-- The poison bits of the sectors that a range of a line touches (R209). -/
def poisonOf (p : BitVec 2) (off n : Nat) : Bool :=
  (off < 64 && p.getLsbD 0) || (64 < off + n && p.getLsbD 1)

/-- The poison left after bytes are written: a sector written whole is cleared (R209). -/
def poisonAfter (p : BitVec 2) (m : BitVec 128) : BitVec 2 :=
  let lo := covers m (byteMask 0 64)
  let hi := covers m (byteMask 64 64)
  BitVec.ofNat 2 ((if p.getLsbD 0 && !lo then 1 else 0) + (if p.getLsbD 1 && !hi then 2 else 0))

/-! ### Free values -/

/-- The next free value is used up. -/
def bumpFresh (s : State) : State := { s with fresh := s.fresh + 1 }

/-! ### L2 and HBM -/

/-- Poison of the two sectors of a physical line. -/
def hbmPoison (s : State) (pa : Nat) : BitVec 2 :=
  BitVec.ofNat 2 ((Cells.get s.hpoison (pa / 64)).toNat + 2 * (Cells.get s.hpoison (pa / 64 + 1)).toNat)

/-- What a read of a physical line finds: its data as HBM's code corrects it, the poison of its sectors, and the CRC that travels with each (R210). -/
structure PhysLine where
  data : BitVec 1024
  poison : BitVec 2
  crc : BitVec 32
deriving DecidableEq, Repr

/-- Read a physical line of HBM. -/
def hbmLine (s : State) (pa : Nat) : PhysLine :=
  if s.hmeta.isEmpty then { data := BitVec.ofNat 1024 (physRead s pa 128), poison := hbmPoison s pa, crc := 0 }
  else
    let x := sectorGet s (pa / 64)
    let y := sectorGet s (pa / 64 + 1)
    { data := BitVec.ofNat 1024 (x.data + 2 ^ 512 * y.data)
      poison := hbmPoison s pa ||| BitVec.ofNat 2 ((if x.bad then 1 else 0) + (if y.bad then 2 else 0))
      crc := BitVec.ofNat 32 (x.crc + 2 ^ 16 * y.crc) }

/-- The CRC that travels with sector `k` of a line enters HBM beside it (R210, R264). -/
def putCrc (s : State) (pa : Nat) (crc : BitVec 32) (k : Nat) : State :=
  { s with hmeta := Cells.set s.hmeta (pa / 64 + k) (BitVec.ofNat 48 (bits crc.toNat (16 * k) 16 * 2 ^ 32)) }

/-- Write masked bytes of a line to HBM, with its poison and its CRC. -/
def hbmPutLine (s : State) (pa : Nat) (m : BitVec 128) (d : BitVec 1024) (p : BitVec 2) (crc : BitVec 32) : State :=
  if Config.hbmBytes < pa + 128 then s
  else
    let s := if s.hmeta.isEmpty then s
      else [0, 1].foldl (fun s k => if m &&& byteMask (64 * k) 64 = 0 then s else sectorSettle s (pa / 64 + k) (covers m (byteMask (64 * k) 64))) s
    let old := BitVec.ofNat 1024 (readNum s.mem pa 128)
    let s := { s with
      mem := if m = 0 then s.mem else writeNum s.mem pa 128 (dataMerge m d old).toNat
      hpoison := Cells.set (Cells.set s.hpoison (pa / 64) (p.extractLsb' 0 1)) (pa / 64 + 1) (p.extractLsb' 1 1) }
    if crc = 0 then s else [0, 1].foldl (fun s k => if m &&& byteMask (64 * k) 64 = 0 then s else putCrc s pa crc k) s

/-! ### Rows and their banks (R207–R209) -/

/-- The number of the structure that is the L1 of a core (assumption 98). -/
def l1Unit (core : Nat) : Nat := core
/-- That of a quoin's scratchpad. -/
def scratchUnit (qid : Nat) : Nat := 1024 + qid
/-- That of the L2 slice of a line. -/
def l2Unit (la : Nat) : Nat := 2048 + 96 * homeDie la + sliceOf la

/-- The retired bank of a structure, if one is. -/
def retiredBank (s : State) (unit : Nat) : Option Nat := (s.banks.find? (fun b => b.unit == unit && b.retired)).map (fun b => b.bank)

/-- The course of a core that meets its second retirement, which ends with sub-code 2 (R436). -/
def metRetirement (s : State) (core : Nat) : List (Nat × Nat) := if coreOfQid s.cur.qid = core && s.cur.life = .live then [(s.cur.id, 2)] else []

/-- What the second retirement of a structure is handled as: an uncorrectable error of that structure (R208, R436), which stands next among the
events. -/
def secondRetirement (s : State) (unit : Nat) : Instr :=
  if unit < 1024 then .coreContainment unit (metRetirement s unit)
  else if unit < 2048 then .coreContainment (coreOfQid (unit - 1024)) (metRetirement s (coreOfQid (unit - 1024)))
  else .dieL2Failure ((unit - 2048) / 96)

/-- Count a correction of a bank: at 64 in one window it is retired (R208). -/
def countCorrection (s : State) (unit bank : Nat) : State :=
  let mine (b : BankRec) : Bool := b.unit == unit && b.bank == bank
  let old := (s.banks.find? mine).getD { unit := unit, bank := bank, count := 0, retired := false }
  let full := 63 ≤ old.count && !old.retired
  let s' := { s with banks := putWhere mine { old with count := old.count + 1, retired := old.retired || full, posted := old.posted && !full } s.banks }
  if full && (retiredBank s unit).isSome then { s' with inputs := secondRetirement s unit :: s'.inputs } else s'

/-- Read a row of a structure: its data and whether it is uncorrectable. What was at fault has been corrected in place (assumption 98). -/
def readRowOf (s : State) (unit d y : Nat) : State × Nat × Bool :=
  match readRow (retiredBank s unit) d y with
  | .clean => (s, d, false)
  | .corrected k x => (countCorrection s unit k, x, false)
  | .rebuilt x => (s, x, false)
  | .uncorrectable => (s, d, true)

/-- The CRCs of a line's two sectors, of which one is to be changed with its data. -/
def crcShift (crc : BitVec 32) (old new : BitVec 1024) : BitVec 32 :=
  let d (k : Nat) : Nat := crcOf (bytesOf 64 (bits (old ^^^ new).toNat (512 * k) 512))
  crc ^^^ BitVec.ofNat 32 (d 0 + 2 ^ 16 * d 1)

/-- Read the row of a line of a structure: one that cannot be corrected becomes poisoned, with its data kept (R209). -/
def readLine (s : State) (unit : Nat) (l : Line) : State × Line :=
  if l.syn = 0 then (s, l)
  else match readRowOf s unit l.data.toNat l.syn.toNat with
    | (s, _, true) => (s, { l with syn := 0, poison := 3 })
    | (s, x, false) => (s, { l with syn := 0, data := BitVec.ofNat 1024 x, crc := if l.crc = 0 then 0 else crcShift l.crc l.data (BitVec.ofNat 1024 x) })

/-- The sectors of a line that some bytes touch and whose CRC fails become poisoned (R264, R265). -/
def crcCheck (l : Line) (m : BitVec 128) : Line :=
  if l.crc = 0 then l
  else
    let bad (k : Nat) : Bool := bits l.crc.toNat (16 * k) 16 ≠ 0 && m &&& byteMask (64 * k) 64 ≠ 0
    { l with
      poison := l.poison ||| BitVec.ofNat 2 ((if bad 0 then 1 else 0) + (if bad 1 then 2 else 0))
      crc := BitVec.ofNat 32 ((if bad 0 then 0 else bits l.crc.toNat 0 16) + 2 ^ 16 * (if bad 1 then 0 else bits l.crc.toNat 16 16)) }

/-- Bytes enter a line (R209, R265): a sector written in part is checked first, one written whole loses its poison, the source's poison comes with its
bytes, and a new CRC is made. -/
def Line.takes (l : Line) (m : BitVec 128) (d : BitVec 1024) (p : BitVec 2) : Line :=
  let whole (k : Nat) : Bool := covers m (byteMask (64 * k) 64)
  let part : BitVec 128 := (if whole 0 then 0 else m &&& byteMask 0 64) ||| (if whole 1 then 0 else m &&& byteMask 64 64)
  let l := crcCheck l part
  let met : BitVec 2 := BitVec.ofNat 2 ((if m &&& byteMask 0 64 = 0 then 0 else 1) + (if m &&& byteMask 64 64 = 0 then 0 else 2))
  { l with
    data := dataMerge m d l.data
    poison := poisonAfter l.poison m ||| (p &&& met)
    crc := if l.crc = 0 then 0 else BitVec.ofNat 32 ((if met.getLsbD 0 then 0 else bits l.crc.toNat 0 16) + 2 ^ 16 * (if met.getLsbD 1 then 0 else bits l.crc.toNat 16 16)) }

/-! ### L2 -/

/-- The L2 line of (ASID, address). -/
def l2Find (s : State) (asid la : Nat) : Option Line := s.l2.find? (fun l => l.asid == asid && l.addr == la)

/-- Replace or drop an L2 line; the line written becomes the most recently used. -/
def l2Put (s : State) (l : Line) : State :=
  { s with l2 := s.l2.filter (fun x => !(x.asid == l.asid && x.addr == l.addr)) ++ [l] }
/-- Drop an L2 line without writing it back. -/
def l2Drop (s : State) (asid la : Nat) : State := { s with l2 := s.l2.filter (fun x => !(x.asid == asid && x.addr == la)) }

/-- Where the leaf now sends an address, without checks: its physical address, when the part is local. -/
def rawPa (s : State) (asid va : Nat) : Option Nat :=
  match leafAt s asid va with
  | .ok (e, _) => if leafLocal e va then some (leafFrame e * 2097152 + va % 2097152) else none
  | .error _ => none

/-- A stripe unit takes 256 bytes from a bucket (R410); a short bucket only delays the access, which an untimed model does not show (assumption 1). -/
def drawBucket (s : State) (tenant : Nat) (harvest : Bool) (la : Nat) : State :=
  { s with
      buckets := updWhere (fun b => b.ctrl == stackOf la && b.tenant == tenant && b.harvest == harvest) (fun b => { b with bytes := b.bytes - 256 }) s.buckets }

/-- A line is read from HBM or written to it for a tenant and class: the bytes are counted (R416; assumption 116), and its stripe unit's bucket gives 256
(R410). -/
def takeBucket (s : State) (tenant : Nat) (harvest : Bool) (la : Nat) : State :=
  drawBucket (perfAdd s tenant (if harvest then 0x48 else 0x40) 128) tenant harvest la

/-- Write a dirty L2 line to HBM; it stays clean. -/
def l2WriteBack (s : State) (l : Line) : State :=
  if l.dirty = 0 then s
  else match rawPa s l.asid l.addr with
    | some pa =>
      let r := readLine s (l2Unit l.addr) l
      hbmPutLine (takeBucket r.1 l.tenant l.cls l.addr) pa l.dirty r.2.data r.2.poison r.2.crc
    | none => s

/-- An L2 line leaves: dirty bytes reach HBM, and its copies at peers, of which nothing is recorded any longer, are invalidated (R457;
assumption 101). -/
def l2Evict (s : State) (l : Line) : State :=
  l2Drop (invalidateSharers (if l.peer.isSome then s else l2WriteBack s l) l none) l.asid l.addr

/-- The L2 line that holds the home value of a physical line, if L2 holds it. -/
def l2OfPhys (s : State) (pl : Nat) : Option Line := s.l2.find? (fun l => l.dirty ≠ 0 && l.peer.isNone && rawPa s l.asid l.addr == some pl)

/-- Read `n` bytes of a physical line at home: the bytes that L2 holds dirty, else HBM's. -/
def physHomeRead (s : State) (pa n : Nat) : Nat :=
  match l2OfPhys s (lineOf pa) with
  | some l => dataRead (dataMerge l.dirty (readLine s (l2Unit l.addr) l).2.data (hbmLine s (lineOf pa)).data) (pa % 128) n
  | none => physRead s pa n

/-- Write `n` bytes of a physical line at home: HBM's, and every copy of the line that L2 holds. -/
def physHomeWrite (s : State) (pa n v : Nat) : State :=
  let s := physWrite s pa n v
  { s with
      l2 := s.l2.map (fun l =>
        if l.peer.isNone && rawPa s l.asid l.addr == some (lineOf pa) then (readLine s (l2Unit l.addr) l).2.takes (byteMask (pa % 128) n) (dataWrite 0 (pa % 128) n v) 0
        else l) }

/-- The way mask of a tenant and class on a die (R382, R383); none for a tenant without a partition. -/
def wayMask (s : State) (tenant : Nat) (harvest : Bool) (die : Nat) : Word :=
  match partition s tenant with
  | none => 0
  | some p => if harvest then (if die = 0 then p.wmh0 else p.wmh1) else (if die = 0 then p.wmg0 else p.wmg1)

/-- The way that an allocation takes (R383): the lowest free way of the mask, else the way of the least recently used line of the mask's
ways that is not pinned, holds no unsent peer bytes and, for a harvest allocation, is no guaranteed line. -/
def l2Way (s : State) (a : Acc) (la : Nat) : Option (Nat × Option Line) :=
  let m := wayMask s a.tenant a.harvest (homeDie la)
  let inSet := s.l2.filter (fun l => homeDie l.addr == homeDie la && sliceOf l.addr == sliceOf la && l2Set l.addr == l2Set la)
  let ways := (List.range 32).filter (fun w => m.getLsbD w)
  match ways.find? (fun w => !inSet.any (fun l => l.way == w)) with
  | some w => some (w, none)
  | none =>
    match inSet.find? (fun l => memNat l.way ways && l.pin.isNone && !(a.harvest && !l.cls) && !(l.peer.isSome && l.dirty ≠ 0)) with
    | some v => some (v.way, some v)
    | none => none

/-- Where a home access ends (R371). -/
inductive HRes where
  /-- the line as held at home, and whether L2 holds it -/
  | line (l : Line) (held : Bool)
  /-- a word of a die's counter page (R414) -/
  | mmio (die off : Nat)
  /-- a remote line that must be fetched from its peer (R214) -/
  | peer (dev : Nat)
  | cause (sub : Nat)
  | absent
  /-- refused by a pin (R228) -/
  | pinned
deriving DecidableEq, Repr

/-- Install a line filled from HBM, displacing a victim; served without allocation when no way is open (R383). -/
def l2Fill (s : State) (a : Acc) (l : Line) : State × HRes :=
  match l2Way s a l.addr with
  | none => (s, .line l false)
  | some (w, victim) =>
    let s := match victim with
      | some v => l2Evict s v
      | none => s
    let l := { l with way := w }
    (l2Put s l, .line l true)

/-- The line of an access at its home slice, but for the events of R205 and R208: a hit with the tag checks of R204 to R206, or a translation and a
fill (R369, R371). -/
def homeGet0 (s : State) (a : Acc) (va : Nat) (u : Use) : State × HRes :=
  let la := lineOf va
  let as := effAsid s a.tenant a.asid va
  let hit := match l2Find s as la with
    | some l => if l.sg || l.tenant == a.tenant then some l else none
    | none => none
  -- a tag mismatch drops the line without write-back (R205)
  let s := match hit, l2Find s as la with
    | none, some _ => l2Drop s as la
    | _, _ => s
  match hit with
  | some l =>
    if l.sg && !isMember s a.tenant l.asid then (s, .cause 4)
    else if l.pin.isSome && l.pin ≠ a.core then (l2Put s { l with refusedOnce := true }, .pinned)
    else match permSub a.ring u l.w l.x l.k with
      | some c => (s, .cause c)
      | none =>
        let r := readLine s (l2Unit la) l
        let s := r.1
        let l := r.2
        if l.valid = fullMask then (perfAdd (l2Put s l) a.tenant 0x30 1, .line l true)
        else match l.peer with
          | some d => (s, .peer d)
          | none =>
            match rawPa s as la with
            | none => (s, .absent)
            | some pa =>
              let h := hbmLine s pa
              let l' := { l with data := dataMerge l.dirty l.data h.data, valid := fullMask, poison := l.poison ||| h.poison, crc := l.crc ^^^ h.crc }
              (l2Put (takeBucket s a.tenant a.harvest la) l', .line l' true)
  | none =>
    let s := perfAdd s a.tenant 0x38 1
    match translate s a va u with
    | .cause c => (s, .cause c)
    | .absent => (fillTlb s a va, .absent)
    | .rem d _ => (fillTlb s a va, .peer d)
    | .loc pa e =>
      let s := fillTlb s a va
      match counterPageOf s pa with
      | some (die, off) => (s, .mmio die off)
      | none =>
        let h := hbmLine s (lineOf pa)
        let s := takeBucket s a.tenant a.harvest la
        l2Fill s a
          { core := 0, way := 0, asid := as, addr := la, tenant := a.tenant, data := h.data, valid := fullMask, dirty := 0, w := leafW e, x := leafX e,
            k := leafK e, sg := leafSG e, peer := none, cls := a.harvest, pin := none, refusedOnce := false, sharers := 0, poison := h.poison,
            fresh := false, crc := h.crc }

/-- Put changed bytes of a line back at home: into L2 where it is held, else straight to HBM. Peer lines keep a local copy (R214). -/
def homePut (s : State) (l : Line) (held : Bool) (m : BitVec 128) : State :=
  if held then l2Put s l
  else match rawPa s l.asid l.addr with
    | some pa => hbmPutLine (takeBucket s l.tenant l.cls l.addr) pa m l.data l.poison l.crc
    | none => s

/-! ### Record rings and events (R356, R357, R361) -/

/-- Bytes of a record of a ring (R357). -/
def ringRecBytes : RingKind → Nat
  | .fault _ => 32
  | .event _ => 32
  | .dieEvent _ => 32
  | .dirty _ => 8

/-- Keystone's ASID for a ring: the partition entry's KASID, or that of the domain map for the rings of a die or VF (assumption 21). -/
def ringAsid (s : State) : RingKind → Nat
  | .fault t => match partition s t with | some p => p.kasid | none => s.kasid
  | .event t => match partition s t with | some p => p.kasid | none => s.kasid
  | .dieEvent _ => s.kasid
  | .dirty _ => s.kasid

/-- Write a record of `n` bytes, value `v`, at a ring-2 address, at home. -/
def ringStore (s : State) (asid va n v : Nat) : State :=
  let a : Acc := { core := none, asid := asid, tenant := 64, ring := 2, harvest := false }
  match homeGet0 s a va .write with
  | (s, .line l held) =>
    let m := byteMask (va % 128) n
    homePut s { l with data := dataWrite l.data (va % 128) n v, dirty := l.dirty ||| m, poison := poisonAfter l.poison m } held m
  | (s, _) => s

/-- Whether a ring holds as many records as it can. -/
def ringFull (r : Ring) : Bool := decide (2 ^ r.logDepth ≤ (r.tail - r.head).toNat)

/-- Put a ring's words back: into the device's copy and, at home, into its descriptor (R356): CTL's OVF bit, LOST and TAIL. -/
def ringPut (s : State) (r : Ring) : State :=
  let s := { s with rings := s.rings.map (fun x => if x.kind == r.kind then r else x) }
  let ctl := physHomeRead s r.loc 4
  let s := physHomeWrite s r.loc 4 (if r.ovf && !bitAt ctl 1 then ctl + 2 else ctl)
  physHomeWrite (physHomeWrite s (r.loc + 4) 4 r.lost.toNat) (r.loc + 0x14) 4 r.tail.toNat

/-- Append a record: with EN clear nothing is written or counted. HEAD is reread at home only when the ring looks full; with no room OVF is
set and LOST counts (R357). Answers whether there was room. -/
def ringAppend (s : State) (k : RingKind) (mk : Nat → Nat) : State × Bool :=
  match s.rings.find? (fun r => r.kind == k) with
  | none => (s, true)
  | some r =>
    if !r.en then (s, true)
    else
      let r := if ringFull r then { r with head := BitVec.ofNat 32 (physHomeRead s (r.loc + 0x10) 4) } else r
      if ringFull r then (ringPut s { r with ovf := true, lost := if r.lost = 0xFFFFFFFF then r.lost else r.lost + 1 }, false)
      else
        let n := ringRecBytes k
        let s := ringStore s (ringAsid s k) (r.base + n * (r.tail.toNat % 2 ^ r.logDepth)) n (mk r.tail.toNat)
        (ringPut s { r with tail := r.tail + 1 }, true)

/-- What an event record carries besides CODE and SEQ (R361 Table 17). -/
structure Event where
  code : Nat
  addr : Nat := 0
  asid : Nat := 0
  unit : Nat := 0
  spanId : Nat := 0
  detail : Nat := 0
deriving DecidableEq, Repr

/-- The 32 bytes of an event record; TIME is a free value (assumption 1). -/
def eventBytes (s : State) (e : Event) (seq : Nat) : Nat :=
  e.code % 2 ^ 32 + 2 ^ 32 * (seq % 2 ^ 32) + 2 ^ 64 * (e.addr % 2 ^ 64) + 2 ^ 128 * (e.asid % 2 ^ 16) + 2 ^ 144 * (e.unit % 2 ^ 16) +
    2 ^ 160 * (e.spanId % 2 ^ 32) + 2 ^ 192 * (e.detail % 2 ^ 32) + 2 ^ 224 * (Config.freeWord s.fresh).toNat

/-- Post an event to a ring. -/
def postEvent (s : State) (k : RingKind) (e : Event) : State := bumpFresh (ringAppend s k (eventBytes s e)).1

/-- Post an event to the die event queue of a die. -/
def postDie (s : State) (die : Nat) (e : Event) : State := postEvent s (.dieEvent die) e

/-- Post the bank retirements that have not been posted (R208, R361); DETAIL names structure and bank (assumption 98). -/
def postRetired (s : State) : State :=
  let due := s.banks.filter (fun b => !b.posted)
  if due.isEmpty then s
  else
    due.foldl (fun s b => postDie s (if b.unit < 1024 then dieOfCore b.unit else if b.unit < 2048 then dieOfQid (b.unit - 1024) else (b.unit - 2048) / 96)
      { code := 5, detail := 16 * b.unit + b.bank }) { s with banks := s.banks.map (fun b => { b with posted := true }) }

/-- A line whose tenant tag is not that of the lookup is dropped without write-back, and event code 6 names the tag found (R205). -/
def dropMismatch (s : State) (asid tenant la : Nat) : State :=
  match l2Find s asid la with
  | some l =>
    if l.sg || l.tenant == tenant then s
    else postDie (l2Drop s asid la) (homeDie la) { code := 6, addr := la, asid := asid, detail := l.tenant }
  | none => s

/-- The line of an access at its home slice. A line whose last write waits for copies at peers to be invalidated is not readable yet (R457): the access is
refused, and sent again as under a pin. -/
def homeGet (s : State) (a : Acc) (va : Nat) (u : Use) : State × HRes :=
  let as := effAsid s a.tenant a.asid va
  let s := dropMismatch s as a.tenant (lineOf va)
  if u ≠ .write && invBusy s as (lineOf va) then (s, .pinned)
  else
    let r := homeGet0 s a va u
    (postRetired r.1, r.2)

/-! ### What follows a write at home -/

/-- A part of a VF's leases counts as logged in this round (R362, R363). -/
def Ring.logged (r : Ring) (leased : Bool) (asid part : Nat) : Bool := r.filter.any (fun f => f.1 == asid && f.2 == part) || (r.allDirty && leased)

/-- Whether a part lies in some lease of an ASID (R363, R373). -/
def leasedPart (s : State) (asid va : Nat) : Bool :=
  s.leases.any (fun l => l.asid == asid && (l.state == 1 || l.state == 2) && l.ranges.any (fun r => rangeHas r va))

/-- Append to the dirty-part log of the VFs whose ASID the write falls under (R362). Where there is no room, every part of every lease of the VF counts
as logged until the round ends (R363). -/
def logDirty (s : State) (asid va : Nat) : State :=
  s.vfs.foldl (fun s v =>
    if v.state = 0 || v.asid ≠ asid then s
    else match s.rings.find? (fun r => r.kind == .dirty v.vf) with
      | none => s
      | some r =>
        if !r.en || r.ovf || r.logged (leasedPart s asid va) asid (partOf va) then s
        else
          let entry := partOf va + 4096 * (r.round % 16) + asid % 4096
          match ringAppend s (.dirty v.vf) (fun _ => entry) with
          | (s, true) =>
            { s with
                rings := updWhere (fun x => x.kind == .dirty v.vf)
                  (fun x => { x with filter := (if x.filter.length < 4096 then x.filter else []) ++ [(asid, partOf va)] }) s.rings }
          | (s, false) =>
            postDie { s with rings := updWhere (fun x => x.kind == .dirty v.vf) (fun x => { x with allDirty := true }) s.rings } (homeDie va)
              { code := 4, detail := v.vf }) s

/-- A write to a notify word of a VF's counter page raises or pends its MSI-X vector (R445). -/
def notifyHost (s : State) (asid va : Nat) : State :=
  s.vfs.foldl (fun s v =>
    if v.state = 0 || v.asid ≠ asid || va < v.cpage + 0xF00 || v.cpage + 0xF40 ≤ va then s
    else
      let k := (va - v.cpage - 0xF00) / 4
      if (Cells.get s.msixMask v.vf).getLsbD k then
        { s with msixPend := Cells.set s.msixPend v.vf (Cells.get s.msixPend v.vf ||| BitVec.ofNat 16 (2 ^ k)) }
      else if s.toHost.any (fun x => x == .msix v.vf k) then s
      else { s with toHost := s.toHost ++ [.msix v.vf k] }) s

/-- Whether a wait of a course is on a global word (R403). -/
def waitsOn (s : State) (c : Course) (asid va : Nat) (w : Option Wait) : Bool :=
  match w with
  | some (.waitc false a _ _ _ _) => a == va && effAsid s c.tenant c.asid va == asid
  | _ => false

/-- Whether writes to a word are announced: it is named as a dependence of a head span, or some course waits on it (R314, R403). -/
def watched (s : State) (asid va : Nat) : Bool :=
  s.spans.any (fun x => (x.state = .head || x.state = .eligible) && x.rcd.deps.any (fun d => d.1 == va) && effAsid s x.tenant x.asid va == asid) ||
  (s.cur :: s.courses).any (fun c => waitsOn s c asid va c.wait || waitsOn s c asid va c.waitBelow)

/-- A write of `m` bytes of line `la` has been performed at home: it is announced (R314, R403), logged (R362), and raises interrupts
(R445). -/
def afterWrite (s : State) (asid la : Nat) (m : BitVec 128) : State :=
  let words := (List.range 32).filter (fun j => (m &&& byteMask (4 * j) 4) ≠ 0)
  let s := { s with announced := s.announced ++ (words.map (fun j => (asid, la + 4 * j))).filter (fun a => watched s a.1 a.2) }
  let s := logDirty s asid la
  words.foldl (fun s j => notifyHost s asid (la + 4 * j)) s

/-- Write masked bytes at home, with the poison of their source. Answers how the access ended; `writer` is the device of a fabric write. A peer's line
keeps the bytes dirty only while they are unsent; its writes are performed, announced and logged at the peer. -/
def homeWrite (s : State) (a : Acc) (la : Nat) (m : BitVec 128) (d : BitVec 1024) (p : BitVec 2) (writer : Option Nat) : State × HRes :=
  match homeGet s a la .write with
  | (s, .line l held) =>
    let kept := match l.peer with | some dev => !pathTo s dev | none => true
    let l1 := l.takes m d p
    let l' := { l1 with dirty := if kept then l.dirty ||| m else l.dirty }
    let s := homePut s { l' with sharers := match writer with | some w => l.sharers &&& BitVec.ofNat 16 (2 ^ w) | none => 0 } held m
    match l.peer with
    | some dev => (postWr s (vfOfAsid s a.asid) dev (wrPacket s (vfOfAsid s a.asid) dev a.harvest l' m), .line l' held)
    | none => (afterWrite (invalidateSharers s l writer) l.asid la m, .line l' held)
  | (s, .peer dev) =>
    -- a posted write-through that needs no local copy
    let l : Line :=
      { core := 0, way := 0, asid := effAsid s a.tenant a.asid la, addr := la, tenant := a.tenant, data := d, valid := m, dirty := m,
        w := true, x := false, k := false, sg := false, peer := some dev, cls := a.harvest, pin := none, refusedOnce := false,
        sharers := 0, poison := p, fresh := false }
    let vf := vfOfAsid s a.asid
    (postWr s vf dev (wrPacket s vf dev a.harvest l m), .line l false)
  | (s, r) => (s, r)

/-- Write the lowest `n` bytes of `v` at home within one line. -/
def homeStore (s : State) (a : Acc) (va n v : Nat) : State × HRes :=
  homeWrite s a (lineOf va) (byteMask (va % 128) n) (dataWrite 0 (va % 128) n v) 0 none

/-- The CRCs of the sectors that `n` bytes of a home line touch are checked as the bytes leave (R264): a failing sector is marked poisoned. -/
def checkOut (s : State) (l : Line) (held : Bool) (off n : Nat) : State × Line :=
  if l.crc = 0 then (s, l)
  else
    let l := crcCheck l (byteMask off n)
    (if held then l2Put s l else s, l)

/-- Read `n` bytes at home within one line: the value, or how the access ended. -/
def homeLoad (s : State) (a : Acc) (va n : Nat) (u : Use) : State × HRes × Nat :=
  match homeGet s a va u with
  | (s, .line l h) =>
    let r := checkOut s l h (va % 128) n
    (r.1, .line r.2 h, dataRead r.2.data (va % 128) n)
  | (s, r) => (s, r, 0)

end Sys2Proof.Machine
end

