-- ==== Sys2Proof/Machine/L1.lean ====
section
/-! DEFINITION. The L1 of a core (R201, R202): its lines, what a core reads and stores through them, pins (R227), displacement, releases and acquires
(R219, R220) and fences (R257). -/

namespace Sys2Proof.Machine

/-- The L1 line of a core. -/
def l1Find (s : State) (core asid tenant la : Nat) : Option Line :=
  s.l1.find? (fun l => l.core == core && l.asid == asid && l.addr == la && (l.sg || l.tenant == tenant))

/-- Write an L1 line; it becomes the most recently used, or the least when `old`. -/
def l1Put (s : State) (l : Line) (old : Bool) : State :=
  let rest := s.l1.filter (fun x => !(x.core == l.core && x.asid == l.asid && x.addr == l.addr))
  { s with l1 := if old then l :: rest else rest ++ [l] }
/-- Drop an L1 line. -/
def l1Drop (s : State) (core asid la : Nat) : State :=
  { s with l1 := s.l1.filter (fun x => !(x.core == core && x.asid == asid && x.addr == la)) }

/-- The access of a core's own write-backs: its protection was checked when the bytes were stored. -/
def wbAcc (l : Line) : Acc := { core := some l.core, asid := l.asid, tenant := l.tenant, ring := 2, harvest := l.cls }

/-- Some courses have written a peer (R259): a write-back of their bytes to a line of the peer's has been acknowledged at the local L2. -/
def notePeers (s : State) (owners : List Nat) (dev : Option Nat) : State :=
  match dev with
  | none => s
  | some d =>
    let add (c : Course) : Course := if memNat c.id owners then { c with peers := c.peers ||| BitVec.ofNat 16 (2 ^ d) } else c
    { s with cur := add s.cur, courses := s.courses.map add }

/-- Read the row of an L1 line, and put it back when the read has corrected or poisoned it (R207, R209). -/
def readL1 (s : State) (l : Line) : State × Line :=
  if l.syn = 0 then (s, l)
  else
    let r := readLine s (l1Unit l.core) l
    (postRetired { r.1 with l1 := updWhere (fun x => x.core == l.core && x.asid == l.asid && x.addr == l.addr) (fun _ => r.2) r.1.l1 }, r.2)

/-- Write an L1 line's dirty bytes to its home, with their poison (R209, R219). Answers false when the line is pinned to another core (R228). -/
def l1WriteBack (s : State) (l : Line) : State × Bool :=
  if l.dirty = 0 then (s, true)
  else
    let x := readL1 s l
    match homeWrite x.1 (wbAcc { l with w := true }) l.addr l.dirty x.2.data x.2.poison none with
    | (s, .pinned) => (s, false)
    | (s, .line h _) => (notePeers s l.owners h.peer, true)
    | (s, _) => (s, true)

/-- A line whose dirty bytes have been written home. -/
def Line.cleaned (l : Line) : Line := { l with dirty := 0, owners := [] }

/-- The dirty bytes of a line stand at home: the line stays, clean. -/
def cleanL1 (s : State) (l : Line) : State :=
  { s with l1 := updWhere (fun x => x.core == l.core && x.asid == l.asid && x.addr == l.addr) Line.cleaned s.l1 }

/-- How an attempt to pin a line ended: refused by another core's pin (R228), pinned, or written back for want of a way (R227). -/
inductive PinRes where
  | refused | pinned | written
deriving DecidableEq, Repr

/-- Pin a line to a core at its home (R227): in its L2 entry, or a tag-only one; with no way open the line is written back instead. -/
def pinLine (s : State) (l : Line) : State × PinRes :=
  let s := dropMismatch s l.asid l.tenant l.addr
  match l2Find s l.asid l.addr with
  | some x =>
    if x.pin.isSome && x.pin ≠ some l.core then (l2Put s { x with refusedOnce := true }, .refused)
    else (l2Put s { x with pin := some l.core, pinT := l.tenant }, .pinned)
  | none =>
    match l2Way s (wbAcc l) l.addr with
    | none =>
      let r := l1WriteBack s l
      (r.1, if r.2 then .written else .refused)
    | some (w, victim) =>
      let s := match victim with
        | some v => l2Evict s v
        | none => s
      let x : Line :=
        { l with core := 0, way := w, data := 0, valid := 0, dirty := 0, pin := some l.core, refusedOnce := false, sharers := 0, poison := 0,
                 fresh := false, syn := 0, crc := 0, pinT := l.tenant, owners := [] }
      (l2Put s x, .pinned)

/-- Displace an L1 line: dirty bytes land at home as a pinned line (R202). Answers false when another core's pin refuses them: the line stays. -/
def displace (s : State) (l : Line) : State × Bool :=
  if l.dirty = 0 then (l1Drop s l.core l.asid l.addr, true)
  else match l1WriteBack s l with
    | (s, false) => (s, false)
    | (s, true) => (l1Drop (pinLine s l.cleaned).1 l.core l.asid l.addr, true)

/-- Allocate a way of the filling quoin for a line, displacing as R202 orders: an invalid way, the least recently used clean line not read
since the last acquire, the least recently used clean line, the least recently used line. No way while a displacement is refused (R228). -/
def l1Alloc (s : State) (core quoin la : Nat) : State × Option Nat :=
  let mine := (List.range 5).map (fun k => 5 * (quoin % 4) + k)
  let inSet := s.l1.filter (fun l => l.core == core && l1Set l.addr == l1Set la && memNat l.way mine)
  match mine.find? (fun w => !inSet.any (fun l => l.way == w)) with
  | some w => (s, some w)
  | none =>
    let victim :=
      match inSet.find? (fun l => l.dirty == 0 && !l.fresh) with
      | some v => some v
      | none => match inSet.find? (fun l => l.dirty == 0) with
        | some v => some v
        | none => inSet.head?
    match victim with
    | some v =>
      let r := displace s v
      (r.1, if r.2 then some v.way else none)
    | none => (s, some (5 * (quoin % 4)))

/-- Where an access of a course stands: its core, the quoin that it fills for, and the course. -/
structure Site where
  core : Nat
  quoin : Nat
  course : Nat
deriving DecidableEq, Repr

/-- What a home line `h` gives to a read of `n` bytes at `va` through a core (R201, R221, R224): bytes that the L1 holds win, at home only its dirty
ones; unless `hint` is 2 the line is kept in the L1 (R244). Its sectors' CRCs are checked as they leave (R264). -/
def coreFill (s : State) (a : Acc) (si : Site) (va n hint : Nat) (h : Line) (held : Bool) : State × HRes × Nat × Bool :=
  let la := lineOf va
  let off := va % 128
  let l1 := l1Find s si.core h.asid a.tenant la
  let out := checkOut s h held (if hint = 2 then off else 0) (if hint = 2 then n else 128)
  let s := out.1
  let h := out.2
  if hint = 2 then
    let d := match l1 with | some l => dataMerge l.dirty l.data h.data | none => h.data
    (s, .line h held, dataRead d off n, poisonOf h.poison off n)
  else match l1 with
    | some l =>
      let d := dataMerge l.valid l.data h.data
      (l1Put s { l with data := d, valid := fullMask, poison := l.poison ||| h.poison, fresh := true } (hint == 1), .line h held, dataRead d off n,
        poisonOf (l.poison ||| h.poison) off n)
    | none =>
      match l1Alloc s si.core si.quoin la with
      | (s, none) => (s, .pinned, 0, false)
      | (s, some w) =>
        (l1Put s { h with core := si.core, way := w, valid := fullMask, dirty := 0, pin := none, refusedOnce := false, sharers := 0,
                          cls := a.harvest, fresh := true, crc := 0, owners := [] } (hint == 1), .line h held, dataRead h.data off n, poisonOf h.poison off n)

/-- Read `n` bytes through a core's view (R221, R224, R243, R244): an L1 hit on valid bytes returns the line's value; else the home line is
fetched. Answers the value and whether it is poisoned. -/
def coreRead (s : State) (a : Acc) (si : Site) (va n hint : Nat) (u : Use) : State × HRes × Nat × Bool :=
  let as := effAsid s a.tenant a.asid va
  let la := lineOf va
  let off := va % 128
  let need := byteMask off n
  let l1 := l1Find s si.core as a.tenant la
  let perm := match l1 with
    | some l => permSub a.ring u l.w l.x l.k
    | none => none
  match perm with
  | some c => (s, .cause c, 0, false)
  | none =>
    let hit := match l1 with
      | some l => if hint ≠ 2 && covers l.valid need then some l else if hint = 2 && covers l.dirty need then some l else none
      | none => none
    match hit with
    | some l =>
      let r := readL1 s l
      (l1Put r.1 { r.2 with fresh := true } false, .line r.2 true, dataRead r.2.data off n, poisonOf r.2.poison off n)
    | none =>
      let s := match l1 with | some l => (readL1 s l).1 | none => s
      match homeGet s { a with core := some si.core } va u with
      | (s, .line h held) => coreFill s a si va n hint h held
      | (s, r) => (s, r, 0, false)

/-- A line with no bytes, of the attributes of a leaf. -/
def tagLine (a : Acc) (asid la e : Nat) (peer : Option Nat) : Line :=
  { core := 0, way := 0, asid := asid, addr := la, tenant := a.tenant, data := 0, valid := 0, dirty := 0, w := leafW e, x := leafX e,
    k := leafK e, sg := leafSG e, peer := peer, cls := a.harvest, pin := none, refusedOnce := false, sharers := 0, poison := 0,
    fresh := false }

/-- How a store to `va` would end, from the L1 tag, the L2 tag or a walk, without changing data (R371). -/
def probe (s : State) (a : Acc) (si : Site) (va : Nat) (u : Use) : State × HRes :=
  let as := effAsid s a.tenant a.asid va
  let la := lineOf va
  match l1Find s si.core as a.tenant la with
  | some l => match permSub a.ring u l.w l.x l.k with
    | some c => (s, .cause c)
    | none => (s, .line l true)
  | none =>
    match l2Find s as la with
    | some l =>
      if l.sg && !isMember s a.tenant l.asid then (s, .cause 4)
      else if !l.sg && l.tenant ≠ a.tenant then
        match translate s a va u with
        | .cause c => (s, .cause c)
        | .absent => (s, .absent)
        | .rem d e => (fillTlb s a va, .line (tagLine a as la e (some d)) false)
        | .loc _ e => (fillTlb s a va, .line (tagLine a as la e none) false)
      else match permSub a.ring u l.w l.x l.k with
        | some c => (s, .cause c)
        | none => (s, .line l false)
    | none =>
      match translate s a va u with
      | .cause c => (s, .cause c)
      | .absent => (fillTlb s a va, .absent)
      | .rem d e =>
        (fillTlb s a va, .line (tagLine a as la e (some d)) false)
      | .loc pa e =>
        match counterPageOf s pa with
        | some (die, off) => (s, .mmio die off)
        | none =>
          (fillTlb s a va, .line (tagLine a as la e none) false)

/-- The number of a course among the owners of a line's dirty bytes (R259). -/
def addOwner (owners : List Nat) (c : Nat) : List Nat := if memNat c owners then owners else owners ++ [c]

/-- Store the lowest `n` bytes of `v` into a core's L1 (R201, R245): the line is allocated without being read. -/
def coreStore (s : State) (a : Acc) (si : Site) (va n v : Nat) : State × HRes :=
  let as := effAsid s a.tenant a.asid va
  let la := lineOf va
  let m := byteMask (va % 128) n
  let upd (l : Line) : Line :=
    { l with data := dataWrite l.data (va % 128) n v, valid := l.valid ||| m, dirty := l.dirty ||| m, poison := poisonAfter l.poison m,
             owners := addOwner l.owners si.course }
  match probe s a si va .write with
  | (s, .line l _) =>
    match l1Find s si.core as a.tenant la with
    | some x =>
      let r := readL1 s x
      (l1Put r.1 (upd r.2) false, .line r.2 true)
    | none =>
      match l1Alloc s si.core si.quoin la with
      | (s, none) => (s, .pinned)
      | (s, some w) =>
        let x : Line := { l with core := si.core, way := w, data := 0, valid := 0, dirty := 0, pin := none, refusedOnce := false, sharers := 0,
                                 poison := 0, tenant := a.tenant, cls := a.harvest, fresh := false, syn := 0, crc := 0, owners := [] }
        (l1Put s (upd x) false, .line x true)
  | (s, r) => (s, r)

/-! ### Releases and acquires (R219, R220) -/

/-- The ASIDs of a course's locations: its own, and those of its tenant's share groups (R215). -/
def asidsOf (s : State) (tenant asid : Nat) : List Nat :=
  asid :: (s.shares.filter (fun g => g.members.getLsbD tenant)).map (fun g => g.gasid)

/-- Clear the pins that a core holds for some ASIDs. -/
def clearPins (s : State) (core : Nat) (asids : List Nat) : State :=
  { s with l2 := updWhere (fun l => l.pin == some core && memNat l.asid asids) (fun l => { l with pin := none, refusedOnce := false }) s.l2 }

/-- The core's L1 lines with dirty bytes of some ASIDs. -/
def dirtyLines (s : State) (core : Nat) (asids : List Nat) : List Line :=
  s.l1.filter (fun l => l.core == core && memNat l.asid asids && l.dirty ≠ 0)

/-- Write every dirty line back to its home; lines stay clean in L1. Answers the peers written and whether nothing was refused. -/
def writeBackAll (s : State) (ls : List Line) : State × BitVec 16 × Bool :=
  match ls with
  | [] => (s, 0, true)
  | l :: rest =>
    let r := l1WriteBack s l
    let s := if r.2 then cleanL1 r.1 l else r.1
    let peerBit : BitVec 16 := match l.peer with | some d => BitVec.ofNat 16 (2 ^ d) | none => 0
    let t := writeBackAll s rest
    (t.1, (if r.2 then peerBit else 0) ||| t.2.1, r.2 && t.2.2)

/-- Pin every dirty line at its home; one that is written back for want of a way stays clean in L1 (R227). -/
def pinAll (s : State) (ls : List Line) : State × Bool :=
  match ls with
  | [] => (s, true)
  | l :: rest =>
    match pinLine s l with
    | (s, .written) => pinAll (cleanL1 s l) rest
    | (s, .pinned) => pinAll s rest
    | (s, .refused) => ((pinAll s rest).1, false)

/-- The line part of a release at a scope (R219 Table 3): scopes 0 to 6 as R105 codes them. Answers the peers written and whether every line was
written or pinned. -/
def releaseLines (s : State) (core : Nat) (asids : List Nat) (scope : Nat) : State × BitVec 16 × Bool :=
  if scope = 0 then (s, 0, true)
  else if scope ≤ 2 then
    let r := pinAll s (dirtyLines s core asids)
    (r.1, 0, r.2)
  else
    let r := writeBackAll s (dirtyLines s core asids)
    if r.2.2 then (clearPins r.1 core asids, r.2) else r

/-- The line part of an acquire at a scope (R220 Table 4). -/
def acquireLines (s : State) (core : Nat) (asids : List Nat) (scope : Nat) : State :=
  if scope ≤ 2 then s
  else
    let mine (l : Line) : Bool := l.core == core && memNat l.asid asids
    { s with
        l1 := updWhere mine (fun l => { l with valid := l.dirty, fresh := false })
          (s.l1.filter (fun l => !(mine l && l.dirty == 0))) }

/-- End the pin on a line as R229 and R257 do: the holder writes the line back, then the pin is cleared. -/
def endPin (s : State) (asid la : Nat) : State :=
  match l2Find s asid la with
  | some x =>
    match x.pin with
    | none => s
    | some core =>
      let s := match s.l1.find? (fun l => l.core == core && l.asid == asid && l.addr == la) with
        | some l => cleanL1 (l1WriteBack s l).1 l
        | none => s
      { s with l2 := updWhere (fun l => l.asid == asid && l.addr == la) (fun l => { l with pin := none, refusedOnce := false }) s.l2 }
  | none => s

/-- An engine's or frame's write invalidates the line in a core's L1; dirty bytes stay and the clean bytes become stale (R233, R234). -/
def l1Stale (s : State) (core asid la : Nat) : State :=
  { s with
      l1 := updWhere (fun l => l.core == core && l.asid == asid && l.addr == la) (fun l => { l with valid := l.dirty })
        (s.l1.filter (fun l => !(l.core == core && l.asid == asid && l.addr == la && l.dirty == 0))) }

/-- Make one line consistent with HBM (R257): the pin ends, dirty bytes of the core's L1 reach home, home's reach HBM (or the peer), and the
copies are invalidated. -/
def fenceLine (s : State) (core asid tenant la : Nat) : State :=
  let s := endPin (dropMismatch s asid tenant la) asid la
  let s := match l1Find s core asid tenant la with
    | some l => l1Drop (l1WriteBack s l).1 core asid la
    | none => s
  match l2Find s asid la with
  | some x => l2Evict s x
  | none => s

/-- Whether writes of some ASIDs wait until copies at peers are invalidated: none of them has been acknowledged (R457). -/
def invOpen (s : State) (asids : List Nat) : Bool := s.invWait.any (fun w => memNat w.1 asids)

end Sys2Proof.Machine
end

