-- ==== Sys2Proof/Machine/Spans.lean ====
section
/-! DEFINITION. What the ends of spans and the parking of accesses share: requests to peers (R453), the park table and the fault queue
(R358), lease entries in memory (R373), the completion writes (R46, R306, R307) and the end of a span (R47, R313). -/

namespace Sys2Proof.Machine

/-! ### Requests to peers (R453, R456) -/

/-- A packet of this device with no data. -/
def packet (s : State) (opc : Byte) (dev vf : Nat) (cls : Bool) (la : Nat) : Packet :=
  { opc := opc, src := s.devId, dst := dev, vf := vf, cls := cls, rly := false, status := 0, tag := 0, poison := 0, psn := 0,
    laddr := la / 128, mask := 0, data := [] }

/-- Send a request whose reply is awaited, under a new tag. -/
def sendReq (s : State) (p : Packet) (who : ReqWho) : State :=
  let tag := s.nextTag % 65536
  sendPkt
    { s with
        reqs := s.reqs ++ [{ tag := tag, dev := p.dst, opc := p.opc.toNat, who := who }]
        nextTag := s.nextTag + 1 } { p with tag := tag }

/-- Whether a request of the same kind and waiter is outstanding. -/
def reqPending (s : State) (opc : Nat) (who : ReqWho) : Bool := s.reqs.any (fun r => r.opc == opc && r.who == who)

/-- The mask field of an ATM packet: the byte offset of the word in its line, the operation, whether it is 64 bits and returns, and the code of another
size. -/
def atmMask (off op : Nat) (wide ret : Bool) (size : Nat := 0) : BitVec 128 :=
  BitVec.ofNat 128 (off + 128 * op + 2048 * (if wide then 1 else 0) + 4096 * (if ret then 1 else 0) + 8192 * size)

/-- The code of the size of an exchange that is neither 32 nor 64 bits: a store of 1, 2 or 16 bytes (R245). -/
def sizeCode (z : Nat) : Nat := if z = 1 then 1 else if z = 2 then 2 else if z = 16 then 3 else 0

/-- The bytes of the word that the mask field of an ATM packet names. -/
def atmSize (mask : BitVec 128) : Nat :=
  match bits mask.toNat 13 2 with
  | 1 => 1
  | 2 => 2
  | 3 => 16
  | _ => if mask.getLsbD 11 then 8 else 4

/-- An ATM packet (R453): operation, operands. -/
def atmPacket (s : State) (dev vf : Nat) (cls : Bool) (va op : Nat) (wide ret : Bool) (b : Nat) (size : Nat := 0) : Packet :=
  { packet s 6 dev vf cls (lineOf va) with mask := atmMask (va % 128) op wide ret size, data := bytesOf 16 b }

/-- An FRD packet carrying the count of posted packets (R458). -/
def frdPacket (s : State) (dev vf : Nat) : Packet :=
  { packet s 8 dev vf false 0 with laddr := (Cells.get s.sent (16 * vf + dev)).toNat }

/-! ### Parking (R358) -/

/-- What a fault record carries (R358 Table 15). -/
structure FaultRec where
  tenant : Nat
  addr : Nat
  asid : Nat
  kind : Nat
  first : Bool
  engine : Bool
  lanes : Nat
  qid : Nat
  slot : Nat
  spanId : Nat
deriving DecidableEq, Repr

/-- The 32 bytes of a fault record; TIME is a free value (assumption 1). -/
def faultBytes (s : State) (f : FaultRec) (seq : Nat) : Nat :=
  f.addr % 2 ^ 64 + 2 ^ 64 * (seq % 2 ^ 32) + 2 ^ 96 * (f.asid % 4096) + 2 ^ 112 * f.kind + 2 ^ 120 * (if f.first then 1 else 0) +
    2 ^ 121 * (if f.engine then 1 else 0) + 2 ^ 128 * f.lanes + 2 ^ 160 * (f.qid % 65536) + 2 ^ 176 * (f.slot % 256) +
    2 ^ 192 * (f.spanId % 2 ^ 32) + 2 ^ 224 * (Config.freeWord s.fresh).toNat

/-- Write a fault record; with no room, event code 2 goes to the partition and die event queues with LOST (R357, R361). -/
def writeFaultRec (s : State) (f : FaultRec) : State :=
  match ringAppend s (.fault f.tenant) (faultBytes s f) with
  | (s, true) => bumpFresh s
  | (s, false) =>
    let lost := match s.rings.find? (fun r => r.kind == .fault f.tenant) with
      | some r => r.lost.toNat
      | none => 0
    postDie (postEvent (bumpFresh s) (.event f.tenant) { code := 2, detail := lost }) (homeDie f.addr) { code := 2, detail := lost }

/-- Whether a park entry is the one on a part. -/
def ParkEntry.on (e : ParkEntry) (asid part : Nat) : Bool := e.asid == asid && e.part == part

/-- A course leaves the state Ready (R38): its next STAMP counts the moment at which it is Ready again (R320). -/
def leaveReady (s : State) (c : Nat) : State :=
  let f (x : Course) : Course := if x.id == c then { x with away := true } else x
  { s with cur := f s.cur, courses := s.courses.map f }

/-- Add a parker to a part's entry and to the fault queue's order, with its fault record (R358, R359). A parker already in the entry is not added
again. -/
def parkOn (s : State) (asid part : Nat) (who : Nat × Nat) (f : FaultRec) : State :=
  let s := leaveReady s who.1
  let order := s.parkOrder ++ [who]
  match s.parks.find? (fun e => e.on asid part) with
  | some e =>
    if e.parkers.any (fun p => p == who) then s
    else
      let parks := s.parks.map (fun x => if x.on asid part then { x with parkers := x.parkers ++ [who] } else x)
      writeFaultRec { s with parks := parks, parkOrder := order } { f with first := false }
  | none => writeFaultRec { s with parks := s.parks ++ [{ asid := asid, part := part, parkers := [who] }], parkOrder := order } { f with first := true }

/-- Take a parker out of every entry; an empty entry is freed. -/
def unpark (s : State) (who : Nat × Nat → Bool) : State :=
  let parks := s.parks.map (fun e => { e with parkers := e.parkers.filter (fun p => !who p) })
  { s with parks := parks.filter (fun e => !e.parkers.isEmpty), parkOrder := s.parkOrder.filter (fun p => !who p) }

/-! ### Lease entries (R373) -/

/-- The physical address of entry `i` of a tenant's lease table. -/
def leasePa (s : State) (tenant i : Nat) : Nat := physRead s (s.boot.troot + 0x28) 8 + 65536 * tenant + 256 * i

/-- The lease entry `i` of a tenant as installed; one never written is free (R373). -/
def leaseAt (s : State) (tenant i : Nat) : Lease :=
  (s.leases.find? (fun l => l.tenant == tenant && l.ix == i)).getD
    { tenant := tenant, ix := i, state := 0, asid := 0, gen := 0, spans := 0, ranges := [] }

/-- Install a lease entry. -/
def leasePut (s : State) (l : Lease) : State :=
  { s with leases := putWhere (fun x => x.tenant == l.tenant && x.ix == l.ix) l s.leases }

/-- Whether a handle names a lease (R373). -/
def leaseNamed (s : State) (tenant h : Nat) : Bool :=
  let l := leaseAt s tenant (h % 256)
  l.gen == h / 256 && (l.state == 1 || l.state == 2)

/-- Set SPANS of a lease entry, in the table too (R373). -/
def leaseCount (s : State) (l : Lease) (n : Nat) : State := physWrite (leasePut s { l with spans := n }) (leasePa s l.tenant l.ix + 8) 4 n

/-- Lower SPANS of the lease that a span names (R373). -/
def leaseDrop (s : State) (tenant h : Nat) : State :=
  let l := leaseAt s tenant (h % 256)
  if l.gen == h / 256 then leaseCount s l (l.spans - 1) else s

/-! ### Span queues (R301, R313) -/

/-- A queue of a tenant. -/
def findQueue (s : State) (tenant q : Nat) : Option Queue := s.queues.find? (fun x => x.tenant == tenant && x.q == q)

/-- Put a queue back, with HEAD and TAIL written to its descriptor at home (R301). -/
def putQueue (s : State) (x : Queue) : State :=
  let s := { s with queues := s.queues.map (fun y => if y.tenant == x.tenant && y.q == x.q then x else y) }
  physHomeWrite (physHomeWrite s (x.loc + 0x10) 4 x.head.toNat) (x.loc + 0x14) 4 x.tail.toNat

/-- Replace a span. -/
def putSpan (s : State) (sp : Span) : State := { s with spans := s.spans.map (fun x => if x.id == sp.id then sp else x) }
/-- The span with an internal name. -/
def findSpan (s : State) (id : Nat) : Option Span := s.spans.find? (fun x => x.id == id)

/-- Whether a span still stands in its queue (R313: it leaves on entering Running). -/
def Span.inQueue (sp : Span) : Bool := sp.state = .queued || sp.state = .head || sp.state = .eligible || sp.state = .placing

/-- Take the records of a queue at its head, strictly in order (R302): HEAD counts those whose spans have left it, and the first that has not
becomes its head (R313). -/
def takeRecords (s : State) (tenant q fuel : Nat) : State :=
  match fuel, s.spans.find? (fun x => x.tenant == tenant && x.queue == q && !x.out) with
  | n + 1, some x =>
    if x.inQueue then (if x.state = .queued then putSpan s { x with state := .head } else s)
    else
      let s := match findQueue s tenant q with
        | some y => putQueue s { y with head := y.head + 1 }
        | none => s
      takeRecords (putSpan s { x with out := true }) tenant q n
  | _, _ => s

/-- The queue of a span goes on after the span's state has changed. -/
def leaveQueue (s : State) (sp : Span) : State := takeRecords s sp.tenant sp.queue (s.spans.length + 1)

/-! ### Completion (R46, R307) -/

/-- The access of a span's completion writes. -/
def spanAcc (sp : Span) : Acc := { core := none, asid := sp.asid, tenant := sp.tenant, ring := 0, harvest := sp.harvest }

/-- The die of a span's queue. -/
def spanDie (s : State) (sp : Span) : Nat := match findQueue s sp.tenant sp.queue with | some x => x.home | none => 0

/-- Event code 18: a completion write that is not made (R307). -/
def completionRefused (s : State) (sp : Span) (va detail : Nat) : State :=
  postEvent s (.event sp.tenant) { code := 18, addr := va, spanId := sp.rcd.spanId.toNat, detail := detail }

/-- How one completion write ended. -/
inductive Written where
  /-- made, or refused for good -/
  | decided
  /-- a peer has been asked, whose reply decides it -/
  | asked
  /-- to be tried again: a pin or an absent part of a soft range -/
  | waits
deriving DecidableEq, Repr

/-- One completion write: the status word (`detail` 0, a store) or the counter (1, an add of 1). At a peer either is performed as an atomic, whose reply
says whether the peer refused it (R307; assumption 102). -/
def completionWrite (s : State) (sp : Span) (va detail : Nat) : State × Written :=
  let a := spanAcc sp
  if (leaseSub sp.window va .write).isSome then (completionRefused s sp va detail, .decided)
  else
    let status := sp.kind * 65536 + sp.cause
    match homeLoad s a va 4 .write with
    | (s, .line l _, old) =>
      match l.peer with
      | some dev =>
        if pathTo s dev then
          (sendReq (l2Drop s l.asid l.addr) (atmPacket s dev (vfOfAsid s a.asid) a.harvest va (if detail = 0 then 8 else 0) false false
            (if detail = 0 then status else 1)) (.span sp.id), .asked)
        else (completionRefused s sp va detail, .decided)
      | none => ((homeStore s a va 4 (if detail = 0 then status else old + 1)).1, .decided)
    | (s, .peer dev, _) =>
      if pathTo s dev then
        (sendReq s (atmPacket s dev (vfOfAsid s a.asid) a.harvest va (if detail = 0 then 8 else 0) false false (if detail = 0 then status else 1))
          (.span sp.id), .asked)
      else (completionRefused s sp va detail, .decided)
    | (s, .pinned, _) => (s, .waits)
    | (s, .absent, _) =>
      if isSoft sp.window va then
        let f : FaultRec :=
          { tenant := sp.tenant, addr := va, asid := effAsid s sp.tenant sp.asid va, kind := 5, first := true, engine := true, lanes := 0,
            qid := 768 + spanDie s sp, slot := 0, spanId := sp.rcd.spanId.toNat }
        (parkOn s (effAsid s sp.tenant sp.asid va) (partOf va) (0, 2 * sp.id + detail) f, .waits)
      else (completionRefused s sp va detail, .decided)
    | (s, .cause _, _) => (completionRefused s sp va detail, .decided)
    | (s, .mmio _ _, _) => (completionRefused s sp va detail, .decided)

/-- The cores whose L1 holds dirty lines of some ASIDs. -/
def dirtyCores (s : State) (asids : List Nat) : List Nat :=
  (List.range 194).filter (fun k => s.l1.any (fun l => l.core == k && l.dirty ≠ 0 && memNat l.asid asids))

/-- Release every core's lines of some ASIDs at device scope; answers the peers written and whether every line was written. -/
def releaseCores (s : State) (asids : List Nat) (cores : List Nat) : State × BitVec 16 × Bool :=
  match cores with
  | [] => (s, 0, true)
  | k :: rest =>
    let r := releaseLines s k asids 5
    let t := releaseCores r.1 asids rest
    (t.1, r.2.1 ||| t.2.1, r.2.2 && t.2.2)

/-- The members of a set of peers. -/
def peersOf (m : BitVec 16) : List Nat := (List.range 16).filter (fun d => m.getLsbD d)

/-- The gang-span key of a span (R54). -/
def Span.gangKey (sp : Span) : Nat := sp.rcd.spanId.toNat % 65536

/-- Whether a gang span of a key, other than one, is on the device and not Done. -/
def gangOn (s : State) (key id : Nat) : Bool := s.spans.any (fun x => x.rcd.gang && x.gangKey == key && x.id ≠ id && x.state ≠ .done)

/-- The next gang of a key begins: its record holds only the ready messages that came for it already (R56; assumption 103). -/
def gangRenew (s : State) (key : Nat) : State :=
  { s with
      gangs := updWhere (fun g => g.key == key) (fun g => { key := key, arrived := false, ready := g.next, decision := 0, freed := false, next := 0 }) s.gangs }

/-- A completion write is decided: the next step follows, and after the counter's the span is Done (R313). -/
def writeDecided (s : State) (sp : Span) : State :=
  if sp.stage = 1 then putSpan s { sp with stage := 2, asked := false }
  else
    let s := if sp.rcd.gang && gangOn s sp.gangKey sp.id then gangRenew s sp.gangKey else s
    leaseDrop (putSpan s { sp with stage := 3, asked := false, state := .done }) sp.tenant sp.rcd.lease

/-- A peer's reply to a completion write (R307): a refusal is reported. -/
def completionReplied (s : State) (id status : Nat) : State :=
  match findSpan s id with
  | none => s
  | some sp =>
    if !sp.asked then s
    else
      let detail := sp.stage - 1
      writeDecided (if status = 0 then s else completionRefused s sp (if detail = 0 then sp.rcd.status else sp.rcd.counter) detail) sp

/-- Whether accesses or commands that a span's courses issued are still being performed, although the span has ended (R267, R338). -/
def spanBusy (s : State) (id : Nat) : Bool := (s.cur :: s.courses).any (fun c => c.span == id && !c.ops.isEmpty && (match c.life with
  | .ended _ => true
  | .none | .live | .halted _ | .exited | .gone | .idle => false))

/-- The lowest step of R46 that is not yet made; a step that must wait (a pin, a parked write, a flush, a peer's reply, copies to be invalidated) stays
for a later step. -/
def completeStep (s : State) (sp : Span) : State :=
  let asids := asidsOf s sp.tenant sp.asid
  match sp.stage with
  | 0 =>
    if spanBusy s sp.id then s
    else
      let r := releaseCores s asids (dirtyCores s asids)
      let all := sp.peers ||| r.2.1
      if !r.2.2 || invOpen r.1 asids then putSpan r.1 { sp with peers := all }
      else
        let peers := if sp.rcd.sysScope then (peersOf all).filter (fun d => pathTo s d) else []
        let s := peers.foldl (fun s d => sendReq s (frdPacket s d (vfOfAsid s sp.asid)) (.span sp.id)) r.1
        putSpan s { sp with stage := 1, peers := all, flush := BitVec.ofNat 16 (peers.foldl (fun acc d => acc + 2 ^ d) 0) }
  | 3 => s
  | n =>
    if sp.flush ≠ 0 || sp.asked || invOpen s asids then s
    else match completionWrite s sp (if n = 1 then sp.rcd.status else sp.rcd.counter) (n - 1) with
      | (s, .decided) => writeDecided s sp
      | (s, .asked) => putSpan s { sp with asked := true }
      | (s, .waits) => s

/-- Every step of R46 that can be made now, in order (R46, R307). -/
def completeSpan (s : State) (id : Nat) : State :=
  let one (s : State) : State := match findSpan s id with
    | some sp => if sp.state = .completing then completeStep s sp else s
    | none => s
  one (one (one s))

/-! ### The end of a span (R47) -/

/-- Whether a course has been created and is neither gone nor ended. -/
def Course.exists (c : Course) : Bool :=
  match c.life with
  | .none | .gone | .ended _ => false
  | .live | .halted _ | .exited | .idle => true

/-- What an operation does although its course has been stopped (R267, R338): stores and atomics that have reached the ordering point are performed,
and an engine command ends with status 8 without its remaining units. Loads and accesses that are parked are discarded. -/
def Op.afterStop (o : Op) : Option Op :=
  match o.kind with
  | .store _ _ | .atomic _ _ _ _ => if o.parked.isSome then none else some { o with entry := 4, etype := 0, flags := 0 }
  | .engine d maj minor block status u _ =>
    some { o with kind := .engine d maj minor block (if status = 0 then 8 else status) u true, parked := none, refused := false, peerWait := false, entry := 4,
                  etype := 0, flags := 0, stage := Nat.max 1 o.stage }
  | .load _ _ _ _ | .loadS _ _ | .loadC _ _ _ _ | .storeS _ | .atomicS _ _ _ | .put _ _ _ _ _ _ | .order _ _ | .afence _ _ | .pflush _ | .enq _ _ _
  | .lease _ _ _ _ | .array _ | .fetch => none

/-- Whether an operation keeps those issued after it from their ordering point (R219, R246). -/
def Op.bars (o : Op) : Bool :=
  match o.kind with
  | .order _ _ | .afence _ _ | .pflush _ => true
  | .load _ _ _ _ | .loadS _ _ | .loadC _ _ _ _ | .store _ _ | .storeS _ | .atomic _ _ _ _ | .atomicS _ _ _ | .put _ _ _ _ _ _ | .enq _ _ _
  | .lease _ _ _ _ | .engine _ _ _ _ _ _ _ | .array _ | .fetch => false

/-- What stays of the operations of a stopped course: accesses behind an ordering operation have not reached their ordering point; every engine command
has been accepted by its engine. -/
def opsAfterStop (ops : List Op) (barred : Bool) : List Op :=
  match ops with
  | [] => []
  | o :: rest =>
    let kept := match o.kind with
      | .engine _ _ _ _ _ _ _ => o.afterStop
      | _ => if barred then none else o.afterStop
    kept.toList ++ opsAfterStop rest (barred || o.bars)

/-- A course that is stopped for good with a cause. -/
def Course.stop (c : Course) (cause : Nat) : Course :=
  { c with life := .ended cause, wait := none, waitBelow := none, stopRing := none, pend := [], ops := opsAfterStop c.ops false, landing := [], aside := none,
           asideAt := none }

/-- Stop every resident or halted pier of a span: its courses end, its bonds, piers and exchange slots are freed, its traps leave the lists (R47, R60,
R441). The course in the issue unit stays there, ended, until another is selected; others stay in the list while operations of theirs are to be
performed. -/
def stopPiers (s : State) (id cause : Nat) : State :=
  let mine (c : Course) : Bool := c.span == id && c.exists
  let ids := (s.courses.filter mine).map (fun c => c.id) ++ (if mine s.cur then [s.cur.id] else [])
  let piers := (s.piers.filter (fun p => p.span == id)).map (fun p => p.id)
  let inList (l : List TrapRec) : List TrapRec := l.filter (fun t => !memNat t.course ids)
  let s := unpark s (fun p => memNat p.1 ids)
  let cur := if mine s.cur then s.cur.stop cause else s.cur
  let courses := (s.courses.map (fun c => if mine c then c.stop cause else c)).filter (fun c => !memNat c.id ids || !c.ops.isEmpty)
  let kept (c k : Nat) : Bool := (cur :: courses).any (fun x => x.id == c && x.ops.any (fun o => o.seq == k))
  { s with
      cur := cur
      courses := courses
      bonds := s.bonds.filter (fun b => !memNat b.pier piers)
      piers := s.piers.filter (fun p => p.span ≠ id)
      tags := s.tags.map (fun t => match t.owner with
        | some o => if memNat o.1 ids then { t with owner := none, closed := true } else t
        | none => t)
      reqs := s.reqs.filter (fun r => match r.who with | .op c k _ => !memNat c ids || kept c k | .span _ | .host _ | .pref _ _ _ _ _ => true)
      die0 := { s.die0 with list2 := inList s.die0.list2, list3 := inList s.die0.list3 }
      die1 := { s.die1 with list2 := inList s.die1.list2, list3 := inList s.die1.list3 } }

/-- End a span with a status (R47, R306): the first cause recorded stays. Its piers stop, and the status and counter are written. -/
def endSpan (s : State) (id kind cause : Nat) : State :=
  match findSpan s id with
  | none => s
  | some sp =>
    if sp.state = .completing || sp.state = .done then s
    else
      let sp' := { sp with state := .completing, kind := kind, cause := if kind = 1 || kind = 2 then cause % 512 else 0 }
      let s := putSpan { s with gangOnly := s.gangOnly.filter (fun g => g ≠ id) } sp'
      let s := if sp.inQueue then leaveQueue s sp' else s
      completeSpan (stopPiers s id cause) id

end Sys2Proof.Machine
end

