-- ==== Sys2Proof/Machine/Ops.lean ====
section
/-! DEFINITION. What every meaning is made of: the lanes of the course in the issue unit, their program counters, clause contexts and masks
(R36, R113, R158–R163); taking an exception (R424–R428) and returning from one (R189, R429), the frames they use (R418–R423), lane faults
(R163, R421) and double faults (R426). -/

namespace Sys2Proof.Machine

/-- The outcome of a step of this machine. -/
abbrev Out := Host.Outcome State Fault Refusal

/-- Change the course in the issue unit. -/
def State.upd (s : State) (f : Course → Course) : State := { s with cur := f s.cur }

/-- The course with an internal name, wherever it stands. -/
def courseById (s : State) (id : Nat) : Option Course :=
  if s.cur.id == id then some s.cur else s.courses.find? (fun c => c.id == id)

/-- A course whose slot is empty or has been ended. -/
def Course.dead (c : Course) : Bool :=
  match c.life with
  | .none | .gone | .ended _ => true
  | .live | .halted _ | .exited | .idle => false

/-- A dead course of which nothing more is to be performed. -/
def Course.over (c : Course) : Bool := c.dead && c.ops.isEmpty

/-- Act on another course as though it stood in the issue unit, and put the one that stood there back. With no such course nothing
happens. -/
def atCourse (s : State) (id : Nat) (f : State → State) : State :=
  if s.cur.id == id then f s
  else match s.courses.find? (fun c => c.id == id) with
    | none => s
    | some c =>
      let t := f { s with cur := c, courses := s.courses.map (fun x => if x.id == id then s.cur else x) }
      match t.courses.find? (fun x => x.id == s.cur.id) with
      | some c0 =>
        { t with
            cur := c0
            courses := (t.courses.map (fun x => if x.id == c0.id then t.cur else x)).filter (fun x => x.id ≠ id || !x.over) }
      | none => t

/-- The control core, counter page and lists of a die. -/
def getDie (s : State) (d : Nat) : Die := if d = 0 then s.die0 else s.die1
/-- Change those of a die. -/
def updDie (s : State) (d : Nat) (f : Die → Die) : State := if d = 0 then { s with die0 := f s.die0 } else { s with die1 := f s.die1 }

/-- The core of a course (R174). -/
def Course.core (c : Course) : Nat := coreOfQid c.qid
/-- The die of a course. -/
def Course.die (c : Course) : Nat := dieOfQid c.qid
/-- Where it stands for the L1 (R202, R259). -/
def Course.site (c : Course) : Site := { core := c.core, quoin := c.qid, course := c.id }
/-- An access of the course (R371). -/
def Course.acc (c : Course) : Acc := { core := some c.core, asid := c.asid, tenant := c.tenant, ring := c.ring, harvest := c.harvest }

/-! ### Waits (R38) -/

/-- The wait of the course, or of the program below its handler, that satisfies `p`. -/
def Course.findWait (c : Course) (p : Wait → Bool) : Option Wait :=
  match c.wait, c.waitBelow with
  | some w, some b => if p w then some w else if p b then some b else none
  | some w, none => if p w then some w else none
  | none, some b => if p b then some b else none
  | none, none => none

/-- End the waits that satisfy `p`. The course was away from the state Ready while it waited (R38, R320), which its STAMP has yet to count. -/
def Course.wake (c : Course) (p : Wait → Bool) : Course :=
  let clear (w : Option Wait) : Option Wait := match w with
    | some x => if p x then none else some x
    | none => none
  { c with wait := clear c.wait, waitBelow := clear c.waitBelow }

/-! ### Lanes (R36, R37) -/

/-- The lanes waiting at `waitm` on some mask. -/
def Course.waiting (c : Course) : LaneSet := (List.range 12).foldl (fun acc k => acc ||| Cells.get c.waitm k) 0
/-- Whether `sr.LFMODE.MODE` is 1 (R169). -/
def Course.holdMode (c : Course) : Bool := c.lfmode.getLsbD 0
/-- The lanes held in m11 (R163): its ENR under MODE 1, and those that a fault captured under MODE 1 put there after MODE became 0 (R168). -/
def Course.held11 (c : Course) : LaneSet := if c.holdMode then Cells.get c.enr 11 else Cells.get c.enr 11 &&& c.caught
/-- The eligible lanes (R36). -/
def Course.eligible (c : Course) : LaneSet := c.live &&& ~~~ c.waiting &&& ~~~ c.held11
/-- The PC of a lane. -/
def Course.pcOf (c : Course) (i : Nat) : Nat := (Cells.get c.pc i).toNat
/-- All live lanes share one PC and no mask holds a lane (R37, R160, R163). -/
def Course.reconverged (c : Course) : Bool :=
  c.waiting == 0 && c.held11 == 0 &&
    match c.live.toList with
    | [] => true
    | i :: rest => rest.all (fun j => c.pcOf j == c.pcOf i)

/-- Set the PCs of some lanes. -/
def Course.setPcs (c : Course) (m : LaneSet) (f : Nat → Nat) : Course :=
  { c with pc := m.toList.foldl (fun p i => Cells.set p i (BitVec.ofNat 53 (f i))) c.pc }

/-- Some lanes leave their clause bodies (R113). -/
def Course.leaveBody (c : Course) (m : LaneSet) : Course :=
  { c with
      chead := m.toList.foldl (fun x i => Cells.set x i 0) c.chead
      cdist := m.toList.foldl (fun x i => Cells.set x i 0) c.cdist }

/-- Advance one lane past an instruction of `n` bytes, inside its body or out at its end (R113, R158). -/
def Course.advance1 (c : Course) (i n : Nat) : Course :=
  let h := Cells.get c.chead i
  let d := (Cells.get c.cdist i).toNat + n / 4
  let c := { c with pc := Cells.set c.pc i (BitVec.ofNat 53 (c.pcOf i + n)) }
  if h = 0 then c
  else if (h.extractLsb' 22 5).toNat < d then { c with chead := Cells.set c.chead i 0, cdist := Cells.set c.cdist i 0 }
  else { c with cdist := Cells.set c.cdist i (BitVec.ofNat 5 d) }

/-- Advance lanes past an instruction of `n` bytes. -/
def Course.advance (c : Course) (m : LaneSet) (n : Nat) : Course := m.toList.foldl (fun c i => c.advance1 i n) c

/-- Transfer lanes: their PCs are set and they leave their bodies (R113). -/
def Course.jump (c : Course) (m : LaneSet) (f : Nat → Nat) : Course := (c.setPcs m f).leaveBody m

/-! ### Masks (R161, R162) -/

/-- `release(K)`: lanes that are not live leave the mask, and when all its enrolled lanes wait they pass their `waitm`. -/
def Course.releaseMask (c : Course) (k : Nat) : Course :=
  let e : LaneSet := Cells.get c.enr k &&& c.live
  let w : LaneSet := Cells.get c.waitm k
  let c := { c with enr := Cells.set c.enr k e }
  if w ≠ 0 && w == e then
    let c := w.toList.foldl (fun c i => c.advance1 i (Cells.get c.waitLen i).toNat) c
    { c with enr := Cells.set c.enr k 0, waitm := Cells.set c.waitm k 0, waitLen := w.toList.foldl (fun x i => Cells.set x i 0) c.waitLen }
  else c

/-- Apply `release` to masks 0 to n − 1 in ascending order. -/
def Course.releaseMasks (c : Course) (n : Nat) : Course := (List.range n).foldl (fun c k => c.releaseMask k) c

/-- Take lanes out of ENR of masks 0 to n − 1 (R162). -/
def Course.unenrol (c : Course) (m : LaneSet) (n : Nat) : Course :=
  { c with enr := (List.range n).foldl (fun e k => Cells.set e k (Cells.get e k &&& ~~~ m)) c.enr }

/-- Take lanes out of WAIT of masks 0 to n − 1: a lane that a late fault holds waits for no mask (R163, R199). -/
def Course.unwait (c : Course) (m : LaneSet) (n : Nat) : Course :=
  { c with
      waitm := (List.range n).foldl (fun e k => Cells.set e k (Cells.get e k &&& ~~~ m)) c.waitm
      waitLen := m.toList.foldl (fun x i => Cells.set x i 0) c.waitLen }

/-- Place lanes in m11 under hold mode (R162, R163). -/
def Course.holdLanes (c : Course) (m : LaneSet) : Course :=
  let c := (c.unenrol m 11).unwait m 11
  ({ c with enr := Cells.set c.enr 11 (Cells.get c.enr 11 ||| m), caught := c.caught ||| m }).releaseMasks 11

/-! ### Reading without effect -/

/-- `n` bytes of one line as a core would read them now, without changing any cache. -/
def peekNum (s : State) (core asid tenant va n : Nat) : Nat :=
  let as := effAsid s tenant asid va
  let la := lineOf va
  let home := match l2Find s as la with
    | some l => if l.valid = fullMask then l.data
      else match rawPa s as la with
        | some pa => dataMerge l.dirty l.data (BitVec.ofNat 1024 (physRead s pa 128))
        | none => l.data
    | none => match rawPa s as la with
      | some pa => BitVec.ofNat 1024 (physRead s pa 128)
      | none => 0
  let d := match l1Find s core as tenant la with
    | some l => dataMerge l.valid l.data home
    | none => home
  dataRead d (va % 128) n

/-- The length of the instruction whose first word is at `va` (R91). -/
def peekLen (s : State) (c : Course) (va : Nat) : Nat :=
  match peekNum s c.core c.asid c.tenant va 1 % 4 with
  | 1 => 8
  | 2 => 12
  | _ => 4

/-! ### Frames (R418–R423) -/

/-- The virtual base of a course's frame slot (R418). -/
def slotBase (s : State) (c : Course) : Nat :=
  match partition s c.tenant with
  | some p => p.frames + 16384 * c.frameSlot
  | none => 16384 * c.frameSlot

/-- Whether an address lies in the halt page of a slot of the tenant's frame region (R427). -/
def inHaltPage (s : State) (tenant va : Nat) : Bool :=
  match partition s tenant with
  | some p => p.frames ≤ va && va < p.frames + 2097152 * p.framePages && (va - p.frames) % 16384 / 4096 == 3
  | none => false

/-- Whether an operation writes a register when it completes (R114). -/
def Op.returns (o : Op) : Bool :=
  match o.kind with
  | .load d _ _ _ | .loadS d _ | .loadC d _ _ _ | .atomic d _ _ _ | .atomicS d _ _ | .enq d _ _ | .lease d _ _ _ | .engine d _ _ _ _ _ _ =>
    d ≠ .none
  | .store _ _ | .storeS _ | .put _ _ _ _ _ _ | .order _ _ | .afence _ _ | .pflush _ | .array _ | .fetch => false

/-- Whether an operation is a copy, which eviction keeps as a replay entry (R324). -/
def Op.copies (o : Op) : Bool :=
  match o.kind with
  | .engine _ maj _ _ _ _ _ => maj == 0xD2
  | .load _ _ _ _ | .loadS _ _ | .loadC _ _ _ _ | .atomic _ _ _ _ | .atomicS _ _ _ | .store _ _ | .storeS _ | .put _ _ _ _ _ _ | .order _ _
  | .afence _ _ | .pflush _ | .array _ | .fetch | .enq _ _ _ | .lease _ _ _ _ => false

/-- Whether an operation is an engine command. -/
def Op.isEngine (o : Op) : Bool :=
  match o.kind with
  | .engine _ _ _ _ _ _ _ => true
  | .load _ _ _ _ | .loadS _ _ | .loadC _ _ _ _ | .atomic _ _ _ _ | .atomicS _ _ _ | .store _ _ | .storeS _ | .put _ _ _ _ _ _ | .order _ _
  | .afence _ _ | .pflush _ | .array _ | .fetch | .enq _ _ _ | .lease _ _ _ _ => false

/-- Whether an operation parks its course: an engine command parks in its engine (R360). -/
def Op.parksCourse (o : Op) : Bool := o.parked.isSome && !o.isEngine

/-- Bytes of a width code (R240). -/
def widthBytes (w : Nat) : Nat :=
  match w with
  | 0 | 1 => 1
  | 2 | 3 => 2
  | 4 => 4
  | 5 => 8
  | _ => 16

/-- The destination of an operation. -/
def Op.dest (o : Op) : Dest :=
  match o.kind with
  | .load d _ _ _ | .loadS d _ | .loadC d _ _ _ | .atomic d _ _ _ | .atomicS d _ _ | .enq d _ _ | .lease d _ _ _ | .engine d _ _ _ _ _ _ => d
  | .store _ _ | .storeS _ | .put _ _ _ _ _ _ | .order _ _ | .afence _ _ | .pflush _ | .array _ | .fetch => .none

/-- Bytes that an operation returns for one lane (R423). -/
def Op.unitBytes (o : Op) : Nat :=
  match o.kind with
  | .load _ w _ _ | .loadS _ w | .loadC _ w _ _ => widthBytes w
  | .atomic _ _ z _ | .atomicS _ _ z => z
  | .store _ _ | .storeS _ | .put _ _ _ _ _ _ | .order _ _ | .afence _ _ | .pflush _ | .array _ | .fetch | .enq _ _ _ | .lease _ _ _ _
  | .engine _ _ _ _ _ _ _ => 4

/-- A loaded value as the register takes it: `.i8` and `.i16` are sign-extended (R243). -/
def Op.ext (o : Op) (v : Nat) : Nat :=
  match o.kind with
  | .load _ w _ _ | .loadS _ w | .loadC _ w _ _ =>
    if w = 1 then ofInt 32 (toInt 8 v) else if w = 3 then ofInt 32 (toInt 16 v) else v
  | .atomic _ _ _ _ | .atomicS _ _ _ | .store _ _ | .storeS _ | .put _ _ _ _ _ _ | .order _ _ | .afence _ _ | .pflush _ | .array _ | .fetch
  | .enq _ _ _ | .lease _ _ _ _ | .engine _ _ _ _ _ _ _ => v

/-- The lanes that an operation's payload covers. -/
def Op.payLanes (o : Op) : List Nat :=
  match o.dest with
  | .vec _ => o.all.toList
  | .scl _ => [0]
  | .none => []

/-- The payload of its entry in 16-byte units, by TYPE (R423). -/
def Op.units (o : Op) : Nat :=
  match o.etype with
  | 1 => (8 * o.lanes.toList.length + 15) / 16
  | 2 => 0
  | 3 => 5
  | _ => (o.unitBytes * o.payLanes.length + 15) / 16

/-- The lanes that its entry concerns (R423). -/
def Op.entryLanes (o : Op) : LaneSet := if o.etype = 1 then o.lanes else o.all

/-- The payload that the device writes into an entry as the frame is taken: of TYPE 1 the lanes' addresses, of TYPE 3 the command block and the
first unit not started (R423). -/
def Op.payload (o : Op) : Nat :=
  match o.etype, o.kind with
  | 3, .engine _ _ _ b _ u _ => numOf (b.take 64) % 2 ^ 512 + 2 ^ 512 * u
  | 1, _ => (o.lanes.toList).foldr (fun i acc => (assoc o.addrs i).getD 0 % 2 ^ 64 + 2 ^ 64 * acc) 0
  | _, _ => 0

/-- The operations of a course that a frame of ring `r` keeps as entries, with their payload offsets. -/
def entriesOf (ops : List Op) (r off : Nat) : List (Op × Nat) :=
  match ops with
  | [] => []
  | o :: rest => if o.ring = r && o.entry ≠ 4 then (o, off) :: entriesOf rest r (off + o.units) else entriesOf rest r off

/-- Give entries to the unfinished returning operations of a ring, in issue order, while the sixteen descriptors and the POOL hold them
(R424). Answers whether every one has an entry. -/
def assignEntries (ops : List Op) (r n used : Nat) : List Op × Bool :=
  match ops with
  | [] => ([], true)
  | o :: rest =>
    if o.ring = r && o.returns then
      if n < 16 && used + o.units ≤ 22 then
        let t := assignEntries rest r (n + 1) (used + o.units)
        ({ o with entry := 2 } :: t.1, t.2)
      else
        let t := assignEntries rest r n used
        (o :: t.1, false)
    else
      let t := assignEntries rest r n used
      (o :: t.1, t.2)

/-- First and second flag of a set, 15 for none (R419, R422). -/
def twoFlags (m : BitVec 12) : Nat × Nat :=
  match (List.range 12).filter (fun k => m.getLsbD k) with
  | [] => (15, 15)
  | [a] => (a, 15)
  | a :: b :: _ => (a, b)

/-- The set of two flag numbers. -/
def flagSet (a b : Nat) : BitVec 12 := BitVec.ofNat 12 ((if a < 12 then 2 ^ a else 0) + (if b < 12 && b ≠ a then 2 ^ b else 0))

/-- A guard group (R422): lanes, record, predicates and vector registers. -/
structure Group where
  lanes : Nat
  mark : Nat
  preg : Nat
  vreg : Nat
deriving DecidableEq, Repr

/-- The lanes of a register's records, as (record, lanes) without repeats. -/
def recordLanes (cs : Cells 12) (r : Nat) : List (Nat × Nat) :=
  allLanes.foldl (fun acc i =>
    let m := (Cells.get cs (32 * r + i)).toNat
    if m = 0 then acc
    else if acc.any (fun x => x.1 == m) then acc.map (fun x => if x.1 == m then (x.1, x.2 + 2 ^ i) else x)
    else acc ++ [(m, 2 ^ i)]) []

/-- Add a register to the group of its lanes and record. -/
def addGroup (gs : List Group) (m lanes preg vreg : Nat) : List Group :=
  if gs.any (fun g => g.mark == m && g.lanes == lanes) then
    gs.map (fun g => if g.mark == m && g.lanes == lanes then { g with preg := g.preg + preg, vreg := g.vreg + vreg } else g)
  else gs ++ [{ lanes := lanes, mark := m, preg := preg, vreg := vreg }]

/-- The vector registers that carry a record in some lane. -/
def markedRegs (cs : Cells 12) : List Nat := cs.foldl (fun acc kv => if memNat (kv.1 / 32) acc then acc else acc ++ [kv.1 / 32]) []

/-- The guard groups of a course (R422). -/
def groupsOf (c : Course) : List Group :=
  let gs := (markedRegs c.vguard).foldl (fun gs r => (recordLanes c.vguard r).foldl (fun gs x => addGroup gs x.1 x.2 0 (2 ^ r)) gs) []
  (markedRegs c.pguard).foldl (fun gs r => (recordLanes c.pguard r).foldl (fun gs x => addGroup gs x.1 x.2 (2 ^ r) 0) gs) gs

/-- A field of a block: offset, size in bytes, value. -/
abbrev Fields := List (Nat × Nat × Nat)

/-- The number whose bytes are the fields' values. -/
def packFields (fs : Fields) : Nat := fs.foldl (fun acc f => acc + f.2.2 % 2 ^ (8 * f.2.1) * 2 ^ (8 * f.1)) 0

/-- A dense array of `n` entries of `size` bytes. -/
def arrayField (off size n : Nat) (f : Nat → Nat) : Fields := (List.range n).map (fun i => (off + size * i, size, f i))

/-- A field of a block read as a number. -/
def fieldAt (raw off size : Nat) : Nat := raw / 2 ^ (8 * off) % 2 ^ (8 * size)

/-- `sr.RGN` (R170 Table 4). -/
def Course.rgnWord (c : Course) : Nat := c.restarts * 2 ^ 53 + c.rgnPc / 4 * 4 + (if c.rgnOpen then 1 else 0)

/-- The descriptor of an entry (R423). -/
def descriptor (o : Op) (off : Nat) : Nat :=
  let f := twoFlags o.flags
  o.pc % 2 ^ 53 + 2 ^ 56 * o.entry + 2 ^ 60 * o.etype + 2 ^ 64 * o.entryLanes.toNat + 2 ^ 96 * off + 2 ^ 104 * o.units + 2 ^ 112 * (f.1 + 16 * f.2)

/-- The lanes parked, and the part (R419): those of the course's parked operations. -/
def parkLanes (c : Course) : Nat := (c.ops.filter Op.parksCourse).foldl (fun acc o => Nat.lor acc o.lanes.toNat) 0
/-- The part that a course is parked on. -/
def parkPart (c : Course) : Option Nat := (c.ops.find? Op.parksCourse).bind (fun o => o.parked)

/-- As a frame is taken, the clk that remain of a `sleep` are known to nobody: some of those that it began with (R186; assumption 1). -/
def settleSleep (s : State) : State :=
  match s.cur.wait with
  | some (.sleep n) => { s with cur := { s.cur with wait := some (.sleep (1 + Config.freeCount s.fresh % Nat.max n 1)) }, fresh := s.fresh + 1 }
  | _ => s

/-- The remaining count of a `sleep`. -/
def sleepLeft (c : Course) : Nat := match c.wait with | some (.sleep n) => n | _ => 0

/-- What a frame records of why it was taken. -/
structure FrameWhy where
  kind : Nat
  cause : Nat
  tpc : Nat
  lanes : LaneSet
  info : Nat
  recs : LaneSet
deriving DecidableEq, Repr

/-- The 4,096 bytes of a frame of a course (R419). -/
def buildFrame (c : Course) (w : FrameWhy) : Nat :=
  let shadow := w.kind = 4
  let ents := if shadow then [] else entriesOf c.ops c.ring 0
  let gs := if shadow then [] else groupsOf c
  let recOf (i : Nat) : Nat := if (w.recs ||| c.held11).getLsbD i then (Cells.get c.faults i).toNat else 0
  let part := parkPart c
  let ctl := (if c.wait.isSome then 2 else 0) + (if part.isSome then 4 else 0) + (if c.holdMode then 8 else 0)
  let enr := if shadow then c.shadow.enr else c.enr
  let depth := if shadow then c.shadow.depth else c.depth
  let rstack := if shadow then c.shadow.rstack else c.rstack
  let seed := if shadow then c.shadow.srseed else c.srseed
  let base : Fields :=
    [(0, 2, 1), (2, 1, w.kind), (3, 1, c.ring), (4, 2, w.cause), (7, 1, ctl), (8, 8, w.tpc), (0x10, 4, c.live.toNat), (0x14, 4, w.lanes.toNat),
     (0x18, 4, (LaneSet.ofFn (fun i => recOf i ≠ 0)).toNat), (0x1C, 4, c.fpm.toNat), (0x20, 8, c.rgnWord), (0x28, 8, w.info),
     (0x3C, 1, ents.length), (0x3D, 1, gs.length), (0x3E, 2, c.peers.toNat), (0x1BC, 4, parkLanes c), (0x1F0, 8, part.getD 0),
     (0x1F8, 4, sleepLeft c)]
  let lanes : Fields :=
    arrayField 0x40 8 32 (fun i => if shadow && c.live.getLsbD i then c.rgnPc else c.pcOf i) ++
    arrayField 0x200 4 32 (fun i => (Cells.get seed i).toNat) ++
    arrayField 0x280 8 32 recOf ++
    arrayField 0x1E0 1 16 (fun j => (Cells.get depth (2 * j)).toNat + 16 * (Cells.get depth (2 * j + 1)).toNat) ++
    arrayField 0x800 8 256 (fun k => if k % 8 < (Cells.get depth (k / 8)).toNat then (Cells.get rstack k).toNat else 0) ++
    arrayField 0x1C0 1 32 (fun i =>
      if shadow || Cells.get c.chead i = 0 then 0 else 0x80 + (Cells.get c.cdist i).toNat)
  let masks : Fields :=
    arrayField 0x140 4 12 (fun k => (Cells.get enr k).toNat) ++
    arrayField 0x170 4 12 (fun k => if shadow then 0 else (Cells.get c.waitm k).toNat) ++
    arrayField 0x1A0 4 7 (fun k => (Cells.get c.p k).toNat) ++
    arrayField 0x380 1 64 (fun r =>
      let f := twoFlags (if shadow then 0 else Cells.get c.sguard r)
      f.1 + 16 * f.2) ++
    (if shadow then [] else arrayField 0x30 1 12 (fun k => (Cells.get c.flags k).toNat))
  let groups : Fields := (List.range gs.length).flatMap (fun j =>
    match gs[j]? with
    | some g =>
      let f := twoFlags (BitVec.ofNat 12 g.mark)
      [(0x3C0 + 40 * j, 4, g.lanes), (0x3C4 + 40 * j, 1, f.1), (0x3C5 + 40 * j, 1, f.2), (0x3C6 + 40 * j, 1, g.preg), (0x3C8 + 40 * j, 32, g.vreg)]
    | none => [])
  let replay : Fields := (List.range ents.length).map (fun j =>
    match ents[j]? with
    | some e => (0x5A0 + 16 * j, 16, descriptor e.1 e.2)
    | none => (0x5A0 + 16 * j, 16, 0))
  let pool : Fields := ents.map (fun e => (0x6A0 + 16 * e.2, 16 * e.1.units, e.1.payload))
  packFields (base ++ lanes ++ masks ++ groups ++ replay ++ pool)

/-- Write `n` lines of a block at home (R420): the lines are invalidated in the course's core. -/
def writeBlock (s : State) (a : Acc) (va v n : Nat) : State :=
  match n with
  | 0 => s
  | k + 1 =>
    let la := va
    let s := match homeWrite s a la fullMask (BitVec.ofNat 1024 v) 0 none with
      | (s, .pinned) => (homeWrite (endPin s (effAsid s a.tenant a.asid la) la) a la fullMask (BitVec.ofNat 1024 v) 0 none).1
      | (s, _) => s
    let s := match a.core with
      | some core => l1Stale s core (effAsid s a.tenant a.asid la) la
      | none => s
    writeBlock s a (va + 128) (v / 2 ^ 1024) k

/-- Read `n` lines of a block at home; a line that cannot be read gives zeros, which no frame passes with. -/
def readBlock (s : State) (a : Acc) (va n : Nat) : State × Nat :=
  match n with
  | 0 => (s, 0)
  | k + 1 =>
    match homeLoad s a va 128 .read with
    | (s, _, v) =>
      let t := readBlock s a (va + 128) k
      (t.1, v + t.2 * 2 ^ 1024)

/-- Write a frame of 4,096 bytes. -/
def writeFrame (s : State) (c : Course) (va v : Nat) : State := writeBlock s { c.acc with ring := 2 } va v 32

/-- The physical address of a virtual one, or zero. -/
def physOf (s : State) (c : Course) (va : Nat) : Nat := (rawPa s (effAsid s c.tenant c.asid va) va).getD 0

/-! ### Taking an exception (R391, R424–R428) -/

/-- The target ring of a cause for a course at `ring` (R188, R391 Table 14). -/
def targetRing (cause ring : Nat) : Nat :=
  let n := cause % 16
  match cause / 16 with
  | 18 => if n < 8 then 1 else if n < 12 then 2 else 3
  | 19 => ring + 1
  | 20 | 21 => 2
  | 23 => 3
  | _ => 1

/-- `sr.TVECn` as a course sees it (R173). -/
def vectorOf (s : State) (c : Course) (n : Nat) : Double :=
  match n with
  | 1 => Cells.get s.tvec1 c.tenant
  | 2 => (getDie s c.die).tvec2
  | _ => (getDie s c.die).tvec3

/-- ENTRY of a vector. -/
def vectorEntry (v : Double) : Nat := (v.extractLsb' 2 51).toNat * 4

/-- The course whose slot a frame of this course is written to: its own, or for a handler course the one it serves (R426, R428). -/
def frameOwner (s : State) (c : Course) : Course :=
  let serve := if c.ring = 2 then (getDie s c.die).serve2 else if c.ring = 3 then (getDie s c.die).serve3 else none
  match serve with
  | some t => (courseById s t.course).getD c
  | none => c

/-- A double fault at ring `n` (R426): the KIND 5 frame, the class-23 record for ring 3, and the end of the course and its span; at ring 3
DF3 is written and the device stops. -/
def doubleFault (s : State) (n : Nat) (t : Trap) : State :=
  let c := s.cur
  let own := frameOwner s c
  let va := slotBase s own + 0x1000 * (if n = 3 then 3 else n)
  let cause := 0x170 + n
  let s := writeFrame s own va (buildFrame c { kind := 5, cause := cause, tpc := t.tpc, lanes := t.lanes, info := t.cause, recs := t.recs })
  if n = 3 then
    let s := updDie s c.die (fun d => { d with df3 := BitVec.ofNat 64 (physOf s own va) })
    { s with run := .stopped }
  else
    let s := endSpan s own.span 1 cause
    let s := updDie s c.die (fun d => { d with list3 := d.list3 ++ [{ course := own.id, frame := va, cause := cause, who := 32 * own.qid + own.slot }] })
    if c.ring = 2 then
      updDie (s.upd (fun c => { c with life := .idle, pend := [] })) c.die (fun d => { d with serve2 := none })
    else s

/-- A trap to ring 1 (R427). -/
def trapRing1 (s : State) (t : Trap) : State :=
  let c := s.cur
  let local1 := match translate s { c.acc with ring := 1 } c.frameBase .write with
    | .loc _ _ => true
    | .rem _ _ | .absent | .cause _ => false
  if inHaltPage s c.tenant c.frameBase || !local1 then doubleFault s 1 t
  else
    let s := writeFrame s c c.frameBase
      (buildFrame c { kind := 0, cause := t.cause, tpc := t.tpc, lanes := t.lanes, info := t.info, recs := t.recs })
    let entry := vectorEntry (vectorOf s c 1)
    s.upd (fun c => { (c.setPcs c.live (fun _ => entry)) with
      ring := 1, frameBusy := true, waitBelow := c.wait, wait := none, caughtBelow := c.caught, caught := 0, enr := [], waitm := [], waitLen := [], chead := [], cdist := [], depth := [], flags := [], vguard := [],
      pguard := [], sguard := [], heldLanes := 0 })

/-- A trap to ring 2 or 3 (R428): the frame is written, the course stops and the trap is listed. -/
def trapListed (s : State) (n : Nat) (t : Trap) : State :=
  let c := s.cur
  let d := getDie s c.die
  let full := 4096 ≤ (if n = 2 then d.list2 else d.list3).length
  if full then doubleFault s (n - 1) t
  else
    let own := frameOwner s c
    let va := slotBase s own + 0x1000 * (n - 1)
    let s := writeFrame s own va
      (buildFrame c { kind := 0, cause := t.cause, tpc := t.tpc, lanes := t.lanes, info := t.info, recs := t.recs })
    let tr : TrapRec := { course := c.id, frame := va, cause := t.cause, who := 32 * c.qid + c.slot }
    let s := updDie s c.die (fun d => if n = 2 then { d with list2 := d.list2 ++ [tr] } else { d with list3 := d.list3 ++ [tr] })
    s.upd (fun c => { c with stopRing := some n, life := if c.harvest && c.life = .live then .halted 0 else c.life })

/-- Whether INFO of a cause is what the cause gives it and no address (R419 Table 3). -/
def infoOfCause (cause : Nat) : Bool := cause = 0x110 || cause = 0xE8 || cause = 0x141

/-- Send a cause to the lowest ring above the course from `n` up whose vector is VALID (R173, R426). -/
def routeTrap (s : State) (n : Nat) (t : Trap) (fuel : Nat) : State :=
  if n ≤ s.cur.ring then doubleFault s s.cur.ring t
  else if 3 < n then doubleFault s 3 t
  else if (vectorOf s s.cur n).getLsbD 0 then (if n = 1 then trapRing1 s t else trapListed s n t)
  else match fuel with
    | 0 => doubleFault s 3 t
    | f + 1 => routeTrap s (n + 1) { t with cause := 0x135, info := if infoOfCause t.cause then 0 else t.info } f

/-- Take the oldest pending trap of the course in the issue unit, once every unfinished returning operation has an entry (R424). Fault
records of lanes that are not held belong to the frame and are dropped. -/
def takePending (s : State) : State :=
  match s.cur.pend with
  | [] => s
  | t :: rest =>
    let a := assignEntries s.cur.ops s.cur.ring 0 0
    if t.ring ≠ s.cur.ring || s.cur.life ≠ .live || !a.2 || s.cur.stopRing.isSome || s.cur.aside.isSome then s
    else
      let s := (settleSleep s).upd (fun c => { c with pend := rest, ops := a.1, asideAt := none })
      let held := s.cur.held11
      let s := routeTrap s (targetRing t.cause s.cur.ring) t 3
      s.upd (fun c => { c with away := true, faults := t.recs.toList.foldl (fun f i => if held.getLsbD i then f else Cells.set f i 0) c.faults })

/-- Raise a cause against the course in the issue unit (the one shared operation of every exception): it pends until its frame can be taken,
which is at once when nothing prevents it. Class 5 ends the span instead (R47, R391). -/
def raise (s : State) (cause : Nat) (lanes : LaneSet) (tpc info : Nat) (recs : LaneSet) : State :=
  if cause / 16 = 5 then endSpan s s.cur.span 1 cause
  else
    takePending (s.upd (fun c =>
      { c with stepping := false, stepped := false, pend := c.pend ++ [{ cause := cause, lanes := lanes, tpc := tpc, info := info, ring := c.ring, recs := recs }] }))

/-- Raise a cause against the issuing subset, whose PCs stay at the instruction (R102). -/
def raiseSubset (s : State) (cause info : Nat) : State := raise s cause s.iss.mask s.iss.pc info 0

/-- A lane fault: the lane, its cause and the address its record holds. -/
structure LaneFault where
  lane : Nat
  cause : Nat
  addr : Nat
deriving DecidableEq, Repr

/-- The set of faulting lanes. -/
def faultSet (fs : List LaneFault) : LaneSet := LaneSet.ofFn (fun i => fs.any (fun f => f.lane == i))

/-- Lane faults of the instruction at `tpc` (R163, R421): each gets a record; under MODE 0 the course traps with the lowest cause, under hold
mode the lanes are placed in m11. -/
def laneFaults (s : State) (hold : Bool) (tpc : Nat) (fs : List LaneFault) : State :=
  match fs with
  | [] => s
  | f0 :: rest =>
    let m := faultSet fs
    let mk (f : LaneFault) : BitVec 64 := BitVec.ofNat 64 (2 ^ 63 + f.cause * 2 ^ 53 + f.addr % 2 ^ 53)
    let s := s.upd (fun c => { c with faults := fs.foldl (fun x f => Cells.set x f.lane (mk f)) c.faults })
    if hold then s.upd (fun c => c.holdLanes m)
    else raise s (rest.foldl (fun acc f => Nat.min acc f.cause) f0.cause) m tpc 0 m

/-- A course whose live lanes are all ineligible traps as a whole with class 11, sub-code 0 (R162), at an address. -/
def noEligibleAt (s : State) (tpc : Nat) : State :=
  let c := s.cur
  if c.life = .live && c.live ≠ 0 && c.eligible = 0 && c.pend.isEmpty && c.stopRing.isNone then raise s 0xB0 c.live tpc 0 0 else s

/-- After an instruction: live lanes of which none is eligible (R162). -/
def noEligible (s : State) : State := noEligibleAt s s.iss.pc

/-- The PC of the lowest live lane. -/
def Course.headPc (c : Course) : Nat := c.pcOf (c.live.toList.headD 0)

/-- After an event: live lanes of which none is eligible (R162). -/
def noEligibleHere (s : State) : State := noEligibleAt s s.cur.headPc

/-! ### Returning from an exception (R189, R429, R434) -/

/-- What of a descriptor a handler may not change: TYPE, LANES, POFF and PLEN, and the zero fields (R423, R429). -/
def descriptorFixed (d : Nat) : List Nat := [bits d 53 3, bits d 60 4, bits d 64 48, bits d 120 8]

/-- The descriptors of a frame agree with the device's entries, but for PC, FS and a STATE lowered to 0 (R429). -/
def replayOk (raw : Nat) (ents : List (Op × Nat)) : Bool :=
  fieldAt raw 0x3C 1 == ents.length &&
  (List.range ents.length).all (fun j =>
    match ents[j]? with
    | some e =>
      let d := fieldAt raw (0x5A0 + 16 * j) 16
      let st := bits d 56 4
      descriptorFixed d == descriptorFixed (descriptor e.1 e.2) && (st == 0 || st == e.1.entry)
    | none => true)

/-- A lane marked in a body finds a header whose body holds its PC (R429). -/
def clauseOk (s : State) (c : Course) (raw i : Nat) : Bool :=
  let b := fieldAt raw (0x1C0 + i) 1
  let d := b % 32
  if b < 0x80 then b == 0
  else
    let pc := fieldAt raw (0x40 + 8 * i) 8
    let w := peekNum s c.core c.asid c.tenant (pc - 4 * d) 4
    bits b 5 2 == 0 && 4 * d ≤ pc && w % 4 == 3 && 1 ≤ d && d ≤ bits w 22 5

/-- The checks of R429 on a frame, against a LIVE value and the device's entries. -/
def frameOkay (s : State) (c : Course) (raw : Nat) (live : Nat) (ents : List (Op × Nat)) : Bool :=
  fieldAt raw 0 2 == 1 && fieldAt raw 0x10 4 == live && fieldAt raw 6 1 ≤ 1 && bits (fieldAt raw 7 1) 4 4 == 0 &&
  fieldAt raw 0x1FC 4 == 0 &&
  allLanes.all (fun i =>
    let pc := fieldAt raw (0x40 + 8 * i) 8
    let depth := bits (fieldAt raw (0x1E0 + i / 2) 1) (4 * (i % 2)) 4
    pc < 2 ^ 53 && pc % 4 == 0 && depth ≤ 8 && clauseOk s c raw i &&
    (List.range depth).all (fun j =>
      let r := fieldAt raw (0x800 + 64 * i + 8 * j) 8
      r < 2 ^ 53 && r % 4 == 0)) &&
  (List.range 12).all (fun k =>
    let e := fieldAt raw (0x140 + 4 * k) 4
    let w := fieldAt raw (0x170 + 4 * k) 4
    Nat.land w e == w) &&
  fieldAt raw 0x3D 1 ≤ 12 && (List.range (fieldAt raw 0x3D 1)).all (fun g => fieldAt raw (0x3C7 + 40 * g) 1 == 0) &&
  replayOk raw ents

/-- A dense cell array read from a frame. -/
def cellsFrom (w n : Nat) (f : Nat → Nat) : Cells w := Cells.setAll [] ((List.range n).map (fun i => (i, BitVec.ofNat w (f i))))

/-- The records of a frame's guard groups, for vector registers (`pred` false) or predicates. -/
def guardsFrom (raw : Nat) (pred : Bool) : Cells 12 :=
  (List.range (Nat.min (fieldAt raw 0x3D 1) 12)).foldl (fun cs g =>
    let o := 0x3C0 + 40 * g
    let mark := flagSet (fieldAt raw (o + 4) 1) (fieldAt raw (o + 5) 1)
    let lanes := fieldAt raw o 4
    let regs := if pred then fieldAt raw (o + 6) 1 else fieldAt raw (o + 8) 32
    ((List.range (if pred then 7 else 256)).filter (fun r => regs.testBit r)).foldl (fun cs r =>
      (allLanes.filter (fun i => lanes.testBit i)).foldl (fun cs i => Cells.set cs (32 * r + i) mark) cs) cs) []

/-- Restore a course's control state from a frame (R429): the clause headers and the lengths of waiting lanes' `waitm` are read again at
their addresses. -/
def restoreCourse (s : State) (c : Course) (raw : Nat) : Course :=
  let pcAt (i : Nat) : Nat := fieldAt raw (0x40 + 8 * i) 8
  let dist (i : Nat) : Nat := fieldAt raw (0x1C0 + i) 1
  let c1 : Course :=
    { c with
        pc := cellsFrom 53 32 pcAt
        enr := cellsFrom 32 12 (fun k => fieldAt raw (0x140 + 4 * k) 4)
        waitm := cellsFrom 32 12 (fun k => fieldAt raw (0x170 + 4 * k) 4)
        p := cellsFrom 32 7 (fun k => fieldAt raw (0x1A0 + 4 * k) 4)
        chead := cellsFrom 32 32 (fun i => if dist i < 0x80 then 0 else peekNum s c.core c.asid c.tenant (pcAt i - 4 * (dist i % 32)) 4)
        cdist := cellsFrom 5 32 (fun i => if dist i < 0x80 then 0 else dist i % 32)
        depth := cellsFrom 4 32 (fun i => bits (fieldAt raw (0x1E0 + i / 2) 1) (4 * (i % 2)) 4)
        rstack := cellsFrom 53 256 (fun k => fieldAt raw (0x800 + 8 * k) 8)
        flags := cellsFrom 8 12 (fun k => fieldAt raw (0x30 + k) 1)
        vguard := guardsFrom raw false
        pguard := guardsFrom raw true
        sguard := cellsFrom 12 64 (fun r => (flagSet (fieldAt raw (0x380 + r) 1 % 16) (fieldAt raw (0x380 + r) 1 / 16)).toNat)
        lfmode := BitVec.ofNat 32 (c.lfmode.toNat / 2 * 2 + bits (fieldAt raw 7 1) 3 1)
        heldLanes := 0 }
  { c1 with waitLen := c1.waiting.toList.foldl (fun x i => Cells.set x i (BitVec.ofNat 4 (peekLen s c1 (c1.pcOf i)))) [] }

/-- Write a value of `z` bytes to a vector register (or group) of a lane. -/
def Course.setVec (c : Course) (r i z v : Nat) : Course :=
  { c with v := (List.range ((z + 3) / 4)).foldl (fun x k => Cells.set x (32 * (r + k) + i) (BitVec.ofNat 32 (v / 2 ^ (32 * k)))) c.v }

/-- Write a value of `z` bytes to a scalar register (or group). -/
def Course.setScl (c : Course) (r z v : Nat) : Course :=
  { c with s := (List.range ((z + 3) / 4)).foldl (fun x k => Cells.set x (r + k) (BitVec.ofNat 32 (v / 2 ^ (32 * k)))) c.s }

/-- Write an operation's returned values to its destination; lanes that are no longer live are discarded (R182). -/
def Course.writeDest (c : Course) (d : Dest) (z : Nat) (vals : List (Nat × Nat)) : Course :=
  match d with
  | .none => c
  | .vec r => vals.foldl (fun c p => if c.live.getLsbD p.1 then c.setVec r p.1 z p.2 else c) c
  | .scl r => match vals with
    | p :: _ => c.setScl r z p.2
    | [] => c

/-- Count flags down (R112). -/
def Course.dropFlags (c : Course) (m : BitVec 12) : Course :=
  { c with
      flags := ((List.range 12).filter (fun k => m.getLsbD k)).foldl (fun f k => Cells.set f k (if Cells.get f k = 0 then 0 else Cells.get f k - 1)) c.flags
      heldLanes := 0 }

/-- The values of an entry's payload in POOL. -/
def poolVals (raw : Nat) (o : Op) (off : Nat) : List (Nat × Nat) :=
  let ls := o.payLanes
  let z := o.unitBytes
  (List.range ls.length).map (fun j => (ls.getD j 0, fieldAt raw (0x6A0 + 16 * off + z * j) z))

/-- An operation as its entry stands in a frame: PC and FS of the descriptor, and of an entry to be issued the addresses or the command block of its
payload (R423, R429). -/
def Op.fromEntry (o : Op) (raw off j : Nat) : Op :=
  let d := fieldAt raw (0x5A0 + 16 * j) 16
  let f := twoFlags o.flags
  let ls := LaneSet.toList o.lanes
  let flags := if bits d 112 8 = f.1 + 16 * f.2 then o.flags else flagSet (bits d 112 4) (bits d 116 4)
  let at8 (i : Nat) : Nat := fieldAt raw (0x6A0 + 16 * off + 8 * (ls.takeWhile (fun k => k ≠ i)).length) 8
  let o := { o with pc := bits d 0 53, flags := flags }
  match o.etype, o.kind with
  | 1, _ => { o with addrs := o.addrs.map (fun p => if memNat p.1 ls then (p.1, at8 p.1) else p) }
  | 3, .engine dst maj mi b own _ go =>
    { o with kind := .engine dst maj mi (bytesOf 64 (fieldAt raw (0x6A0 + 16 * off) 64) ++ b.drop 64) own (fieldAt raw (0x6A0 + 16 * off + 64) 16) go }
  | _, _ => o

/-- Re-inject one entry (R429): STATE 3 writes its data, STATE 2 keeps waiting, STATE 1 issues again (R326), STATE 0 does nothing but count its flags
down. -/
def reinject (c : Course) (raw : Nat) (e : Op × Nat) (j : Nat) : Course :=
  let o := e.1.fromEntry raw e.2 j
  let st := bits (fieldAt raw (0x5A0 + 16 * j) 16) 56 4
  let drop (c : Course) : Course := { c with ops := c.ops.filter (fun x => x.seq ≠ o.seq), aside := if o.etype = 2 then none else c.aside }
  if st = 1 && o.etype = 2 then { c with ops := c.ops.filter (fun x => x.seq ≠ o.seq) }
  else
  if st = 1 || st = 2 then { c with ops := c.ops.map (fun x => if x.seq = o.seq then { o with entry := 4, etype := 0 } else x) }
  else if st = 3 then (drop ((c.writeDest o.dest o.unitBytes ((poolVals raw o e.2).map (fun p => (p.1, o.ext p.2)))))).dropFlags o.flags
  else (drop c).dropFlags o.flags

/-- Re-inject a frame's entries in order. -/
def reinjectAll (c : Course) (raw : Nat) (es : List (Op × Nat)) (j : Nat) : Course :=
  match es with
  | [] => c
  | e :: rest => reinjectAll (reinject c raw e j) raw rest (j + 1)

/-- Resume the course in the issue unit from a frame at `va`: refused frames answer false and change nothing (R429). A harvest course that was stopped at
ring 2 or 3 holds nothing, and is placed again before it issues (R428). -/
def resumeFrame (s : State) (ring va : Nat) : State × Bool :=
  let c := s.cur
  let ents := entriesOf c.ops ring 0
  match readBlock s { c.acc with ring := 2 } va 32 with
  | (s, raw) =>
    if !frameOkay s c raw c.live.toNat ents then (s, false)
    else if fieldAt raw 6 1 = 1 then
      (endSpan { s with cur := { c with ops := c.ops.filter (fun o => o.ring ≠ ring) } } c.span 1 (fieldAt raw 4 2), true)
    else
      let c1 := reinjectAll (restoreCourse s c raw) raw ents 0
      ({ s with cur := { c1 with ring := fieldAt raw 3 1 % 4, stopRing := none, stepping := bitAt (fieldAt raw 7 1) 0, stepped := false } }, true)

/-- The return from the handler at the current ring (R189, R428): at ring 1 the course resumes from the frame at `sr.FRAME.BASE`; at rings 2
and 3 the course served resumes and the handler course becomes idle. A refused frame is a double fault at the handler's ring. -/
def returnTrap (s : State) : State :=
  let c := s.cur
  let refused (s : State) : State := doubleFault s c.ring { cause := 0, lanes := s.iss.mask, tpc := s.iss.pc, info := 0, ring := c.ring, recs := 0 }
  if c.ring = 1 then
    match resumeFrame s 0 c.frameBase with
    | (s, true) =>
      noEligible (s.upd (fun c => { c with frameBusy := false, wait := c.waitBelow, waitBelow := none, caught := c.caughtBelow, caughtBelow := 0 }))
    | (s, false) => refused s
  else
    let d := getDie s c.die
    match if c.ring = 2 then d.serve2 else d.serve3 with
    | none => s.upd (fun c => { c with life := .idle })
    | some t =>
      let idle (s : State) : State :=
        updDie (s.upd (fun c => { c with life := .idle })) c.die (fun d => if c.ring = 2 then { d with serve2 := none } else { d with serve3 := none })
      match courseById s t.course with
      | none => idle s
      | some tc =>
        if tc.stopRing ≠ some c.ring then idle s
        else
          let okay := frameOkay s tc (readBlock s { tc.acc with ring := 2 } t.frame 32).2 tc.live.toNat (entriesOf tc.ops tc.ring 0)
          if okay then idle (atCourse s t.course (fun s => noEligibleHere (resumeFrame s s.cur.ring t.frame).1)) else refused s

/-! ### Completing an operation (R112, R425) -/

/-- Whether an operation belongs to a program that is stopped behind a live frame (R425). -/
def Op.behind (o : Op) (c : Course) : Bool :=
  o.ring < c.ring || c.stopRing.isSome ||
    match c.life with
    | .halted k => k ≠ 0
    | .none | .live | .exited | .ended _ | .gone | .idle => false

/-- The live frame behind which it stands. -/
def Op.frameVa (o : Op) (s : State) (c : Course) : Nat :=
  if o.ring < c.ring then c.frameBase else slotBase s c + 0x1000 * ((c.stopRing.getD 4) - 1)

/-- Count an operation's flags down, live or in the frame behind which it stands (R425). -/
def dropOpFlags (s : State) (o : Op) : State :=
  let c := s.cur
  if o.behind c then
    let va := o.frameVa s c + 0x30
    let a := { c.acc with ring := 2 }
    ((List.range 12).filter (fun k => o.flags.getLsbD k)).foldl (fun s k =>
      match homeLoad s a (va + k) 1 .read with
      | (s, _, v) => (homeStore s a (va + k) 1 (v - 1)).1) s
  else s.upd (fun c => c.dropFlags o.flags)

/-- What a course of the quoin holds of its access queue has become less (R333): courses that are held at issue try again. -/
def unstallQuoin (s : State) (qid : Nat) : State :=
  if s.courses.any (fun c => c.qid == qid && c.heldLanes ≠ 0) then
    { s with courses := s.courses.map (fun c => if c.qid == qid then { c with heldLanes := 0 } else c) }
  else s

/-- Remove an operation from the course in the issue unit. -/
def removeOp (s : State) (seq : Nat) : State :=
  unstallQuoin (s.upd (fun c => { c with ops := c.ops.filter (fun o => o.seq ≠ seq) })) s.cur.qid
/-- Registers that an operation writes in a lane. -/
def Op.destRegs (o : Op) : Nat := (o.unitBytes + 3) / 4

/-- Whether two operations write a register in common, in some lane. -/
def Op.meetsDest (o q : Op) : Bool :=
  let meet (a b : Nat) : Bool := a < b + q.destRegs && b < a + o.destRegs
  match o.dest, q.dest with
  | .vec a, .vec b => meet a b && (o.all &&& q.all) != 0
  | .scl a, .scl b => meet a b
  | _, _ => false

/-- An operation waits for an earlier one that writes a register of its own: long-latency writes take effect in issue order (R118). -/
def destHeld (c : Course) (o : Op) : Bool :=
  (c.ops.takeWhile (fun q => q.seq ≠ o.seq)).any (fun q => q.ring == o.ring && q.entry ≠ 3 && o.meetsDest q)

/-- Put an operation back. -/
def putOp (s : State) (o : Op) : State := s.upd (fun c => { c with ops := c.ops.map (fun x => if x.seq = o.seq then o else x) })

/-- Data for an entry of STATE 2 is written into POOL and STATE becomes 3; an entry that the handler has discarded takes none (R425, R429). -/
def arriveEntry (s : State) (o : Op) (vals : List (Nat × Nat)) : State :=
  let c := s.cur
  let va := o.frameVa s c
  let ents := entriesOf c.ops o.ring 0
  match (List.range ents.length).find? (fun j => match ents[j]? with | some e => e.1.seq == o.seq | none => false) with
  | none => s
  | some j =>
    let off := match ents[j]? with | some e => e.2 | none => 0
    let a := { c.acc with ring := 2 }
    let z := o.unitBytes
    match homeLoad s a (va + 0x5A0 + 16 * j + 7) 1 .read with
    | (s, _, b) =>
      if b % 16 ≠ 2 then putOp s { o with entry := 3 }
      else
        let s := (List.range o.payLanes.length).foldl (fun s k =>
          (homeStore s a (va + 0x6A0 + 16 * off + z * k) z ((assoc vals (o.payLanes.getD k 0)).getD 0)).1) s
        putOp (homeStore s a (va + 0x5A0 + 16 * j + 7) 1 (b / 16 * 16 + 3)).1 { o with entry := 3 }

/-- An operation completes with its returned values: its destination is written and its flags count down, or its entry takes the data. -/
def finishOp (s : State) (o : Op) (vals : List (Nat × Nat)) : State :=
  if o.entry = 2 then arriveEntry s o vals
  else
    let s := if o.behind s.cur then s else s.upd (fun c => c.writeDest o.dest o.unitBytes (vals.map (fun p => (p.1, o.ext p.2))))
    takePending (dropOpFlags (removeOp s o.seq) o)

end Sys2Proof.Machine
end

