-- ==== Sys2Proof/Machine/Operands.lean ====
section
/-! DEFINITION. Every operand form: the types in which sources are read (R97, R134), pairs and quads (R98), the operand and last-result files
(R99), destinations (R100, R101, R135), the class-1 causes that an operand gives (R101 Table 5), and uniform operands (R139, R167, R237). -/

namespace Sys2Proof.Machine

/-- The type a source is read in (R97). -/
inductive STy where
  /-- an integer of 32 or 64 bits -/
  | int (wide signed : Bool)
  /-- a register of packed elements of `w` bits -/
  | packed (w : Nat)
  /-- a floating format: 0, 1, 2 or 14 -/
  | flt (code : Nat)
  /-- a `cvt` source of a narrow format, codes 3 to 13 -/
  | narrow (code : Nat)
  /-- a register of `n` packed elements of a format: the sources of `fdot2` and `funpack` (R66, R151) -/
  | pack (code n : Nat)
deriving DecidableEq, Repr

/-- Registers that a source of the type occupies (R98). -/
def STy.regs : STy → Nat
  | .int wide _ => if wide then 2 else 1
  | .packed _ => 1
  | .flt code => if code = 14 then 2 else 1
  | .narrow _ | .pack _ _ => 1

/-- Bits of a register value that a source of the type reads (R134). -/
def STy.width : STy → Nat
  | .int wide _ => if wide then 64 else 32
  | .packed _ => 32
  | .flt code => fmtWidth code
  | .narrow code => fmtWidth code
  | .pack _ _ => 32

/-- The type that IT names (R105 Table 7). -/
def itType (it : Nat) : STy :=
  match it with
  | 0 => .int false true
  | 1 => .int false false
  | 2 => .int true true
  | 3 => .int true false
  | 4 | 5 => .packed 16
  | _ => .packed 8

/-- The type of a floating source. -/
def fltType (code : Nat) : STy := .flt code
/-- The type of a `cvt` source of format X (R97, R150). -/
def cvtType (x : Nat) : STy :=
  if x = 15 then .int false true else if x ≤ 2 || x = 14 then .flt x else .narrow x

/-- A constant of an integer value in a narrow format, when the format holds it exactly (R97). -/
def narrowConst (code : Nat) (k : Int) : Option Nat :=
  match fpFmt code with
  | some f =>
    let r := roundF f false { rm := 0, daz := false, ftz := false, sat := false } (decide (k < 0)) k.natAbs 0
    if r.flags = 0 then some r.bits else none
  | none =>
    if code = 13 then (if k = 1 then some 0 else if k = -1 then some 1 else none)
    else if (intRange code).1 ≤ k && k ≤ (intRange code).2 then some (writeI code k) else none

/-- A constant in a type; `fill` spreads it over packed integer elements, and a packed format holds it in every element (assumption 37). A constant that a narrow format does not hold reads as 0 (it has trapped). -/
def constIn (t : STy) (k : Int) (fill : Bool) : Nat :=
  match t with
  | .int wide _ => ofInt (if wide then 64 else 32) k
  | .packed w =>
    if fill then (List.range (32 / w)).foldl (fun acc j => acc + ofInt w k * 2 ^ (w * j)) 0 else ofInt 32 k
  | .flt code => (narrowConst code k).getD 0
  | .narrow code => (narrowConst code k).getD 0
  | .pack code n => (List.range n).foldl (fun acc j => acc + (narrowConst code k).getD 0 * 2 ^ (fmtWidth code * j)) 0

/-- An FP32 code widened exactly to FP64 (R97). -/
def widen64 (x : Nat) : Nat :=
  let sgn := x / 2 ^ 31 % 2 * 2 ^ 63
  let ex := bits x 23 8
  let fr := bits x 0 23
  if ex = 255 then sgn + 0x7FF * 2 ^ 52 + fr * 2 ^ 29
  else
    match fpFmt 0, fpFmt 14 with
    | some f, some g => match unpackF f x with
      | .fin n m e => (roundF g false { rm := 0, daz := false, ftz := false, sat := false } n m e).bits
      | .inf _ => sgn
      | .nan _ => sgn
    | _, _ => sgn

/-- The literal word read in a type (R97). -/
def litIn (t : STy) (w : Word) : Nat :=
  match t with
  | .int wide signed => if wide && signed then ofInt 64 (toInt 32 w.toNat) else w.toNat
  | .packed _ => w.toNat
  | .flt code => if code = 14 then widen64 w.toNat else bits w.toNat 0 (fmtWidth code)
  | .narrow code => bits w.toNat 0 (fmtWidth code)
  | .pack _ _ => w.toNat

/-- One register of a file, for lane `i`. -/
def Course.regAt (c : Course) (o : Opd) (i k : Nat) : Nat :=
  match o with
  | .v r => (Cells.get c.v (32 * (r.toNat + k) + i)).toNat
  | .o r => (Cells.get c.o (32 * (r.toNat + k) + i)).toNat
  | .l r => (Cells.get c.l (32 * r.toNat + i)).toNat / 2 ^ (32 * k) % 2 ^ 32
  | .s r => (Cells.get c.s (r.toNat + k)).toNat
  | .zero | .one | .lane | .cid | .bid | .pier | .mone | .two | .imask | .ncourse | .nbond | .lit | .imm _ | .hole _ | .resv _ | .short _ => 0

/-- `n` registers from one named, lowest register in the lowest bits. -/
def Course.regsAt (c : Course) (o : Opd) (i n : Nat) : Nat :=
  (List.range n).foldl (fun acc k => acc + c.regAt o i k * 2 ^ (32 * k)) 0

/-- Courses per bond and bonds per pier (R95). -/
def bondShape (s : State) (c : Course) : Nat × Nat :=
  let nc := match s.bonds.find? (fun b => b.id == c.bond) with
    | some b => b.courses
    | none => 1
  let nb := match s.piers.find? (fun p => p.id == c.pier) with
    | some p => p.bonds.length
    | none => 1
  (nc, nb)

/-- A source operand of lane `i` in a type (R95, R97). -/
def readOpd (s : State) (x : Ops) (t : STy) (o : Opd) (i : Nat) : Nat :=
  let c := s.cur
  match o with
  | .v _ | .o _ | .l _ | .s _ => bits (c.regsAt o i t.regs) 0 t.width
  | .zero => constIn t 0 true
  | .one => constIn t 1 true
  | .mone => constIn t (-1) true
  | .two => constIn t 2 true
  | .lane => constIn t i false
  | .cid => constIn t c.cid false
  | .bid => constIn t c.bid false
  | .pier => constIn t c.pierIx.toNat false
  | .imask => constIn t s.iss.whole.toNat false
  | .ncourse => constIn t (bondShape s c).1 false
  | .nbond => constIn t (bondShape s c).2 false
  | .lit => litIn t (x.lit?.getD 0)
  | .imm k => constIn t k.toInt false
  | .hole _ | .resv _ | .short _ => 0

/-- A source read as unsigned 32 bits. -/
def readU (s : State) (x : Ops) (o : Opd) (i : Nat) : Nat := readOpd s x (.int false false) o i

/-! ### Class-1 causes -/

/-- The lowest of some sub-codes. -/
def minSub (subs : List (Option Nat)) : Option Nat :=
  subs.foldl (fun acc x => match acc, x with
    | some a, some b => some (Nat.min a b)
    | some a, none => some a
    | none, y => y) none

/-- Sub-code `n` when a condition holds. -/
def subIf (b : Bool) (n : Nat) : Option Nat := if b then some n else none

/-- Sub-codes 5 and 6 of a register group of `n` registers (R98). An l entry holds 64 bits (R99): named for more than two registers it is no
quad, and takes sub-code 5 (R237 says so of 128-bit data, and the model of every such group: assumption 90). -/
def groupSub (c : Course) (o : Opd) (n : Nat) : Option Nat :=
  match o with
  | .v r => minSub [subIf (r.toNat % n ≠ 0) 5, subIf (c.regs < r.toNat + n) 6]
  | .o r => subIf (r.toNat % n ≠ 0) 5
  | .s r => subIf (r.toNat % n ≠ 0) 5
  | .l _ => subIf (2 < n) 5
  | .zero | .one | .lane | .cid | .bid | .pier | .mone | .two | .imask | .ncourse | .nbond | .lit | .imm _ | .hole _ | .resv _ | .short _ => none

/-- The sub-codes that a specifier gives in any field: holes, reserved specials, a literal outside LX, short codes 61 to 63. -/
def specSub (x : Ops) (o : Opd) : Option Nat :=
  match o with
  | .hole _ => some 0
  | .resv _ => some 1
  | .lit => subIf x.lit?.isNone 2
  | .short _ => some 7
  | .v _ | .o _ | .l _ | .zero | .one | .lane | .cid | .bid | .pier | .mone | .two | .imask | .ncourse | .nbond | .s _ | .imm _ => none

/-- The integer value of a special operand or constant that a narrow source must hold exactly, if the operand is one. -/
def constVal (s : State) (o : Opd) : Option Int :=
  match o with
  | .zero => some 0
  | .one => some 1
  | .mone => some (-1)
  | .two => some 2
  | .imm k => some k.toInt
  | .lane => some 31
  | .cid => some s.cur.cid
  | .bid => some s.cur.bid
  | .pier => some s.cur.pierIx.toNat
  | .imask => some s.iss.whole.toNat
  | .ncourse => some (bondShape s s.cur).1
  | .nbond => some (bondShape s s.cur).2
  | .v _ | .o _ | .l _ | .lit | .s _ | .hole _ | .resv _ | .short _ => none

/-- Sub-code 11 of a source in a type (R97): the issuing mask and the pier index in floating types, constants that a narrow format does not
hold. A lane id counts as held when 0 and 31 both are. -/
def typeSub (s : State) (t : STy) (o : Opd) : Option Nat :=
  match t with
  | .int _ _ | .packed _ => none
  | .flt _ => match o with
    | .imask | .pier => some 11
    | .v _ | .o _ | .l _ | .zero | .one | .lane | .cid | .bid | .mone | .two | .ncourse | .nbond | .lit | .s _ | .imm _ | .hole _ | .resv _
    | .short _ => none
  | .narrow code | .pack code _ =>
    let mask := (o = .imask || o = .pier) && (fpFmt code).isSome
    match constVal s o with
    | some k => subIf (mask || (narrowConst code k).isNone || (o = .lane && (narrowConst code 0).isNone)) 11
    | none => none

/-- The class-1 sub-code of a source. -/
def srcSub (s : State) (x : Ops) (t : STy) (o : Opd) : Option Nat :=
  minSub [specSub x o, groupSub s.cur o t.regs, typeSub s t o]

/-- Whether a source varies by lane (R101): a vector, operand-file or last-result register, or lane id. -/
def opdVaries (o : Opd) : Bool :=
  match o with
  | .v _ | .o _ | .l _ | .lane => true
  | .zero | .one | .cid | .bid | .pier | .mone | .two | .imask | .ncourse | .nbond | .lit | .s _ | .imm _ | .hole _ | .resv _ | .short _ => false

/-- Whether a specifier is a scalar register. -/
def opdIsS (o : Opd) : Bool :=
  match o with
  | .s _ => true
  | .v _ | .o _ | .l _ | .lane | .zero | .one | .cid | .bid | .pier | .mone | .two | .imask | .ncourse | .nbond | .lit | .imm _ | .hole _
  | .resv _ | .short _ => false

/-- Sub-code 12 of an operand that must be uniform (R139, R167, R237): a register that varies by lane, lane id, or the issuing mask, which is
no constant of the course (assumption 91). -/
def uniSub (o : Opd) : Option Nat := subIf (opdVaries o || o = .imask) 12

/-- The sub-code of a destination of `n` registers (R98, R100). -/
def dstSub (c : Course) (x : Ops) (n : Nat) (o : Opd) : Option Nat :=
  match o with
  | .v _ | .o _ | .s _ => groupSub c o n
  | .zero => none
  | .hole _ => some 0
  | .resv _ => some 1
  | .lit => some (if x.lit?.isNone then 2 else 3)
  | .l _ | .one | .lane | .cid | .bid | .pier | .mone | .two | .imask | .ncourse | .nbond | .imm _ | .short _ => some 3

/-- The sub-code of a predicate destination (R135). -/
def predSub (x : Ops) (o : Opd) : Option Nat :=
  match o with
  | .v r => subIf (6 < r.toNat) 3
  | .zero => none
  | .hole _ => some 0
  | .resv _ => some 1
  | .lit => some (if x.lit?.isNone then 2 else 3)
  | .o _ | .s _ | .l _ | .one | .lane | .cid | .bid | .pier | .mone | .two | .imask | .ncourse | .nbond | .imm _ | .short _ => some 3

/-- The sub-codes of an instruction on the scalar unit (R101): a lane-varying source, a guard. -/
def scalarSub (x : Ops) (srcs : List Opd) : Option Nat :=
  if opdIsS x.d then minSub [subIf (srcs.any opdVaries) 4, subIf (x.guard ≠ Guard.always) 10] else none

/-- The destination of a long-latency instruction (R116): `o` and `l` entries take sub-code 9, a scalar where none may be written 14, a vector
where none may be written 14. -/
def longDst (c : Course) (x : Ops) (n : Nat) (vec scl : Bool) (o : Opd) : Option Nat :=
  match o with
  | .o _ | .l _ => some 9
  | .v _ => if vec then groupSub c o n else some 14
  | .s _ => if scl then groupSub c o n else some 14
  | .zero => none
  | .hole _ => some 0
  | .resv _ => some 1
  | .lit => some (if x.lit?.isNone then 2 else 3)
  | .one | .lane | .cid | .bid | .pier | .mone | .two | .imask | .ncourse | .nbond | .imm _ | .short _ => some 3

/-- The destination that a specifier names for a long-latency result. -/
def destOf (o : Opd) : Dest :=
  match o with
  | .v r => .vec r.toNat
  | .s r => .scl r.toNat
  | .o _ | .l _ | .zero | .one | .lane | .cid | .bid | .pier | .mone | .two | .imask | .ncourse | .nbond | .lit | .imm _ | .hole _ | .resv _
  | .short _ => .none

/-! ### Base pairs and offsets (R237, R240) -/

/-- The sub-code of a base pair: an even v, o or s register, l0 or l1, or Zero. -/
def baseSub (s : State) (x : Ops) (o : Opd) : Option Nat :=
  match o with
  | .v _ | .o _ | .s _ | .l _ => groupSub s.cur o 2
  | .zero => none
  | .hole _ => some 0
  | .resv _ => some 1
  | .lit => some (if x.lit?.isNone then 2 else 11)
  | .short _ => some 7
  | .one | .lane | .cid | .bid | .pier | .mone | .two | .imask | .ncourse | .nbond | .imm _ => some 11

/-- A base pair as 64 bits. -/
def readBase (s : State) (x : Ops) (o : Opd) (i : Nat) : Nat := readOpd s x (.int true false) o i

/-- The 64-bit address base + sext64(offset) (R240). -/
def addr64 (s : State) (x : Ops) (i : Nat) : Nat :=
  (readBase s x x.a i + ofInt 64 (toInt 32 (readOpd s x (.int false true) x.c i))) % 2 ^ 64

/-- The 32-bit offset base + offset (R240). -/
def addr32 (s : State) (x : Ops) (i : Nat) : Nat := (readU s x x.a i + readU s x x.c i) % 2 ^ 32

/-! ### Writing results -/

/-- Write a fixed-latency value of one or two registers to a vector, operand-file or scalar destination for lane `i`. -/
def Course.setReg (c : Course) (o : Opd) (i n v : Nat) : Course :=
  match o with
  | .v r => c.setVec r.toNat i (4 * n) v
  | .o r => { c with o := (List.range n).foldl (fun y k => Cells.set y (32 * (r.toNat + k) + i) (BitVec.ofNat 32 (v / 2 ^ (32 * k)))) c.o }
  | .s r => c.setScl r.toNat (4 * n) v
  | .l _ | .zero | .one | .lane | .cid | .bid | .pier | .mone | .two | .imask | .ncourse | .nbond | .lit | .imm _ | .hole _ | .resv _
  | .short _ => c

/-- Push a result on the last-result file of a lane (R99): l1 := l0, then l0 := result. -/
def Course.push (c : Course) (i v : Nat) : Course :=
  { c with l := Cells.set (Cells.set c.l (32 + i) (Cells.get c.l i)) i (BitVec.ofNat 64 v) }

/-- Whether results written there are pushed: vector and operand-file destinations (R99). -/
def opdPushes (o : Opd) : Bool :=
  match o with
  | .v _ | .o _ => true
  | .s _ | .l _ | .zero | .one | .lane | .cid | .bid | .pier | .mone | .two | .imask | .ncourse | .nbond | .lit | .imm _ | .hole _ | .resv _
  | .short _ => false

/-- Write the results of lanes, in ascending order, with pushes; a scalar destination is written once, by the lowest. -/
def Course.writeLanes (c : Course) (o : Opd) (n : Nat) (push : Bool) (vals : List (Nat × Nat)) : Course :=
  match o with
  | .s _ => match vals with
    | p :: _ => c.setReg o p.1 n p.2
    | [] => c
  | .v _ | .o _ => vals.foldl (fun c p => if push then (c.setReg o p.1 n p.2).push p.1 p.2 else c.setReg o p.1 n p.2) c
  | .l _ | .zero | .one | .lane | .cid | .bid | .pier | .mone | .two | .imask | .ncourse | .nbond | .lit | .imm _ | .hole _ | .resv _
  | .short _ => c

/-- A result in flight lands in its destination, and pushes the last-result file where it is one that does (R99, R140). -/
def Course.land (c : Course) (r : Landing) : Course :=
  c.writeLanes r.dst (if r.wide then 2 else 1) r.push (r.vals.filter (fun p => r.lanes.getLsbD p.1))

/-- A predicate of a lane; p7 reads as true (R130). -/
def Course.pred (c : Course) (r i : Nat) : Bool := 7 ≤ r || (Cells.get c.p r).getLsbD i

/-- Write a predicate in a lane. -/
def Course.setPred (c : Course) (r i : Nat) (b : Bool) : Course :=
  let old : Word := Cells.get c.p r
  { c with p := Cells.set c.p r (if b then old ||| LaneSet.only i else old &&& ~~~ LaneSet.only i) }

/-- Write a predicate destination (R135). -/
def Course.writePred (c : Course) (o : Opd) (vals : List (Nat × Bool)) : Course :=
  match o with
  | .v r => vals.foldl (fun c p => c.setPred r.toNat p.1 p.2) c
  | .o _ | .s _ | .l _ | .zero | .one | .lane | .cid | .bid | .pier | .mone | .two | .imask | .ncourse | .nbond | .lit | .imm _ | .hole _
  | .resv _ | .short _ => c

/-- Whether the guard is true in a lane (R94). -/
def guardTrue (c : Course) (g : Guard) (i : Nat) : Bool := xor (c.pred g.pred.toNat i) g.neg

/-- The participating lanes (R136). -/
def partLanes (s : State) (x : Ops) : LaneSet := LaneSet.ofFn (fun i => s.iss.mask.getLsbD i && guardTrue s.cur x.guard i)

end Sys2Proof.Machine
end

