-- ==== Sys2Proof/Machine/Flags.lean ====
section
/-! DEFINITION. Completion flags and guard records (R112–R119, R394), the causes of issue in their order (R102): the class-0 sub-codes that
depend on the clause (R108 Table 11), class 1, then class 2 (R117 Table 13); and how an instruction finishes. -/

namespace Sys2Proof.Machine

/-! ### Class 0 -/

/-- The flag in slot A or B of a header, 15 for none (R112); a lane outside every body has no header. -/
def slotIn (h : Word) (b : Bool) : Nat := if h = 0 then 15 else (h.extractLsb' (if b then 18 else 14) 4).toNat

/-- The sub-codes that depend on the clause, of which each lane has its own (R113): 6 for a transfer that is not last, 7 for FS outside a clause, 10 for an FS that names a slot of
15 (R108, R110, R113). -/
def clauseSub (s : State) (transfer flags fsA fsB : Bool) : Option Nat :=
  let open1 (i : Nat) : Bool := (fsA && slotIn (Cells.get s.cur.chead i) false = 15) || (fsB && slotIn (Cells.get s.cur.chead i) true = 15)
  if transfer && s.iss.bodies &&& ~~~ s.iss.lasts ≠ 0 then some 6
  else if flags && (fsA || fsB) && s.iss.mask &&& ~~~ s.iss.bodies ≠ 0 then some 7
  else if flags && (LaneSet.toList s.iss.bodies).any open1 then some 10
  else none

/-- The lowest class-0 sub-code of an instruction where it issues (R102). -/
def class0 (s : State) (maj : Nat) (x : Ops) : Option Nat :=
  minSub [staticSub maj x, clauseSub s (isTransfer maj) (bearsFlags maj) x.fsA x.fsB]

/-! ### Flags (R112, R394) -/

/-- The flags that an FS field selects from a header (R112). -/
def selFlags (sel : BitVec 2) (h : Word) : BitVec 12 :=
  flagSet (if sel.getLsbD 0 then slotIn h false else 15) (if sel.getLsbD 1 then slotIn h true else 15)

/-- The flags that an instruction's FS selects for its subset: those of each lane's own clause (R112, R113; assumption 94). -/
def flagsOf (s : State) (x : Ops) : BitVec 12 :=
  (LaneSet.toList s.iss.mask).foldl (fun f i => f ||| selFlags x.sel (Cells.get s.cur.chead i)) 0

/-- The flags of an operation in a lane. -/
def Op.laneFlags (o : Op) (i : Nat) : BitVec 12 := selFlags o.sel (Cells.get o.chead i)

/-- Some flag of a set stands at 255 (R394). -/
def flagsFull (c : Course) (m : BitVec 12) : Bool := (List.range 12).any (fun k => m.getLsbD k && Cells.get c.flags k == 255)

/-- Count flags up (R112). -/
def Course.addFlags (c : Course) (m : BitVec 12) : Course :=
  { c with flags := ((List.range 12).filter (fun k => m.getLsbD k)).foldl (fun f k => Cells.set f k (Cells.get f k + 1)) c.flags }

/-- Every flag of a set is clear. -/
def flagsClear (c : Course) (m : BitVec 12) : Bool := (List.range 12).all (fun k => !m.getLsbD k || Cells.get c.flags k == 0)

/-! ### Guard records (R117) -/

/-- A register, for guard records. -/
inductive RegRef where
  | v (r : Nat) | s (r : Nat) | p (r : Nat)
deriving DecidableEq, Repr

/-- The registers of `n` that an operand names. -/
def opdRefs (o : Opd) (n : Nat) : List RegRef :=
  match o with
  | .v r => (List.range n).map (fun k => .v (r.toNat + k))
  | .s r => (List.range n).map (fun k => .s (r.toNat + k))
  | .o _ | .l _ | .zero | .one | .lane | .cid | .bid | .pier | .mone | .two | .imask | .ncourse | .nbond | .lit | .imm _ | .hole _ | .resv _
  | .short _ => []

/-- A predicate as a register; p7 has no record. -/
def predRef (r : Nat) : List RegRef := if r < 7 then [.p r] else []

/-- Whether a register has a non-empty record in some of the lanes. -/
def marked (c : Course) (m : LaneSet) (r : RegRef) : Bool :=
  match r with
  | .v n => allLanes.any (fun i => m.getLsbD i && Cells.get c.vguard (32 * n + i) ≠ 0)
  | .p n => allLanes.any (fun i => m.getLsbD i && Cells.get c.pguard (32 * n + i) ≠ 0)
  | .s n => m ≠ 0 && Cells.get c.sguard n ≠ 0

/-- The class-2 sub-code of reading some registers and writing others with fixed latency (R117 Table 13): the guard predicate first, in every
issuing lane, then the sources in the participating lanes (R102). -/
def class2 (s : State) (x : Ops) (reads writes : List RegRef) : Option Nat :=
  let c := s.cur
  if (predRef x.guard.pred.toNat).any (marked c s.iss.mask) then some 2
  else
    let m := partLanes s x
    let isV (r : RegRef) : Bool := match r with | .v _ => true | .s _ | .p _ => false
    let isS (r : RegRef) : Bool := match r with | .s _ => true | .v _ | .p _ => false
    if reads.any (fun r => isV r && marked c m r) then some 0
    else if reads.any (fun r => isS r && marked c m r) then some 1
    else if reads.any (fun r => !isV r && !isS r && marked c m r) then some 2
    else if writes.any (marked c m) then some 3
    else none

/-- Set the record of a long-latency destination of `n` registers (R117): of a vector register each lane's own flags, of a scalar one all. -/
def Course.setGuard (c : Course) (d : Dest) (n : Nat) (m : LaneSet) (f : BitVec 12) (own : Nat → BitVec 12) : Course :=
  match d with
  | .none => c
  | .vec r =>
    { c with vguard := (List.range n).foldl (fun g k => (LaneSet.toList m).foldl (fun g i => Cells.set g (32 * (r + k) + i) (own i)) g) c.vguard }
  | .scl r => { c with sguard := (List.range n).foldl (fun g k => Cells.set g (r + k) f) c.sguard }

/-- A wait on flags is satisfied for a subset (R117): its lanes' records that contain a waited flag are cleared, and the course's scalar
records. -/
def Course.clearRecords (c : Course) (m : LaneSet) (f : BitVec 12) : Course :=
  { c with
      vguard := c.vguard.filter (fun kv => !(m.getLsbD (kv.1 % 32) && (kv.2 &&& f) ≠ 0))
      pguard := c.pguard.filter (fun kv => !(m.getLsbD (kv.1 % 32) && (kv.2 &&& f) ≠ 0))
      sguard := c.sguard.filter (fun kv => (kv.2 &&& f) == 0)
      heldLanes := 0 }

/-- Every flag is clear and every record empty (R119, R192). -/
def Course.quiet (c : Course) : Bool := c.flags.isEmpty && c.vguard.isEmpty && c.pguard.isEmpty && c.sguard.isEmpty

/-! ### Issuing and finishing -/

/-- The issuing subset waits on flags, or for a guard group (R111, R395, R422): it takes no part in selection until something completes. -/
def holdIssue (s : State) : Out :=
  .next { s with iss := { s.iss with kept := true }, cur := { s.cur with heldLanes := s.cur.heldLanes ||| s.iss.mask } }

/-- The instruction is held as a scoreboard stall is held (R114, R320, R389, R394): the course is not selectable until something completes. -/
def stallIssue (s : State) : Out :=
  .next { s with iss := { s.iss with kept := true, stalled := true }, cur := { s.cur with heldLanes := s.cur.live } }

/-- The causes of issue in their order (R102): class 0, class 1, class 2; else the body, on the participating lanes. -/
def issue (s : State) (maj : Nat) (x : Ops) (c1 c2 : Option Nat) (body : LaneSet → Out) : Out :=
  match class0 s maj x with
  | some k => .next (raiseSubset s k 0)
  | none => match c1 with
    | some k => .next (raiseSubset s (16 + k) 0)
    | none => match c2 with
      | some k => .next (raiseSubset s (32 + k) 0)
      | none => body (partLanes s x)

/-- Advance the issuing subset past the instruction (R158). -/
def State.pass (s : State) (x : Ops) : State := s.upd (fun c => c.advance s.iss.mask x.len)

/-- The instruction is done: its subset advances. -/
def done (s : State) (x : Ops) : Out := .next (noEligible (s.pass x))

/-- A sub-code of a class, for the issuing subset. -/
def trapOut (s : State) (cause : Nat) : Out := .next (raiseSubset s cause 0)

/-- The payload, in 16-byte units, of the replay entry that eviction would make of an operation (R324, R423): of a load or returning atomic the addresses
of its lanes, of a copy its block and first unit. Others are kept as no entry. -/
def Op.keptUnits (o : Op) : Option Nat :=
  let lanes := (8 * o.lanes.toList.length + 15) / 16
  match o.kind with
  | .load d _ _ _ | .loadS d _ | .loadC d _ _ _ | .atomic d _ _ _ | .atomicS d _ _ => if d = .none then none else some lanes
  | .engine _ maj _ _ _ _ _ => if maj = 0xD2 then some 5 else none
  | .store _ _ | .storeS _ | .put _ _ _ _ _ _ | .order _ _ | .afence _ _ | .pflush _ | .array _ | .fetch | .enq _ _ _ | .lease _ _ _ _ => none

/-- The operations that eviction would keep as replay entries, and the payload they may need (R324, R424). -/
def keptOps (c : Course) : Nat × Nat :=
  (c.ops.filterMap Op.keptUnits).foldl (fun acc u => (acc.1 + 1, acc.2 + u)) (0, 0)

/-- A harvest course outside an open region holds no seventeenth kept operation and no more than 352 bytes of payload (R324, R424). -/
def keptFull (c : Course) (o : Op) : Bool :=
  c.harvest && !c.rgnOpen && (match o.keptUnits with
    | some u => decide (16 ≤ (keptOps c).1) || decide (22 < (keptOps c).2 + u)
    | none => false)

/-! ### The access queue of a quoin (R332, R333) -/

/-- The numbers of a list without repeats. -/
def distinctOf (xs : List Nat) : List Nat := xs.foldl (fun acc x => if memNat x acc then acc else acc ++ [x]) []

/-- Distinct 128-byte lines or rows of some lanes' addresses in each pass. -/
def linesByPass (s : State) (qid : Nat) (addrs : List (Nat × Nat)) : Nat :=
  (distinctOf (addrs.map (fun p => threadPass s qid p.1 + 4 * (p.2 / 128)))).length

/-- Whether an operation takes an entry for each line or row of its lanes; an `ldc` has one line. -/
def Op.perLine (o : Op) : Bool :=
  match o.kind with
  | .load _ _ _ _ | .loadS _ _ | .store _ _ | .storeS _ | .atomic _ _ _ _ | .atomicS _ _ _ => true
  | .loadC _ _ _ _ | .put _ _ _ _ _ _ | .order _ _ | .afence _ _ | .pflush _ | .enq _ _ _ | .lease _ _ _ _ | .engine _ _ _ _ _ _ _ | .array _ | .fetch => false

/-- Whether an operation of the other kinds holds its one entry: an engine command, `enq` or `lease` until its engine or dispatcher has accepted it. -/
def Op.oneEntry (o : Op) : Bool :=
  match o.kind with
  | .engine _ _ _ _ _ _ go => !go && o.stage = 0
  | .enq _ _ _ | .lease _ _ _ _ => o.stage = 0
  | .array _ | .fetch => false
  | .load _ _ _ _ | .loadS _ _ | .store _ _ | .storeS _ | .atomic _ _ _ _ | .atomicS _ _ _ | .loadC _ _ _ _ | .put _ _ _ _ _ _ | .order _ _
  | .afence _ _ | .pflush _ => true

/-- The entries of a quoin's access queue that an operation holds. -/
def opEntries (s : State) (qid : Nat) (o : Op) : Nat :=
  if o.perLine then linesByPass s qid (o.addrs.filter (fun p => o.lanes.getLsbD p.1)) else if o.oneEntry then 1 else 0

/-- At most as many as that, without looking at passes and lines. -/
def Op.entryBound (o : Op) : Nat := if o.perLine then o.lanes.toList.length else 1

/-- What a count of each operation of a quoin's courses comes to, of one class or of both. -/
def quoinEntries (s : State) (qid : Nat) (harvest : Bool) (f : Op → Nat) : Nat :=
  ((s.cur :: s.courses).filter (fun c => c.qid == qid && (!harvest || c.harvest))).foldl (fun acc c => c.ops.foldl (fun acc o => acc + f o) acc) 0

/-- Entries of the access queue that are free for the course in the issue unit: 2,048 in all, of which harvest courses hold at most 1,536 (R332). -/
def freeEntries (s : State) : Nat :=
  let all := 2048 - quoinEntries s s.cur.qid false (opEntries s s.cur.qid)
  if s.cur.harvest then Nat.min all (1536 - quoinEntries s s.cur.qid true (opEntries s s.cur.qid)) else all

/-- Whether some operations find too few free entries in the access queue to issue (R332). -/
def accessFull (s : State) (os : List Op) : Bool :=
  let bound := os.foldl (fun acc o => acc + o.entryBound) 0
  if quoinEntries s s.cur.qid false Op.entryBound + bound ≤ 1536 then false
  else decide (freeEntries s < os.foldl (fun acc o => acc + opEntries s s.cur.qid o) 0)

/-- Number some operations from `n`. -/
def numberOps (n : Nat) (os : List Op) : List Op :=
  match os with
  | [] => []
  | o :: rest => { o with seq := n } :: numberOps (n + 1) rest

/-- Add an issued operation to the course, after the ordering operations it needs: its flags count up, its destination's record is set, and the lanes of
its subset that do not fault advance (R112, R117, R242). An operation without lanes adds nothing. Held while a flag stands at 255 (R394), a
thirteenth guard group would be needed (R422), a harvest course holds too many operations (R324) or the access queue too many entries (R332). `after` acts on the first number given;
faulting lanes are handled last (R421). -/
def issueOpF (s : State) (x : Ops) (n : Nat) (pre : List Op) (o : Op) (fs : List LaneFault) (after : State → Nat → State) : Out :=
  let c := s.cur
  if flagsFull c o.flags || keptFull c o || accessFull s (pre ++ (if o.lanes = 0 then [] else [o])) then stallIssue s
  else
    let c1 := if o.lanes = 0 then c else (c.addFlags o.flags).setGuard o.dest n o.all o.flags o.laneFlags
    if 12 < (groupsOf c1).length then holdIssue s
    else
      let os := numberOps c.nextOp (pre ++ (if o.lanes = 0 then [] else [o]))
      let c2 := { c1 with ops := c1.ops ++ os, nextOp := c.nextOp + os.length }
      let s1 := { s with cur := c2.advance (s.iss.mask &&& ~~~ faultSet fs) x.len }
      .next (noEligible (laneFaults (after s1 c.nextOp) c.holdMode s.iss.pc fs))

/-- An acquire of a course at a scope, which waits for its earlier loads and holds its later accesses (R220). -/
def acquireOp (c : Course) (scope : Nat) : Op :=
  { seq := c.nextOp, pc := c.headPc, kind := .order none (some scope), lanes := c.live, all := c.live, subset := c.live, addrs := [], data := [], got := [],
    flags := 0, sel := 0, fpm := c.fpm, ring := c.ring, refused := false, peerWait := false, parked := none, entry := 4, etype := 0, chead := [], cdist := [],
    hold := c.holdMode, stage := 0, cut := false }

/-- The course acquires at a scope once its earlier loads have returned (R220). -/
def Course.acquires (c : Course) (scope : Nat) : Course := { c with ops := c.ops ++ [acquireOp c scope], nextOp := c.nextOp + 1 }

/-- As `issueOpF`, for one operation of which no lane faults. -/
def issueOp (s : State) (x : Ops) (n : Nat) (o : Op) : Out := issueOpF s x n [] o [] (fun s _ => s)

/-- A new operation of the issuing instruction, without addresses or data. -/
def newOp (s : State) (x : Ops) (k : OpKind) (m : LaneSet) : Op :=
  let here {w : Nat} (cs : Cells w) : Cells w := cs.filter (fun kv => s.iss.mask.getLsbD kv.1)
  { seq := 0, pc := s.iss.pc, kind := k, lanes := m, all := m, subset := s.iss.mask, addrs := [], data := [], got := [], flags := flagsOf s x, sel := x.sel,
    fpm := s.cur.fpm, ring := s.cur.ring, refused := false, peerWait := false, parked := none, entry := 4, chead := here s.cur.chead,
    cdist := here s.cur.cdist, hold := s.cur.holdMode, stage := 0, cut := false, etype := 0 }

end Sys2Proof.Machine
end

