-- ==== Sys2Proof/Machine/Page.lean ====
section
/-! DEFINITION. The counter page of a die: its words as they read (R414, R426, R431, R468, R486, R487), what a write does to them, and the
start of a pre-emption request (R431). -/

namespace Sys2Proof.Machine

/-! ### Reading -/

/-- Whether a request of a die is being carried out (PRQSTAT.BUSY). -/
def prqBusy (s : State) (die : Nat) : Bool := s.prqs.any (fun r => r.die == die)

/-- The defined words of a counter page, as fields (R414 Table 6, R431 Table 5, R426, R486). -/
def pageFields (s : State) (die : Nat) : Fields :=
  let d := getDie s die
  [(0x000, 4, d.hbeat.toNat), (0x008, 4, d.wdctl.toNat), (0x00C, 4, d.wdlim.toNat), (0x010, 4, d.wdcnt.toNat), (0x014, 4, d.wdexp.toNat),
   (0x024, 4, d.prqDone.toNat), (0x028, 4, (if prqBusy s die then 1 else 0) + (if d.prqOverdue then 2 else 0)), (0x030, 8, d.df3.toNat),
   (0x040, 64, numOf d.prq), (0xC00, 4, d.func.toNat), (0xC04, 4, d.arg0.toNat), (0xC08, 8, d.arg1.toNat), (0xC10, 4, d.result.toNat),
   (0xE00, 96, d.key)]

/-- `n` bytes of the counter page from offset `off`; reserved bytes and write-only words read as zero. -/
def dieRead (s : State) (die off n : Nat) : Nat :=
  if 0x800 ≤ off && off < 0xC00 then readNum (getDie s die).hand (off - 0x800) n
  else fieldAt (packFields (pageFields s die)) off n

/-! ### Pre-emption requests (R431) -/

/-- The request block as its fields (R431 Table 6). -/
def prqOf (bs : List Byte) : Nat × Prq :=
  let v := numOf bs
  let kind := fieldAt v 0 1
  let save := fieldAt v 0x10 8
  (kind,
    { tenant := fieldAt v 1 1 % 64, hold := bitAt (fieldAt v 2 1) 0, slot := fieldAt v 3 1, spanId := BitVec.ofNat 32 (fieldAt v 4 4),
      pierIx := BitVec.ofNat 32 (fieldAt v 8 4), qid := fieldAt v 0xC 2, save := save,
      bad := kind = 0 || 5 < kind || 64 ≤ fieldAt v 1 1 || 2 ≤ fieldAt v 2 1 || fieldAt v 0xE 2 ≠ 0 || fieldAt v 0x18 40 ≠ 0 ||
        (kind ≤ 3 && (save % 2097152 ≠ 0 || Config.hbmBytes ≤ save)) })

/-- The spans that a request names: those of its tenant with its SPANID, or all of the tenant's. -/
def prqSpans (s : State) (kind : Nat) (q : Prq) : List Nat :=
  (s.spans.filter (fun x => x.tenant == q.tenant &&
    (kind == 3 || x.rcd.spanId == q.spanId || (kind == 4 && q.spanId == 0xFFFFFFFF)))).map (fun x => x.id)

/-- The piers on a die that a halting request names. -/
def prqPiers (s : State) (die kind : Nat) (q : Prq) : List Nat :=
  let spans := prqSpans s kind q
  (s.piers.filter (fun p => memNat p.span spans && p.die == die && p.resident && (kind ≠ 2 || p.ix == q.pierIx.toNat))).map (fun p => p.id)

/-- Change every course that satisfies `p`, the one in the issue unit included. -/
def updCourses (s : State) (p : Course → Bool) (f : Course → Course) : State :=
  { s with cur := if p s.cur then f s.cur else s.cur, courses := updWhere p f s.courses }

/-- The courses that satisfy `p`. -/
def coursesWhere (s : State) (p : Course → Bool) : List Course := (s.cur :: s.courses).filter (fun c => c.exists && p c)

/-- A request completes: PRQDONE counts it. -/
def prqComplete (s : State) (die : Nat) (overdue : Bool) : State :=
  updDie { s with prqs := s.prqs.filter (fun r => r.die ≠ die) } die
    (fun d => { d with prqDone := d.prqDone + 1, prqOverdue := d.prqOverdue || overdue })

/-- Start a request of a KIND on a die (R431, R432): ignored while BUSY; a block that breaks its limits completes at once with OVERDUE. A
release takes effect at once. A course trapped at ring 2 or 3 acknowledges at once and stays as it is. -/
def startPrq (s : State) (die kind : Nat) (q : Prq) : State :=
  if prqBusy s die then s
  else
    let s := updDie s die (fun d => { d with prqOverdue := false })
    if q.bad then prqComplete s die true
    else if kind = 4 then
      let spans := prqSpans s 4 q
      prqComplete { s with piers := updWhere (fun p => memNat p.span spans) (fun p => { p with held := false }) s.piers } die false
    else if kind = 5 then
      let mine (c : Course) : Bool := c.exists && c.qid == q.qid && c.slot == q.slot && c.tenant == q.tenant && c.die == die
      let ids := (coursesWhere s mine).map (fun c => c.id)
      { updCourses s mine (fun c => { c with debugReq := true }) with
          prqs := s.prqs ++ [{ die := die, kind := kind, req := q, courses := ids, overdue := false }] }
    else
      let piers := prqPiers s die kind q
      let mine (c : Course) : Bool := c.life = .live && c.stopRing.isNone && memNat c.pier piers
      let ids := (coursesWhere s mine).map (fun c => c.id)
      let qs := (s.bonds.filter (fun b => memNat b.pier piers)).flatMap (fun b => b.quoins)
      -- a course trapped at ring 2 or 3 stays as it is, and halts with its pier after its return (R43, R432)
      { updCourses s (fun c => c.life = .live && memNat c.pier piers) (fun c => { c with haltReq := true, held := q.hold }) with
          piers := updWhere (fun p => memNat p.id piers) (fun p => { p with held := q.hold, save := some q.save, saveQuoins := qs }) s.piers
          prqs := s.prqs ++ [{ die := die, kind := kind, req := q, courses := ids, overdue := false }] }

/-! ### Writing -/

/-- A write of WDCTL (R414, R488): a reserved bit refuses it; UPD rising takes the shadow and falling discards it. -/
def setWdctl (d : Die) (v : Word) : Die :=
  if 4 ≤ v.toNat then d
  else
    { d with
        wdctl := v
        shadow := if !v.getLsbD 1 then none else if d.wdctl.getLsbD 1 then d.shadow else some d.hand }

/-- A write of one aligned word of the counter page by a course of ring `ring`. -/
def pageWord (s : State) (ring die off : Nat) (v : Nat) : State :=
  let w := BitVec.ofNat 32 v
  if off = 0x000 then updDie s die (fun d => { d with hbeat := d.hbeat + 1, wdcnt := 0 })
  else if off = 0x008 then updDie s die (fun d => setWdctl d w)
  else if off = 0x00C then updDie s die (fun d => if 1 ≤ v && v ≤ 1000000 then { d with wdlim := w } else d)
  else if off = 0x020 then
    let r := prqOf (getDie s die).prq
    startPrq s die r.1 r.2
  else if 0x040 ≤ off && off < 0x080 then
    updDie s die (fun d => { d with prq := bytesOf 64 ((writeNum (writeNum [] 0 64 (numOf d.prq)) (off - 0x040) 4 v |> fun cs => readNum cs 0 64)) })
  else if 0x800 ≤ off && off < 0xC00 then updDie s die (fun d => { d with hand := writeNum d.hand (off - 0x800) 4 v })
  else if off = 0xC00 then updDie s die (fun d => { d with func := w })
  else if off = 0xC04 then updDie s die (fun d => { d with arg0 := w })
  else if off = 0xC08 then updDie s die (fun d => { d with arg1 := BitVec.ofNat 64 (d.arg1.toNat / 2 ^ 32 * 2 ^ 32 + v) })
  else if off = 0xC0C then updDie s die (fun d => { d with arg1 := BitVec.ofNat 64 (v * 2 ^ 32 + d.arg1.toNat % 2 ^ 32) })
  else if off = 0xC10 then (if ring = 3 then updDie s die (fun d => { d with result := w }) else s)
  else if 0xE00 ≤ off && off < 0xE60 then
    (if ring = 3 then updDie s die (fun d => { d with key := readNum (writeNum (writeNum [] 0 96 d.key) (off - 0xE00) 4 v) 0 96 }) else s)
  else s

/-- Write the lowest `n` bytes of `v` at an offset: every word touched is written once, with its other bytes as they read. -/
def dieWrite (s : State) (ring die off n v : Nat) : State :=
  let first := off / 4
  let last := (off + n - 1) / 4
  (List.range (last + 1 - first)).foldl (fun s k =>
    let wo := 4 * (first + k)
    let old := dieRead s die wo 4
    let word := (List.range 4).foldl (fun acc j =>
      let a := wo + j
      let b := if off ≤ a && a < off + n then v / 2 ^ (8 * (a - off)) % 256 else old / 2 ^ (8 * j) % 256
      acc + b * 2 ^ (8 * j)) 0
    pageWord s ring die wo word) s

end Sys2Proof.Machine
end

