-- ==== Sys2Proof/Machine/Fetch.lean ====
section
/-! DEFINITION. Which course and which of its lanes issue next (R36, R320), the fetch of an instruction (R92, R371), and the clause context it
issues in (R112, R113). -/

namespace Sys2Proof.Machine

/-! ### Requests to peers on behalf of accesses (R454, R456, R459) -/

/-- Whether the VF of an ASID is being drained. -/
def vfDraining (s : State) (asid : Nat) : Bool :=
  s.vfs.any (fun v => v.state == 2 && v.asid == asid) && !s.vfs.any (fun v => v.state == 1 && v.asid == asid)

/-- Why a request to a peer cannot be sent, as a class-22 cause: sub-code 5 while the VF drains, 3 with no path. -/
def peerCause (s : State) (asid dev : Nat) : Option Nat :=
  if vfDraining s asid then some 0x165 else if pathTo s dev then none else some 0x163

/-- Ask a peer for a line (RD). -/
def askLine (s : State) (a : Acc) (dev va : Nat) (who : ReqWho) : State :=
  sendReq s (packet s 1 dev (vfOfAsid s a.asid) a.harvest (lineOf va)) who

/-- The class-22 cause of a reply's STATUS (R454). -/
def statusCause (st : Nat) : Nat := if st = 1 then 0x164 else if st = 2 then 0x166 else 0x163

/-! ### Selection (R36, R320) -/

/-- Whether an operation is a fetch. -/
def Op.isFetch (o : Op) : Bool :=
  match o.kind with
  | .fetch => true
  | .load _ _ _ _ | .loadS _ _ | .loadC _ _ _ _ | .store _ _ | .storeS _ | .atomic _ _ _ _ | .atomicS _ _ _ | .put _ _ _ _ _ _
  | .order _ _ | .afence _ _ | .pflush _ | .enq _ _ _ | .lease _ _ _ _ | .engine _ _ _ _ _ _ _ | .array _ => false

/-- Whether an operation waits on a pin, a peer or a part. -/
def Op.blocked (o : Op) : Bool := o.refused || o.peerWait || o.parked.isSome

/-- The lanes whose fetch waits. -/
def Course.fetching (c : Course) : LaneSet :=
  (c.ops.filter (fun o => o.isFetch && o.blocked)).foldl (fun acc o => acc ||| o.lanes) 0

/-- The lanes from which the course chooses its issuing subset. -/
def Course.choosable (c : Course) : LaneSet := c.eligible &&& ~~~ c.heldLanes &&& ~~~ c.fetching

/-- The lane of a set whose last issue lies furthest back, ties to the lowest (R36). -/
def oldestLane (c : Course) (ls : List Nat) : Option Nat :=
  match ls with
  | [] => none
  | i :: rest =>
    match oldestLane c rest with
    | none => some i
    | some j => if (Cells.get c.last j).toNat < (Cells.get c.last i).toNat then some j else some i

/-- The issuing subset and its PC (R36). -/
def Course.subset (c : Course) : Option (LaneSet × Nat) :=
  match oldestLane c (LaneSet.toList c.choosable) with
  | none => none
  | some i => some (LaneSet.ofFn (fun j => c.choosable.getLsbD j && c.pcOf j == c.pcOf i), c.pcOf i)

/-- A course that can issue now (R38, R428, R466, R469): live, without a wait, a stop, a pending trap or an access of its own ring parked
(R60), with a subset to choose or with passes set aside (R321), on a die that may issue its class. -/
def Course.ready (s : State) (c : Course) : Bool :=
  s.run = .running && c.life = .live && c.wait.isNone && c.stopRing.isNone && !c.evicting &&
  (c.aside.isSome || (c.pend.isEmpty && !(c.haltReq && (c.forced || c.reconverged)) && c.ops.all (fun o => !o.parksCourse || o.ring ≠ c.ring) &&
    c.choosable ≠ 0)) &&
  !(c.harvest && (getDie s c.die).hot) && !(getDie s c.die).dead

/-- Whether a course goes before another in selection (R320): the lesser STAMP, ties to the lower queue priority number, then to the lower
course slot. -/
def Course.before (a b : Course) : Bool :=
  a.stamp < b.stamp || (a.stamp = b.stamp && (a.prio < b.prio || (a.prio = b.prio && a.slot < b.slot)))

/-- The first of some courses in selection. -/
def firstCourse (cs : List Course) : Option Course :=
  match cs with
  | [] => none
  | c :: rest =>
    match firstCourse rest with
    | none => some c
    | some d => if d.before c then some d else some c

/-- The STAMP of a course that is Ready again after it has left that state counts from now (R320). -/
def Course.stampReady (s : State) (c : Course) : Course := if c.away && c.ready s then { c with stamp := s.turns + 1, away := false } else c

/-- Stamp every course that has become Ready. -/
def stampReady (s : State) : State :=
  { s with cur := s.cur.stampReady s, courses := s.courses.map (fun c => c.stampReady s), turns := s.turns + 1 }

/-- The courses that compete for the issue units: a harvest course only while no guaranteed course of its quoin does (R58, R320). -/
def contenders (s : State) : List Course :=
  let ready := (s.cur :: s.courses).filter (fun c => c.ready s)
  ready.filter (fun c => !c.harvest || !ready.any (fun g => !g.harvest && g.qid == c.qid))

/-- Bring a course into the issue unit; the one that stood there goes behind the others, and is dropped if it has ended. -/
def focus (s : State) (id : Nat) : State :=
  if s.cur.id == id then s
  else match s.courses.find? (fun c => c.id == id) with
    | none => s
    | some c =>
      let rest := s.courses.filter (fun x => x.id ≠ id)
      { s with cur := c, courses := if s.cur.over then rest else rest ++ [s.cur] }

/-- Courses that yield are passed over once: their STAMP is now (R111, R185, R320). -/
def passOver (s : State) (ids : List Nat) : State :=
  let one (c : Course) : Course := if memNat c.id ids then { c with yielding := false, stamp := s.turns + 1 } else c
  { s with cur := one s.cur, courses := s.courses.map one, turns := s.turns + 1 }

/-- The course selected by R320 among some, and the courses with a pending yield that it passes over; `n` bounds their number. -/
def choose (cs : List Course) (n : Nat) : Option Course × List Nat :=
  match n with
  | 0 => (none, [])
  | k + 1 =>
    match firstCourse cs with
    | none => (none, [])
    | some c =>
      if c.yielding then
        let r := choose (cs.filter (fun x => x.id ≠ c.id)) k
        (r.1, c.id :: r.2)
      else (some c, [])

/-- The course selected, in the issue unit with its STAMP now; or, when every contender yields, none (R320). -/
def selectCourse (s : State) : Option (State × Bool) :=
  let s := stampReady s
  match contenders s with
  | [] => none
  | cs =>
    match choose cs cs.length with
    | (some d, ids) =>
      let t := focus (passOver s ids) d.id
      some ({ t with turns := t.turns + 1, cur := { t.cur with stamp := t.turns + 1 } }, true)
    | (none, ids) => some (passOver s ids, false)

/-! ### Fetching -/

/-- The lease window of a course's span (R374). -/
def windowOf (s : State) (c : Course) : List (Nat × Nat) :=
  match findSpan s c.span with
  | some sp => sp.window
  | none => []

/-- The class-5 cause of an access of a course; rings 2 and 3 run under no lease (assumption 20). -/
def leaseCause (s : State) (c : Course) (va : Nat) (u : Use) : Option Nat :=
  if 2 ≤ c.ring then none else (leaseSub (windowOf s c) va u).map (fun k => 0x50 + k)

/-- How the fetch of one word ended. -/
inductive Fetched where
  | word (w : Word)
  /-- a class-5 cause -/
  | lease (cause : Nat)
  /-- at a virtual address, as the access ended -/
  | stop (va : Nat) (r : HRes)
deriving DecidableEq, Repr

/-- The line data that a waiting fetch of the course was given by a peer. -/
def fetchedLine (c : Course) (va : Nat) : Option Nat :=
  (c.ops.find? (fun o => o.isFetch && o.data.any (fun d => d.1 == lineOf va))).bind (fun o => assoc o.data (lineOf va))

/-- Fetch one word for the course in the issue unit. -/
def fetchWord (s : State) (va : Nat) : State × Fetched :=
  let c := s.cur
  match leaseCause s c va .fetch with
  | some k => (s, .lease k)
  | none =>
    match fetchedLine c va with
    | some d => (s, .word (BitVec.ofNat 32 (d / 2 ^ (8 * (va % 128)))))
    | none =>
      match coreRead s c.acc c.site va 4 2 .fetch with
      | (s, .line _ _, v, _) => (s, .word (BitVec.ofNat 32 v))
      | (s, .mmio die off, _, _) => (s, .word (BitVec.ofNat 32 (dieRead s die off 4)))
      | (s, r, _, _) => (s, .stop va r)

/-- Fetch `n` words in order. -/
def fetchWords (s : State) (va n : Nat) : State × Except Fetched (List Word) :=
  match n with
  | 0 => (s, .ok [])
  | k + 1 =>
    match fetchWord s va with
    | (s, .word w) =>
      match fetchWords s (va + 4) k with
      | (s, .ok ws) => (s, .ok (w :: ws))
      | (s, .error e) => (s, .error e)
    | (s, f) => (s, .error f)

/-- Fetch the words of the instruction at a PC (R91). -/
def fetchInstr (s : State) (pc : Nat) : State × Except Fetched (List Word) :=
  match fetchWords s pc 1 with
  | (s, .ok (w :: _)) =>
    match fetchWords s (pc + 4) (wordsOf w - 1) with
    | (s, .ok ws) => (s, .ok (w :: ws))
    | (s, .error e) => (s, .error e)
  | (s, .ok []) => (s, .ok [])
  | (s, .error e) => (s, .error e)

/-- Add a waiting fetch to the course in the issue unit. -/
def addFetch (s : State) (m : LaneSet) (va : Nat) (refused peer : Bool) (part : Option Nat) : State :=
  s.upd (fun c =>
    { c with
        ops := c.ops ++ [{ seq := c.nextOp, pc := s.iss.pc, kind := .fetch, lanes := m, all := m, subset := m, addrs := [(0, va)], data := [], got := [], flags := 0, sel := 0,
                           fpm := c.fpm, ring := c.ring, refused := refused, peerWait := peer, parked := part, entry := 4, chead := [], cdist := [],
                           hold := c.holdMode, stage := 0, cut := false, etype := 0 }]
        nextOp := c.nextOp + 1 })

/-- The fault record of an access of a course (R358). -/
def faultOf (c : Course) (s : State) (va kind : Nat) (lanes : LaneSet) : FaultRec :=
  { tenant := c.tenant, addr := va, asid := effAsid s c.tenant c.asid va, kind := kind, first := true, engine := false, lanes := lanes.toNat,
    qid := c.qid, slot := c.slot, spanId := c.spanId.toNat }

/-- A fetch that found a cause (R92): a lease cause ends the span, a protection cause is a lane fault of every lane of the subset, an absent part
of a soft range parks the course and one of a firm range ends the span; a pin or a peer's line is waited for. -/
def fetchStop (s : State) (f : Fetched) : State :=
  let c := s.cur
  let m := s.iss.mask
  let faults (s : State) (cause va : Nat) : State :=
    noEligible (laneFaults s c.holdMode s.iss.pc ((LaneSet.toList m).map (fun i => { lane := i, cause := cause, addr := va })))
  match f with
  | .word _ => s
  | .lease k => raiseSubset s k 0
  | .stop va r =>
    match r with
    | .cause k => faults s (0x70 + k) va
    | .absent =>
      if isSoft (windowOf s c) va then
        let as := effAsid s c.tenant c.asid va
        let s1 := addFetch s m va false false (some (partOf va))
        parkOn (perfAdd s1 c.tenant 0x28 1) as (partOf va) (c.id, c.nextOp) (faultOf c s va 3 m)
      else if 2 ≤ c.ring then addFetch s m va true false none
      else raiseSubset s 0x55 0
    | .pinned => addFetch s m va true false none
    | .peer dev =>
      match peerCause s c.asid dev with
      | some k => faults s k va
      | none => askLine (addFetch s m va false true none) c.acc dev va (.op c.id c.nextOp 0)
    | .line _ _ | .mmio _ _ => s

/-! ### The clause context of an issue (R112, R113) -/

/-- Whether a lane's body ends with an instruction of `n` words. -/
def Course.lastOf (c : Course) (i n : Nat) : Bool :=
  let h := Cells.get c.chead i
  h ≠ 0 && decide ((h.extractLsb' 22 5).toNat < (Cells.get c.cdist i).toNat + n)

/-- The issue record of a subset at a PC for an instruction of `n` words: each lane has a clause context of its own (R113). -/
def issueAt (c : Course) (m : LaneSet) (pc n : Nat) : Issue :=
  let lasts := LaneSet.ofFn (fun i => m.getLsbD i && c.lastOf i n)
  { mask := m, whole := m, pc := pc, len := 4 * n, bodies := LaneSet.ofFn (fun i => m.getLsbD i && Cells.get c.chead i ≠ 0), lasts := lasts
    yields := (LaneSet.toList lasts).any (fun i => (Cells.get c.chead i).getLsbD 27), drawn := none, kept := false, stalled := false }

/-- Whether a row is a clause header. -/
def isHeader (i : Instr) : Bool :=
  match i with
  | .clause _ => true
  | _ => false

/-- Whether a row can be set aside at a pass boundary: an integer or floating instruction with a vector or operand-file destination (R321). -/
def canSetAside (i : Instr) : Bool :=
  match i.major?, i.ops? with
  | some maj, some x => 0x20 ≤ maj && maj ≤ 0x68 && opdPushes x.d && !(maj = 0x3F) && !(maj = 0x56)
  | _, _ => false

/-- Prepare the issue of a decoded instruction: the issue record, the end of its lanes' fetches and, of a harvest instruction that is being
set aside, the passes that issue now (R321). -/
def prepare (s : State) (m : LaneSet) (pc n : Nat) (i : Instr) : State :=
  let hdr := isHeader i
  let s :=
    { s with
        iss := { issueAt s.cur m pc n with kept := hdr }
        cur := { s.cur with ops := s.cur.ops.filter (fun o => !(o.isFetch && !o.blocked)), stepped := s.cur.stepping && !hdr } }
  match s.cur.asideAt with
  | none => s
  | some p =>
    let now := LaneSet.ofFn (fun j => m.getLsbD j && threadPass s s.cur.qid j ≤ p)
    if canSetAside i && s.cur.harvest && now ≠ 0 && now ≠ m then
      { s with
          iss := { s.iss with mask := now }
          cur := { s.cur with asideAt := none, aside := some { instr := i, rest := m &&& ~~~ now, whole := m, fpm := s.cur.fpm, lfmode := s.cur.lfmode, drawn := [] } } }
    else s

/-- What the issue of an instruction for a subset changes in its course: its lanes' last issue is now (R36), and its clause may ask for a
yield (R111). A clause header takes no issue slot (R111). -/
def Course.issued (c : Course) (x : Issue) : Course :=
  { c with
      last := (LaneSet.toList x.whole).foldl (fun y i => Cells.set y i (BitVec.ofNat 64 (c.issueNo + 1))) c.last
      issueNo := c.issueNo + 1
      yielding := c.yielding || x.yields }

/-- Whether the course is in the state Ready (R38): what is held as a scoreboard stall is held (R114) leaves it there, a wait on flags of every
eligible lane does not. -/
def Course.isReady (c : Course) (stalled : Bool) : Bool :=
  c.life = .live && c.wait.isNone && c.stopRing.isNone && c.pend.isEmpty && c.ops.all (fun o => !o.parksCourse || o.ring ≠ c.ring) &&
  (stalled || c.eligible &&& ~~~ c.heldLanes ≠ 0)

/-- After the instruction of the issuing subset: unless it was kept from issuing, its issue is counted (R36, R416), and a course that steps
traps with class 17, sub-code 1 (R429, R430). A course that is no longer Ready has a new STAMP to come (R320). -/
def afterStep (s : State) : State :=
  let away (s : State) : State :=
    s.upd (fun c => { c with away := c.away || !c.isReady s.iss.stalled })
  if s.iss.kept then away s
  else
    let s := perfAdd (s.upd (fun c => c.issued s.iss)) s.cur.tenant (if s.cur.harvest then 0x10 else 0x08) 1
    away (if s.cur.stepped && s.cur.life = .live then
      raise (s.upd (fun c => { c with stepping := false, stepped := false })) 0x111 s.iss.mask s.iss.pc 0 0
    else s)

end Sys2Proof.Machine
end

