-- ==== Sys2Proof/Machine/Alu.lean ====
section
/-! DEFINITION. What the integer and floating instructions share: their class-1 causes (R101, R102), reading sources and writing results with
their pushes (R99, R136), element types (R134, R141), and lane faults of arithmetic (R72, R421). -/

namespace Sys2Proof.Machine

/-- The class-1 sub-code of an instruction with typed sources and a destination of `n` registers (R101 Table 5). -/
def aluSub1 (s : State) (x : Ops) (srcs : List (STy × Opd)) (n : Nat) : Option Nat :=
  minSub (srcs.map (fun p => srcSub s x p.1 p.2) ++ [dstSub s.cur x n x.d, scalarSub x (srcs.map (fun p => p.2))])

/-- The registers that typed sources name. -/
def aluReads (srcs : List (STy × Opd)) : List RegRef := srcs.flatMap (fun p => opdRefs p.2 p.1.regs)

/-- An instruction that computes a value of `n` registers in each participating lane and writes it with fixed latency. -/
def alu (s : State) (x : Ops) (maj : Nat) (srcs : List (STy × Opd)) (n : Nat) (f : Nat → Nat) : Out :=
  issue s maj x (aluSub1 s x srcs n) (class2 s x (aluReads srcs) (opdRefs x.d n)) fun m =>
    done (s.upd (fun c => c.writeLanes x.d n (opdPushes x.d) ((LaneSet.toList m).map (fun i => (i, f i))))) x

/-- The predicate that a predicate destination names (R135). -/
def predDst (o : Opd) : List RegRef :=
  match o with
  | .v r => predRef r.toNat
  | .o _ | .s _ | .l _ | .zero | .one | .lane | .cid | .bid | .pier | .mone | .two | .imask | .ncourse | .nbond | .lit | .imm _ | .hole _
  | .resv _ | .short _ => []

/-- As `alu`, for an instruction that writes a predicate, named by the destination (R135). -/
def aluPred (s : State) (x : Ops) (maj : Nat) (srcs : List (STy × Opd)) (f : Nat → Bool) : Out :=
  issue s maj x (minSub (srcs.map (fun p => srcSub s x p.1 p.2) ++ [predSub x x.d]))
      (class2 s x (aluReads srcs) (predDst x.d)) fun m =>
    done (s.upd (fun c => c.writePred x.d ((LaneSet.toList m).map (fun i => (i, f i))))) x

/-! ### Lane faults -/

/-- An instruction is done but for the lanes that fault: the others advance, the faulting ones keep their PCs (R421). -/
def doneFaults (s : State) (x : Ops) (fs : List LaneFault) : Out :=
  let hold := s.cur.holdMode
  let s' := s.upd (fun c => c.advance (s.iss.mask &&& ~~~ faultSet fs) x.len)
  .next (noEligible (laneFaults s' hold s.iss.pc fs))

/-! ### Elements (R134, R141) -/

/-- The element width of an integer type. -/
def itWidth (it : Nat) : Nat :=
  match it with
  | 0 | 1 => 32
  | 2 | 3 => 64
  | 4 | 5 => 16
  | _ => 8

/-- Whether an integer type is signed. -/
def itSigned (it : Nat) : Bool := it % 2 = 0
/-- Elements of a source. -/
def itElems (it : Nat) : Nat := if it < 4 then 1 else 32 / itWidth it
/-- Registers of a value. -/
def itRegs (it : Nat) : Nat := if it = 2 || it = 3 then 2 else 1

/-- Element `k` of a value, read as the type is signed or not. -/
def elemOf (it v k : Nat) : Int :=
  let w := itWidth it
  if itSigned it then toInt w (bits v (w * k) w) else ((bits v (w * k) w : Nat) : Int)

/-- Least and greatest value of an element type. -/
def itRange (it : Nat) : Int × Int :=
  let w := itWidth it
  if itSigned it then (-((2 ^ (w - 1) : Nat) : Int), ((2 ^ (w - 1) : Nat) : Int) - 1) else (0, ((2 ^ w : Nat) : Int) - 1)

/-- An exact result as an element: clamped with `.sat`, else wrapped (R141, R143). -/
def fitElem (it : Nat) (sat : Bool) (v : Int) : Nat :=
  ofInt (itWidth it) (if sat then clampI (itRange it).1 (itRange it).2 v else v)

/-- A value whose element `k` is `f k`. -/
def elems (it : Nat) (f : Nat → Nat) : Nat :=
  (List.range (itElems it)).foldl (fun acc k => acc + f k * 2 ^ (itWidth it * k)) 0

/-- Element-wise exact arithmetic on two values. -/
def elems2 (it : Nat) (sat : Bool) (f : Int → Int → Int) (a b : Nat) : Nat :=
  elems it (fun k => fitElem it sat (f (elemOf it a k) (elemOf it b k)))

end Sys2Proof.Machine
end

