-- ==== Sys2Proof/Machine/Transc.lean ====
section
/-! DEFINITION. The functions of R148 whose values are irrational: `fexp2`, `flog2`, `fsin`, `fcos`, `ftanh`, `fsigm`, rounded once. The
exact value is enclosed between two multiples of 2^(−P); when both ends round alike the result is decided, else P is raised; when the
largest P does not decide, the result is a free value (assumption 12). Exact values are returned as such. -/

namespace Sys2Proof.Machine

/-- An enclosure of a real number, in units of 2^(−P). -/
structure Iv where
  lo : Int
  hi : Int
deriving DecidableEq, Repr

/-- Quotient rounded down. -/
def floorQ (a : Int) (n : Nat) : Int := a / (n : Int)
/-- Quotient rounded up. -/
def ceilQ (a : Int) (n : Nat) : Int := -((-a) / (n : Int))

/-- Sum of two enclosures. -/
def ivAdd (a b : Iv) : Iv := { lo := a.lo + b.lo, hi := a.hi + b.hi }
/-- Difference of two enclosures. -/
def ivSub (a b : Iv) : Iv := { lo := a.lo - b.hi, hi := a.hi - b.lo }
/-- The lesser of two integers. -/
def imin (a b : Int) : Int := if a < b then a else b
/-- The greater of two integers. -/
def imax (a b : Int) : Int := if a < b then b else a

/-- Product of two enclosures in units of 2^(−P). -/
def ivMul (p : Nat) (a b : Iv) : Iv :=
  let w := a.lo * b.lo
  let x := a.lo * b.hi
  let y := a.hi * b.lo
  let z := a.hi * b.hi
  { lo := floorQ (imin (imin w x) (imin y z)) (2 ^ p), hi := ceilQ (imax (imax w x) (imax y z)) (2 ^ p) }

/-- Quotient of an enclosure by a positive number. -/
def ivDivN (a : Iv) (n : Nat) : Iv := { lo := floorQ a.lo n, hi := ceilQ a.hi n }

/-- Multiple of an enclosure by a natural number. -/
def ivScale (a : Iv) (n : Nat) : Iv := { lo := a.lo * n, hi := a.hi * n }

/-- Quotient a / b of an enclosure by one of a positive number. -/
def ivDiv (p : Nat) (a b : Iv) : Iv :=
  let lo := if a.lo < 0 then floorQ (a.lo * (2 ^ p : Nat)) b.lo.toNat else floorQ (a.lo * (2 ^ p : Nat)) b.hi.toNat
  let hi := if a.hi < 0 then ceilQ (a.hi * (2 ^ p : Nat)) b.hi.toNat else ceilQ (a.hi * (2 ^ p : Nat)) b.lo.toNat
  { lo := lo, hi := hi }

/-- Widen by an amount on both sides. -/
def ivWiden (a : Iv) (d : Int) : Iv := { lo := a.lo - d, hi := a.hi + d }

/-- The larger end in magnitude. -/
def ivMag (a : Iv) : Int := imax a.hi (-a.lo)

/-- Terms k, k+1, … of Σ z^(2k+1)/(2k+1), where `t` encloses z^(2k+1) and `z2` encloses ±z²: atanh for +z², atan for −z². -/
def oddSeries (n p k : Nat) (t z2 acc : Iv) : Iv :=
  match n with
  | 0 => ivWiden acc (2 * ivMag t + 2)
  | m + 1 => oddSeries m p (k + 1) (ivMul p t z2) z2 (ivAdd acc (ivDivN t (2 * k + 1)))

/-- atanh z for |z| ≤ 1/3. -/
def ivAtanh (p : Nat) (z : Iv) : Iv := oddSeries (p / 3 + 5) p 0 z (ivMul p z z) { lo := 0, hi := 0 }

/-- atan z for |z| ≤ 1/5. -/
def ivAtan (p : Nat) (z : Iv) : Iv :=
  let z2 := ivMul p z z
  oddSeries (p / 4 + 5) p 0 z { lo := -z2.hi, hi := -z2.lo } { lo := 0, hi := 0 }

/-- The quotient m / n of two natural numbers. -/
def ivQuot (p m n : Nat) : Iv := { lo := floorQ ((m * 2 ^ p : Nat) : Int) n, hi := ceilQ ((m * 2 ^ p : Nat) : Int) n }

/-- ln 2 = 2 atanh(1/3). -/
def ivLn2 (p : Nat) : Iv := ivScale (ivAtanh p (ivQuot p 1 3)) 2

/-- π = 16 atan(1/5) − 4 atan(1/239). -/
def ivPi (p : Nat) : Iv := ivSub (ivScale (ivAtan p (ivQuot p 1 5)) 16) (ivScale (ivAtan p (ivQuot p 1 239)) 4)

/-- Terms of Σ y^k/k! from term k on. -/
def expSeries (n p k : Nat) (t y acc : Iv) : Iv :=
  match n with
  | 0 => ivWiden acc (2 * ivMag t + 2)
  | m + 1 => expSeries m p (k + 1) (ivDivN (ivMul p t y) (k + 1)) y (ivAdd acc t)

/-- e^y for 0 ≤ y < 1. -/
def ivExp (p : Nat) (y : Iv) : Iv :=
  let one : Iv := { lo := (2 ^ p : Nat), hi := (2 ^ p : Nat) }
  expSeries (p / 4 + 10) p 0 one y { lo := 0, hi := 0 }

/-- Terms of Σ (−θ²)^k/(2k+1)!, which is sin θ / θ. -/
def sincSeries (n p k : Nat) (t nt2 acc : Iv) : Iv :=
  match n with
  | 0 => ivWiden acc (2 * ivMag t + 2)
  | m + 1 => sincSeries m p (k + 1) (ivDivN (ivMul p t nt2) ((2 * k + 2) * (2 * k + 3))) nt2 (ivAdd acc t)

/-- sin θ / θ for 0 < θ < 2. -/
def ivSinc (p : Nat) (th : Iv) : Iv :=
  let one : Iv := { lo := (2 ^ p : Nat), hi := (2 ^ p : Nat) }
  let t2 := ivMul p th th
  sincSeries (p / 8 + 10) p 0 one { lo := -t2.hi, hi := -t2.lo } { lo := 0, hi := 0 }

/-- e^(−a) for a = m · 2^e: an enclosure of a number between 1 and 2.1, and the power of two that it is divided by. -/
def ivExpNeg (p m : Nat) (e : Int) : Iv × Nat :=
  let a : Iv :=
    if 0 ≤ e then { lo := ((m * 2 ^ e.toNat * 2 ^ p : Nat) : Int), hi := ((m * 2 ^ e.toNat * 2 ^ p : Nat) : Int) }
    else ivQuot p m (2 ^ (-e).toNat)
  let l := ivLn2 p
  let n := (a.hi / l.lo).toNat + 1
  (ivExp p (ivSub (ivScale l n) a), n)

/-- The result of an irrational value enclosed by the positive ends lo and hi, in units of 2^e, when both ends decide alike. -/
def decided (code : Nat) (f : FpFmt) (md : FMode) (neg : Bool) (v : Iv) (e : Int) : Option FRes :=
  if v.lo ≤ 0 || v.hi ≤ v.lo then none
  else
    let a := roundF f (flushable code) md neg (2 * v.lo.toNat + 1) (e - 1)
    let b := roundF f (flushable code) md neg (2 * v.hi.toNat - 1) (e - 1)
    if a = b then some a else none

/-- `decided` for an enclosure of either sign. -/
def decidedS (code : Nat) (f : FpFmt) (md : FMode) (v : Iv) (e : Int) : Option FRes :=
  if 0 < v.lo then decided code f md false v e
  else if v.hi < 0 then decided code f md true { lo := -v.hi, hi := -v.lo } e
  else none

/-- Try rising precisions. -/
def tryPrec (ps : List Nat) (g : Nat → Option FRes) : Option FRes :=
  match ps with
  | [] => none
  | p :: rest => match g p with
    | some r => some r
    | none => tryPrec rest g

/-- The precisions tried. -/
def precisions : List Nat := [128, 256, 512]

/-- A value just above (`up`) or just below m · 2^e, closer than any destination resolves. -/
def nearly (code : Nat) (f : FpFmt) (md : FMode) (neg up : Bool) (m : Nat) (e : Int) : FRes :=
  roundF f (flushable code) md neg (if up then m * 2 ^ 60 + 1 else m * 2 ^ 60 - 1) (e - 60)

/-- The free result of an undecided rounding: any bits of the format, inexact (R148). -/
def freeRes (f : FpFmt) (code : Nat) (md : FMode) (fn m : Nat) (e : Int) : FRes :=
  { bits := Config.freeRounded (16 * fn + code) md.rm m e.natAbs % 2 ^ (f.ebits + f.mbits + 1), flags := fNX }

/-- 2^x for finite x ≠ 0. -/
def exp2Fin (code : Nat) (f : FpFmt) (md : FMode) (neg : Bool) (m : Nat) (e : Int) : FRes :=
  let top := (m.log2 : Int) + e
  if 11 ≤ top then roundF f (flushable code) md false 1 (if neg then -5000 else 5000)
  else if top < -30 then nearly code f md false (!neg) 1 0
  else if 0 ≤ e then
    let n : Int := signedM neg (m * 2 ^ e.toNat)
    roundF f (flushable code) md false 1 n
  else
    let d : Nat := 2 ^ (-e).toNat
    let n : Int := signedM neg m / (d : Int)
    let r : Nat := (signedM neg m % (d : Int)).toNat
    if r = 0 then roundF f (flushable code) md false 1 n
    else
      match tryPrec precisions (fun p =>
        decided code f md false (ivExp p (ivDivN (ivScale (ivLn2 p) r) d)) (n - (p : Int))) with
      | some res => res
      | none => freeRes f code md 0x5C m e

/-- log2 of m · 2^e, m > 0. -/
def log2Fin (code : Nat) (f : FpFmt) (md : FMode) (m : Nat) (e : Int) : FRes :=
  let l := m.log2
  let k : Int := e + (l : Int)
  if m = 2 ^ l then roundF f (flushable code) md (decide (k < 0)) k.natAbs 0
  else
    let big : Bool := decide (3 * 2 ^ l ≤ 2 * m)
    let d : Nat := if big then 2 ^ (l + 1) else 2 ^ l
    let k1 : Int := if big then k + 1 else k
    match tryPrec precisions (fun p =>
      let z : Iv :=
        let num : Int := ((m : Int) - (d : Int)) * (2 ^ p : Nat)
        { lo := floorQ num (m + d), hi := ceilQ num (m + d) }
      let ln := ivScale (ivAtanh p z) 2
      let frac := ivDiv p ln (ivLn2 p)
      let whole : Iv := { lo := k1 * (2 ^ p : Nat), hi := k1 * (2 ^ p : Nat) }
      decidedS code f md (ivAdd whole frac) (-(p : Int))) with
    | some res => res
    | none => freeRes f code md 0x5D m e

/-- ± sin(π · u / 2^k) for u from 0 to 2^(k+1) − 1 (a full turn); an exact zero has the sign `zneg`. -/
def sinPi (code : Nat) (f : FpFmt) (md : FMode) (fn : Nat) (neg zneg : Bool) (u k : Nat) : FRes :=
  let one : Nat := 2 ^ k
  let neg1 := xor neg (decide (one ≤ u))
  let v := u % one
  let w := if one < 2 * v then one - v else v
  if w = 0 then { bits := if zneg then f.signBit else 0, flags := 0 }
  else if 2 * w = one then roundF f (flushable code) md neg1 1 0
  else
    match tryPrec precisions (fun p =>
      let pi := ivPi p
      let th := ivDivN (ivScale pi w) one
      let s := ivMul p (ivSinc p th) pi
      decided code f md neg1 (ivScale s w) (-(p : Int) - (k : Int))) with
    | some res => res
    | none => freeRes f code md fn u (k : Int)

/-- sin(π x) for finite x. -/
def sinFin (code : Nat) (f : FpFmt) (md : FMode) (neg : Bool) (m : Nat) (e : Int) : FRes :=
  if 0 ≤ e then { bits := if neg then f.signBit else 0, flags := 0 }
  else
    let k := (-e).toNat
    sinPi code f md 0x5E neg neg (m % 2 ^ (k + 1)) k

/-- cos(π x) for finite x: sin(π(|x| + 1/2)). -/
def cosFin (code : Nat) (f : FpFmt) (md : FMode) (m : Nat) (e : Int) : FRes :=
  if 0 ≤ e then roundF f (flushable code) md (decide (m * 2 ^ e.toNat % 2 = 1)) 1 0
  else
    let k := (-e).toNat
    if (m.log2 : Int) + e < -30 && m ≠ 0 then nearly code f md false false 1 0
    else sinPi code f md 0x5F false false ((m + 2 ^ (k - 1)) % 2 ^ (k + 1)) k

/-- tanh x for finite x ≠ 0. -/
def tanhFin (code : Nat) (f : FpFmt) (md : FMode) (neg : Bool) (m : Nat) (e : Int) : FRes :=
  let top := (m.log2 : Int) + e
  if top < -20 then nearly code f md neg false m e
  else if 4 ≤ top then nearly code f md neg false 1 0
  else
    match tryPrec precisions (fun p =>
      let x := ivExpNeg p m (e + 1)
      let ex : Iv := ivDivN x.1 (2 ^ x.2)
      let one : Iv := { lo := (2 ^ p : Nat), hi := (2 ^ p : Nat) }
      decided code f md neg (ivDiv p (ivSub one ex) (ivAdd one ex)) (-(p : Int))) with
    | some res => res
    | none => freeRes f code md 0x60 m e

/-- 1 / (1 + e^−x) for finite x. -/
def sigmFin (code : Nat) (f : FpFmt) (md : FMode) (neg : Bool) (m : Nat) (e : Int) : FRes :=
  let top := (m.log2 : Int) + e
  if m = 0 then roundF f (flushable code) md false 1 (-1)
  else if top < -30 then nearly code f md false (!neg) 1 (-1)
  else if 8 ≤ top then (if neg then roundF f (flushable code) md false 1 (-5000) else nearly code f md false false 1 0)
  else
    match tryPrec precisions (fun p =>
      let x := ivExpNeg p m e
      let ex : Iv := ivDivN x.1 (2 ^ x.2)
      let one : Iv := { lo := (2 ^ p : Nat), hi := (2 ^ p : Nat) }
      if neg then decided code f md false (ivDiv p x.1 (ivAdd one ex)) (-(p : Int) - (x.2 : Int))
      else decided code f md false (ivDiv p one (ivAdd one ex)) (-(p : Int))) with
    | some res => res
    | none => freeRes f code md 0x61 m e

/-- `fexp2` (R147, R148). -/
def fExp2 (code : Nat) (f : FpFmt) (md : FMode) (a : FVal) : FRes :=
  match a with
  | .nan s => nanRes f s
  | .inf n => if n then { bits := 0, flags := 0 } else infRes f false
  | .fin n m e => if m = 0 then roundF f (flushable code) md false 1 0 else exp2Fin code f md n m e

/-- `flog2` (R147, R148). -/
def fLog2 (code : Nat) (f : FpFmt) (md : FMode) (a : FVal) : FRes :=
  match a with
  | .nan s => nanRes f s
  | .inf n => if n then nanRes f true else infRes f false
  | .fin n m e =>
    if m = 0 then { infRes f true with flags := fDZ }
    else if n then nanRes f true
    else log2Fin code f md m e

/-- `fsin` (R147, R148). -/
def fSin (code : Nat) (f : FpFmt) (md : FMode) (a : FVal) : FRes :=
  match a with
  | .nan s => nanRes f s
  | .inf _ => nanRes f true
  | .fin n m e => if m = 0 then { bits := if n then f.signBit else 0, flags := 0 } else sinFin code f md n m e

/-- `fcos` (R147, R148). -/
def fCos (code : Nat) (f : FpFmt) (md : FMode) (a : FVal) : FRes :=
  match a with
  | .nan s => nanRes f s
  | .inf _ => nanRes f true
  | .fin _ m e => cosFin code f md m e

/-- `ftanh` (R147, R148). -/
def fTanh (code : Nat) (f : FpFmt) (md : FMode) (a : FVal) : FRes :=
  match a with
  | .nan s => nanRes f s
  | .inf n => roundF f (flushable code) md n 1 0
  | .fin n m e => if m = 0 then { bits := if n then f.signBit else 0, flags := 0 } else tanhFin code f md n m e

/-- `fsigm` (R147, R148). -/
def fSigm (code : Nat) (f : FpFmt) (md : FMode) (a : FVal) : FRes :=
  match a with
  | .nan s => nanRes f s
  | .inf n => if n then { bits := 0, flags := 0 } else roundF f (flushable code) md false 1 0
  | .fin n m e => sigmFin code f md n m e

/-- `frcp` (R147, R148): 1/a. -/
def fRcp (code : Nat) (f : FpFmt) (md : FMode) (a : FVal) : FRes := fDiv code f md (.fin false 1 0) a

end Sys2Proof.Machine
end

