-- ==== Sys2Proof/Machine/Floating.lean ====
section
/-! DEFINITION. The floating-point instructions (R145 to R151): the mode captured at issue (R80), exception flags and trap-enabled exceptions
(R71, R72), and the conversions. -/

namespace Sys2Proof.Machine

/-- The mode an instruction issues with: its rounding code or `sr.FPM.RM` for code 7, DAZ, FTZ and a saturation (R68, R69, R80). -/
def fpMode (fpm : Word) (rnd : Nat) (sat : Bool) : FMode :=
  { rm := if rnd = 7 then (fpm.extractLsb' 0 3).toNat else rnd, daz := fpm.getLsbD 3, ftz := fpm.getLsbD 4, sat := sat }

/-- The saturation of a conversion: SM, or `sr.FPM.SAT` where SM is 00 (R103). -/
def cvtSat (s : State) (x : Ops) : Bool := if x.sel = 0 then s.cur.fpm.getLsbD 5 else x.sel = 1

/-- Set sticky exception flags (R71). -/
def Course.setXF (c : Course) (fl : Nat) : Course := { c with fpm := c.fpm ||| BitVec.ofNat 32 (fl % 32 * 256) }

/-- The class-13 cause of some exceptions under trap enables: the lowest enabled one (R72). -/
def teCause (fpm : Word) (fl : Nat) : Option Nat :=
  ((List.range 5).find? (fun k => fl.testBit k && fpm.getLsbD (16 + k))).map (fun k => 0xD0 + k)

/-- The union of the exceptions of some results. -/
def allFlags (rs : List (Nat × FRes)) : Nat := rs.foldl (fun acc r => Nat.lor acc r.2.flags) 0

/-- Finish a floating instruction: exception flags are set; with a scalar destination a trap-enabled exception traps the whole subset and nothing
is written; else the lanes that raise one fault and the others are written (R71, R72, R101). -/
def fltDone (s : State) (x : Ops) (rs : List (Nat × FRes)) (scalar : Bool) (write : Course → List (Nat × Nat) → Course) : Out :=
  let fpm := s.cur.fpm
  let s := s.upd (fun c => c.setXF (allFlags rs))
  match scalar, teCause fpm (allFlags rs) with
  | true, some k => .next (raiseSubset s k 0)
  | _, _ =>
    let good := rs.filter (fun r => (teCause fpm r.2.flags).isNone)
    let fs := rs.filterMap (fun r => (teCause fpm r.2.flags).map (fun k => ({ lane := r.1, cause := k, addr := 0 } : LaneFault)))
    doneFaults (s.upd (fun c => write c (good.map (fun r => (r.1, r.2.bits))))) x fs

/-- A floating instruction: typed sources, a destination of `n` registers, a result for each participating lane. -/
def flt (s : State) (x : Ops) (maj : Nat) (srcs : List (STy × Opd)) (n : Nat) (f : Nat → FRes) : Out :=
  issue s maj x (aluSub1 s x srcs n) (class2 s x (aluReads srcs) (opdRefs x.d n)) fun m =>
    let ls := if opdIsS x.d then (LaneSet.toList m).take 1 else LaneSet.toList m
    fltDone s x (ls.map (fun i => (i, f i))) (opdIsS x.d) (fun c vs => c.writeLanes x.d n (opdPushes x.d) vs)

/-- Registers of a value of a format. -/
def fmtRegs (code : Nat) : Nat := if code = 14 then 2 else 1
/-- The format record of a code; FP32 where the code is no floating format (which no encoding admits). -/
def fmtOf (code : Nat) : FpFmt := (fpFmt code).getD fp32

/-- The value of a source of format FT in a lane, with DAZ applied. -/
def fval (s : State) (x : Ops) (md : FMode) (o : Opd) (i : Nat) : FVal :=
  readF x.hi4 (fmtOf x.hi4) md.daz (readOpd s x (.flt x.hi4) o i)

/-- The mode of an arithmetic instruction: only `.sat` saturates (R145). -/
def arith (s : State) (x : Ops) : FMode := fpMode s.cur.fpm x.rnd (x.sel = 1)

/-- One source, one rounding. -/
def flt1 (s : State) (x : Ops) (maj : Nat) (g : Nat → FpFmt → FMode → FVal → FRes) : Out :=
  let md := arith s x
  flt s x maj [(.flt x.hi4, x.a)] (fmtRegs x.hi4) (fun i => g x.hi4 (fmtOf x.hi4) md (fval s x md x.a i))

/-- Two sources, one rounding. -/
def flt2 (s : State) (x : Ops) (maj : Nat) (g : Nat → FpFmt → FMode → FVal → FVal → FRes) : Out :=
  let md := arith s x
  flt s x maj [(.flt x.hi4, x.a), (.flt x.hi4, x.b)] (fmtRegs x.hi4)
    (fun i => g x.hi4 (fmtOf x.hi4) md (fval s x md x.a i) (fval s x md x.b i))

/-- Two sources as codes. -/
def flt2c (s : State) (x : Ops) (maj : Nat) (g : Nat → FpFmt → FMode → Nat → Nat → FRes) : Out :=
  let md := arith s x
  flt s x maj [(.flt x.hi4, x.a), (.flt x.hi4, x.b)] (fmtRegs x.hi4)
    (fun i => g x.hi4 (fmtOf x.hi4) md (readOpd s x (.flt x.hi4) x.a i) (readOpd s x (.flt x.hi4) x.b i))

/-- `fadd` (R146). -/
def execFadd (x : Ops) (s : State) : Out := flt2 s x 0x50 fAdd
/-- `fsub` (R146): a + (−b). -/
def execFsub (x : Ops) (s : State) : Out := flt2 s x 0x51 (fun code f md a b => fAdd code f md a b.flip)
/-- `fmul` (R146). -/
def execFmul (x : Ops) (s : State) : Out := flt2 s x 0x52 fMul
/-- `ffma` (R146): rounded once. -/
def execFfma (x : Ops) (s : State) : Out :=
  let md := arith s x
  let t : STy := .flt x.hi4
  flt s x 0x53 [(t, x.a), (t, x.b), (t, x.c)] (fmtRegs x.hi4)
    (fun i => fFma x.hi4 (fmtOf x.hi4) md (fval s x md x.a i) (fval s x md x.b i) (fval s x md x.c i))
/-- `fmin` (R147). -/
def execFmin (x : Ops) (s : State) : Out := flt2c s x 0x54 (fMinMax false)
/-- `fmax` (R147). -/
def execFmax (x : Ops) (s : State) : Out := flt2c s x 0x55 (fMinMax true)

/-- `fcmp` (R149): a trap-enabled NV is a lane fault, and the predicate of a faulting lane is not written (R137). -/
def execFcmp (x : Ops) (s : State) : Out :=
  let t : STy := .flt x.hi4
  let md := arith s x
  let srcs := [(t, x.a), (t, x.b)]
  issue s 0x56 x (minSub (srcs.map (fun p => srcSub s x p.1 p.2) ++ [predSub x x.d]))
      (class2 s x (aluReads srcs) (predDst x.d)) fun m =>
    let res (i : Nat) : FRes :=
      let r := fCmp x.mid4 x.hi4 (fmtOf x.hi4) md (readOpd s x t x.a i) (readOpd s x t x.b i)
      { bits := if r.1 then 1 else 0, flags := r.2 }
    fltDone s x ((LaneSet.toList m).map (fun i => (i, res i))) false
      (fun c vs => c.writePred x.d (vs.map (fun v => (v.1, decide (v.2 = 1)))))

/-- `fclass` (R149): ignores DAZ and raises nothing; the result is one register. -/
def execFclass (x : Ops) (s : State) : Out :=
  let t : STy := .flt x.hi4
  flt s x 0x57 [(t, x.a)] 1 (fun i => { bits := fClass (fmtOf x.hi4) (readOpd s x t x.a i), flags := 0 })

/-- `frcp` (R148). -/
def execFrcp (x : Ops) (s : State) : Out := flt1 s x 0x58 fRcp
/-- `frsq` (R148). -/
def execFrsq (x : Ops) (s : State) : Out := flt1 s x 0x59 fRsq
/-- `fsqrt` (R148). -/
def execFsqrt (x : Ops) (s : State) : Out := flt1 s x 0x5A fSqrt
/-- `fdiv` (R148). -/
def execFdiv (x : Ops) (s : State) : Out := flt2 s x 0x5B fDiv
/-- `fexp2` (R148). -/
def execFexp2 (x : Ops) (s : State) : Out := flt1 s x 0x5C fExp2
/-- `flog2` (R148). -/
def execFlog2 (x : Ops) (s : State) : Out := flt1 s x 0x5D fLog2
/-- `fsin` (R148). -/
def execFsin (x : Ops) (s : State) : Out := flt1 s x 0x5E fSin
/-- `fcos` (R148). -/
def execFcos (x : Ops) (s : State) : Out := flt1 s x 0x5F fCos
/-- `ftanh` (R148). -/
def execFtanh (x : Ops) (s : State) : Out := flt1 s x 0x60 fTanh
/-- `fsigm` (R148). -/
def execFsigm (x : Ops) (s : State) : Out := flt1 s x 0x61 fSigm

/-- `fscale` (R146): b is read as INT32, constants as integers. -/
def execFscale (x : Ops) (s : State) : Out :=
  let md := arith s x
  let bt : STy := .int false true
  flt s x 0x62 [(.flt x.hi4, x.a), (bt, x.b)] (fmtRegs x.hi4)
    (fun i => fScale x.hi4 (fmtOf x.hi4) md (fval s x md x.a i) (toInt 32 (readOpd s x bt x.b i)))
/-- `ffrac` (R146). -/
def execFfrac (x : Ops) (s : State) : Out := flt1 s x 0x63 fFrac
/-- `frnd` (R146). -/
def execFrnd (x : Ops) (s : State) : Out := flt1 s x 0x64 (fun _ f md a => fRnd f md a)

/-- Advance the seeds of some lanes once (R78). -/
def Course.advanceSeeds (c : Course) (m : LaneSet) : Course :=
  { c with srseed := (LaneSet.toList m).foldl (fun g i => Cells.set g i (xorshift (Cells.get c.srseed i))) c.srseed }

/-- The lanes that a `cvt` with rounding code 5 concerns at its issue (R81): the participating lanes of its whole subset, also when only some
passes issue now (R321). -/
def drawLanes (s : State) (x : Ops) : LaneSet := LaneSet.ofFn (fun i => s.iss.whole.getLsbD i && guardTrue s.cur x.guard i)

/-- The states drawn for the lanes of a `cvt` with rounding code 5: those held with the rest of an instruction set aside, else each lane's next
state (R78, R82). -/
def drawnSeeds (s : State) : Cells 32 :=
  match s.iss.drawn with
  | some d => d
  | none => Cells.setAll [] (allLanes.map (fun i => (i, xorshift (Cells.get s.cur.srseed i))))

/-- Draw at issue (R81): the states of all its lanes advance, and an instruction that is set aside keeps what it drew. The rest of one
advances nothing. -/
def drawSeeds (s : State) (x : Ops) : State :=
  match s.iss.drawn with
  | some _ => s
  | none =>
    let d := drawnSeeds s
    s.upd (fun c =>
      { c.advanceSeeds (drawLanes s x) with
          aside := match c.aside with
            | some a => some { a with drawn := d }
            | none => none })

/-- `cvt` (R150). With rounding code 5 every participating lane's seed is read and advances at issue (R78, R81). -/
def execCvt (x : Ops) (s : State) : Out :=
  let t := cvtType x.mid4
  let sr : Bool := x.rnd = 5
  let md := fpMode s.cur.fpm x.rnd (cvtSat s x)
  let n := fmtRegs x.hi4
  issue s 0x65 x (minSub [aluSub1 s x [(t, x.a)] n, subIf (sr && opdIsS x.d) 14])
      (class2 s x (aluReads [(t, x.a)]) (opdRefs x.d n)) fun m =>
    let res (i : Nat) : FRes :=
      let v := readOpd s x t x.a i
      if sr then convertSr x.mid4 x.hi4 md (Cells.get (drawnSeeds s) i) v else convert x.mid4 x.hi4 md v
    let ls := if opdIsS x.d then (LaneSet.toList m).take 1 else LaneSet.toList m
    let s' := if sr then drawSeeds s x else s
    fltDone s' x (ls.map (fun i => (i, res i))) (opdIsS x.d) (fun c vs => c.writeLanes x.d n (opdPushes x.d) vs)

/-- `fpack` (R151): a is converted first, into the low half. -/
def execFpack (x : Ops) (s : State) : Out :=
  let t : STy := .flt x.mid4
  let md := fpMode s.cur.fpm x.rnd (cvtSat s x)
  flt s x 0x66 [(t, x.a), (t, x.b)] 1 (fun i =>
    let ea := convert x.mid4 x.hi4 md (readOpd s x t x.a i)
    let eb := convert x.mid4 x.hi4 md (readOpd s x t x.b i)
    { bits := ea.bits + eb.bits * 2 ^ fmtWidth x.hi4, flags := Nat.lor ea.flags eb.flags })

/-- `funpack` (R151): a is a word of packed elements, b their index. -/
def execFunpack (x : Ops) (s : State) : Out :=
  let md := arith s x
  let w := fmtWidth x.mid4
  let k := if x.mid4 = 5 || x.mid4 = 6 then 4 else 32 / w
  let t : STy := .pack x.mid4 k
  flt s x 0x67 [(t, x.a), (.int false false, x.b)] 1 (fun i =>
    let j := readU s x x.b i % k
    convert x.mid4 x.hi4 md (bits (readOpd s x t x.a i) (w * j) w))

/-- `fdot2` (R151): a and b hold pairs of FT; c and d are FP32. -/
def execFdot2 (x : Ops) (s : State) : Out :=
  let md := arith s x
  let t : STy := .pack x.hi4 2
  let f := fmtOf x.hi4
  let half (o : Opd) (i k : Nat) : FVal := readF x.hi4 f md.daz (bits (readOpd s x t o i) (16 * k) 16)
  flt s x 0x68 [(t, x.a), (t, x.b), (.flt 0, x.c)] 1 (fun i =>
    fDot2 md (half x.a i 0) (half x.b i 0) (half x.a i 1) (half x.b i 1) (readF 0 fp32 md.daz (readOpd s x (.flt 0) x.c i)))

end Sys2Proof.Machine
end

