-- ==== Sys2Proof/Machine/Integer.lean ====
section
/-! DEFINITION. The integer instructions (R141 to R144). -/

namespace Sys2Proof.Machine

/-- The type of 32-bit positions and counts (R144). -/
def countTy : STy := .int false false

/-- One source of the instruction's type. -/
def int1 (s : State) (x : Ops) (maj : Nat) (f : Nat → Nat) : Out :=
  let t := itType x.it
  alu s x maj [(t, x.a)] (itRegs x.it) (fun i => f (readOpd s x t x.a i))

/-- Two sources of the instruction's type. -/
def int2 (s : State) (x : Ops) (maj : Nat) (f : Nat → Nat → Nat) : Out :=
  let t := itType x.it
  alu s x maj [(t, x.a), (t, x.b)] (itRegs x.it) (fun i => f (readOpd s x t x.a i) (readOpd s x t x.b i))

/-- Three sources of the instruction's type. -/
def int3 (s : State) (x : Ops) (maj : Nat) (f : Nat → Nat → Nat → Nat) : Out :=
  let t := itType x.it
  alu s x maj [(t, x.a), (t, x.b), (t, x.c)] (itRegs x.it)
    (fun i => f (readOpd s x t x.a i) (readOpd s x t x.b i) (readOpd s x t x.c i))

/-- A source of the instruction's type and a 32-bit position or count (R144). -/
def intN (s : State) (x : Ops) (maj : Nat) (f : Nat → Nat → Nat) : Out :=
  let t := itType x.it
  alu s x maj [(t, x.a), (countTy, x.b)] (itRegs x.it) (fun i => f (readOpd s x t x.a i) (readOpd s x countTy x.b i))

/-- `.sat` of the integer group (R103). -/
def satOf (x : Ops) : Bool := x.sel = 1

/-- `mov` (R142). -/
def execMov (x : Ops) (s : State) : Out := int1 s x 0x20 (fun a => a)

/-- `movi` (R139, R142): only an immediate, the literal, Zero, One, Minus one or Two counts as uniform. -/
def execMovi (x : Ops) (s : State) : Out :=
  let t := itType x.it
  let ok : Bool := match x.a with
    | .imm _ | .lit | .zero | .one | .mone | .two | .hole _ | .resv _ | .short _ => true
    | .v _ | .o _ | .l _ | .s _ | .lane | .cid | .bid | .pier | .imask | .ncourse | .nbond => false
  issue s 0x21 x (minSub [aluSub1 s x [(t, x.a)] (itRegs x.it), subIf (!ok) 12])
      (class2 s x (aluReads [(t, x.a)]) (opdRefs x.d (itRegs x.it))) fun m =>
    done (s.upd (fun c => c.writeLanes x.d (itRegs x.it) (opdPushes x.d) ((LaneSet.toList m).map (fun i => (i, readOpd s x t x.a i))))) x

/-- `add` (R143). -/
def execAdd (x : Ops) (s : State) : Out := int2 s x 0x22 (elems2 x.it (satOf x) (fun a b => a + b))
/-- `sub` (R143). -/
def execSub (x : Ops) (s : State) : Out := int2 s x 0x23 (elems2 x.it (satOf x) (fun a b => a - b))

/-- `addc` and `subb` (R143): the predicate C is read at issue and written in participating lanes. -/
def carryOut (s : State) (x : Ops) (maj : Nat) (f : Nat → Nat → Nat → Nat × Bool) : Out :=
  let k := x.opx
  let res (i : Nat) : Nat × Bool := f (readOpd s x countTy x.a i) (readOpd s x countTy x.b i) (if s.cur.pred k i then 1 else 0)
  issue s maj x
      (minSub [aluSub1 s x [(countTy, x.a), (countTy, x.b)] 1, subIf (k = 7) 13, subIf (opdIsS x.d) 4])
      (class2 s x (aluReads [(countTy, x.a), (countTy, x.b)] ++ predRef k) (opdRefs x.d 1 ++ predRef k)) fun m =>
    let ls := LaneSet.toList m
    done (s.upd (fun c =>
      ls.foldl (fun c i => c.setPred k i (res i).2) (c.writeLanes x.d 1 (opdPushes x.d) (ls.map (fun i => (i, (res i).1)))))) x

/-- `addc` (R143). -/
def execAddc (x : Ops) (s : State) : Out :=
  carryOut s x 0x24 (fun a b p => ((a + b + p) % 2 ^ 32, decide (2 ^ 32 ≤ a + b + p)))
/-- `subb` (R143). -/
def execSubb (x : Ops) (s : State) : Out :=
  carryOut s x 0x25 (fun a b p => (ofInt 32 ((a : Int) - (b : Int) - (p : Int)), decide (a < b + p)))

/-- `mul` (R143). -/
def execMul (x : Ops) (s : State) : Out := int2 s x 0x26 (elems2 x.it (satOf x) (fun a b => a * b))

/-- `mulhi` (R143): bits [2w−1:w] of the product. -/
def execMulhi (x : Ops) (s : State) : Out :=
  int2 s x 0x27 (elems2 x.it false (fun a b => a * b / ((2 ^ itWidth x.it : Nat) : Int)))

/-- `mad` and `mad.wide` (R143). -/
def execMad (x : Ops) (s : State) : Out :=
  let t := itType x.it
  if x.opx = 1 then
    let t2 : STy := .int true (itSigned x.it)
    alu s x 0x28 [(t, x.a), (t, x.b), (t2, x.c)] 2 (fun i =>
      ofInt 64 (elemOf x.it (readOpd s x t x.a i) 0 * elemOf x.it (readOpd s x t x.b i) 0 + ((readOpd s x t2 x.c i : Nat) : Int)))
  else
    int3 s x 0x28 (fun a b c => elems x.it (fun k => fitElem x.it (satOf x) (elemOf x.it a k * elemOf x.it b k + elemOf x.it c k)))

/-- `min` (R142). -/
def execMin (x : Ops) (s : State) : Out := int2 s x 0x29 (elems2 x.it false (fun a b => if b < a then b else a))
/-- `max` (R142). -/
def execMax (x : Ops) (s : State) : Out := int2 s x 0x2A (elems2 x.it false (fun a b => if a < b then b else a))
/-- `abs` (R143). -/
def execAbs (x : Ops) (s : State) : Out :=
  int1 s x 0x2B (fun a => elems x.it (fun k => fitElem x.it (satOf x) ((elemOf x.it a k).natAbs : Int)))
/-- `neg` (R143). -/
def execNeg (x : Ops) (s : State) : Out :=
  int1 s x 0x2C (fun a => elems x.it (fun k => fitElem x.it (satOf x) (- elemOf x.it a k)))

/-- The 32-bit third source of `sad` and `dp4a` (R143). -/
def wordTy (signed : Bool) : STy := .int false signed

/-- `sad` (R143). -/
def execSad (x : Ops) (s : State) : Out :=
  let t := itType x.it
  alu s x 0x2D [(t, x.a), (t, x.b), (wordTy false, x.c)] 1 (fun i =>
    let a := readOpd s x t x.a i
    let b := readOpd s x t x.b i
    (readOpd s x (wordTy false) x.c i +
      (List.range (itElems x.it)).foldl (fun acc k => acc + (elemOf x.it a k - elemOf x.it b k).natAbs) 0) % 2 ^ 32)

/-- `dp4a` (R143): c and d are unsigned when a and b both are. -/
def execDp4a (x : Ops) (s : State) : Out :=
  let t := itType x.it
  let bu : Bool := x.opx = 1
  let bit : Nat := if bu then 7 else x.it
  let uns : Bool := !itSigned x.it && !itSigned bit
  let dt : Nat := if uns then 1 else 0
  alu s x 0x2E [(t, x.a), (t, x.b), (wordTy (!uns), x.c)] 1 (fun i =>
    let a := readOpd s x t x.a i
    let b := readOpd s x t x.b i
    let sum : Int := (List.range 4).foldl (fun acc k => acc + elemOf x.it a k * elemOf bit b k) 0
    fitElem dt (satOf x) (elemOf dt (readOpd s x (wordTy (!uns)) x.c i) 0 + sum))

/-- The width of the bitwise instructions: a whole register in packed types (R142). -/
def bitWidth (it : Nat) : Nat := if it = 2 || it = 3 then 64 else 32

/-- `and` (R142). -/
def execAnd (x : Ops) (s : State) : Out := int2 s x 0x2F Nat.land
/-- `or` (R142). -/
def execOr (x : Ops) (s : State) : Out := int2 s x 0x30 Nat.lor
/-- `xor` (R142). -/
def execXor (x : Ops) (s : State) : Out := int2 s x 0x31 Nat.xor
/-- `andn` (R142). -/
def execAndn (x : Ops) (s : State) : Out := int2 s x 0x32 (fun a b => Nat.land a (2 ^ bitWidth x.it - 1 - b))
/-- `not` (R142). -/
def execNot (x : Ops) (s : State) : Out := int1 s x 0x33 (fun a => 2 ^ bitWidth x.it - 1 - a)

/-- `shl` (R144). -/
def execShl (x : Ops) (s : State) : Out :=
  let w := itWidth x.it
  intN s x 0x34 (fun a n => if w ≤ n then 0 else a * 2 ^ n % 2 ^ w)
/-- `shr` (R144): zero fill, whatever IT says. -/
def execShr (x : Ops) (s : State) : Out :=
  let w := itWidth x.it
  intN s x 0x35 (fun a n => if w ≤ n then 0 else a / 2 ^ n)
/-- `sar` (R144): filled with the top bit, whatever IT says. -/
def execSar (x : Ops) (s : State) : Out :=
  let w := itWidth x.it
  intN s x 0x36 (fun a n => if w ≤ n then (if bitAt a (w - 1) then 2 ^ w - 1 else 0) else ofInt w (toInt w a / ((2 ^ n : Nat) : Int)))
/-- `rot` (R144): to the left. -/
def execRot (x : Ops) (s : State) : Out :=
  let w := itWidth x.it
  intN s x 0x37 (fun a n => if n % w = 0 then a else Nat.lor (a * 2 ^ (n % w) % 2 ^ w) (a / 2 ^ (w - n % w)))

/-- The position and length that a field operand names, cut to the width (R144). -/
def fieldPos (w n : Nat) : Nat × Nat :=
  let pos := Nat.min (n % 256) w
  (pos, Nat.min (n / 256 % 256) (w - pos))

/-- `bfe` (R144). -/
def execBfe (x : Ops) (s : State) : Out :=
  let w := itWidth x.it
  intN s x 0x38 (fun a n =>
    let p := fieldPos w n
    let f := bits a p.1 p.2
    if itSigned x.it && p.2 ≠ 0 then ofInt w (toInt p.2 f) else f)

/-- `bfi` (R144). -/
def execBfi (x : Ops) (s : State) : Out :=
  let t := itType x.it
  let w := itWidth x.it
  alu s x 0x39 [(t, x.a), (t, x.b), (countTy, x.c)] (itRegs x.it) (fun i =>
    let p := fieldPos w (readOpd s x countTy x.c i)
    let m := (2 ^ p.2 - 1) * 2 ^ p.1
    let b := readOpd s x t x.b i
    Nat.lor (Nat.land b (2 ^ w - 1 - m)) (Nat.land (readOpd s x t x.a i * 2 ^ p.1) m))

/-- `bfrev` (R144). -/
def execBfrev (x : Ops) (s : State) : Out :=
  let w := itWidth x.it
  int1 s x 0x3A (fun a => (List.range w).foldl (fun acc i => acc + (if bitAt a (w - 1 - i) then 2 ^ i else 0)) 0)

/-- A count delivered in one register (R142). -/
def intCount (s : State) (x : Ops) (maj : Nat) (f : Nat → Nat) : Out :=
  let t := itType x.it
  alu s x maj [(t, x.a)] 1 (fun i => f (readOpd s x t x.a i))

/-- `popc` (R144). -/
def execPopc (x : Ops) (s : State) : Out := intCount s x 0x3B (popCount (itWidth x.it))
/-- `clz` (R144). -/
def execClz (x : Ops) (s : State) : Out :=
  let w := itWidth x.it
  intCount s x 0x3C (fun a => ((List.range w).takeWhile (fun i => !bitAt a (w - 1 - i))).length)
/-- `ctz` (R144). -/
def execCtz (x : Ops) (s : State) : Out :=
  intCount s x 0x3D (fun a => ((List.range (itWidth x.it)).takeWhile (fun i => !bitAt a i)).length)

/-- `sel` (R144). A scalar destination takes sub-code 4 unless the predicate is 0b0111 (R101). -/
def execSel (x : Ops) (s : State) : Out :=
  let t := itType x.it
  let p := x.opx % 8
  let neg : Bool := x.opx / 8 % 2 = 1
  let srcs := [(t, x.a), (t, x.b)]
  issue s 0x3E x (minSub [aluSub1 s x srcs (itRegs x.it), subIf (opdIsS x.d && x.opx ≠ 7) 4])
      (class2 s x (aluReads srcs ++ predRef p) (opdRefs x.d (itRegs x.it))) fun m =>
    done (s.upd (fun c => c.writeLanes x.d (itRegs x.it) (opdPushes x.d) ((LaneSet.toList m).map (fun i =>
      (i, if xor (s.cur.pred p i) neg then readOpd s x t x.a i else readOpd s x t x.b i))))) x

/-- The conditions of `cmp` (R142 Table 6). -/
def condHolds (k : Nat) (a b : Int) : Bool :=
  match k with
  | 0 => a == b
  | 1 => a != b
  | 2 => decide (a < b)
  | 3 => decide (a ≤ b)
  | 4 => decide (b < a)
  | _ => decide (b ≤ a)

/-- `cmp` (R144). -/
def execCmp (x : Ops) (s : State) : Out :=
  let t := itType x.it
  aluPred s x 0x3F [(t, x.a), (t, x.b)] (fun i =>
    condHolds x.cond (elemOf x.it (readOpd s x t x.a i) 0) (elemOf x.it (readOpd s x t x.b i) 0))

/-- `clamp` (R144). -/
def execClamp (x : Ops) (s : State) : Out :=
  int3 s x 0x40 (fun a b c => elems x.it (fun k =>
    let lo := elemOf x.it b k
    let hi := elemOf x.it c k
    let y := if elemOf x.it a k < lo then lo else elemOf x.it a k
    fitElem x.it false (if hi < y then hi else y)))

/-- `lea` (R144): a 64-bit IT extends the 32-bit b by its signedness. -/
def execLea (x : Ops) (s : State) : Out :=
  let t := itType x.it
  let bt := wordTy (itSigned x.it)
  let w := itWidth x.it
  alu s x 0x41 [(t, x.a), (bt, x.b)] (itRegs x.it) (fun i =>
    let b := readOpd s x bt x.b i
    let b' : Nat := if w = 64 && itSigned x.it then ofInt 64 (toInt 32 b) else b
    (readOpd s x t x.a i + b' * 2 ^ x.opx) % 2 ^ w)

/-- `sext` (R144). -/
def execSext (x : Ops) (s : State) : Out :=
  let w := itWidth x.it
  intN s x 0x42 (fun a n => ofInt w (toInt (n % w + 1) a))

/-- `prmt` (R144). -/
def execPrmt (x : Ops) (s : State) : Out :=
  int3 s x 0x43 (fun a b c =>
    (List.range 4).foldl (fun acc j =>
      let q := bits c (4 * j) 4
      let k := q % 8
      let y := if k < 4 then bits a (8 * k) 8 else bits b (8 * (k - 4)) 8
      let z := if q < 8 then y else if 128 ≤ y then 255 else 0
      acc + z * 2 ^ (8 * j)) 0)

end Sys2Proof.Machine
end

