-- ==== Sys2Proof/Machine/Aside.lean ====
section
/-! DEFINITION. Instructions set aside at a pass boundary and the issue of their remaining passes (R321), and the landing of fixed-latency results
(R114, R140). -/

namespace Sys2Proof.Machine

/-- The state after an instruction that neither faults nor is refused. -/
def outState (o : Out) (s : State) : State :=
  match o with
  | .next t => t
  | .fault _ => s
  | .refused _ => s

/-- Issue an integer or floating instruction, the only kinds that can be set aside (R321). -/
def runPasses (i : Instr) (s : State) : Out :=
  match i with
  | .mov x => execMov x s
  | .movi x => execMovi x s
  | .add x => execAdd x s
  | .sub x => execSub x s
  | .addc x => execAddc x s
  | .subb x => execSubb x s
  | .mul x => execMul x s
  | .mulhi x => execMulhi x s
  | .mad x => execMad x s
  | .min x => execMin x s
  | .max x => execMax x s
  | .abs x => execAbs x s
  | .neg x => execNeg x s
  | .sad x => execSad x s
  | .dp4a x => execDp4a x s
  | .and x => execAnd x s
  | .or x => execOr x s
  | .xor x => execXor x s
  | .andn x => execAndn x s
  | .not x => execNot x s
  | .shl x => execShl x s
  | .shr x => execShr x s
  | .sar x => execSar x s
  | .rot x => execRot x s
  | .bfe x => execBfe x s
  | .bfi x => execBfi x s
  | .bfrev x => execBfrev x s
  | .popc x => execPopc x s
  | .clz x => execClz x s
  | .ctz x => execCtz x s
  | .sel x => execSel x s
  | .cmp x => execCmp x s
  | .clamp x => execClamp x s
  | .lea x => execLea x s
  | .sext x => execSext x s
  | .prmt x => execPrmt x s
  | .fadd x => execFadd x s
  | .fsub x => execFsub x s
  | .fmul x => execFmul x s
  | .ffma x => execFfma x s
  | .fmin x => execFmin x s
  | .fmax x => execFmax x s
  | .fcmp x => execFcmp x s
  | .fclass x => execFclass x s
  | .frcp x => execFrcp x s
  | .frsq x => execFrsq x s
  | .fsqrt x => execFsqrt x s
  | .fdiv x => execFdiv x s
  | .fexp2 x => execFexp2 x s
  | .flog2 x => execFlog2 x s
  | .fsin x => execFsin x s
  | .fcos x => execFcos x s
  | .ftanh x => execFtanh x s
  | .fsigm x => execFsigm x s
  | .fscale x => execFscale x s
  | .ffrac x => execFfrac x s
  | .frnd x => execFrnd x s
  | .cvt x => execCvt x s
  | .fpack x => execFpack x s
  | .funpack x => execFunpack x s
  | .fdot2 x => execFdot2 x s
  | _ => .next s

/-- SET_ASIDE (R321): a harvest course gives up the partition after a pass of its next instruction that can be set aside. -/
def execSetAside (c pass : Nat) (s : State) : Out :=
  .next (atCourse s c (fun s =>
    if s.cur.harvest && s.cur.life = .live && s.cur.aside.isNone then s.upd (fun c => { c with asideAt := some pass }) else s))

/-- The bits of `sr.FPM` that exceptions set (R68). -/
def xfBits : Word := 0x1F00

/-- The remaining passes of a set-aside instruction issue for the course in the issue unit, before any other instruction of it, under the modes and
with the states that the instruction captured (R80 to R82, R168, R321); its exceptions go into `sr.FPM` as it stands. Then a pending frame can be
taken (R424). -/
def restPasses (s : State) : State :=
  match s.cur.aside with
  | none => s
  | some a =>
    let c := s.cur
    let m := a.rest &&& c.live
    let n := match a.instr.ops? with | some x => x.len / 4 | none => 1
    let iss := { issueAt c m (c.pcOf ((LaneSet.toList m).headD 0)) n with whole := a.whole, drawn := some a.drawn }
    let s0 := { s with iss := iss, cur := { c with fpm := (a.fpm &&& ~~~ xfBits) ||| (c.fpm &&& xfBits), lfmode := a.lfmode } }
    let t := if m = 0 then s0 else outState (runPasses a.instr s0) s0
    takePending (t.upd (fun d =>
      { d with aside := none, fpm := (c.fpm &&& ~~~ xfBits) ||| (d.fpm &&& xfBits), lfmode := c.lfmode, away := d.away || !d.isReady false }))

/-- SET_ASIDE_PASSES_ISSUE (R321). -/
def execSetAsidePassesIssue (c : Nat) (s : State) : Out := .next (atCourse s c (fun s => if s.cur.life = .live then restPasses s else s))

/-- FIXED_LATENCY_RESULT (R114, R140): the oldest result in flight of a course lands in its destination and pushes the last-result file. An
instruction of this model writes its results as it issues, since the register scoreboard hides when they land (assumption 1); a result for a course
whose files are in its image waits for them (R428). -/
def execFixedLatencyResult (c : Nat) (s : State) : Out :=
  .next (atCourse s c (fun s => match s.cur.landing with
    | [] => s
    | r :: rest => if s.cur.imageAt ≠ 0 then s else takePending (s.upd (fun c => { c.land r with landing := rest }))))

end Sys2Proof.Machine
end

