-- ==== Sys2Proof/Machine/Lane.lean ====
section
/-! DEFINITION. The lane instructions (R152 to R156) and the reduction operations that `barr` shares (R156 Table 12). -/

namespace Sys2Proof.Machine

/-! ### Reductions (R156 Table 12) -/

/-- The identity of a reduction. -/
def redIdentity (op : Nat) : Nat :=
  match op with
  | 1 => 0x7FFFFFFF
  | 2 => 0x80000000
  | 3 => 0xFFFFFFFF
  | 5 => 0xFFFFFFFF
  | 8 => 0x80000000
  | 9 => 0x7F800000
  | 10 => 0xFF800000
  | _ => 0

/-- One step of a reduction of 32-bit values. -/
def redStep (op : Nat) (md : FMode) (a b : Nat) : FRes :=
  let int (v : Nat) : FRes := { bits := v, flags := 0 }
  match op with
  | 0 => int ((a + b) % 2 ^ 32)
  | 1 => int (if toInt 32 b < toInt 32 a then b else a)
  | 2 => int (if toInt 32 a < toInt 32 b then b else a)
  | 3 => int (Nat.min a b)
  | 4 => int (Nat.max a b)
  | 5 => int (Nat.land a b)
  | 6 => int (Nat.lor a b)
  | 7 => int (Nat.xor a b)
  | 8 => fAdd 0 fp32 md (readF 0 fp32 md.daz a) (readF 0 fp32 md.daz b)
  | 9 => fMinMax false 0 fp32 md a b
  | _ => fMinMax true 0 fp32 md a b

/-- The fold of some values from the identity, with the exceptions raised on the way. -/
def redFold (op : Nat) (md : FMode) (vs : List Nat) : FRes :=
  vs.foldl (fun acc v =>
    let r := redStep op md acc.bits v
    { bits := r.bits, flags := Nat.lor acc.flags r.flags }) { bits := redIdentity op, flags := 0 }

/-! ### Shared by the group -/

/-- W64 of the minor field (R153). -/
def Ops.w64 (x : Ops) : Bool := x.bit 4

/-- The type of a lane value. -/
def laneTy (wide : Bool) : STy := .int wide false

/-- A lane instruction: sources, destination registers, whether a scalar destination is allowed, extra predicates read, and the value of each
participating lane given the list of them. -/
def lane (s : State) (x : Ops) (maj : Nat) (srcs : List (STy × Opd)) (n : Nat) (scl : Bool) (ex1 : Option Nat) (preds : List RegRef)
    (f : List Nat → Nat → Nat) : Out :=
  issue s maj x
      (minSub (ex1 :: srcs.map (fun p => srcSub s x p.1 p.2) ++ [dstSub s.cur x n x.d, subIf (opdIsS x.d && !scl) 14]))
      (class2 s x (aluReads srcs ++ preds) (opdRefs x.d n)) fun m =>
    let ls := LaneSet.toList m
    done (s.upd (fun c => c.writeLanes x.d n (opdPushes x.d) (ls.map (fun i => (i, f ls i))))) x

/-! ### Data movement (R154) -/

/-- `shfl` (R154). -/
def execShfl (x : Ops) (s : State) : Out :=
  let t := laneTy (x.bit 4)
  let w := 32 / 2 ^ (x.field 2 2)
  lane s x 0x80 [(t, x.a), (.int false false, x.b)] (if x.bit 4 then 2 else 1) false none [] (fun ls i =>
    let n := readU s x x.b i
    let base := i / w * w
    let j :=
      match x.field 0 2 with
      | 0 => base + n % w
      | 1 => if n < w && n + base ≤ i then i - n else i
      | 2 => if n < w && i + n < base + w then i + n else i
      | _ => Nat.xor i (n % w)
    readOpd s x t x.a (if memNat j ls then j else i))

/-- `bcast` (R139, R152, R154): b is uniform; a scalar destination takes the lowest participating lane's own value where lane b does not
participate. -/
def execBcast (x : Ops) (s : State) : Out :=
  let t := laneTy (x.bit 4)
  let bad : Bool := opdVaries x.b || x.b = .imask
  lane s x 0x85 [(t, x.a), (.int false false, x.b)] (if x.bit 4 then 2 else 1) true (subIf bad 12) [] (fun ls i =>
    let j := readU s x x.b i % 32
    readOpd s x t x.a (if memNat j ls then j else i))

/-- `lfirst` (R154). -/
def execLfirst (x : Ops) (s : State) : Out :=
  let t := laneTy (x.bit 4)
  lane s x 0x84 [(t, x.a)] (if x.bit 4 then 2 else 1) true none [] (fun ls i => readOpd s x t x.a (ls.headD i))

/-- `lperm` (R154): the highest-numbered participating sender wins. -/
def execLperm (x : Ops) (s : State) : Out :=
  let t := laneTy (x.bit 4)
  lane s x 0x86 [(t, x.a), (.int false false, x.b)] (if x.bit 4 then 2 else 1) false none [] (fun ls i =>
    match (ls.filter (fun j => readU s x x.b j % 32 == i)).getLast? with
    | some j => readOpd s x t x.a j
    | none => readOpd s x t x.a i)

/-! ### Votes and matches (R155) -/

/-- q(i) of the predicate field {NEG, PRED}. -/
def voteOf (s : State) (x : Ops) (i : Nat) : Bool := xor (s.cur.pred (x.low4 % 8) i) (x.bit 3)

/-- The lanes of a list for which a vote is true, as a mask. -/
def voteMask (s : State) (x : Ops) (ls : List Nat) : Nat := ls.foldl (fun acc i => if voteOf s x i then acc + 2 ^ i else acc) 0

/-- `lbal` (R155). -/
def execLbal (x : Ops) (s : State) : Out :=
  lane s x 0x81 [] 1 true none (predRef (x.low4 % 8)) (fun ls _ => voteMask s x ls)

/-- `lany` and `lall` (R155): a predicate destination with PD, else 1 or 0. -/
def laneVote (s : State) (x : Ops) (maj : Nat) (f : List Nat → Bool) : Out :=
  if x.bit 4 then
    issue s maj x (predSub x x.d)
        (class2 s x (predRef (x.low4 % 8)) (predDst x.d)) fun m =>
      let ls := LaneSet.toList m
      done (s.upd (fun c => c.writePred x.d (ls.map (fun i => (i, f ls))))) x
  else lane s x maj [] 1 true none (predRef (x.low4 % 8)) (fun ls _ => if f ls then 1 else 0)

/-- `lany` (R155). -/
def execLany (x : Ops) (s : State) : Out := laneVote s x 0x82 (fun ls => ls.any (voteOf s x))
/-- `lall` (R155). -/
def execLall (x : Ops) (s : State) : Out := laneVote s x 0x83 (fun ls => ls.all (voteOf s x))

/-- `lmatch` (R155); with W64 the mask is a pair, its upper register zero (R153). -/
def execLmatch (x : Ops) (s : State) : Out :=
  let t := laneTy (x.bit 4)
  lane s x 0x89 [(t, x.a)] (if x.bit 4 then 2 else 1) false none [] (fun ls i =>
    ls.foldl (fun acc j => if readOpd s x t x.a j = readOpd s x t x.a i then acc + 2 ^ j else acc) 0)

/-! ### Folds (R152, R156) -/

/-- The mode of a fold: RM, DAZ and FTZ as captured. -/
def foldMode (s : State) : FMode := fpMode s.cur.fpm 7 false

/-- A fold: each participating lane's value as a reduction of some lanes' sources; floating exceptions set XF, and a trap-enabled one traps the whole
subset before anything is written (R152, R157). -/
def laneFold (s : State) (x : Ops) (maj : Nat) (scl : Bool) (sel : List Nat → Nat → List Nat) : Out :=
  let flt : Bool := 8 ≤ x.low4
  let t : STy := if flt then .flt 0 else .int false false
  issue s maj x (minSub [srcSub s x t x.a, dstSub s.cur x 1 x.d, subIf (opdIsS x.d && !scl) 14])
      (class2 s x (opdRefs x.a 1) (opdRefs x.d 1)) fun m =>
    let ls := LaneSet.toList m
    let rs := ls.map (fun i => (i, redFold x.low4 (foldMode s) ((sel ls i).map (fun j => readOpd s x t x.a j))))
    fltDone s x rs true (fun c vs => c.writeLanes x.d 1 (opdPushes x.d) vs)

/-- `lred` (R156). -/
def execLred (x : Ops) (s : State) : Out := laneFold s x 0x87 true (fun ls _ => ls)
/-- `lscan` (R156). -/
def execLscan (x : Ops) (s : State) : Out :=
  laneFold s x 0x88 false (fun ls i => ls.filter (fun j => if x.bit 4 then j < i else j ≤ i))

end Sys2Proof.Machine
end

