-- ==== Sys2Proof/Machine/Bars.lean ====
section
/-! DEFINITION. Bonds: their scratchpad (R211), their barriers (R396 to R402), and what the exit of a course does to them (R402). -/

namespace Sys2Proof.Machine

/-- The bond with an internal name. -/
def findBond (s : State) (id : Nat) : Option Bond := s.bonds.find? (fun b => b.id == id)
/-- Replace a bond. -/
def putBond (s : State) (b : Bond) : State := { s with bonds := s.bonds.map (fun x => if x.id == b.id then b else x) }
/-- The bond of the course in the issue unit. -/
def curBond (s : State) : Option Bond := findBond s s.cur.bond
/-- The size of the scratchpad range of the course's bond (R32). -/
def scratchSize (s : State) : Nat := match curBond s with | some b => b.size | none => 0

/-! ### Scratchpad -/

/-- Whether a poisoned sector lies among `n` bytes from `off` (R209). -/
def scratchPoisoned (b : Bond) (off n : Nat) : Bool :=
  (List.range ((off + n - 1) / 64 + 1 - off / 64)).any (fun k => Cells.get b.spoison (off / 64 + k) ≠ 0)

/-- The structure whose row of a bond's scratchpad holds a byte: the scratchpad of the quoin on which that part of the bond lies (R32, R207). -/
def rowUnit (b : Bond) (row : Nat) : Nat :=
  let part := b.size / Nat.max b.quoins.length 1
  scratchUnit (b.quoins.getD (128 * row / Nat.max part 1) 0)

/-- Read one row of a bond's scratchpad: it is corrected, or becomes poisoned with its data kept (R207, R209). -/
def readRowAt (s : State) (bond row : Nat) : State :=
  match findBond s bond with
  | none => s
  | some b =>
    if Cells.get b.ssyn row = 0 then s
    else
      let b' := { b with ssyn := Cells.set b.ssyn row 0 }
      match readRowOf s (rowUnit b row) (readNum b.scratch (128 * row) 128) (Cells.get b.ssyn row).toNat with
      | (s, _, true) => putBond s { b' with spoison := Cells.set (Cells.set b.spoison (2 * row) 1) (2 * row + 1) 1 }
      | (s, d, false) => postRetired (putBond s { b' with scratch := writeNum b.scratch (128 * row) 128 d })

/-- Read the rows that some bytes of a bond's scratchpad lie in, as every read and every write of part of a row does. -/
def readRows (s : State) (bond off n : Nat) : State :=
  match findBond s bond with
  | none => s
  | some b =>
    if b.ssyn.isEmpty || n = 0 then s else (List.range ((off + n - 1) / 128 + 1 - off / 128)).foldl (fun s k => readRowAt s bond (off / 128 + k)) s

/-- Read `n` bytes of a bond's scratchpad. -/
def scratchRead (b : Bond) (off n : Nat) : Nat := readNum b.scratch off n

/-- Write the lowest `n` bytes of a number; sectors written whole lose their poison (R209). -/
def scratchWrite (b : Bond) (off n v : Nat) : Bond :=
  let whole := (List.range ((off + n) / 64 + 1)).filter (fun k => off ≤ 64 * k && 64 * k + 64 ≤ off + n)
  { b with scratch := writeNum b.scratch off n v, spoison := whole.foldl (fun p k => Cells.set p k 0) b.spoison }

/-! ### Barriers (R396–R402) -/

/-- A barrier at creation (R396). -/
def barrier0 : Barrier := { phase := 0, cnt := 0, desc := none, arrived := 0, vals := [] }

/-- Barrier `k` of a bond. -/
def getBar (b : Bond) (k : Nat) : Barrier := match b.bars.find? (fun p => p.1 == k) with | some p => p.2 | none => barrier0
/-- Put a barrier back. -/
def setBar (b : Bond) (k : Nat) (x : Barrier) : Bond := { b with bars := putWhere (fun p => p.1 == k) (k, x) b.bars }

/-- The exit credit of a phase: courses that exited without arriving, where the descriptor has ALL (R402). -/
def exitCredit (b : Bond) (x : Barrier) : Nat :=
  match x.desc with
  | some d => if d.all then popCount 64 (b.exited &&& ~~~ x.arrived).toNat else 0
  | none => 0

/-- The mode of the fold of `barr`: nearest, ties to even; subnormals kept (R400). -/
def barMode : FMode := { rm := 0, daz := false, ftz := false, sat := false }

/-- The values kept for a phase, in ascending CID. -/
def barVals (x : Barrier) : List Nat :=
  (List.range 64).filterMap (fun c => (x.vals.find? (fun v => v.1 == c)).map (fun v => v.2.toNat))

/-- The line part of an acquire of a course at a scope (R220). -/
def acquireFor (s : State) (c : Course) (scope : Nat) : State := acquireLines s c.core (asidsOf s c.tenant c.asid) scope

/-- Whether a wait is one on barrier `k`. -/
def waitsBar (k : Nat) (w : Wait) : Bool :=
  match w with
  | .barr j _ _ _ => j == k
  | .waitb j _ _ => j == k
  | .sleep _ | .waitc _ _ _ _ _ _ | .gang => false

/-- Wake the courses of a bond that wait on barrier `k` for a phase that has completed: `barr` writes its result, unpushed, and both
acquire once their earlier loads have returned (R220). The result for a course that its image holds lands when the files are read back (R428). -/
def wakeBar (s : State) (bond k result : Nat) : State :=
  (coursesWhere s (fun c => c.bond == bond && (c.findWait (waitsBar k)).isSome)).foldl (fun s c =>
    match c.findWait (waitsBar k) with
    | some (.barr _ scope d m) =>
      updCourses s (fun y => y.id == c.id) (fun y =>
        let r : Landing := { dst := d, wide := false, lanes := m &&& y.live, vals := (LaneSet.toList (m &&& y.live)).map (fun i => (i, result)), push := false }
        ((if y.imageAt ≠ 0 then { y with landing := y.landing ++ [r] } else y.land r).wake (waitsBar k)).acquires scope)
    | some (.waitb _ _ scope) => updCourses s (fun y => y.id == c.id) (fun y => (y.wake (waitsBar k)).acquires scope)
    | _ => s) s

/-- Complete the phase of barrier `k` when its count and exit credit reach N (R399, R400). -/
def tryComplete (s : State) (bond k : Nat) : State :=
  match findBond s bond with
  | none => s
  | some b =>
    let x := getBar b k
    match x.desc with
    | none => s
    | some d =>
      if x.cnt + exitCredit b x ≠ d.n then s
      else
        let result := (redFold d.op barMode (barVals x)).bits
        let s := putBond s (setBar b k { phase := (x.phase + 1) % 2 ^ 24, cnt := 0, desc := none, arrived := 0, vals := [] })
        wakeBar s bond k result

/-- Count an arrival (R400): the first of a phase gives the descriptor. -/
def countArrival (s : State) (bond : Nat) (a : Arrival) : State :=
  match findBond s bond with
  | none => s
  | some b =>
    let x := getBar b a.k
    let x := if x.desc.isNone then { x with desc := some a.desc, cnt := 0 } else x
    let x := { x with
      arrived := x.arrived ||| BitVec.ofNat 64 (2 ^ a.cid)
      cnt := x.cnt + 1
      vals := if a.desc.barr then x.vals ++ [(a.cid, a.val)] else x.vals }
    let b := setBar { b with arrivals := b.arrivals.eraseP (fun y => y == a) } a.k x
    tryComplete (putBond s b) bond a.k

/-- A course has exited: full-bond phases may complete (R402). -/
def bondExit (s : State) (bond cid : Nat) : State :=
  match findBond s bond with
  | none => s
  | some b =>
    let s := putBond s { b with exited := b.exited ||| BitVec.ofNat 64 (2 ^ cid) }
    (List.range 16).foldl (fun s k => tryComplete s bond k) s

end Sys2Proof.Machine
end

