-- ==== Sys2Proof/Machine/Array.lean ====
section
/-! DEFINITION. The matrix array of a bond as an agent (09): its geometry (R268, R269), operand layouts (R66, R276, R277), pairings (R270), what
each command of its queue reads and writes, and the arithmetic of the commands (R84 to R90, R288 to R296). -/

namespace Sys2Proof.Machine

/-! ### Geometry (R268, R269) -/

/-- Quadrants along K. -/
def Bond.dk (b : Bond) : Nat := if b.shape = 2 || b.shape = 3 then 2 else 1
/-- Quadrants along N. -/
def Bond.dn (b : Bond) : Nat := if b.shape = 1 || b.shape = 3 then 2 else 1
/-- Quadrants of the bond. -/
def Bond.quads (b : Bond) : Nat := b.dk * b.dn
/-- NP, the width of a tile. -/
def Bond.np (b : Bond) : Nat := 32 * b.dn

/-- The K-group of a format (R83). -/
def kGroup (code : Nat) : Nat :=
  match code with
  | 0 => 1
  | 1 | 2 => 2
  | 3 | 4 | 8 | 9 => 4
  | 5 | 6 | 7 | 10 | 11 | 12 => 8
  | _ => 16

/-- The K-group of a pairing (R270). -/
def pairGroup (fa fb : Nat) : Nat := Nat.min (kGroup fa) (kGroup fb)

/-- The group of Table 2 that a format belongs to. -/
def pairClass (code : Nat) : Nat :=
  match code with
  | 0 => 0
  | 1 => 1
  | 2 => 2
  | 3 | 4 | 5 | 6 | 7 => 3
  | 8 | 9 | 10 | 11 | 12 => 4
  | _ => 5

/-- Whether a pairing is permitted (R270). -/
def pairOk (fa fb : Nat) : Bool := pairClass fa == pairClass fb
/-- Whether a format takes block scales (R270). -/
def takesScale (code : Nat) : Bool := (3 ≤ code && code ≤ 8) || code == 10

/-- KP of a pairing on the bond. -/
def Bond.kp (b : Bond) (fa fb : Nat) : Nat := 32 * pairGroup fa fb * b.dk

/-- The position of the quadrant of column group `cp` and K half `kp` (R269). -/
def quadAt (shape cp kp : Nat) : Nat :=
  match shape with
  | 0 => 0
  | 1 => cp
  | 2 => kp
  | _ => 2 * kp + cp

/-- Where a plane keeps the slot of position `p`, cell (r, c). -/
def slotKey (p r c : Nat) : Nat := 1024 * p + 32 * r + c
/-- Where a plane keeps the scale of position `p`, column `c`, block `j`. -/
def scaleKey (p c j : Nat) : Nat := 256 * p + 8 * c + j
/-- Where element (m, n) of tile `t` is kept. -/
def tileKey (t m n : Nat) : Nat := 4096 * t + 64 * m + n

/-- Bytes of `n` elements of a format (R66). -/
def fmtBytes (code n : Nat) : Nat := n * fmtWidth code / 8

/-- Element `k` of packed elements of `w` bits (R66). -/
def elemAt (row w k : Nat) : Nat := bits row (w * k) w

/-- Elements as packed bytes (R66). -/
def packElems (w : Nat) (es : List Nat) : Nat := es.foldr (fun e acc => e % 2 ^ w + 2 ^ w * acc) 0

/-! ### Fields of a command -/

/-- `len` bits of the minor field from `lo`. -/
def ArrCmd.f (q : ArrCmd) (lo len : Nat) : Nat := bits q.minor.toNat lo len
/-- FA of `mxm`, FB of `mxld`, FT, FD: bits [11:8]. -/
def ArrCmd.fmt (q : ArrCmd) : Nat := q.f 8 4
/-- The tile of a command, bits [3:2]. -/
def ArrCmd.tile (q : ArrCmd) : Nat := q.f 2 2

/-- Bytes of a tile image (R296). -/
def Bond.tileImage (b : Bond) : Nat := 256 * b.np
/-- Bytes of a plane image (R296). -/
def Bond.planeImage (b : Bond) : Nat := 16 + 6400 * b.quads

/-- Bytes of a plane operand (R277). -/
def planeBytes (b : Bond) (fb fa : Nat) (sb : Bool) : Nat := b.np * fmtBytes fb (b.kp fa fb) + (if sb then b.np * b.kp fa fb / 32 else 0)
/-- Bytes of an activation operand of `m` rows (R276). -/
def actBytes (b : Bond) (fa fb m : Nat) (sa : Bool) : Nat := m * fmtBytes fa (b.kp fa fb) + (if sa then m * b.kp fa fb / 32 else 0)
/-- Where the scales of a `qnt` output begin (R295). -/
def qntScaleAt (tf n dest : Nat) : Nat := (dest + fmtBytes tf (32 * n) + 15) / 16 * 16
/-- The points of a `had` block. -/
def ArrCmd.points (q : ArrCmd) : Nat := 16 * 2 ^ q.f 2 2

/-- The scratchpad ranges of a command: offset, bytes, whether it writes them (R288–R296). -/
def cmdRanges (b : Bond) (q : ArrCmd) : List (Nat × Nat × Bool) :=
  match q.maj with
  | 0xC0 => [(q.base, planeBytes b q.fmt (q.f 4 4) (q.f 3 1 == 1), false)]
  | 0xC2 => [(q.base, actBytes b q.fmt q.rcd.fb q.arg (q.f 7 1 == 1), false)]
  | 0xC6 => [(q.base, fmtBytes q.fmt (q.arg * q.points), true)]
  | 0xC7 => [(q.base, fmtBytes q.fmt (32 * q.arg), false),
             (q.dest, if q.arg = 0 then 0 else qntScaleAt (q.f 4 4) q.arg q.dest + q.arg - q.dest, true)]
  | 0xC8 => [(q.base, q.arg * fmtBytes q.fmt b.np, true)]
  | 0xC9 => [(q.base, if q.f 0 3 < 4 then b.tileImage else b.planeImage, true)]
  | 0xCA => [(q.base, if q.f 0 3 < 4 then b.tileImage else b.planeImage, false)]
  | _ => []

/-! ### Elements -/

/-- An element of a format as a value. -/
def elemVal (code raw : Nat) : FVal :=
  match fpFmt code with
  | some f => unpackF f raw
  | none =>
    let k := readI code raw
    .fin (decide (k < 0)) k.natAbs 0

/-- The exact sum of integers as a value; a zero sum is positive. -/
def intVal (k : Int) : FVal := .fin (decide (k < 0)) k.natAbs 0

/-- The exact integer sum of a group's products (R86). -/
def groupInt (fa fb : Nat) (as ws : List Nat) : Int :=
  (as.zip ws).foldl (fun acc p => acc + readI fa p.1 * readI fb p.2) 0

/-- The sum of a group's products (R84, R85). -/
def groupSum (fa fb : Nat) (as ws : List Nat) : FVal :=
  if (fpFmt fa).isSome then sumV 0 ((as.zip ws).map (fun p => mulV (elemVal fa p.1) (elemVal fb p.2))) else intVal (groupInt fa fb as ws)

/-- A group sum times its scales: 0xFF is a NaN (R67, R84, R85). -/
def scaleVal (v : FVal) (a b : Nat) : FVal :=
  if a = 255 || b = 255 then .nan false
  else match v with
    | .fin n m e => .fin n m (e + a + b - 254)
    | .inf n => .inf n
    | .nan x => .nan x

/-- The mode of the array: nearest even, subnormals kept (R84). -/
def arrayMode : FMode := { rm := 0, daz := false, ftz := false, sat := false }

/-- One step of an FP32 accumulation (R84). -/
def accStep (acc : Nat) (g : FVal) : Nat := (deliver 0 fp32 arrayMode false (sumV 0 [unpackF fp32 acc, g])).bits

/-- One step of an INT32 accumulation, wrapping or saturating (R86). -/
def accInt (sat : Bool) (acc : Nat) (g : Int) : Nat :=
  let v := toInt 32 acc + g
  ofInt 32 (if sat then clampI (-2147483648) 2147483647 v else v)

/-! ### Poison (R209, R285) -/

/-- Poison the sectors that hold some bytes. -/
def scratchPoison (b : Bond) (off n : Nat) : Bond :=
  { b with spoison := (List.range ((off + n - 1) / 64 + 1 - off / 64)).foldl (fun p k => Cells.set p (off / 64 + k) 1) b.spoison }

/-- Write bytes, poisoned or not. -/
def scratchOut (b : Bond) (off n v : Nat) (bad : Bool) : Bond :=
  if n = 0 then b
  else
    let b := scratchWrite b off n v
    if bad then scratchPoison b off n else b

/-- Whether some bytes are poisoned. -/
def scratchBad (b : Bond) (off n : Nat) : Bool := n ≠ 0 && scratchPoisoned b off n

/-- The one-bit mark of a poisoned word. -/
def poisonBit (b : Bool) : BitVec 1 := if b then 1 else 0

/-! ### Weights (R277, R288) -/

/-- Where a plane keeps whether the scale byte of a key is poisoned: above its slots. -/
def scalePoison (key : Nat) : Nat := 4096 + key

/-- A plane loaded from an operand in scratchpad (R288). -/
def loadPlane (b : Bond) (x fb fa : Nat) (sb : Bool) (old : Plane) : Plane :=
  let kg := pairGroup fa fb
  let kp := b.kp fa fb
  let rb := fmtBytes fb kp
  let w := fmtWidth fb
  let col (n : Nat) (f : Nat → Nat → Nat → Nat → Nat × Nat) (len per : Nat) : List (Nat × Nat) :=
    (List.range len).map (fun g =>
      let k := g * per
      f (quadAt b.shape (n / 32) (k / (32 * kg))) (k % (32 * kg)) (n % 32) g)
  let slots := (List.range b.np).flatMap (fun n =>
    let row := scratchRead b (x + n * rb) rb
    col n (fun p kk c g => (slotKey p (kk / kg) c, elemAt row (w * kg) g)) (kp / kg) kg)
  let bad := (List.range b.np).flatMap (fun n =>
    let v := if scratchBad b (x + n * rb) rb then 1 else 0
    col n (fun p kk c _ => (slotKey p (kk / kg) c, v)) (kp / kg) kg)
  -- by column: the key of a block's scale, and where its byte stands; a column has eight scale bytes in a quadrant (R272)
  let blocks := (List.range b.np).flatMap (fun n => (List.range (kp / 32)).filterMap (fun j =>
    let kk := 32 * j % (32 * kg)
    if kk / 32 < 8 then some (scaleKey (quadAt b.shape (n / 32) (32 * j / (32 * kg))) (n % 32) (kk / 32), x + b.np * rb + n * (kp / 32) + j) else none))
  let scales := blocks.map (fun p => (p.1, if sb then scratchRead b p.2 1 else 127))
  let badScales := blocks.map (fun p => (scalePoison p.1, if sb && scratchBad b p.2 1 then 1 else 0))
  { rcd := { valid := true, fb := fb, fa := fa, sb := sb }
    slots := Cells.setAll old.slots (slots.map (fun p => (p.1, BitVec.ofNat 48 p.2)))
    scales := Cells.setAll old.scales (scales.map (fun p => (p.1, BitVec.ofNat 8 p.2)))
    poison := Cells.setAll old.poison ((bad ++ badScales).map (fun p => (p.1, BitVec.ofNat 1 p.2))) }

/-- The slots of group `g` of column `n`, for all groups ascending: key by key (R269). -/
def columnKeys (b : Bond) (groups n : Nat) : List Nat :=
  (List.range groups).map (fun g => slotKey (quadAt b.shape (n / 32) (g / 32)) (g % 32) (n % 32))

/-- The weights of group `g` of column `n`. -/
def weightsOf (pl : Plane) (key kg w : Nat) : List Nat := (List.range kg).map (fun j => elemAt (Cells.get pl.slots key).toNat w j)

/-- The scale of column `n` for the block of K index `k` (R271). -/
def weightScale (b : Bond) (pl : Plane) (kg n k : Nat) : Nat :=
  if pl.rcd.sb then (Cells.get pl.scales (scaleKey (quadAt b.shape (n / 32) (k / (32 * kg))) (n % 32) (k % (32 * kg) / 32))).toNat else 127

/-! ### `mxm` (R290) -/

/-- The scales of column `n` that a command reads, for every block, where the plane is scaled: as places of their poison. -/
def scaleKeys (b : Bond) (pl : Plane) (kg kp n : Nat) : List Nat :=
  if pl.rcd.sb then
    (List.range (kp / 32)).map (fun j => scalePoison (scaleKey (quadAt b.shape (n / 32) (32 * j / (32 * kg))) (n % 32) (32 * j % (32 * kg) / 32)))
  else []

/-- What one element of a result needs besides the row: the format codes, K-group and accumulator of the command. -/
structure MxmCtx where
  fa : Nat
  fb : Nat
  kg : Nat
  groups : Nat
  sa : Bool
  acc : Nat
deriving DecidableEq, Repr

/-- One element: the groups of row `row` with scales `sc` against column `n`, ascending in k. -/
def mxmElem (b : Bond) (x : MxmCtx) (row sc : Nat) (n acc : Nat) : Nat :=
  let wa := fmtWidth x.fa
  let keys := columnKeys b x.groups n
  (List.range x.groups).foldl (fun acc g =>
    let as := (List.range x.kg).map (fun j => elemAt row wa (g * x.kg + j))
    let ws := weightsOf b.active (keys.getD g 0) x.kg (fmtWidth x.fb)
    let k := g * x.kg
    if x.acc = 0 then
      accStep acc (scaleVal (groupSum x.fa x.fb as ws) (if x.sa then elemAt sc 8 (k / 32) else 127) (weightScale b b.active x.kg n k))
    else accInt (x.acc == 2) acc (groupInt x.fa x.fb as ws)) acc

/-- `mxm` as the command performs it. -/
def runMxm (b : Bond) (q : ArrCmd) : Bond :=
  let fa := q.fmt
  let fb := b.active.rcd.fb
  let kp := b.kp fa fb
  let kg := pairGroup fa fb
  let ra := fmtBytes fa kp
  let x : MxmCtx := { fa := fa, fb := fb, kg := kg, groups := kp / kg, sa := q.f 7 1 == 1, acc := q.f 4 2 }
  let ovw := q.f 6 1 == 1
  let out := (List.range q.arg).flatMap (fun m =>
    let row := scratchRead b (q.base + m * ra) ra
    let so := q.base + q.arg * ra + m * (kp / 32)
    let sc := if x.sa then scratchRead b so (kp / 32) else 0
    let bad := scratchBad b (q.base + m * ra) ra || (x.sa && scratchBad b so (kp / 32))
    (List.range b.np).map (fun n =>
      let key := tileKey q.tile m n
      let poisoned := bad || (!ovw && Cells.get b.tpoison key ≠ 0) || (columnKeys b x.groups n ++ scaleKeys b b.active kg kp n).any (fun j => Cells.get b.active.poison j ≠ 0)
      (key, mxmElem b x row sc n (if ovw then 0 else (Cells.get b.tiles key).toNat), poisoned)))
  { b with
      tiles := Cells.setAll b.tiles (out.map (fun e => (e.1, BitVec.ofNat 32 e.2.1)))
      tpoison := Cells.setAll b.tpoison (out.map (fun e => (e.1, poisonBit e.2.2))) }

/-! ### `mxst`, `had`, `qnt` (R293–R295) -/

/-- Rounding and saturation of a command: its own codes, or what was captured at issue (R80). -/
def cmdMode (q : ArrCmd) (rnd : Nat) (sat : Bool) : FMode :=
  { rm := if rnd = 7 then (q.fpm.extractLsb' 0 3).toNat else rnd, daz := false, ftz := false, sat := sat }

/-- `mxst`. -/
def runMxst (b : Bond) (q : ArrCmd) : Bond :=
  let fd := q.fmt
  let md := cmdMode q (q.f 4 3) (if q.f 0 2 = 0 then q.fpm.getLsbD 5 else q.f 0 2 = 1)
  let rs := fmtBytes fd b.np
  (List.range q.arg).foldl (fun acc m =>
    let keys := (List.range b.np).map (fun n => tileKey q.tile m n)
    let es := keys.map (fun k => (convert (if q.f 7 1 = 1 then 15 else 0) fd md (Cells.get b.tiles k).toNat).bits)
    scratchOut acc (q.base + m * rs) rs (packElems (fmtWidth fd) es) (keys.any (fun k => Cells.get b.tpoison k ≠ 0))) b

/-- One output of `had` (R88). -/
def hadElem (f : FpFmt) (sh : Nat) (xs : List FVal) (i : Nat) : Nat :=
  let ts := (List.range xs.length).map (fun j =>
    let x := xs.getD j (.fin false 0 0)
    if popCount 6 (Nat.land i j) % 2 = 1 then x.flip else x)
  match sumV 0 ts with
  | .fin n m e => (roundF f false arrayMode n m (e - (sh : Int))).bits
  | .inf n => (infRes f n).bits
  | .nan _ => f.nan

/-- `had`. -/
def runHad (b : Bond) (q : ArrCmd) : Bond :=
  let p := q.points
  let f := (fpFmt q.fmt).getD fp32
  let w := fmtWidth q.fmt
  let z := fmtBytes q.fmt p
  (List.range q.arg).foldl (fun acc k =>
    let off := q.base + k * z
    let row := scratchRead b off z
    let xs := (List.range p).map (fun j => unpackF f (elemAt row w j))
    scratchOut acc off z (packElems w ((List.range p).map (hadElem f (q.f 4 4) xs))) (scratchBad b off z)) b

/-- emax of a target of `qnt` (R89). -/
def qntEmax (tf : Nat) : Int :=
  match tf with
  | 3 => 8
  | 4 => 15
  | 5 => 4
  | 6 => 2
  | 7 => 2
  | 8 => 6
  | _ => 2

/-- The exponent of the leading bit of a magnitude; none for zero, a NaN or an infinity. -/
def FVal.lead (v : FVal) : Option Int :=
  match v with
  | .fin _ m e => if m = 0 then none else some ((m.log2 : Int) + e)
  | .inf _ => none
  | .nan _ => none

/-- The scale code of a block (R89). -/
def qntScale (tf : Nat) (xs : List FVal) : Nat :=
  if xs.any (fun v => v.isNan || v.isInf) then 255
  else match xs.filterMap FVal.lead with
    | [] => 0
    | k :: ks =>
      let top := ks.foldl (fun a b => if a < b then b else a) k
      (clampI 0 254 (top - qntEmax tf + 127)).toNat

/-- One element of a block under scale code `c` (R89, R90). -/
def qntElem (tf rm c : Nat) (special : Bool) (v : FVal) : Nat :=
  if special then 0
  else match v with
    | .fin n m e =>
      let md : FMode := { rm := rm, daz := false, ftz := false, sat := true }
      match fpFmt tf with
      | some f => (roundF f false md n m (e + 127 - (c : Int))).bits
      | none => (toIntFmt tf rm (.fin n m (e + 127 - (c : Int)))).bits
    | .inf _ => 0
    | .nan _ => 0

/-- `qnt`. -/
def runQnt (b : Bond) (q : ArrCmd) : Bond :=
  let tf := q.f 4 4
  let f := (fpFmt q.fmt).getD fp32
  let w := fmtWidth q.fmt
  let z := fmtBytes q.fmt 32
  let dz := fmtBytes tf 32
  let rm := (cmdMode q (q.f 1 3) true).rm
  let sc := qntScaleAt tf q.arg q.dest
  (List.range q.arg).foldl (fun acc k =>
    let row := scratchRead b (q.base + k * z) z
    let xs := (List.range 32).map (fun j => unpackF f (elemAt row w j))
    let c := qntScale tf xs
    let bad := scratchBad b (q.base + k * z) z
    let acc := scratchOut acc (q.dest + k * dz) dz (packElems (fmtWidth tf) (xs.map (qntElem tf rm c (c == 255)))) bad
    scratchOut acc (sc + k) 1 c bad) b

/-! ### Images (R296) -/

/-- The tile image as a number. -/
def tileNumber (b : Bond) (t : Nat) : Nat :=
  packElems 32 ((List.range 64).flatMap (fun m => (List.range b.np).map (fun n => (Cells.get b.tiles (tileKey t m n)).toNat)))

/-- The header of a plane image (R296 Table 4). -/
def planeHeader (b : Bond) (r : PlaneRec) : Nat :=
  packFields [(0, 4, 1), (4, 1, r.fb), (5, 1, r.fa), (6, 1, if r.sb then 1 else 0), (7, 1, b.shape), (8, 1, if r.valid then 1 else 0)]

/-- The slots and scales of one quadrant of a plane as a number of 6,400 bytes. -/
def quadNumber (pl : Plane) (p : Nat) : Nat :=
  packElems 48 ((List.range 1024).map (fun k => (Cells.get pl.slots (1024 * p + k)).toNat)) +
    2 ^ 49152 * packElems 8 ((List.range 256).map (fun k => (Cells.get pl.scales (256 * p + k)).toNat))

/-- A plane image as a number. -/
def planeNumber (b : Bond) (pl : Plane) : Nat :=
  planeHeader b pl.rcd + 2 ^ 128 * packElems 51200 ((List.range b.quads).map (quadNumber pl))

/-- Whether the header of a plane image is accepted (R296). -/
def planeHeaderOk (b : Bond) (h : Nat) : Bool :=
  let fb := fieldAt h 4 1
  let fa := fieldAt h 5 1
  fieldAt h 0 4 == 1 && fieldAt h 7 1 == b.shape && fieldAt h 9 7 == 0 && fieldAt h 8 1 ≤ 1 && fieldAt h 6 1 ≤ 1 &&
  (fieldAt h 8 1 == 0 || (fb < 14 && fa < 14 && pairOk fa fb && (fieldAt h 6 1 == 0 || takesScale fb)))

/-- The plane of an accepted image at offset `x`. -/
def planeOf (b : Bond) (x : Nat) : Plane :=
  let v := scratchRead b x b.planeImage
  let quad (p : Nat) : Nat := fieldAt v (16 + 6400 * p) 6400
  let slots := (List.range b.quads).flatMap (fun p => (List.range 1024).map (fun k => (1024 * p + k, BitVec.ofNat 48 (elemAt (quad p) 48 k))))
  let scales := (List.range b.quads).flatMap (fun p => (List.range 256).map (fun k => (256 * p + k, BitVec.ofNat 8 (fieldAt (quad p) (6144 + k) 1))))
  let bad := (List.range b.quads).flatMap (fun p => (List.range 1024).map (fun k =>
    (1024 * p + k, poisonBit (scratchBad b (x + 16 + 6400 * p + 6 * k) 6))))
  let badScales := (List.range b.quads).flatMap (fun p => (List.range 256).map (fun k =>
    (scalePoison (256 * p + k), poisonBit (scratchBad b (x + 16 + 6400 * p + 6144 + k) 1))))
  { rcd := { valid := fieldAt v 8 1 == 1, fb := fieldAt v 4 1, fa := fieldAt v 5 1, sb := fieldAt v 6 1 == 1 }
    slots := Cells.setAll [] slots, scales := Cells.setAll [] scales, poison := Cells.setAll [] (bad ++ badScales) }

/-- Where the poisoned words of a plane lie in its image: offset and bytes. -/
def planeBad (b : Bond) (pl : Plane) : List (Nat × Nat) :=
  pl.poison.filterMap (fun c =>
    let k := c.1 - 4096
    if c.2 = 0 then none
    else if c.1 < 1024 * b.quads then some (16 + 6400 * (c.1 / 1024) + 6 * (c.1 % 1024), 6)
    else if 4096 ≤ c.1 && k < 256 * b.quads then some (16 + 6400 * (k / 256) + 6144 + k % 256, 1)
    else none)

/-- The same of a tile. -/
def tileBad (b : Bond) (t : Nat) : List (Nat × Nat) :=
  b.tpoison.filterMap (fun c =>
    let n := c.1 % 64
    if c.2 ≠ 0 && c.1 / 4096 = t && n < b.np then some (4 * (c.1 % 4096 / 64 * b.np + n), 4) else none)

/-- Write an image, poisoning the rows that hold a poisoned word (R209, R285). -/
def imageOut (b : Bond) (off n v : Nat) (bad : List (Nat × Nat)) : Bond :=
  bad.foldl (fun b r => scratchPoison b (off + r.1) r.2) (scratchOut b off n v false)

/-- `mxsv`. -/
def runMxsv (b : Bond) (q : ArrCmd) : Bond :=
  let o := q.f 0 3
  if o < 4 then imageOut b q.base b.tileImage (tileNumber b o) (tileBad b o)
  else
    let pl := if o = 4 then b.active else b.shadow
    imageOut b q.base b.planeImage (planeNumber b pl) (planeBad b pl)

/-- `mxrs`; answers whether its image was refused. -/
def runMxrs (b : Bond) (q : ArrCmd) : Bond × Bool :=
  let o := q.f 0 3
  if o < 4 then
    let v := scratchRead b q.base b.tileImage
    let at_ (m n : Nat) : Nat := m * b.np + n
    let cells := (List.range 64).flatMap (fun m => (List.range b.np).map (fun n => (tileKey o m n, at_ m n)))
    ({ b with
        tiles := Cells.setAll b.tiles (cells.map (fun p => (p.1, BitVec.ofNat 32 (elemAt v 32 p.2))))
        tpoison := Cells.setAll b.tpoison (cells.map (fun p => (p.1, poisonBit (scratchBad b (q.base + 4 * p.2) 4)))) }, false)
  else if planeHeaderOk b (scratchRead b q.base 16) then
    (if o = 4 then { b with active := planeOf b q.base } else { b with shadow := planeOf b q.base }, false)
  else (b, true)

/-- What a command does to the bond once it runs; answers whether an image was refused. -/
def runCmd (b : Bond) (q : ArrCmd) : Bond × Bool :=
  match q.maj with
  | 0xC0 => ({ b with shadow := loadPlane b q.base q.fmt (q.f 4 4) (q.f 3 1 == 1) b.shadow }, false)
  | 0xC1 =>
    ({ b with
        active := b.shadow, shadow := b.active
        queue := b.queue.map (fun x => if x.maj = 0xC2 && x.started then { x with swaps := x.swaps + 1 } else x) }, false)
  | 0xC2 => (runMxm b q, false)
  | 0xC3 =>
    let drop (cs : Cells 32) (t : Nat) : Cells 32 := Cells.drop cs (4096 * t) (4096 * t + 4096)
    let drop1 (cs : Cells 1) (t : Nat) : Cells 1 := Cells.drop cs (4096 * t) (4096 * t + 4096)
    let ts := if q.f 4 1 = 1 then [0, 1, 2, 3] else [q.tile]
    ({ b with tiles := ts.foldl drop b.tiles, tpoison := ts.foldl drop1 b.tpoison }, false)
  | 0xC6 => (runHad b q, false)
  | 0xC7 => (runQnt b q, false)
  | 0xC8 => (runMxst b q, false)
  | 0xC9 => (runMxsv b q, false)
  | 0xCA => runMxrs b q
  | _ => (b, false)

/-! ### Dependences (R280, R281) -/

/-- The path of a command (R280): 1 row, 2 plane, 3 tile, 0 none. -/
def ArrCmd.path (q : ArrCmd) : Nat :=
  match q.maj with
  | 0xC2 | 0xC6 | 0xC7 => 1
  | 0xC0 => 2
  | 0xC3 | 0xC8 => 3
  | 0xC9 | 0xCA => if q.f 0 3 < 4 then 3 else 2
  | _ => 0

/-- The tiles that a command reads and those it writes, as sets. -/
def ArrCmd.tiles (q : ArrCmd) : BitVec 4 × BitVec 4 :=
  let one (t : Nat) : BitVec 4 := BitVec.ofNat 4 (2 ^ t)
  match q.maj with
  | 0xC2 => (if q.f 6 1 = 1 then 0 else one q.tile, one q.tile)
  | 0xC3 => (0, if q.f 4 1 = 1 then 0xF else one q.tile)
  | 0xC8 => (one q.tile, 0)
  | 0xC9 => (if q.f 0 3 < 4 then one (q.f 0 3) else 0, 0)
  | 0xCA => (0, if q.f 0 3 < 4 then one (q.f 0 3) else 0)
  | _ => (0, 0)

/-- The planes that a command reads and those it writes at its place in the queue: bit 0 active, bit 1 shadow. -/
def ArrCmd.planes (q : ArrCmd) : BitVec 2 × BitVec 2 :=
  match q.maj with
  | 0xC0 => (0, 2)
  | 0xC1 => (3, 3)
  | 0xC2 => (1, 0)
  | 0xC9 => (if q.f 0 3 = 4 then 1 else if q.f 0 3 = 5 then 2 else 0, 0)
  | 0xCA => (0, if q.f 0 3 = 4 then 1 else if q.f 0 3 = 5 then 2 else 0)
  | _ => (0, 0)

/-- Two bits exchanged when a number of exchanges is odd. -/
def swapped (n : Nat) (m : BitVec 2) : BitVec 2 := if n % 2 = 0 then m else BitVec.ofNat 2 (m.toNat / 2 + 2 * (m.toNat % 2))

/-- Whether a command Y depends on the earlier command X of the queue, with `n` exchanges still queued between them (R281). -/
def cmdDepends (b : Bond) (x y : ArrCmd) (n : Nat) : Bool :=
  let late := x.swaps + n
  let xr := swapped late x.planes.1
  let xw := swapped late x.planes.2
  if y.maj = 0xC1 && x.maj = 0xC2 then !x.started
  else
    (x.tiles.2 &&& (y.tiles.1 ||| y.tiles.2)) ≠ 0 || (x.tiles.1 &&& y.tiles.2) ≠ 0 ||
    (xw &&& (y.planes.1 ||| y.planes.2)) ≠ 0 || (xr &&& y.planes.2) ≠ 0 ||
    (x.maj = 0xC2 && late ≠ 0 && ((y.planes.1 ||| y.planes.2) &&& 2) ≠ 0 && y.maj ≠ 0xC1 && y.maj ≠ 0xC2) ||
    (cmdRanges b x).any (fun r => (cmdRanges b y).any (fun t => (r.2.2 || t.2.2) &&
      r.1 < t.1 + t.2.1 && t.1 < r.1 + r.2.1 && r.2.1 ≠ 0 && t.2.1 ≠ 0))

/-- The plane exchanges among some commands that have not been made. -/
def swapsIn (qs : List ArrCmd) : Nat := (qs.filter (fun q => q.maj = 0xC1 && !q.started)).length

/-- Whether the commands ahead of one let it start (R280, R281). -/
def cmdFree (b : Bond) (y : ArrCmd) : Bool :=
  let ahead := b.queue.takeWhile (fun q => q.id ≠ y.id)
  !ahead.any (fun x => x.path ≠ 0 && x.path = y.path && !x.started) &&
  (List.range ahead.length).all (fun k => match ahead[k]? with
    | some x => !cmdDepends b x y (swapsIn (ahead.drop (k + 1)))
    | none => true)

/-- The records that commands not yet started leave behind, active and shadow; none where an `mxrs` of the plane has still to check its image (R279,
R290). Records of started commands stand in the planes. -/
def recordsAfter (qs : List ArrCmd) (a sh : Option PlaneRec) : Option PlaneRec × Option PlaneRec :=
  match qs with
  | [] => (a, sh)
  | q :: rest =>
    if q.started then recordsAfter rest a sh
    else match q.maj with
      | 0xC0 => recordsAfter rest a (some q.rcd)
      | 0xC1 => recordsAfter rest sh a
      | 0xCA => recordsAfter rest (if q.f 0 3 = 4 then none else a) (if q.f 0 3 = 5 then none else sh)
      | _ => recordsAfter rest a sh

end Sys2Proof.Machine
end

