-- ==== Sys2Proof/Machine/Access.lean ====
section
/-! DEFINITION. How the operations of a course reach memory (R215 to R222, R226, R228, R231, R241 to R249): which may be performed now, what one lane's access
does, and what follows when lanes complete, fault, wait or park. -/

namespace Sys2Proof.Machine

/-! ### Which operation may be performed (R216, R217, R219, R220, R232) -/

/-- Bytes that an operation touches for one lane. -/
def Op.accBytes (o : Op) : Nat :=
  match o.kind with
  | .load _ w _ _ | .loadS _ w | .loadC _ w _ _ | .store w _ | .storeS w => widthBytes w
  | .atomic _ _ z _ | .atomicS _ _ z => z
  | .put _ _ _ _ _ _ | .order _ _ | .afence _ _ | .pflush _ | .enq _ _ _ | .lease _ _ _ _ | .engine _ _ _ _ _ _ _ | .array _ | .fetch => 0

/-- Where a location lies (R215). -/
inductive Space where
  | glob (asid : Nat)
  | scr (bond : Nat)
deriving DecidableEq, Repr

/-- A range of locations. -/
structure Range where
  space : Space
  lo : Nat
  len : Nat
  write : Bool
deriving DecidableEq, Repr

/-- Whether two ranges share a location. -/
def Range.meets (x y : Range) : Bool := x.space == y.space && x.lo < y.lo + y.len && y.lo < x.lo + x.len

/-- Bond `ix` of the course's pier (R252). -/
def putTarget (s : State) (c : Course) (ix : Nat) : Option Bond :=
  (s.piers.find? (fun p => p.id == c.pier)).bind (fun p => (p.bonds[ix]?).bind (findBond s))

/-- The ranges that an operation has still to touch. -/
def opRanges (s : State) (c : Course) (o : Op) : List Range :=
  let lanes := LaneSet.toList o.lanes
  let glob (write : Bool) (z : Nat) : List Range := lanes.filterMap (fun i =>
    (assoc o.addrs i).map (fun va => { space := .glob (effAsid s c.tenant c.asid va), lo := va, len := z, write := write }))
  let scr (write : Bool) (z : Nat) : List Range := lanes.filterMap (fun i =>
    (assoc o.addrs i).map (fun off => { space := .scr c.bond, lo := off, len := z, write := write }))
  match o.kind with
  | .load _ w _ _ | .loadC _ w _ _ => glob false (widthBytes w)
  | .store w _ => glob true (widthBytes w)
  | .atomic _ _ z _ => glob true z
  | .loadS _ w => scr false (widthBytes w)
  | .storeS w => scr true (widthBytes w)
  | .atomicS _ _ z => scr true z
  | .put b doff soff len coff _ =>
    let t := match putTarget s c b with | some x => x.id | none => 0
    [{ space := .scr c.bond, lo := soff, len := len, write := false }, { space := .scr t, lo := doff, len := len, write := true },
     { space := .scr t, lo := coff, len := 4, write := true }]
  | .enq _ addr _ => [{ space := .glob (effAsid s c.tenant c.asid addr), lo := addr, len := 128, write := false }]
  | .lease _ _ _ _ | .order _ _ | .afence _ _ | .pflush _ | .engine _ _ _ _ _ _ _ | .array _ | .fetch => []

/-- Whether an operation is an access, or orders accesses, of the course itself. -/
def Op.isAccess (o : Op) : Bool :=
  match o.kind with
  | .load _ _ _ _ | .loadS _ _ | .loadC _ _ _ _ | .store _ _ | .storeS _ | .atomic _ _ _ _ | .atomicS _ _ _ | .put _ _ _ _ _ _ | .order _ _
  | .afence _ _ | .pflush _ | .enq _ _ _ | .lease _ _ _ _ => true
  | .engine _ _ _ _ _ _ _ | .array _ | .fetch => false

/-- Whether an operation is a load or an atomic that returns a value (R220). -/
def Op.isLoad (o : Op) : Bool :=
  match o.kind with
  | .load _ _ _ _ | .loadS _ _ | .loadC _ _ _ _ => true
  | .atomic d _ _ _ | .atomicS d _ _ => d ≠ .none
  | .store _ _ | .storeS _ | .put _ _ _ _ _ _ | .order _ _ | .afence _ _ | .pflush _ | .enq _ _ _ | .lease _ _ _ _ | .engine _ _ _ _ _ _ _
  | .array _ | .fetch => false

/-- The acquire scope of an ordered access. -/
def Op.acq (o : Op) : Option Nat :=
  match o.kind with
  | .load _ _ _ a | .loadC _ _ _ a | .atomic _ _ _ a => a
  | .loadS _ _ | .atomicS _ _ _ | .store _ _ | .storeS _ | .put _ _ _ _ _ _ | .order _ _ | .afence _ _ | .pflush _ | .enq _ _ _ | .lease _ _ _ _
  | .engine _ _ _ _ _ _ _ | .array _ | .fetch => none

/-- Whether no later access of the course is performed before the operation is complete. -/
def Op.holdsLater (o : Op) : Bool :=
  match o.kind with
  | .order _ _ | .afence _ _ | .pflush _ => true
  | .load _ _ _ _ | .loadC _ _ _ _ | .atomic _ _ _ _ | .loadS _ _ | .atomicS _ _ _ | .store _ _ | .storeS _ | .put _ _ _ _ _ _ | .enq _ _ _
  | .lease _ _ _ _ | .engine _ _ _ _ _ _ _ | .array _ | .fetch => o.acq.isSome

/-- Whether an operation waits for every earlier access of the course. -/
def Op.needsAll (o : Op) : Bool :=
  match o.kind with
  | .order _ _ | .afence _ _ => true
  | .load _ _ _ _ | .loadC _ _ _ _ | .atomic _ _ _ _ | .loadS _ _ | .atomicS _ _ _ | .store _ _ | .storeS _ | .put _ _ _ _ _ _ | .enq _ _ _
  | .lease _ _ _ _ | .engine _ _ _ _ _ _ _ | .array _ | .fetch | .pflush _ => false

/-- The target of a `put`: puts of one course to one bond take effect in order (R254). -/
def Op.putBond (o : Op) : Option Nat :=
  match o.kind with
  | .put b _ _ _ _ _ => some b
  | .load _ _ _ _ | .loadC _ _ _ _ | .atomic _ _ _ _ | .loadS _ _ | .atomicS _ _ _ | .store _ _ | .storeS _ | .order _ _ | .afence _ _ | .enq _ _ _
  | .lease _ _ _ _ | .engine _ _ _ _ _ _ _ | .array _ | .fetch | .pflush _ => none

/-- Whether operation `seq` of course `c` was issued after something that noted `prior`. -/
def issuedAfter (prior : List (Nat × Nat)) (c seq : Nat) : Bool := (assoc prior c).getD 0 ≤ seq

/-- Whether two half-open stretches of bytes meet. -/
def meets (lo1 len1 lo2 len2 : Nat) : Bool := len1 ≠ 0 && len2 ≠ 0 && lo1 < lo2 + len2 && lo2 < lo1 + len1

/-- Whether a range of a bond's scratchpad waits behind a copy in flight or an array command (R232, R282): reads behind entries of direction W,
writes behind all, where operation `seq` of course `c` was issued later. -/
def behindCopy (s : State) (c seq : Nat) (x : Range) : Bool :=
  match x.space with
  | .glob _ => false
  | .scr b => match findBond s b with
    | none => false
    | some b =>
      b.ranges.any (fun e => (e.write || x.write) && issuedAfter e.prior c seq && !(e.course == c && e.seq == seq) &&
        meets x.lo x.len (128 * e.lo) (128 * (e.hi + 1 - e.lo))) ||
      b.queue.any (fun q => issuedAfter q.prior c seq && (cmdRanges b q).any (fun r => (r.2.2 || x.write) && meets x.lo x.len r.1 r.2.1))

/-- Whether an operation may be performed now (R118, R216, R217, R220, R232, R254); a load whose data its frame holds has been performed (R425). -/
def opReady (s : State) (c : Course) (o : Op) : Bool :=
  let prior := (c.ops.takeWhile (fun q => q.seq ≠ o.seq)).filter (fun q => q.isAccess && q.entry ≠ 3)
  let mine := opRanges s c o
  -- a `put` from another bond goes unchecked at its target (R232)
  let away : Bool := match o.putBond with | some b => (putTarget s c b).map (fun t => t.id) != some c.bond | none => false
  let checked := if away then mine.take 1 else mine
  !prior.any (fun q => q.holdsLater) && (!o.needsAll || prior.isEmpty) && (o.acq.isNone || !prior.any (fun q => q.isLoad)) &&
  !prior.any (fun q => (o.putBond.isSome && q.putBond == o.putBond) || (opRanges s c q).any (fun x => mine.any (fun y => x.meets y))) &&
  !checked.any (behindCopy s c.id o.seq) && !destHeld c o

/-! ### One lane -/

/-- How one lane's access ended. -/
inductive LaneRes where
  | val (v : Nat)
  /-- a lane fault -/
  | fault (cause : Nat)
  /-- refused by a pin, sent again later -/
  | refused
  /-- an absent part -/
  | absent
  /-- a reply of a peer is awaited -/
  | wait
  /-- poisoned data (R209, R436) -/
  | poison
deriving DecidableEq, Repr

/-- The access of an operation. -/
def opAcc (c : Course) (o : Op) : Acc := { c.acc with ring := o.ring }

/-- Ask a peer for the line of a lane, once. -/
def askFor (s : State) (o : Op) (dev va i : Nat) : State × LaneRes :=
  let c := s.cur
  match peerCause s c.asid dev with
  | some k => (s, .fault k)
  | none =>
    let who := ReqWho.op c.id o.seq i
    if reqPending s 1 who then (s, .wait) else (askLine s (opAcc c o) dev va who, .wait)

/-- The line that a peer returned to an operation, with the attributes of its leaf, if it has returned. -/
def repliedLine (s : State) (o : Op) (va : Nat) : Option Line :=
  let c := s.cur
  let la := lineOf va
  let as := effAsid s c.tenant c.asid va
  match assoc o.data la with
  | none => none
  | some d =>
    let e := match leafAt s as va with | .ok (e, _) => e | .error _ => 0
    some { tagLine (opAcc c o) as la e none with data := BitVec.ofNat 1024 d, valid := fullMask, poison := if (assoc o.data (la + 1)).isSome then 3 else 0 }

/-- How a read through a core ended for a lane. -/
def readEnd (v : Nat) (p : Bool) (r : HRes) : LaneRes :=
  match r with
  | .line _ _ => if p then .poison else .val v
  | .cause k => .fault (0x70 + k)
  | .absent => .absent
  | .pinned | .mmio _ _ | .peer _ => .refused

/-- A load of `n` bytes (R243, R244); a line that a peer has returned is kept in the L1 as one from the home is. -/
def loadLane (s : State) (o : Op) (hint n i va : Nat) : State × LaneRes :=
  let c := s.cur
  match repliedLine s o va with
  | some h =>
    let r := coreFill s (opAcc c o) c.site va n hint h false
    (r.1, readEnd r.2.2.1 r.2.2.2 r.2.1)
  | none =>
    match coreRead s (opAcc c o) c.site va n hint .read with
    | (s, .mmio die off, _, _) => (s, .val (dieRead s die off n))
    | (s, .peer dev, _, _) => askFor s o dev va i
    | (s, r, v, p) => (s, readEnd v p r)

/-- A store of `n` bytes into the L1 (R245). -/
def storeLane (s : State) (o : Op) (n va v : Nat) : State × LaneRes :=
  let c := s.cur
  match coreStore s (opAcc c o) c.site va n v with
  | (s, .line _ _) => (s, .val 0)
  | (s, .mmio die off) => (dieWrite s o.ring die off n v, .val 0)
  | (s, .peer _) => (s, .refused)
  | (s, .cause k) => (s, .fault (0x70 + k))
  | (s, .absent) => (s, .absent)
  | (s, .pinned) => (s, .refused)

/-- Steps 1 and 3 of R226 on the issuing core's own copy of a line: dirty bytes are written home and the core's pin on the line is cleared, which a line
without dirty bytes skips; the copy is dropped. Answers false when another core's pin refuses the write-back. -/
def flushOwn (s : State) (va : Nat) : State × Bool :=
  let c := s.cur
  let as := effAsid s c.tenant c.asid va
  let la := lineOf va
  match l1Find s c.core as c.tenant la with
  | none => (s, true)
  | some l =>
    match l1WriteBack s l with
    | (s, false) => (s, false)
    | (s, true) =>
      let s := l1Drop s c.core as la
      (if l.dirty = 0 then s
      else { s with
          l2 := updWhere (fun x => x.asid == as && x.addr == la && x.pin == some c.core) (fun x => { x with pin := none, refusedOnce := false }) s.l2 }, true)

/-- A peer that holds the home of an address, if one does. -/
def peerOf (s : State) (o : Op) (va : Nat) : State × Option Nat :=
  match probe s (opAcc s.cur o) s.cur.site va .write with
  | (s, .line l _) => (s, l.peer)
  | (s, .peer d) => (s, some d)
  | (s, _) => (s, none)

/-- Remember a peer that the course has written (R259). -/
def Course.addPeer (c : Course) (dev : Nat) : Course := { c with peers := c.peers ||| BitVec.ofNat 16 (2 ^ dev) }

/-- Drop the local copies of a peer's line before an atomic is performed at the peer. -/
def dropLocal (s : State) (va : Nat) : State := l2Drop s (effAsid s s.cur.tenant s.cur.asid va) (lineOf va)

/-- Ask a peer to perform an atomic of `z` bytes on a lane's word, once (R214, R226). -/
def askAtomic (s : State) (o : Op) (dev va op z i : Nat) (ret : Bool) (b : Nat) : State × LaneRes :=
  let c := s.cur
  match peerCause s c.asid dev with
  | some k => (s, .fault k)
  | none =>
    let who := ReqWho.op c.id o.seq i
    if reqPending s 6 who then (s, .wait)
    else (sendReq (dropLocal s va) (atmPacket s dev (vfOfAsid s c.asid) c.harvest va op (z == 8) ret b (sizeCode z)) who, .wait)

/-- A store of `n` bytes written through to its home (R245): an atomic exchange without return, at a peer's home too. -/
def throughLane (s : State) (o : Op) (n i va v : Nat) : State × LaneRes :=
  match peerOf s o va with
  | (s, dev) =>
    match flushOwn s va with
    | (s, false) => (s, .refused)
    | (s, true) =>
      match dev with
      | some d => askAtomic s o d va 8 n i false v
      | none =>
        match homeStore s (opAcc s.cur o) va n v with
        | (s, .line _ _) => (s, .val 0)
        | (s, .mmio die off) => (dieWrite s o.ring die off n v, .val 0)
        | (s, .peer d) => askAtomic s o d va 8 n i false v
        | (s, .cause k) => (s, .fault (0x70 + k))
        | (s, .absent) => (s, .absent)
        | (s, .pinned) => (s, .refused)

/-! ### Atomics (R247, R249) -/

/-- The new value of a location of `z` bytes under an operation; `b` of `.cas` holds b.cmp in its low half and b.new above it. -/
def atomNew (op z old b : Nat) : Nat :=
  let w := 8 * z
  let code := if z = 8 then 14 else 0
  let f : FpFmt := (fpFmt code).getD fp32
  let md : FMode := { rm := 0, daz := false, ftz := false, sat := false }
  match op with
  | 0 => (old + b) % 2 ^ w
  | 1 => Nat.land old b
  | 2 => Nat.lor old b
  | 3 => Nat.xor old b
  | 4 => if toInt w b < toInt w old then b else old
  | 5 => if toInt w old < toInt w b then b else old
  | 6 => Nat.min old b
  | 7 => Nat.max old b
  | 8 => b
  | 9 => if old = b % 2 ^ w then b / 2 ^ w else old
  | 10 => (fAdd code f md (readF code f false old) (readF code f false b)).bits
  | 11 => (fMinMax false code f md old b).bits
  | _ => (fMinMax true code f md old b).bits

/-- Whether an operation writes its location: a `.cas` that fails does not (R249). -/
def atomWrites (op z old b : Nat) : Bool := op ≠ 9 || old == b % 2 ^ (8 * z)

/-- One lane of an `atom` (R226, R249): at the home slice, or by a request to the peer. The held sector is checked before it is updated (R265). -/
def atomLane (s : State) (o : Op) (op z : Nat) (ret : Bool) (i va b : Nat) : State × LaneRes :=
  if invBusy s (effAsid s s.cur.tenant s.cur.asid va) (lineOf va) then (s, .refused)
  else match peerOf s o va with
  | (s, dev) =>
    match flushOwn s va with
    | (s, false) => (s, .refused)
    | (s, true) =>
      match dev with
      | some d => askAtomic s o d va op z i ret b
      | none =>
        let a := opAcc s.cur o
        match homeLoad s a va z .write with
        | (s, .line l _, old) =>
          if poisonOf l.poison (va % 128) z then (s, if ret then .poison else .val 0)
          else (if atomWrites op z old b then (homeStore s a va z (atomNew op z old b)).1 else s, .val old)
        | (s, .mmio die off, _) =>
          let old := dieRead s die off z
          (if atomWrites op z old b then dieWrite s o.ring die off z (atomNew op z old b) else s, .val old)
        | (s, .peer _, _) => (s, .refused)
        | (s, .cause k, _) => (s, .fault (0x70 + k))
        | (s, .absent, _) => (s, .absent)
        | (s, .pinned, _) => (s, .refused)

/-! ### Scratchpad lanes (R211) -/

/-- A load from the bond's scratchpad. -/
def loadSLane (s : State) (n off : Nat) : State × LaneRes :=
  let s := readRows s s.cur.bond off n
  match curBond s with
  | some b => (s, if scratchPoisoned b off n then .poison else .val (scratchRead b off n))
  | none => (s, .val 0)

/-- A store to the bond's scratchpad. -/
def storeSLane (s : State) (n off v : Nat) : State × LaneRes :=
  let s := readRows s s.cur.bond off n
  match curBond s with
  | some b => (putBond s (scratchWrite b off n v), .val 0)
  | none => (s, .val 0)

/-- An atomic on the bond's scratchpad. -/
def atomSLane (s : State) (op z : Nat) (ret : Bool) (off v : Nat) : State × LaneRes :=
  let s := readRows s s.cur.bond off z
  match curBond s with
  | some b =>
    if scratchPoisoned b off z then (s, if ret then .poison else .val 0)
    else
      let old := scratchRead b off z
      (if atomWrites op z old v then putBond s (scratchWrite b off z (atomNew op z old v)) else s, .val old)
  | none => (s, .val 0)

/-! ### The lanes of an operation -/

/-- What has come of the lanes so far. -/
structure LaneWork where
  s : State
  got : List (Nat × Nat)
  fs : List LaneFault
  absent : List (Nat × Nat)
  refused : Bool
  wait : Bool
  poison : Bool
deriving DecidableEq, Repr

/-- Perform lanes in ascending order; with `serial` the lanes after one that waits are left for later. -/
def runLanes (serial : Bool) (f : State → Nat → Nat → State × LaneRes) (addrs : List (Nat × Nat)) (w : LaneWork) (ls : List Nat) : LaneWork :=
  match ls with
  | [] => w
  | i :: rest =>
    if serial && (w.wait || w.refused) then w
    else
      let va := (assoc addrs i).getD 0
      let r := f w.s i va
      let w := { w with s := r.1 }
      runLanes serial f addrs (match r.2 with
        | .val v => { w with got := w.got ++ [(i, v)] }
        | .fault k => { w with fs := w.fs ++ [{ lane := i, cause := k, addr := va }] }
        | .refused => { w with refused := true }
        | .absent => { w with absent := w.absent ++ [(i, va)] }
        | .wait => { w with wait := true }
        | .poison => { w with poison := true }) rest

/-- The KIND of an operation's fault record (R358). -/
def Op.faultKind (o : Op) : Nat :=
  match o.kind with
  | .store _ _ => 1
  | .atomic _ _ _ _ => 2
  | .fetch => 3
  | .load _ _ _ _ | .loadC _ _ _ _ | .loadS _ _ | .atomicS _ _ _ | .storeS _ | .put _ _ _ _ _ _ | .order _ _ | .afence _ _ | .enq _ _ _ | .lease _ _ _ _
  | .engine _ _ _ _ _ _ _ | .array _ | .pflush _ => 0

/-- Lanes go back to the instruction of an operation, where it stood in its clause, and wait for no mask: they execute it again (R359, R421). -/
def Course.backTo (c : Course) (o : Op) (m : LaneSet) : Course :=
  let ls := LaneSet.toList (m &&& c.live)
  { (c.setPcs (m &&& c.live) (fun _ => o.pc)).unwait m 12 with
      chead := ls.foldl (fun x i => Cells.set x i (Cells.get o.chead i)) c.chead
      cdist := ls.foldl (fun x i => Cells.set x i (Cells.get o.cdist i)) c.cdist }

/-- Lane faults found after issue: the lanes go back to the instruction (R359, R421); a cause of `ldc` is raised against its whole issuing
subset (R243). -/
def lateFaults (s : State) (o : Op) (fs : List LaneFault) : State :=
  let live := fs.filter (fun f => s.cur.live.getLsbD f.lane)
  match o.kind, fs with
  | .loadC _ _ _ _, f :: _ => raise (s.upd (fun c => c.backTo o o.subset)) f.cause o.subset o.pc f.addr 0
  | _, _ => noEligibleHere (laneFaults (s.upd (fun c => c.backTo o (faultSet live))) o.hold o.pc live)

/-- The returned values as the destination takes them: a scalar destination takes the lowest lane's, an `ldc` to a vector gives every lane the same. -/
def Op.values (o : Op) : List (Nat × Nat) :=
  match o.dest with
  | .none => []
  | .scl _ => match listMin (o.got.map (fun p => p.1)) with
    | some i => [(0, (assoc o.got i).getD 0)]
    | none => []
  | .vec _ => match o.kind with
    | .loadC _ _ _ _ => (LaneSet.toList o.all).map (fun i => (i, (assoc o.got 0).getD 0))
    | _ => o.got

/-- Whether an operation is the home read of a `waitc` (R403), coded as an `ldc` of cache hint 3 without a destination. -/
def Op.isWatch (o : Op) : Bool :=
  match o.kind with
  | .loadC .none _ 3 none => true
  | _ => false

/-- Whether a counter word meets a target (R305). -/
def counterMet (v : Nat) (target : Word) : Bool := !(BitVec.ofNat 32 v - target).getLsbD 31

/-- A `waitc` of the course has read `v` at an address: when the target is met the course goes on, and acquires once its earlier loads
have returned. -/
def watchRead (s : State) (scratch : Bool) (addr v : Nat) : State :=
  let p (w : Wait) : Bool := match w with
    | .waitc sp a t _ _ _ => sp == scratch && a == addr && counterMet v t
    | _ => false
  match s.cur.findWait p with
  | some (.waitc _ _ _ scope _ _) => s.upd (fun c => (c.wake p).acquires scope)
  | _ => s

/-- The home read of a `waitc` has met a cause: the wait is over, and the subset executes the instruction again when it returns from the trap. -/
def endWatch (s : State) (o : Op) : State :=
  (removeOp s o.seq).upd (fun c => if o.ring < c.ring then { c with waitBelow := none } else { c with wait := none })

/-- Every lane of an operation is done: its acquire follows, then its destination and flags (R246). -/
def finishLanes (s : State) (o : Op) : State :=
  if o.isWatch then
    match assoc o.got 0 with
    | some v => watchRead (removeOp s o.seq) false ((assoc o.addrs 0).getD 0) v
    | none => endWatch s o
  else
    let s := match o.acq with
      | some sc => acquireFor s s.cur sc
      | none => s
    finishOp s o o.values

/-- Whether a store written through or an atomic of an operation still waits until copies at peers are invalidated (R457): it is not acknowledged yet. -/
def unacked (s : State) (o : Op) : Bool :=
  let busy : Bool := o.addrs.any (fun p => invBusy s (effAsid s s.cur.tenant s.cur.asid p.2) (lineOf p.2))
  match o.kind with
  | .store _ through => through && busy
  | .atomic _ _ _ _ => busy
  | .load _ _ _ _ | .loadS _ _ | .loadC _ _ _ _ | .storeS _ | .atomicS _ _ _ | .put _ _ _ _ _ _ | .order _ _ | .afence _ _ | .pflush _ | .enq _ _ _
  | .lease _ _ _ _ | .engine _ _ _ _ _ _ _ | .array _ | .fetch => false

/-- Whether the operation's course has been stopped for good (R267): what its accesses meet is recorded nowhere. -/
def Course.stopped (c : Course) : Bool :=
  match c.life with
  | .ended _ => true
  | .none | .live | .halted _ | .exited | .gone | .idle => false

/-- What follows when the lanes of an operation have been tried: an absent part of a firm range ends the span, one of a soft range parks the course on
the part of its lowest lane (R242, R371), poisoned data traps the course (R436), faults are raised, and the operation completes when no lane is left. -/
def settleOp (o : Op) (w : LaneWork) : State :=
  let s := w.s
  let c := s.cur
  let firm := w.absent.filter (fun p => !isSoft (windowOf s c) p.2)
  let hidden := o.behind c && (!w.fs.isEmpty || w.poison)
  let gone : LaneSet := LaneSet.ofFn (fun i => w.got.any (fun p => p.1 == i) || (!hidden && w.fs.any (fun f => f.lane == i)) ||
    (c.stopped && w.absent.any (fun p => p.1 == i)))
  let o1 : Op :=
    { o with
      lanes := o.lanes &&& ~~~ gone, got := o.got ++ w.got, refused := w.refused || hidden || (2 ≤ o.ring && !w.absent.isEmpty), peerWait := w.wait }
  if c.stopped then (if o1.lanes = 0 && !unacked s o1 then removeOp s o.seq else putOp s { o1 with refused := o1.refused || o1.lanes = 0 })
  else if !firm.isEmpty && o.ring < 2 then raise s 0x55 o.all o.pc 0 0
  else if w.poison && !hidden && o.isWatch then raise ((endWatch s o).upd (fun c => c.backTo o o.subset)) 0x150 c.live o.pc 0 0
  else if w.poison && !hidden then raise (dropOpFlags (removeOp s o.seq) o) 0x150 c.live o.pc 0 0
  else
    let s := putOp s o1
    let s := match w.absent with
      | [] => s
      | p :: _ =>
        if 2 ≤ o.ring then s
        else
          let part := partOf p.2
          let m := LaneSet.ofFn (fun i => w.absent.any (fun q => q.1 == i && partOf q.2 == part))
          let s := putOp s { o1 with parked := some part }
          parkOn (perfAdd s c.tenant 0x28 1) (effAsid s c.tenant c.asid p.2) part (c.id, o.seq) (faultOf c s p.2 o.faultKind m)
    let s := if o1.lanes ≠ 0 then s else if unacked s o1 then putOp s { o1 with refused := true } else finishLanes s o1
    if hidden || w.fs.isEmpty then s else noEligible (lateFaults s o w.fs)

/-- What an operation does with its lanes' words. -/
def Op.use (o : Op) : Use :=
  match o.kind with
  | .store _ _ | .atomic _ _ _ _ => .write
  | .load _ _ _ _ | .loadS _ _ | .loadC _ _ _ _ | .storeS _ | .atomicS _ _ _ | .put _ _ _ _ _ _ | .order _ _ | .afence _ _ | .pflush _ | .enq _ _ _
  | .lease _ _ _ _ | .engine _ _ _ _ _ _ _ | .array _ | .fetch => .read

/-- The class-5 cause of the lanes that are left of an operation: an access that is sent again is checked afresh (R359). -/
def laneLease (s : State) (o : Op) : Option Nat :=
  match o.kind with
  | .load _ _ _ _ | .loadC _ _ _ _ | .store _ _ | .atomic _ _ _ _ =>
    (LaneSet.toList o.lanes).findSome? (fun i => (assoc o.addrs i).bind (fun va => leaseCause s { s.cur with ring := o.ring } va o.use))
  | .loadS _ _ | .storeS _ | .atomicS _ _ _ | .put _ _ _ _ _ _ | .order _ _ | .afence _ _ | .pflush _ | .enq _ _ _ | .lease _ _ _ _
  | .engine _ _ _ _ _ _ _ | .array _ | .fetch => none

/-- Try the lanes that are left of an operation of the course in the issue unit. -/
def runOpLanes (s : State) (o : Op) : State :=
  let w0 : LaneWork := { s := s, got := [], fs := [], absent := [], refused := false, wait := false, poison := false }
  let ls := LaneSet.toList o.lanes
  let dat (i : Nat) : Nat := (assoc o.data i).getD 0
  let ret : Bool := o.dest ≠ .none
  let z := o.accBytes
  match o.kind with
  | .load _ _ hint acq | .loadC _ _ hint acq =>
    let h := match acq with | some sc => if 3 ≤ sc then 2 else hint | none => Nat.min hint 2
    settleOp o (runLanes false (fun s i va => loadLane s o h z i va) o.addrs w0 ls)
  | .store _ through =>
    settleOp o (runLanes false (fun s i va => if through then throughLane s o z i va (dat i) else storeLane s o z va (dat i)) o.addrs w0 ls)
  | .atomic _ op _ _ => settleOp o (runLanes true (fun s i va => atomLane s o op z ret i va (dat i)) o.addrs w0 ls)
  | .loadS _ _ => settleOp o (runLanes false (fun s _ off => loadSLane s z off) o.addrs w0 ls)
  | .storeS _ => settleOp o (runLanes false (fun s i off => storeSLane s z off (dat i)) o.addrs w0 ls)
  | .atomicS _ op _ => settleOp o (runLanes false (fun s i off => atomSLane s op z ret off (dat i)) o.addrs w0 ls)
  | .put _ _ _ _ _ _ | .order _ _ | .afence _ _ | .pflush _ | .enq _ _ _ | .lease _ _ _ _ | .engine _ _ _ _ _ _ _ | .array _ | .fetch => s

/-- Try the lanes that are left of an operation, unless the lease window no longer admits them: then the span ends (R47, R359). -/
def tryLanes (s : State) (o : Op) : State :=
  match laneLease s o with
  | some k => if s.cur.stopped then removeOp s o.seq else raise s k o.all o.pc 0 0
  | none => runOpLanes s o

/-! ### Steps of the ordering operations (R219, R220, R256–R258) -/

/-- An operation that acts once for the course is complete; one that could not reach a peer traps with class 22, sub-code 3, and one of which a peer has
refused a flushing read with the cause of the reply (R219, R258, R266, R267). -/
def finishOrder (s : State) (o : Op) : State :=
  let s := finishOp s o []
  match minSub [subIf o.cut 0x163, assoc o.got 16] with
  | some k => raise s k o.all o.pc 0 0
  | none => s

/-- The release of an ordering operation, its flushing reads, then its acquire. A release is acknowledged only when the copies at peers of the lines
written have been invalidated (R219, R457). -/
def performOrder (s : State) (o : Op) (rel acq : Option Nat) : State :=
  let c := s.cur
  let asids := asidsOf s c.tenant c.asid
  let finish (s : State) (o : Op) : State :=
    finishOrder (match acq with | some sc => acquireFor s s.cur sc | none => s) o
  let settle (s : State) (o : Op) : State := if invOpen s asids then putOp s { o with stage := 1, refused := true } else finish s o
  match rel with
  | none => finish s o
  | some sc =>
    if o.stage = 1 then settle s o
    else
      let r := releaseLines s c.core asids sc
      let s := r.1
      if !r.2.2 then putOp s { o with refused := true }
      else if sc = 0 then finish s o
      else if sc < 6 then settle s o
      else
        let peers := peersOf s.cur.peers
        let able := peers.filter (fun d => (peerCause s c.asid d).isNone)
        let vf := vfOfAsid s c.asid
        let s := able.foldl (fun s d => sendReq s (frdPacket s d vf) (.op c.id o.seq d)) s
        let s := s.upd (fun c => { c with peers := 0 })
        let o := { o with stage := 1, cut := able.length ≠ peers.length }
        if able.isEmpty then settle (putOp s o) o else putOp s { o with peerWait := true }

/-- `afence` over its range (R257): every line that a cache holds. -/
def performAfence (s : State) (o : Op) (base len : Nat) : State :=
  let c := s.cur
  let lo := lineOf base
  let hi := base + len
  let hit (as la : Nat) : Bool := lo ≤ la && la < hi && as == effAsid s c.tenant c.asid la
  let lines := (s.l2.filter (fun l => hit l.asid l.addr)).map (fun l => l.addr) ++
    (s.l1.filter (fun l => l.core == c.core && hit l.asid l.addr)).map (fun l => l.addr)
  let s := lines.foldl (fun s la => fenceLine s c.core (effAsid s c.tenant c.asid la) c.tenant la) s
  finishOrder s o

/-- `pflush` of a peer (R258). -/
def performPflush (s : State) (o : Op) (peer : Nat) : State :=
  let c := s.cur
  if peer = s.devId || o.stage = 1 then finishOrder s o
  else match peerCause s c.asid peer with
    | some k => raise (finishOp s o []) k o.all o.pc 0 0
    | none =>
      putOp (sendReq s (frdPacket s peer (vfOfAsid s c.asid)) (.op c.id o.seq peer)) { o with stage := 1, peerWait := true }

/-! ### `put` (R252, R254) -/

/-- Copy the units of a `put`, ascending; poison travels with the data (R209). -/
def putUnits (s : State) (src dst doff soff n : Nat) : State :=
  match n with
  | 0 => s
  | k + 1 =>
    let v := match findBond s src with | some b => (scratchRead b soff 16, scratchPoisoned b soff 16) | none => (0, false)
    let s := match findBond s dst with | some b => putBond s (scratchOut b doff 16 v.1 v.2) | none => s
    putUnits s src dst (doff + 16) (soff + 16) k

/-- Land a `put`: its data, then the counter add; an exited bond's scratchpad still takes it while its pier is not retired (R41, R42). -/
def landPut (s : State) (o : Op) (bond doff soff len coff : Nat) (inc : Word) : State :=
  let c := s.cur
  match putTarget s c bond with
  | none => removeOp s o.seq
  | some t =>
    let s := putUnits (readRows (readRows (readRows s c.bond soff len) t.id doff len) t.id coff 4) c.bond t.id doff soff (len / 16)
    let s := match findBond s t.id with
      | some b => putBond s (scratchWrite b coff 4 (scratchRead b coff 4 + inc.toNat))
      | none => s
    removeOp s o.seq

/-- Perform an operation of the course in the issue unit as far as it can go now. -/
def performOp (s : State) (seq : Nat) : State :=
  match s.cur.ops.find? (fun o => o.seq == seq) with
  | none => s
  | some o =>
    if o.peerWait || o.parked.isSome || !opReady s s.cur o then s
    else
      let o := { o with refused := false }
      match o.kind with
      | .load _ _ _ _ | .loadC _ _ _ _ | .store _ _ | .atomic _ _ _ _ | .loadS _ _ | .storeS _ | .atomicS _ _ _ => tryLanes s o
      | .order rel acq => performOrder s o rel acq
      | .afence base len => performAfence s o base len
      | .pflush peer => performPflush s o peer
      | .put _ _ _ _ _ _ => if o.stage = 0 then putOp (takePending (dropOpFlags s o)) { o with stage := 1, flags := 0 } else s
      | .enq _ _ _ | .lease _ _ _ _ | .engine _ _ _ _ _ _ _ | .array _ | .fetch => s

end Sys2Proof.Machine
end

