-- ==== Sys2Proof/Machine/Memory.lean ====
section
/-! DEFINITION. The memory instructions (08) and the events in which their accesses are performed. -/

namespace Sys2Proof.Machine

/-! ### Operand checks (R236–R238, R248, R252) -/

/-- Registers of a value of `z` bytes. -/
def sizeRegs (z : Nat) : Nat := (z + 3) / 4

/-- A store or atomic operand of `z` bytes: a quad for 16 bytes (R237). -/
def dataTy (z : Nat) : STy := .int (z == 8) (z == 8)

/-- The class-1 sub-code of a register group operand of `n` registers where nothing else may stand (R237, R248). -/
def onlyRegs (s : State) (x : Ops) (o : Opd) (n : Nat) : Option Nat :=
  match o with
  | .v _ | .o _ | .s _ => groupSub s.cur o n
  | .hole _ | .resv _ | .lit | .short _ | .zero | .one | .lane | .cid | .bid | .pier | .mone | .two | .imask | .ncourse | .nbond | .imm _ | .l _ =>
    minSub [specSub x o, some 5]

/-- The class-1 sub-code of a data operand of `z` bytes. -/
def dataSub (s : State) (x : Ops) (z : Nat) : Option Nat := if z = 16 then onlyRegs s x x.b 4 else srcSub s x (dataTy z) x.b

/-- A data operand of `z` bytes of a lane. -/
def dataOf (s : State) (x : Ops) (z i : Nat) : Nat := if z = 16 then s.cur.regsAt x.b i 4 else readOpd s x (dataTy z) x.b i % 2 ^ (8 * z)

/-- The registers that an address names. -/
def addrRefs (x : Ops) (scr : Bool) : List RegRef := opdRefs x.a (if scr then 1 else 2) ++ opdRefs x.c 1

/-- The class-1 sub-code of an address: a base pair and an offset, or a 32-bit base and an offset (R237). -/
def addrSub (s : State) (x : Ops) (scr : Bool) : Option Nat :=
  minSub [if scr then srcSub s x (.int false false) x.a else baseSub s x x.a, srcSub s x (.int false true) x.c]

/-! ### Lanes at issue (R241) -/

/-- Steps 1 to 3 of R241 on an address of an access of `z` bytes: the lowest class is reported. -/
def laneCause (size : Nat) (scr : Bool) (z a : Nat) : Option Nat :=
  if a % z ≠ 0 then some (if scr then 0x31 else 0x30)
  else if scr then (if size < a + z then some 0x41 else none)
  else if Config.vaLimit ≤ a then some 0x40
  else none

/-- The addresses of the participating lanes. -/
def laneAddrs (s : State) (x : Ops) (scr : Bool) (m : LaneSet) : List (Nat × Nat) :=
  (LaneSet.toList m).map (fun i => (i, if scr then addr32 s x i else addr64 s x i))

/-- The protection checks of the lanes left, as far as the tags and walks show them now (R371). -/
def probeLanes (s : State) (u : Use) (as : List (Nat × Nat)) : State × List LaneFault :=
  match as with
  | [] => (s, [])
  | p :: rest =>
    match probe s s.cur.acc s.cur.site p.2 u with
    | (s, .cause k) =>
      let t := probeLanes s u rest
      (t.1, { lane := p.1, cause := 0x70 + k, addr := p.2 } :: t.2)
    | (s, _) => probeLanes s u rest

/-- The checks of R241 at issue: a class-5 cause, or the lanes that fault and those that go on. -/
def checkLanes (s : State) (scr : Bool) (z : Nat) (u : Use) (as : List (Nat × Nat)) : State × Except Nat (List LaneFault × List (Nat × Nat)) :=
  let size := scratchSize s
  let bad := as.filterMap (fun p => (laneCause size scr z p.2).map (fun k => ({ lane := p.1, cause := k, addr := p.2 } : LaneFault)))
  let good := as.filter (fun p => (laneCause size scr z p.2).isNone)
  if scr then (s, .ok (bad, good))
  else
    match (good.filterMap (fun p => leaseCause s s.cur p.2 u)).head? with
    | some k => (s, .error k)
    | none =>
      let t := probeLanes s u good
      (t.1, .ok (bad ++ t.2, good.filter (fun p => !t.2.any (fun f => f.lane == p.1))))

/-- The release that ORD asks for, as an ordering operation before the access (R245, R249). -/
def relOps (s : State) (x : Ops) : List Op :=
  if 2 ≤ x.ord then [{ newOp s x (.order (some x.scope) none) s.iss.mask with flags := 0 }] else []

/-- The acquire that ORD asks for. -/
def acqOf (x : Ops) : Option Nat := if x.ord % 2 = 1 then some x.scope else none

/-- Perform some operations by number, in order. -/
def performSeqs (s : State) (seqs : List Nat) : State := seqs.foldl performOp s

/-- Issue a per-lane access of `z` bytes: checks, then one operation for the lanes that do not fault; a store is tried at once. -/
def accessOp (s : State) (x : Ops) (scr : Bool) (z : Nat) (u : Use) (n : Nat) (k : OpKind) (dat : Nat → Nat) (now : Bool) (m : LaneSet) : Out :=
  match checkLanes s scr z u (laneAddrs s x scr m) with
  | (s, .error k) => trapOut s k
  | (s, .ok (fs, good)) =>
    let g := LaneSet.ofFn (fun i => good.any (fun p => p.1 == i))
    let pre := if scr then [] else relOps s x
    let o := { newOp s x k g with addrs := good, data := if u = .write then good.map (fun p => (p.1, dat p.1)) else [] }
    issueOpF s x n pre o fs (fun s n => performSeqs s ((List.range (pre.length + (if now then 1 else 0))).map (fun j => n + j)))

/-! ### Loads and stores (R243–R245) -/

/-- `ld` (R243). -/
def execLd (x : Ops) (s : State) : Out :=
  let z := widthBytes x.hi4
  let n := sizeRegs z
  issue s 0x90 x (minSub [addrSub s x false, longDst s.cur x n true false x.d]) (class2 s x (addrRefs x false) []) fun m =>
    accessOp s x false z .read n (.load (destOf x.d) x.hi4 x.hint (acqOf x)) (fun _ => 0) false m

/-- `lds` (R243). -/
def execLds (x : Ops) (s : State) : Out :=
  let z := widthBytes x.hi4
  let n := sizeRegs z
  issue s 0x92 x (minSub [addrSub s x true, longDst s.cur x n true false x.d]) (class2 s x (addrRefs x true) []) fun m =>
    accessOp s x true z .read n (.loadS (destOf x.d) x.hi4) (fun _ => 0) false m

/-- `st` (R245). -/
def execSt (x : Ops) (s : State) : Out :=
  let z := widthBytes x.hi4
  issue s 0x91 x (minSub [addrSub s x false, dataSub s x z]) (class2 s x (addrRefs x false ++ opdRefs x.b (sizeRegs z)) []) fun m =>
    accessOp s x false z .write 1 (.store x.hi4 (x.ord = 2 && decide (3 ≤ x.scope))) (dataOf s x z) true m

/-- `sts` (R245). -/
def execSts (x : Ops) (s : State) : Out :=
  let z := widthBytes x.hi4
  issue s 0x93 x (minSub [addrSub s x true, dataSub s x z]) (class2 s x (addrRefs x true ++ opdRefs x.b (sizeRegs z)) []) fun m =>
    accessOp s x true z .write 1 (.storeS x.hi4) (dataOf s x z) true m

/-- `ldc` (R243): one address for the course, whose causes fault the whole subset with the address as INFO. -/
def execLdc (x : Ops) (s : State) : Out :=
  let z := widthBytes x.hi4
  let n := sizeRegs z
  let guarded : Option Nat := subIf (opdIsS x.d && x.guard ≠ Guard.always) 10
  issue s 0x94 x (minSub [addrSub s x false, uniSub x.a, uniSub x.c, longDst s.cur x n true true x.d, guarded])
      (class2 s x (addrRefs x false) []) fun m =>
    let va := addr64 s x 0
    if m = 0 then done s x
    else match laneCause 0 false z va with
      | some k => .next (raiseSubset s k va)
      | none => match leaseCause s s.cur va .read with
        | some k => trapOut s k
        | none => match probe s s.cur.acc s.cur.site va .read with
          | (s, .cause k) => .next (raiseSubset s (0x70 + k) va)
          | (s, _) =>
            issueOp s x n { newOp s x (.loadC (destOf x.d) x.hi4 x.hint (acqOf x)) m with lanes := 1, addrs := [(0, va)] }

/-! ### Atomics (R247–R249) -/

/-- The type in which a plain operand of an atomic is read. -/
def atomTy (op z : Nat) : STy := if 10 ≤ op then .flt (if z = 8 then 14 else 0) else dataTy z

/-- The class-1 sub-code of an atomic's operand: a pair or quad for `.cas` (R248). -/
def atomSub (s : State) (x : Ops) (z : Nat) : Option Nat := if x.hi4 = 9 then onlyRegs s x x.b (z / 2) else srcSub s x (atomTy x.hi4 z) x.b

/-- The operand of an atomic in a lane; that of `.cas` has b.cmp in its low half. -/
def atomOpd (s : State) (x : Ops) (z i : Nat) : Nat :=
  if x.hi4 = 9 then s.cur.regsAt x.b i (z / 2) else readOpd s x (atomTy x.hi4 z) x.b i % 2 ^ (8 * z)

/-- What `atom` and `atoms` share: not inside an open region (R51). -/
def atomic (s : State) (x : Ops) (maj : Nat) (scr : Bool) (scl : Bool) (k : Nat → OpKind) : Out :=
  let z := if x.hint = 5 then 8 else 4
  let n := z / 4
  let guarded : Option Nat := subIf (opdIsS x.d && scl && x.guard ≠ Guard.always) 10
  issue s maj x (minSub [addrSub s x scr, atomSub s x z, longDst s.cur x n true scl x.d, guarded])
      (class2 s x (addrRefs x scr ++ opdRefs x.b (if x.hi4 = 9 then z / 2 else n)) []) fun m =>
    if s.cur.rgnOpen && m ≠ 0 then trapOut s 0x103 else accessOp s x scr z .write n (k z) (atomOpd s x z) false m

/-- `atom` (R249). -/
def execAtom (x : Ops) (s : State) : Out := atomic s x 0x95 false true (fun z => .atomic (destOf x.d) x.hi4 z (acqOf x))
/-- `atoms` (R249). -/
def execAtoms (x : Ops) (s : State) : Out := atomic s x 0x96 true false (fun z => .atomicS (destOf x.d) x.hi4 z)

/-! ### `put` (R252, R253) -/

/-- The class-1 sub-code of a uniform scalar quad: any other source takes sub-code 12. -/
def quadSub (s : State) (x : Ops) (o : Opd) : Option Nat :=
  match o with
  | .s _ => groupSub s.cur o 4
  | .v _ | .o _ | .l _ | .hole _ | .resv _ | .lit | .short _ | .zero | .one | .lane | .cid | .bid | .pier | .mone | .two | .imask | .ncourse | .nbond
  | .imm _ => minSub [specSub x o, some 12]

/-- The causes of `put` at issue (R253). -/
def putCause (s : State) (bond doff soff len coff rest : Nat) : Option Nat :=
  let size := scratchSize s
  minSub [subIf ((bondShape s s.cur).2 ≤ bond) 0x92, subIf (rest ≠ 0) 0x93, subIf (doff % 16 ≠ 0 || soff % 16 ≠ 0 || len % 16 ≠ 0) 0x32,
    subIf (coff % 4 ≠ 0) 0x33, subIf (size < doff + len) 0x42, subIf (size < soff + len) 0x43, subIf (size < coff + 4) 0x44,
    subIf s.cur.rgnOpen 0x103]

/-- `put` (R252). -/
def execPut (x : Ops) (s : State) : Out :=
  issue s 0x97 x (minSub [quadSub s x x.a, srcSub s x (.int false false) x.b, uniSub x.b, srcSub s x (.int false false) x.c, uniSub x.c])
      (class2 s x (opdRefs x.a 4 ++ opdRefs x.b 1 ++ opdRefs x.c 1) []) fun _ =>
    let d (k : Nat) : Nat := s.cur.regAt x.a 0 k
    let coff := readU s x x.c 0
    match putCause s (d 0 % 8) (d 1) (d 2) (d 3) coff (d 0 / 8) with
    | some k => trapOut s k
    | none =>
      issueOpF s x 1 [] (newOp s x (.put (d 0 % 8) (d 1) (d 2) (d 3) coff (BitVec.ofNat 32 (readU s x x.b 0))) s.iss.mask) [] performOp

/-! ### Ordering instructions (R256–R260) -/

/-- Issue an ordering operation and begin it at once. -/
def orderOp (s : State) (x : Ops) (k : OpKind) : Out := issueOpF s x 1 [] (newOp s x k s.iss.mask) [] performOp

/-- `phase` (R256). -/
def execPhase (x : Ops) (s : State) : Out :=
  issue s 0x98 x none (class2 s x [] []) fun _ => orderOp s x (.order (if 2 ≤ x.ord then some x.scope else none) (acqOf x))

/-- `fence` (R217, R256). -/
def execFence (x : Ops) (s : State) : Out := issue s 0x99 x none (class2 s x [] []) fun _ => orderOp s x (.order none none)

/-- `afence` (R257). -/
def execAfence (x : Ops) (s : State) : Out :=
  issue s 0x9A x (minSub [addrSub s x false, uniSub x.a, uniSub x.c, srcSub s x (.int false false) x.b, uniSub x.b])
      (class2 s x (addrRefs x false ++ opdRefs x.b 1) []) fun _ =>
    let base := addr64 s x 0
    let len := readU s x x.b 0
    if len = 0 then done s x
    else if Config.vaLimit < base + len then trapOut s 0x45
    else orderOp s x (.afence base len)

/-- `pflush` (R258). -/
def execPflush (x : Ops) (s : State) : Out :=
  issue s 0x9C x (minSub [srcSub s x (.int false false) x.a, uniSub x.a]) (class2 s x (opdRefs x.a 1) []) fun _ =>
    let peer := readU s x x.a 0
    if s.nDev ≤ peer then trapOut s 0x162 else orderOp s x (.pflush peer)

/-- Whether another core's pin stands on a line (R227, R260). -/
def pinnedElsewhere (s : State) (core asid la : Nat) : Bool :=
  match l2Find s asid la with
  | some l => l.pin.isSome && l.pin ≠ some core
  | none => false

/-- Prefetch one lane's line (R260): a lane with any cause, or whose line is pinned elsewhere, is dropped. A peer's line comes with the peer's reply. -/
def prefLane (s : State) (x : Ops) (va : Nat) : State :=
  let c := s.cur
  let as := effAsid s c.tenant c.asid va
  let la := lineOf va
  let ask (s : State) (dev : Nat) (who : ReqWho) : State := if (peerCause s c.asid dev).isNone then askLine s c.acc dev va who else s
  if Config.vaLimit ≤ va || (leaseCause s c va .read).isSome || pinnedElsewhere s c.core as la then s
  else if x.low4 = 1 then (match homeGet s c.acc va .read with
    | (s, .peer dev) => ask s dev (.span 0)
    | (s, _) => s)
  else
    let fresh := match l1Find s c.core as c.tenant la with | some l => l.fresh | none => false
    match coreRead s c.acc c.site va 1 0 .read with
    | (s, .line _ _, _, _) =>
      { s with l1 := updWhere (fun l => l.core == c.core && l.asid == as && l.addr == la) (fun l => { l with fresh := fresh }) s.l1 }
    | (s, .peer dev, _, _) => ask s dev (.pref c.core c.qid as c.tenant c.harvest)
    | (s, _, _, _) => s

/-- The lanes of a `pref` that find an entry in the access queue: one for each distinct line in each pass (R333). -/
def prefTaken (s : State) (qid free : Nat) (taken : List Nat) (as : List (Nat × Nat)) : List (Nat × Nat) :=
  match as with
  | [] => []
  | p :: rest =>
    let key := threadPass s qid p.1 + 4 * (p.2 / 128)
    if memNat key taken then p :: prefTaken s qid free taken rest
    else if taken.length < free then p :: prefTaken s qid free (key :: taken) rest
    else prefTaken s qid free taken rest

/-- The lanes of a `pref` that are not dropped for want of an entry (R333). -/
def prefLanes (s : State) (as : List (Nat × Nat)) : List (Nat × Nat) :=
  if quoinEntries s s.cur.qid false Op.entryBound + as.length ≤ 1536 then as else prefTaken s s.cur.qid (freeEntries s) [] as

/-- `pref` (R260). -/
def execPref (x : Ops) (s : State) : Out :=
  issue s 0x9B x (addrSub s x false) (class2 s x (addrRefs x false) []) fun m =>
    done ((prefLanes s (laneAddrs s x false m)).foldl (fun s p => prefLane s x p.2) s) x

/-! ### Events of operations -/

/-- Act on operation `k` of course `c` when it is of the kinds named; one that waits in a frame for its return does nothing (R326, R359, R425). -/
def onOp (s : State) (c k : Nat) (p : Op → Bool) (f : State → Op → State) : Out :=
  .next (atCourse s c (fun s => match s.cur.ops.find? (fun o => o.seq == k && o.entry ≠ 1 && o.entry ≠ 3 && o.etype ≠ 4 && p o) with
    | some o => f s o
    | none => s))

/-- Whether an operation is an atomic. -/
def Op.isAtomic (o : Op) : Bool :=
  match o.kind with
  | .atomic _ _ _ _ | .atomicS _ _ _ => true
  | .load _ _ _ _ | .loadC _ _ _ _ | .loadS _ _ | .store _ _ | .storeS _ | .put _ _ _ _ _ _ | .order _ _ | .afence _ _ | .enq _ _ _
  | .lease _ _ _ _ | .engine _ _ _ _ _ _ _ | .array _ | .fetch | .pflush _ => false

/-- Whether an operation is a plain load. -/
def Op.isPlainLoad (o : Op) : Bool := o.isLoad && !o.isAtomic

/-- LOAD_DATA_RETURN (R246): a load's data returns. -/
def execLoadDataReturn (c k : Nat) (s : State) : Out :=
  onOp s c k (fun o => o.isPlainLoad && o.entry ≠ 2) (fun s o => performOp s o.seq)

/-- REPLAY_DATA_ARRIVAL (R425): data for an entry of a live frame arrives. -/
def execReplayDataArrival (c k : Nat) (s : State) : Out :=
  onOp s c k (fun o => o.entry == 2) (fun s o => performOp s o.seq)

/-- STORE_ORDERING_POINT (R246): a store, a `put` or an ordering instruction passes its ordering point. -/
def execStoreOrderingPoint (c k : Nat) (s : State) : Out :=
  onOp s c k (fun o => o.isAccess && !o.isLoad && !o.isAtomic) (fun s o => performOp s o.seq)

/-- ATOMIC_PERFORMED_AT_HOME (R249). -/
def execAtomicPerformedAtHome (c k : Nat) (s : State) : Out :=
  onOp s c k Op.isAtomic (fun s o => performOp s o.seq)

/-- PUT_LANDING (R254): an accepted `put` lands, after every earlier one to the same bond. -/
def execPutLanding (c k : Nat) (s : State) : Out :=
  onOp s c k (fun o => o.putBond.isSome) (fun s o =>
    match o.kind with
    | .put b doff soff len coff inc => if o.stage = 1 && opReady s s.cur o then landPut s o b doff soff len coff inc else s
    | _ => s)

/-- PAGE_WALK_COMPLETE (R371): the walks for an operation's lanes end, and their leaves stand in the TLB. -/
def execPageWalkComplete (c k : Nat) (s : State) : Out :=
  onOp s c k (fun _ => true) (fun s o => o.addrs.foldl (fun s p => fillTlb s s.cur.acc p.2) s)

/-- PARK (R481): an access that meets an absent part of a soft range parks its course. -/
def execPark (c k : Nat) (s : State) : Out :=
  onOp s c k (fun o => o.isAccess) (fun s o => performOp s o.seq)

/-- The home ends a pin that has refused a request, and event code 1 names it (R229). -/
def forcePin (s : State) (asid la : Nat) : State :=
  match l2Find s asid la with
  | none => s
  | some l =>
    if l.pin.isNone || !l.refusedOnce then s
    else postEvent (endPin s asid la) (.event l.pinT) { code := 1, addr := la, asid := asid, detail := l.pin.getD 0 }

/-- PIN_FORCED_WRITEBACK (R229). -/
def execPinForcedWriteback (asid la : Nat) (s : State) : Out := .next (forcePin s asid la)

end Sys2Proof.Machine
end

