-- ==== Sys2Proof/Machine/Barrier.lean ====
section
/-! DEFINITION. The barrier, counter-word and flag instructions (R395 to R404) and the events that end their waits. -/

namespace Sys2Proof.Machine

/-- The scope field of `arrive`, `barr` and `waitb`, and K (R398). -/
def barScope (x : Ops) : Nat := x.scope
/-- The barrier number K of `arrive`, `waitb` and `barr`. -/
def barK (x : Ops) : Nat := x.hi4

/-- The N of an arrival: the bond's courses with ALL, else operand B (R400). -/
def barN (s : State) (x : Ops) : Nat := if x.bit 4 then (bondShape s s.cur).1 else readU s x x.b 0

/-- The causes of an arrival at issue (R400), the lowest first (R102). -/
def arriveCause (s : State) (k : Nat) (d : BarDesc) : Option Nat :=
  match curBond s with
  | none => none
  | some b =>
    let x := getBar b k
    let differs := match x.desc with | some y => y ≠ d | none => false
    minSub [subIf differs 0xA0, subIf (x.arrived.getLsbD s.cur.cid) 0xA1, subIf (d.n = 0 || (bondShape s s.cur).1 < d.n) 0xA4,
      subIf s.cur.rgnOpen 0x103]

/-- Whether an access touches the scratchpad of the course's own bond (R399). -/
def Op.scratches (o : Op) : Bool :=
  match o.kind with
  | .loadS _ _ | .storeS _ | .atomicS _ _ _ | .lease _ _ _ _ => true
  | .put _ _ _ _ _ _ => true
  | .load _ _ _ _ | .loadC _ _ _ _ | .store _ _ | .atomic _ _ _ _ | .order _ _ | .afence _ _ | .enq _ _ _ | .engine _ _ _ _ _ _ _ | .array _ | .fetch
  | .pflush _ => false

/-- Whether an operation is an ordering one. -/
def Op.isOrder (o : Op) : Bool :=
  match o.kind with
  | .order _ _ => true
  | .loadS _ _ | .storeS _ | .atomicS _ _ _ | .lease _ _ _ _ | .put _ _ _ _ _ _ | .load _ _ _ _ | .loadC _ _ _ _ | .store _ _ | .atomic _ _ _ _
  | .afence _ _ | .enq _ _ _ | .engine _ _ _ _ _ _ _ | .array _ | .fetch | .pflush _ => false

/-- Whether an arrival has reached its arrival point (R399): the course's earlier scratchpad accesses and its release are performed. -/
def arrivalReady (s : State) (a : Arrival) : Bool :=
  match courseById s a.course with
  | none => true
  | some c => (c.ops.filter (fun o => o.seq < a.seq)).all (fun o => !o.scratches && !(a.scope ≠ 0 && o.isOrder))

/-- Count the first arrival of a course that has reached its arrival point. -/
def arrivalPoint (s : State) (bond course : Nat) : State :=
  match findBond s bond with
  | none => s
  | some b => match b.arrivals.find? (fun a => a.course == course && arrivalReady s a) with
    | some a => countArrival s bond a
    | none => s

/-- Issue an arrival: the release of its scope first, then the arrival, counted at once when it has reached its arrival point. `f` writes the token, or
begins the wait. -/
def arriveIssue (s : State) (x : Ops) (d : BarDesc) (v : Word) (f : Course → Course) : Out :=
  let rel := if barScope x = 0 then [] else [{ newOp s x (.order (some (barScope x)) none) s.iss.mask with flags := 0 }]
  let c := s.cur
  issueOpF s x 1 rel { newOp s x (.order none none) 0 with flags := 0 } [] (fun s n =>
    let s := s.upd f
    let a : Arrival := { course := c.id, cid := c.cid, k := barK x, desc := d, val := v, scope := barScope x, seq := n + rel.length }
    let s := match curBond s with
      | some b => putBond s { b with arrivals := b.arrivals ++ [a] }
      | none => s
    arrivalPoint (performSeqs s ((List.range rel.length).map (fun j => n + j))) c.bond c.id)

/-- The class-1 sub-code of N. -/
def nSub (s : State) (x : Ops) : Option Nat := if x.bit 4 then none else minSub [srcSub s x (.int false false) x.b, uniSub x.b]

/-- `arrive` (R400). -/
def execArrive (x : Ops) (s : State) : Out :=
  issue s 0xB0 x (minSub [nSub s x, dstSub s.cur x 1 x.d, subIf (opdPushes x.d) 12]) (class2 s x (if x.bit 4 then [] else opdRefs x.b 1) (opdRefs x.d 1)) fun _ =>
    let d : BarDesc := { n := barN s x, all := x.bit 4, barr := false, op := 0 }
    let k := barK x
    match arriveCause s k d with
    | some e => trapOut s e
    | none =>
      let phase := match curBond s with | some b => (getBar b k).phase | none => 0
      arriveIssue s x d 0 (fun c => c.writeLanes x.d 1 false [(0, phase * 256 + 0xA0 + k)])

/-- `barr` (R400): the course waits from its issue until the phase completes. -/
def execBarr (x : Ops) (s : State) : Out :=
  issue s 0xB2 x (minSub [nSub s x, srcSub s x (.int false false) x.a, uniSub x.a, dstSub s.cur x 1 x.d])
      (class2 s x (opdRefs x.a 1 ++ (if x.bit 4 then [] else opdRefs x.b 1)) []) fun m =>
    let d : BarDesc := { n := barN s x, all := x.bit 4, barr := true, op := x.low4 }
    match arriveCause s (barK x) d with
    | some e => trapOut s e
    | none =>
      arriveIssue s x d (BitVec.ofNat 32 (readU s x x.a 0)) (fun c => { c with wait := some (.barr (barK x) (barScope x) x.d m) })

/-- `waitb` (R401): of a phase that has completed already it is only the acquire. -/
def execWaitb (x : Ops) (s : State) : Out :=
  let scl : Bool := opdIsS x.a
  issue s 0xB1 x (minSub [srcSub s x (.int false false) x.a, subIf (!scl) 12]) (class2 s x (opdRefs x.a 1) []) fun _ =>
    let k := barK x
    let t := readU s x x.a 0
    if t % 256 ≠ 0xA0 + k then trapOut s 0xA2
    else
      let phase := match curBond s with | some b => (getBar b k).phase | none => 0
      let d := (phase + 2 ^ 24 - t / 256) % 2 ^ 24
      if 2 ^ 23 ≤ d then trapOut s 0xA3
      else if d = 0 then done (s.upd (fun c => { c with wait := some (.waitb k phase (barScope x)) })) x
      else issueOpF s x 1 [] { newOp s x (.order none (some (barScope x))) s.iss.mask with flags := 0 } [] performOp

/-! ### `waitc` (R403) -/

/-- The home read of a `waitc` that a subset of the course issued at `pc` and ring `ring`. -/
def watchOp (c : Course) (ring addr pc : Nat) (m : LaneSet) : Op :=
  { seq := c.nextOp, pc := pc, kind := .loadC .none 4 3 none, lanes := 1, all := m, subset := m, addrs := [(0, addr)], data := [], got := [], flags := 0, sel := 0,
    fpm := c.fpm, ring := ring, refused := false, peerWait := false, parked := none, entry := 4, chead := [], cdist := [], hold := c.holdMode,
    stage := 0, cut := false, etype := 0 }

/-- Read the watched word of the course at home once more, unless a read of it is under way. -/
def rereadGlobal (s : State) (ring addr pc : Nat) (m : LaneSet) : State :=
  let c := s.cur
  if c.ops.any (fun o => o.isWatch && o.ring == ring) then s
  else performOp (s.upd (fun c => { c with ops := c.ops ++ [watchOp c ring addr pc m], nextOp := c.nextOp + 1 })) c.nextOp

/-- A `waitc` of the course reads its word of the scratchpad. Poisoned data ends the wait with class 21, sub-code 0, against the course (R436), and the
subset executes the instruction again when it returns; that of the program below a live handler stays until the handler has returned. -/
def watchScratch (s : State) (ring off pc : Nat) (m : LaneSet) : State :=
  let c := s.cur
  match curBond s with
  | some b =>
    if !scratchPoisoned b off 4 then watchRead s true off (scratchRead b off 4)
    else if ring < c.ring || c.stopRing.isSome then s
    else raise (s.upd (fun c => { c with wait := none }.backTo (watchOp c ring off pc m) m)) 0x150 c.live pc 0 0
  | none => s

/-- Evaluate a wait of the course, if it is one on a counter word. -/
def rereadAt (s : State) (w : Option Wait) (ring : Nat) : State :=
  match w with
  | some (.waitc true off _ _ pc m) => watchScratch (readRows s s.cur.bond off 4) ring off pc m
  | some (.waitc false a _ _ pc m) => rereadGlobal s ring a pc m
  | some (.sleep _) | some (.barr _ _ _ _) | some (.waitb _ _ _) | some .gang | none => s

/-- Evaluate the waits of the course on counter words, its own and that of the program below its handler. -/
def rereadWait (s : State) : State := rereadAt (rereadAt s s.cur.wait s.cur.ring) s.cur.waitBelow 0

/-- `waitc` (R403). -/
def execWaitc (x : Ops) (s : State) : Out :=
  let sp := x.bit 11
  let scope := x.field 8 3
  issue s 0xB3 x (minSub [addrSub s x sp, uniSub x.a, uniSub x.c, srcSub s x (.int false false) x.b, uniSub x.b])
      (class2 s x (addrRefs x sp ++ opdRefs x.b 1) []) fun _ =>
    let a := if sp then addr32 s x 0 else addr64 s x 0
    let go (s : State) : Out :=
      .next (noEligible (rereadWait ((s.upd (fun c =>
        { c with wait := some (.waitc sp a (BitVec.ofNat 32 (readU s x x.b 0)) scope s.iss.pc s.iss.mask) })).pass x)))
    match laneCause (scratchSize s) sp 4 a with
    | some k => .next (raiseSubset s k a)
    | none =>
      if sp then go s
      else match leaseCause s s.cur a .read with
        | some k => trapOut s k
        | none => match probe s s.cur.acc s.cur.site a .read with
          | (s, .cause k) => .next (raiseSubset s (0x70 + k) a)
          | (s, _) => go s

/-! ### Flags and state -/

/-- `waitf` (R395): held until every named flag is clear, then guard records that name one are cleared. -/
def execWaitf (x : Ops) (s : State) : Out :=
  issue s 0xB4 x none (class2 s x [] []) fun m =>
    if flagsClear s.cur x.minor then done (s.upd (fun c => c.clearRecords m x.minor)) x else holdIssue s

/-- A fixed-latency read of a word of the course's own (R404); only integer, floating and lane results are pushed (R99). -/
def readWord (s : State) (x : Ops) (maj : Nat) (v : Nat) : Out :=
  issue s maj x (dstSub s.cur x 1 x.d) (class2 s x [] (opdRefs x.d 1)) fun m =>
    done (s.upd (fun c => c.writeLanes x.d 1 false ((LaneSet.toList m).map (fun i => (i, v))))) x

/-- `fcnt` (R404). -/
def execFcnt (x : Ops) (s : State) : Out := readWord s x 0xB5 (Cells.get s.cur.flags x.low4).toNat

/-- `bstat` (R404). -/
def execBstat (x : Ops) (s : State) : Out :=
  let v := match curBond s with
    | some b =>
      let y := getBar b x.low4
      y.phase * 256 + (if y.desc.isSome then 128 else 0) + y.cnt % 128
    | none => 0
  readWord s x 0xB6 v

/-! ### Events -/

/-- ARRIVAL_POINT (R399): the arrival of a course is counted. -/
def execArrivalPoint (c : Nat) (s : State) : Out :=
  match courseById s c with
  | some x => .next (arrivalPoint s x.bond c)
  | none => .next s

/-- WAITC_REREAD (R403): the course reads its watched word again. -/
def execWaitcReread (c : Nat) (s : State) : Out := .next (atCourse s c rereadWait)
/-- PEER_WAITC_POLL (R403): the same for a word of a remote part. -/
def execPeerWaitcPoll (c : Nat) (s : State) : Out := .next (atCourse s c rereadWait)

end Sys2Proof.Machine
end

