-- ==== Sys2Proof/Machine/Crypto.lean ====
section
/-! DEFINITION. The digests and the signature check that engines and the boot use: SHA-256 and SHA-384 (FIPS 180-4, R353) and ECDSA on P-384
(FIPS 186-5, R354). -/

namespace Sys2Proof.Machine

/-! ### SHA-2 -/

/-- The round constants of the 64-bit functions: the first 64 bits of the fractional parts of the cube roots of the first eighty primes; those of
SHA-256 are the upper halves of the first sixty-four. -/
def shaK : List Nat :=
  [0x428A2F98D728AE22, 0x7137449123EF65CD, 0xB5C0FBCFEC4D3B2F, 0xE9B5DBA58189DBBC, 0x3956C25BF348B538,
   0x59F111F1B605D019, 0x923F82A4AF194F9B, 0xAB1C5ED5DA6D8118, 0xD807AA98A3030242, 0x12835B0145706FBE,
   0x243185BE4EE4B28C, 0x550C7DC3D5FFB4E2, 0x72BE5D74F27B896F, 0x80DEB1FE3B1696B1, 0x9BDC06A725C71235,
   0xC19BF174CF692694, 0xE49B69C19EF14AD2, 0xEFBE4786384F25E3, 0x0FC19DC68B8CD5B5, 0x240CA1CC77AC9C65] ++
  [0x2DE92C6F592B0275, 0x4A7484AA6EA6E483, 0x5CB0A9DCBD41FBD4, 0x76F988DA831153B5, 0x983E5152EE66DFAB,
   0xA831C66D2DB43210, 0xB00327C898FB213F, 0xBF597FC7BEEF0EE4, 0xC6E00BF33DA88FC2, 0xD5A79147930AA725,
   0x06CA6351E003826F, 0x142929670A0E6E70, 0x27B70A8546D22FFC, 0x2E1B21385C26C926, 0x4D2C6DFC5AC42AED,
   0x53380D139D95B3DF, 0x650A73548BAF63DE, 0x766A0ABB3C77B2A8, 0x81C2C92E47EDAEE6, 0x92722C851482353B] ++
  [0xA2BFE8A14CF10364, 0xA81A664BBC423001, 0xC24B8B70D0F89791, 0xC76C51A30654BE30, 0xD192E819D6EF5218,
   0xD69906245565A910, 0xF40E35855771202A, 0x106AA07032BBD1B8, 0x19A4C116B8D2D0C8, 0x1E376C085141AB53,
   0x2748774CDF8EEB99, 0x34B0BCB5E19B48A8, 0x391C0CB3C5C95A63, 0x4ED8AA4AE3418ACB, 0x5B9CCA4F7763E373,
   0x682E6FF3D6B2B8A3, 0x748F82EE5DEFB2FC, 0x78A5636F43172F60, 0x84C87814A1F0AB72, 0x8CC702081A6439EC] ++
  [0x90BEFFFA23631E28, 0xA4506CEBDE82BDE9, 0xBEF9A3F7B2C67915, 0xC67178F2E372532B, 0xCA273ECEEA26619C,
   0xD186B8C721C0C207, 0xEADA7DD6CDE0EB1E, 0xF57D4F7FEE6ED178, 0x06F067AA72176FBA, 0x0A637DC5A2C898A6,
   0x113F9804BEF90DAE, 0x1B710B35131C471B, 0x28DB77F523047D84, 0x32CAAB7B40C72493, 0x3C9EBE0A15C9BEBC,
   0x431D67C49C100D4C, 0x4CC5D4BECB3E42B6, 0x597F299CFC657E2A, 0x5FCB6FAB3AD6FAEC, 0x6C44198C4A475817]

/-- The initial hash value. -/
def shaInit (wide : Bool) : List Nat :=
  if wide then
    [0xCBBB9D5DC1059ED8, 0x629A292A367CD507, 0x9159015A3070DD17, 0x152FECD8F70E5939,
     0x67332667FFC00B31, 0x8EB44A8768581511, 0xDB0C2E0D64F98FA7, 0x47B5481DBEFA4FA4]
  else [0x6A09E667, 0xBB67AE85, 0x3C6EF372, 0xA54FF53A, 0x510E527F, 0x9B05688C, 0x1F83D9AB, 0x5BE0CD19]

/-- Rotate a word of `w` bits right. -/
def rotR (w n x : Nat) : Nat := x / 2 ^ n + x % 2 ^ n * 2 ^ (w - n)

/-- The exclusive or of two rotations and a third, which is a shift when `sh`. -/
def shaMix (w a b c : Nat) (sh : Bool) (x : Nat) : Nat :=
  Nat.xor (Nat.xor (rotR w a x) (rotR w b x)) (if sh then x / 2 ^ c else rotR w c x)

/-- Extend the message schedule by `n` words; the words so far stand in reverse. -/
def shaExtend (wide : Bool) (ws : List Nat) (n : Nat) : List Nat :=
  match n with
  | 0 => ws
  | k + 1 =>
    let w := if wide then 64 else 32
    let s0 := if wide then shaMix 64 1 8 7 true (ws.getD 14 0) else shaMix 32 7 18 3 true (ws.getD 14 0)
    let s1 := if wide then shaMix 64 19 61 6 true (ws.getD 1 0) else shaMix 32 17 19 10 true (ws.getD 1 0)
    shaExtend wide ((ws.getD 15 0 + s0 + ws.getD 6 0 + s1) % 2 ^ w :: ws) k

/-- One round on the eight working variables. -/
def shaRound (wide : Bool) (v : List Nat) (k x : Nat) : List Nat :=
  let w := if wide then 64 else 32
  let g (i : Nat) : Nat := v.getD i 0
  let s1 := if wide then shaMix 64 14 18 41 false (g 4) else shaMix 32 6 11 25 false (g 4)
  let ch := Nat.xor (Nat.land (g 4) (g 5)) (Nat.land (2 ^ w - 1 - g 4) (g 6))
  let t1 := g 7 + s1 + ch + k + x
  let s0 := if wide then shaMix 64 28 34 39 false (g 0) else shaMix 32 2 13 22 false (g 0)
  let maj := Nat.xor (Nat.xor (Nat.land (g 0) (g 1)) (Nat.land (g 0) (g 2))) (Nat.land (g 1) (g 2))
  [(t1 + s0 + maj) % 2 ^ w, g 0, g 1, g 2, (g 3 + t1) % 2 ^ w, g 4, g 5, g 6]

/-- Process one message block of sixteen words. -/
def shaBlock (wide : Bool) (h : List Nat) (block : List Nat) : List Nat :=
  let n := if wide then 80 else 64
  let w := if wide then 64 else 32
  let ws := (shaExtend wide block.reverse (n - 16)).reverse
  let ks := if wide then shaK else shaK.map (fun k => k / 2 ^ 32)
  let v := (ks.zip ws).foldl (fun v p => shaRound wide v p.1 p.2) h
  (h.zip v).map (fun p => (p.1 + p.2) % 2 ^ w)

/-- A big-endian number of bytes. -/
def beNum (bs : List Byte) : Nat := bs.foldl (fun acc b => acc * 256 + b.toNat) 0

/-- The words of a block of bytes, each of `z` bytes. -/
def beWords (z : Nat) (bs : List Byte) (n : Nat) : List Nat :=
  match n with
  | 0 => []
  | k + 1 => beNum (bs.take z) :: beWords z (bs.drop z) k

/-- The bytes of a number, most significant first. -/
def beBytes (n v : Nat) : List Byte := (bytesOf n v).reverse

/-- Bytes of a message block. -/
def shaBlockBytes (wide : Bool) : Nat := if wide then 128 else 64

/-- Blocks of a padded message of `len` bytes (R353). -/
def shaCount (wide : Bool) (len : Nat) : Nat := if wide then (len + 144) / 128 else (len + 72) / 64

/-- Block `u` of a padded message of `len` bytes, given the message's bytes that lie in it. -/
def shaPadded (wide : Bool) (len u : Nat) (own : List Byte) : List Byte :=
  let z := shaBlockBytes wide
  let stop : List Byte := if z * u ≤ len && len < z * (u + 1) then own ++ [0x80] else own
  if u + 1 = shaCount wide len then
    let tail := beBytes (z / 8) (8 * len)
    stop ++ List.replicate (z - stop.length - z / 8) 0 ++ tail
  else stop ++ List.replicate (z - stop.length) 0

/-- The bytes of a hash value, and the value of such bytes as one number. -/
def shaOut (wide : Bool) (h : List Nat) : List Byte := (h.flatMap (beBytes (if wide then 8 else 4))).take (if wide then 48 else 32)
/-- Eight words as one number. -/
def shaPack (h : List Nat) : Nat := h.foldr (fun x acc => x + 2 ^ 64 * acc) 0
/-- The eight words of a number. -/
def shaUnpack (v : Nat) : List Nat := (List.range 8).map (fun j => bits v (64 * j) 64)

/-- Process `n` blocks. -/
def shaBlocks (wide : Bool) (h : List Nat) (bs : List Byte) (n : Nat) : List Nat :=
  match n with
  | 0 => h
  | k + 1 =>
    let z := if wide then 8 else 4
    shaBlocks wide (shaBlock wide h (beWords z (bs.take (16 * z)) 16)) (bs.drop (16 * z)) k

/-- The digest of a message: 48 bytes of SHA-384 when `wide`, else 32 bytes of SHA-256 (R353). -/
def sha (wide : Bool) (msg : List Byte) : List Byte :=
  let z := if wide then 8 else 4
  let lenBytes := 2 * z
  let blocks := (msg.length + lenBytes + 1 + (16 * z - 1)) / (16 * z)
  let zeros := 16 * z * blocks - msg.length - 1 - lenBytes
  let padded := msg ++ [0x80] ++ List.replicate zeros 0 ++ beBytes lenBytes (8 * msg.length)
  ((shaBlocks wide (shaInit wide) padded blocks).flatMap (beBytes z)).take (if wide then 48 else 32)

/-! ### ECDSA on P-384 (R354) -/

/-- The field's prime. -/
def p384 : Nat := 2 ^ 384 - 2 ^ 128 - 2 ^ 96 + 2 ^ 32 - 1
/-- The coefficient b; a is −3. -/
def p384b : Nat := 0xB3312FA7E23EE7E4988E056BE3F82D19181D9C6EFE8141120314088F5013875AC656398D8A2ED19D2A85C8EDD3EC2AEF
/-- The order of the base point. -/
def p384n : Nat := 0xFFFFFFFFFFFFFFFFFFFFFFFFFFFFFFFFFFFFFFFFFFFFFFFFC7634D81F4372DDF581A0DB248B0A77AECEC196ACCC52973
/-- The base point. -/
def p384g : Nat × Nat :=
  (0xAA87CA22BE8B05378EB1C71EF320AD746E1D3B628BA79B9859F741E082542A385502F25DBF55296C3A545E3872760AB7,
   0x3617DE4A96262C6F5D9E98BF9292DC29F8F41DBD289A147CE9DA3113B5F0B8C00A60B1CE1D7E819D7A431D7C90EA0E5F)

/-- A power modulo `m`. -/
def powMod (b e m fuel : Nat) : Nat :=
  match fuel with
  | 0 => 1
  | k + 1 =>
    let h := powMod (b * b % m) (e / 2) m k
    if e % 2 = 1 then b * h % m else h

/-- The inverse modulo a prime. -/
def invMod (x m : Nat) : Nat := powMod (x % m) (m - 2) m 384

/-- The sum of two points of the curve; none is the point at infinity. -/
def ecAdd (a b : Option (Nat × Nat)) : Option (Nat × Nat) :=
  match a, b with
  | none, q => q
  | some q, none => some q
  | some (x1, y1), some (x2, y2) =>
    if x1 = x2 && (y1 + y2) % p384 = 0 then none
    else
      let l :=
        if x1 = x2 then (3 * x1 * x1 + 3 * (p384 - 1)) * invMod (2 * y1) p384 % p384
        else (y2 + p384 - y1) * invMod (x2 + p384 - x1) p384 % p384
      let x3 := (l * l + 2 * p384 - x1 - x2) % p384
      some (x3, (l * (x1 + p384 - x3) + p384 - y1) % p384)

/-- A multiple of a point. -/
def ecMul (k : Nat) (q : Option (Nat × Nat)) (fuel : Nat) : Option (Nat × Nat) :=
  match fuel with
  | 0 => none
  | f + 1 =>
    let h := ecMul (k / 2) (ecAdd q q) f
    if k % 2 = 1 then ecAdd q h else h

/-- Whether (x, y) is a point of the curve. -/
def onCurve (x y : Nat) : Bool := x < p384 && y < p384 && y * y % p384 == (x * x * x + (p384 - 3) * x + p384b) % p384

/-- Whether (r, s) is a signature of a digest under a key (R354). -/
def ecdsaValid (digest qx qy r s : Nat) : Bool :=
  onCurve qx qy && 1 ≤ r && r < p384n && 1 ≤ s && s < p384n &&
    (let w := invMod s p384n
     match ecAdd (ecMul (digest * w % p384n) (some p384g) 384) (ecMul (r * w % p384n) (some (qx, qy)) 384) with
     | none => false
     | some (x, _) => x % p384n == r)

end Sys2Proof.Machine
end

