-- ==== Sys2Proof/Machine/Matrix.lean ====
section
/-! DEFINITION. The matrix instructions (09): their checks at issue, the array command queue, and the events in which commands start and
complete. -/

namespace Sys2Proof.Machine

/-! ### Causes that come after issue (R296, R338) -/

/-- A cause found after the issue of an instruction at `pc`: the issuing course traps before its next issue; when it has exited or its
span has ended, event code 3 is posted with `detail`. -/
def lateCause (s : State) (course ring pc cause info detail : Nat) : State :=
  match courseById s course with
  | none => s
  | some c =>
    match c.life with
    | .live | .halted _ => atCourse s course (fun s => takePending (s.upd (fun c =>
        { c with pend := c.pend ++ [{ cause := cause, lanes := c.live, tpc := pc, info := info, ring := ring, recs := 0 }] })))
    | .exited | .ended _ => postEvent s (.event c.tenant) { code := 3, asid := c.asid, unit := c.qid, spanId := c.spanId.toNat, detail := detail }
    | .none | .gone | .idle => s

/-- Courses of a bond that were held may issue again. -/
def unstallBond (s : State) (bond : Nat) : State := updCourses s (fun c => c.bond == bond) (fun c => { c with heldLanes := 0 })

/-- Every held course may try again: what it waited for may have been shared with other bonds. -/
def unstallAll (s : State) : State := updCourses s (fun _ => true) (fun c => { c with heldLanes := 0 })

/-- The courses of a bond, with the number that their next operation has. -/
def bondPrior (s : State) (bond : Nat) : List (Nat × Nat) :=
  ((s.cur :: s.courses).filter (fun c => c.bond == bond)).map (fun c => (c.id, c.nextOp))

/-! ### Commands start and complete (R280–R283) -/

/-- Whether some bytes of a bond are touched by an operation of one of its courses that was issued before something that noted `prior`, and has
not been performed (R231, R282). -/
def accessAhead (s : State) (bond : Nat) (prior : List (Nat × Nat)) (lo len : Nat) : Bool :=
  (s.cur :: s.courses).any (fun c => c.bond == bond && c.ops.any (fun o =>
    decide (o.seq < (assoc prior c.id).getD 0) &&
      (opRanges s c o).any (fun r => r.space == .scr bond && meets r.lo r.len lo len)))

/-- Whether a command waits on an access issued before it or on a copy in flight (R232, R282). -/
def cmdBlocked (s : State) (b : Bond) (q : ArrCmd) : Bool :=
  (cmdRanges b q).any (fun r => accessAhead s b.id q.prior r.1 r.2.1 ||
    b.ranges.any (fun e => (e.write || r.2.2) && decide (e.seq < (assoc q.prior e.course).getD 0) && meets r.1 r.2.1 (128 * e.lo) (128 * (e.hi + 1 - e.lo))))

/-- Whether a command of the queue can start now (R280–R282). -/
def cmdCanStart (s : State) (b : Bond) (q : ArrCmd) : Bool := !q.started && cmdFree b q && !cmdBlocked s b q

/-- A command starts: the rows of scratchpad that it touches are read (R207), and what it reads and writes is settled in queue order; a refused image traps its course (R296). -/
def startCmd (s : State) (b : Bond) (q : ArrCmd) : State :=
  let s := (cmdRanges b q).foldl (fun s r => readRows s b.id r.1 r.2.1) s
  let b := (findBond s b.id).getD b
  let r := runCmd b q
  let b := { r.1 with queue := r.1.queue.map (fun x => if x.id = q.id then { x with started := true } else x) }
  let s := unstallBond (putBond s b) b.id
  if r.2 then lateCause s q.course q.ring q.pc 0xC8 q.pc 0xCA08 else s

/-- Start every command of a bond that can, in queue order (R297: at its issue when nothing holds it). -/
def pumpArray (s : State) (bond : Nat) : State :=
  match findBond s bond with
  | none => s
  | some b => (b.queue.map (fun q => q.id)).foldl (fun s id =>
    match findBond s bond with
    | none => s
    | some b => match b.queue.find? (fun q => q.id == id) with
      | some q => if cmdCanStart s b q then startCmd s b q else s
      | none => s) s

/-- A started command completes: it leaves the queue and its flags count down (R283). -/
def completeCmd (s : State) (b : Bond) (q : ArrCmd) : State :=
  let s := putBond s { b with queue := b.queue.filter (fun x => x.id ≠ q.id) }
  let s := atCourse s q.course (fun s =>
    match s.cur.ops.find? (fun o => o.kind == .array q.id && o.seq == q.opSeq) with
    | some o => finishOp s o []
    | none => s)
  pumpArray (unstallBond s b.id) b.id

/-- ARRAY_COMMAND_START (R281): command `k` of a bond starts, when its path is free and every dependence is met. -/
def execArrayCommandStart (bond k : Nat) (s : State) : Out :=
  .next (match findBond s bond with
    | none => s
    | some b => match b.queue.find? (fun q => q.id == k) with
      | some q => if cmdCanStart s b q then startCmd s b q else s
      | none => s)

/-- ARRAY_COMMAND_COMPLETION (R283): command `k` of a bond, which has started, completes. -/
def execArrayCommandCompletion (bond k : Nat) (s : State) : Out :=
  .next (match findBond s bond with
    | none => s
    | some b => match b.queue.find? (fun q => q.id == k && q.started) with
      | some q => completeCmd s b q
      | none => s)

/-! ### Issue -/

/-- The class-16 cause of a matrix instruction of a harvest course outside a region (R324). -/
def harvestSub (s : State) : Option Nat := subIf (s.cur.harvest && !s.cur.rgnOpen) 0x108

/-- An array command without operands captured yet. -/
def newCmd (s : State) (x : Ops) (maj : Nat) : ArrCmd :=
  { id := 0, course := s.cur.id, opSeq := 0, maj := maj, minor := x.minor, base := 0, arg := 0, dest := 0, fpm := s.cur.fpm,
    rcd := { valid := false, fb := 0, fa := 0, sb := false }, pc := s.iss.pc, ring := s.cur.ring, prior := [], swaps := 0, started := false }

/-- Enter a command into the bond's queue, with the marks it sets on its course, and start what can start (R275, R279). -/
def enterCmd (q : ArrCmd) (mark : Course → Course) (s : State) (seq : Nat) : State :=
  match curBond s with
  | none => s
  | some b =>
    let prior := (bondPrior s b.id).map (fun p => if p.1 = s.cur.id then (p.1, seq) else p)
    let q := { q with id := b.nextCmd, opSeq := seq, prior := prior }
    let s := putBond s { b with queue := b.queue ++ [q], nextCmd := b.nextCmd + 1 }
    let s := s.upd (fun c =>
      let c := mark c
      { c with ops := c.ops.map (fun o => if o.seq = seq then { o with kind := .array q.id } else o) })
    pumpArray s b.id

/-- The causes of the ranges of a command: an offset that is no multiple of 16, a range beyond the scratchpad (R278). -/
def rangeSub (b : Bond) (q : ArrCmd) (offs : List Nat) : Option Nat :=
  minSub [subIf (offs.any (fun o => o % 16 ≠ 0)) 0x34, subIf ((cmdRanges b q).any (fun r => decide (b.size < r.1 + r.2.1))) 0x46]

/-- What the array commands share: the queue has room, their causes, then their entry. -/
def command (s : State) (x : Ops) (maj : Nat) (c1 c2 : Option Nat) (build : Bond → Except Unit (ArrCmd × Option Nat)) (mark : Course → Course) : Out :=
  issue s maj x c1 c2 fun _ =>
    match curBond s with
    | none => stallIssue s
    | some b =>
      match harvestSub s, build b with
      | none, .error _ => stallIssue s
      | some k, .error _ => trapOut s k
      | h, .ok (q, k) =>
        match minSub [h, k] with
        | some k => trapOut s k
        | none =>
          if 16 ≤ b.queue.length then stallIssue s
          else
            let f := flagsOf s x
            let o := { newOp s x (.array 0) (if f = 0 then 0 else s.iss.mask) with flags := f }
            issueOpF s x 1 [] o [] (enterCmd q mark)

/-- The class-1 causes of a uniform base and offset in scratchpad (R286). -/
def matAddr (s : State) (x : Ops) : Option Nat := minSub [addrSub s x true, uniSub x.a, uniSub x.c]

/-- Those of a uniform 32-bit operand. -/
def uniOpd (s : State) (x : Ops) (o : Opd) : Option Nat := minSub [srcSub s x (.int false false) o, uniSub o]

/-- The registers of a base and offset. -/
def matRefs (x : Ops) : List RegRef := addrRefs x true

/-- `mxld` (R288). -/
def execMxld (x : Ops) (s : State) : Out :=
  command s x 0xC0 (matAddr s x) (class2 s x (matRefs x) [])
    (fun b =>
      let fb := x.hi4
      let fa := x.mid4
      let q := { newCmd s x 0xC0 with base := addr32 s x 0, rcd := { valid := true, fb := fb, fa := fa, sb := x.bit 3 } }
      .ok (q, minSub [if pairOk fa fb then rangeSub b q [q.base] else subIf (q.base % 16 ≠ 0) 0x34, subIf (!pairOk fa fb) 0xC1,
        subIf (x.bit 3 && !takesScale fb) 0xC2]))
    (fun c => { c with markShadow := true })

/-- `mxsw` (R289). -/
def execMxsw (x : Ops) (s : State) : Out :=
  command s x 0xC1 none (class2 s x [] []) (fun _ => .ok (newCmd s x 0xC1, none))
    (fun c => { c with markActive := c.markShadow, markShadow := c.markActive })

/-- `mxm` (R290): held while an `mxrs` that would set the active record has not started. -/
def execMxm (x : Ops) (s : State) : Out :=
  let fa := x.hi4
  let m := readU s x x.b 0
  let t := x.field 2 2
  let ovw := x.bit 6
  let tileBit : BitVec 4 := BitVec.ofNat 4 (2 ^ t)
  command s x 0xC2 (minSub [matAddr s x, uniOpd s x x.b]) (class2 s x (matRefs x ++ opdRefs x.b 1) [])
    (fun b =>
      match (recordsAfter b.queue (some b.active.rcd) (some b.shadow.rcd)).1 with
      | none => .error ()
      | some r =>
        let q := { newCmd s x 0xC2 with base := addr32 s x 0, arg := m, rcd := r }
        let fits := r.valid && r.fa == fa
        let rows := 1 ≤ m && m ≤ 64
        let int := pairClass fa = 4 || pairClass fa = 5
        .ok (q, minSub [if fits then rangeSub b q [q.base] else subIf (q.base % 16 ≠ 0) 0x34, subIf (!fits) 0xC0,
          subIf (x.bit 7 && !takesScale fa) 0xC2, subIf (!rows) 0xC3, subIf (x.field 4 2 ≠ 0 && (!int || x.bit 7 || r.sb)) 0xC5,
          subIf (s.cur.rgnOpen && !ovw && (s.cur.markTiles &&& tileBit) = 0) 0x104, subIf (s.cur.rgnOpen && !s.cur.markActive) 0x105]))
    (fun c => if ovw then { c with markTiles := c.markTiles ||| tileBit } else c)

/-- `mxz` (R291). -/
def execMxz (x : Ops) (s : State) : Out :=
  command s x 0xC3 none (class2 s x [] []) (fun _ => .ok (newCmd s x 0xC3, none))
    (fun c => { c with markTiles := c.markTiles ||| (if x.bit 4 then 0xF else BitVec.ofNat 4 (2 ^ x.field 2 2)) })

/-- `had` (R294). -/
def execHad (x : Ops) (s : State) : Out :=
  command s x 0xC6 (minSub [matAddr s x, uniOpd s x x.b]) (class2 s x (matRefs x ++ opdRefs x.b 1) [])
    (fun b =>
      let q := { newCmd s x 0xC6 with base := addr32 s x 0, arg := readU s x x.b 0 }
      .ok (q, rangeSub b q [q.base])) id

/-- `qnt` (R295). -/
def execQnt (x : Ops) (s : State) : Out :=
  command s x 0xC7 (minSub [uniOpd s x x.a, uniOpd s x x.b, uniOpd s x x.c]) (class2 s x (opdRefs x.a 1 ++ opdRefs x.b 1 ++ opdRefs x.c 1) [])
    (fun b =>
      let q := { newCmd s x 0xC7 with base := readU s x x.a 0, dest := readU s x x.b 0, arg := readU s x x.c 0 }
      let both := match cmdRanges b q with
        | [r, w] => meets r.1 r.2.1 w.1 w.2.1
        | _ => false
      .ok (q, minSub [rangeSub b q [q.base, q.dest], subIf both 0xC7])) id

/-- `mxst` (R293). -/
def execMxst (x : Ops) (s : State) : Out :=
  command s x 0xC8 (minSub [matAddr s x, uniOpd s x x.b]) (class2 s x (matRefs x ++ opdRefs x.b 1) [])
    (fun b =>
      let m := readU s x x.b 0
      let q := { newCmd s x 0xC8 with base := addr32 s x 0, arg := m }
      let rows := 1 ≤ m && m ≤ 64
      .ok (q, minSub [rangeSub b q [q.base], subIf (!rows) 0xC3,
        subIf (x.bit 7 && (x.hi4 = 3 || x.hi4 = 4)) 0xC6])) id

/-- `mxsv` (R296). -/
def execMxsv (x : Ops) (s : State) : Out :=
  command s x 0xC9 (matAddr s x) (class2 s x (matRefs x) [])
    (fun b =>
      let q := { newCmd s x 0xC9 with base := addr32 s x 0 }
      .ok (q, rangeSub b q [q.base])) id

/-- `mxrs` (R296). -/
def execMxrs (x : Ops) (s : State) : Out :=
  command s x 0xCA (matAddr s x) (class2 s x (matRefs x) [])
    (fun b =>
      let q := { newCmd s x 0xCA with base := addr32 s x 0 }
      .ok (q, rangeSub b q [q.base])) id

/-! ### `mxrd` and `mxwr` (R292) -/

/-- Whether a command of the queue reads or writes a tile. -/
def tileBusy (b : Bond) (t : Nat) : Bool := b.queue.any (fun q => ((q.tiles.1 ||| q.tiles.2) &&& BitVec.ofNat 4 (2 ^ t)) ≠ 0)

/-- The causes that `mxrd` and `mxwr` share; with no participating lane nothing is raised (R94, R136). -/
def rowSub (s : State) (x : Ops) (b : Bond) (m : LaneSet) (row : Nat) : Option Nat :=
  if m = 0 then none
  else minSub [subIf (63 < row || (x.bit 4 && b.dn = 1)) 0xC4, harvestSub s]

/-- `mxrd` (R292): a poisoned word takes class 21 (R285). -/
def execMxrd (x : Ops) (s : State) : Out :=
  issue s 0xC4 x (minSub [uniOpd s x x.b, dstSub s.cur x 1 x.d, subIf (opdIsS x.d) 14]) (class2 s x (opdRefs x.b 1) (opdRefs x.d 1)) fun m =>
    match curBond s with
    | none => stallIssue s
    | some b =>
      let t := x.field 2 2
      let row := readU s x x.b 0
      let key (i : Nat) : Nat := tileKey t row ((if x.bit 4 then 32 else 0) + i)
      match rowSub s x b m row with
      | some k => trapOut s k
      | none =>
        if tileBusy b t then stallIssue s
        else
          let ls := LaneSet.toList m
          if ls.any (fun i => Cells.get b.tpoison (key i) ≠ 0) then .next (raise s 0x150 s.cur.live s.iss.pc 0 0)
          else done (s.upd (fun c => c.writeLanes x.d 1 false (ls.map (fun i => (i, (Cells.get b.tiles (key i)).toNat))))) x

/-- `mxwr` (R292). -/
def execMxwr (x : Ops) (s : State) : Out :=
  issue s 0xC5 x (minSub [uniOpd s x x.b, srcSub s x (.int false false) x.a]) (class2 s x (opdRefs x.b 1 ++ opdRefs x.a 1) []) fun m =>
    match curBond s with
    | none => stallIssue s
    | some b =>
      let t := x.field 2 2
      let row := readU s x x.b 0
      match rowSub s x b m row with
      | some k => trapOut s k
      | none =>
        if tileBusy b t then stallIssue s
        else
          let ws := (LaneSet.toList m).map (fun i => (tileKey t row ((if x.bit 4 then 32 else 0) + i), BitVec.ofNat 32 (readU s x x.a i)))
          let b := { b with tiles := Cells.setAll b.tiles ws, tpoison := Cells.setAll b.tpoison (ws.map (fun p => (p.1, 0))) }
          done ((putBond s b).upd (fun c => { c with markTiles := if m = 0 then c.markTiles else c.markTiles ||| BitVec.ofNat 4 (2 ^ t) })) x

end Sys2Proof.Machine
end

