-- ==== Sys2Proof/Machine/Fit.lean ====
section
/-! DEFINITION. Where piers fit (R12, R31, R33, R39, R131, R132, R317, R319, R330): the quoins of a partition, what bonds hold of them, and the
dispatcher's choice. -/

namespace Sys2Proof.Machine

/-- The quoins of a tenant's partition that a class may use (R319): a lent quoin is the lessee's for its harvest piers, and its owner's for
guaranteed ones. -/
def classQuoins (s : State) (t : Nat) (harvest : Bool) : List Nat :=
  (s.quoins.filter (fun q => q.en && quoinWhole s q.qid && !q.fenced && q.vacating.isNone && q.owned &&
    (if harvest then (if q.resv then q.lessee == t else q.owner == t) else q.owner == t))).map (fun q => q.qid)

/-- Whether a quoin is another tenant's, lent to this one (R319). -/
def lentTo (s : State) (t qid : Nat) : Bool :=
  let q := quoinEntry s qid
  q.resv && q.lessee == t && q.owner ≠ t

/-- The sets of quoins of a core that form a shape (R12, R31). -/
def shapeSets (shape core : Nat) : List (List Nat) :=
  let q (i : Nat) : Nat := 4 * core + i
  match shape with
  | 0 => [[q 0], [q 1], [q 2], [q 3]]
  | 1 => [[q 0, q 1], [q 2, q 3]]
  | 2 => [[q 0, q 2], [q 1, q 3]]
  | _ => [[q 0, q 1, q 2, q 3]]

/-- Quoins of a shape. -/
def shapeSize (shape : Nat) : Nat := match shape with | 0 => 1 | 1 | 2 => 2 | _ => 4

/-- Courses of a bond on position `j` of `k` (R31). -/
def coursesAt (courses k j : Nat) : Nat := (courses + k - 1 - j) / k

/-- What is held of a quoin: course slots (with their scalar slots), segments of even and of odd number, scratchpad bytes (R33, R131). -/
structure Held where
  slots : Nat
  even : Nat
  odd : Nat
  scratch : Nat
deriving DecidableEq, Repr

/-- The sum of what two hold. -/
def Held.plus (a b : Held) : Held := { slots := a.slots + b.slots, even := a.even + b.even, odd := a.odd + b.odd, scratch := a.scratch + b.scratch }

/-- Whether a quoin has that much. -/
def Held.fits (a : Held) : Bool := a.slots ≤ 32 && a.even ≤ 128 && a.odd ≤ 128 && a.scratch ≤ 65536

/-- What position `j` of `k` of a bond needs: `regs` registers a course, `size` bytes of scratchpad (R32, R131). -/
def partNeed (courses regs size k j : Nat) : Held :=
  let n := coursesAt courses k j
  let g := regs / 8
  { slots := n, even := n * ((g + 1) / 2), odd := n * (g / 2), scratch := size / k }

/-- The registers a course of a bond was declared with. -/
def bondRegs (s : State) (b : Bond) : Nat :=
  match (s.piers.find? (fun p => p.id == b.pier)).bind (fun p => findSpan s p.span) with
  | some sp => sp.rcd.regs
  | none => 256

/-- Whether the bond belongs to a harvest span. -/
def bondHarvest (s : State) (b : Bond) : Bool :=
  match (s.piers.find? (fun p => p.id == b.pier)).bind (fun p => findSpan s p.span) with
  | some sp => sp.harvest
  | none => false

/-- Whether a course has given back its scalar slot and its segments: it has exited and no operation of it is outstanding (R182), or it is stopped at ring
2 or 3 and its image is in HBM (R428). -/
def Course.given (c : Course) : Bool := (c.life = .exited && c.ops.isEmpty) || (c.life = .halted 0 && c.segs.isEmpty)

/-- What a bond holds of a quoin: of the courses on it, those that have exited or are stopped without their files hold no segments (R182, R428). -/
def bondHolds (s : State) (b : Bond) (qid : Nat) : Held :=
  let k := b.quoins.length
  match (List.range k).find? (fun j => b.quoins.getD j 0 == qid) with
  | some j =>
    if b.placed then
      let all := partNeed b.courses (bondRegs s b) b.size k j
      let gone := (coursesWhere s (fun c => c.bond == b.id && c.qid == qid && c.given)).length
      let g := bondRegs s b / 8
      { all with even := all.even - gone * ((g + 1) / 2), odd := all.odd - gone * (g / 2) }
    else { slots := 0, even := 0, odd := 0, scratch := 0 }
  | none => { slots := 0, even := 0, odd := 0, scratch := 0 }

/-- What the placed bonds that satisfy `p` hold of a quoin. -/
def quoinHeld (s : State) (p : Bond → Bool) (qid : Nat) : Held :=
  (s.bonds.filter (fun b => p b && memNat qid b.quoins)).foldl (fun acc b => acc.plus (bondHolds s b qid)) { slots := 0, even := 0, odd := 0, scratch := 0 }

/-- The segments of a quoin that its courses hold. -/
def segsHeld (s : State) (qid : Nat) : List Nat := (coursesWhere s (fun c => c.qid == qid && !c.given)).flatMap (fun c => c.segs)

/-- The segment that a course is given at place `j` (R131, R132): one of the parity of `j` that nobody holds; for a harvest course an unreserved
one first. The GSEG reserved segments are those of the lowest numbers (assumption 96). -/
def segAt (gseg : Nat) (harvest : Bool) (held : List Nat) (j : Nat) : Nat :=
  let free := (List.range 256).filter (fun m => m % 2 == j % 2 && !memNat m held)
  match if harvest then free.find? (fun m => gseg ≤ m) else none with
  | some m => m
  | none => free.headD 0

/-- The segments of a course that is given `n` from place `j`. -/
def segsFrom (gseg : Nat) (harvest : Bool) (held : List Nat) (j n : Nat) : List Nat :=
  match n with
  | 0 => []
  | k + 1 =>
    let m := segAt gseg harvest held j
    m :: segsFrom gseg harvest (m :: held) (j + 1) k

/-- The segments that a quoin gives a course of `regs` registers (R131, R132). -/
def giveSegs (s : State) (qid : Nat) (harvest : Bool) (regs : Nat) : List Nat :=
  segsFrom (quoinEntry s qid).gseg harvest (segsHeld s qid) 0 (regs / 8)

/-- Whether a quoin's spill slot holds an image of another pier (R330). -/
def imageOn (s : State) (pier qid : Nat) : Bool :=
  s.piers.any (fun p => p.id ≠ pier && memNat qid p.image)

/-- What a pier needs of each of its bonds. -/
structure Need where
  shape : Nat
  bonds : Nat
  courses : Nat
  regs : Nat
  size : Nat
deriving DecidableEq, Repr

/-- The size of a bond's scratchpad as placed: rounded up to a multiple of 256 for each quoin (R32). -/
def roundScratch (shape size : Nat) : Nat :=
  let u := 256 * shapeSize shape
  (size + u - 1) / u * u

/-- What the piers of a span need. -/
def SpanRec.need (r : SpanRec) : Need :=
  { shape := r.shape, bonds := r.bonds, courses := r.courses, regs := r.regs, size := roundScratch r.shape r.scratch }

/-- Whether a bond fits on a set of quoins when the bonds that satisfy `p` stay. -/
def setFits (s : State) (p : Bond → Bool) (n : Need) (set : List Nat) : Bool :=
  (List.range set.length).all (fun j => ((quoinHeld s p (set.getD j 0)).plus (partNeed n.courses n.regs n.size set.length j)).fits)

/-- A choice for one bond: its order, its core, its quoins. -/
structure Choice where
  order : Nat
  core : Nat
  set : List Nat
deriving DecidableEq, Repr

/-- The choices on a die for one bond of a pier of a tenant (R317): for a guaranteed pier, quoins with the least NPASS first, then those that need
no eviction, then ascending; for a harvest pier the owner's quoins before lent ones, then ascending. -/
def choicesOn (s : State) (die t pier : Nat) (harvest : Bool) (n : Need) : List Choice :=
  let mine := classQuoins s t harvest
  (List.range 96).flatMap (fun i =>
    let core := 96 * die + i
    (shapeSets n.shape core).filterMap (fun set =>
      if !set.all (fun q => memNat q mine) then none
      else
        let free := setFits s (fun _ => true) n set
        let q0 := set.headD 0
        if harvest then
          (if free && !set.any (imageOn s pier) then
            some { order := (if set.any (lentTo s t) then 1024 else 0) + q0, core := core, set := set }
          else none)
        else if free || setFits s (fun b => !bondHarvest s b) n set then
          let np := set.foldl (fun acc q => Nat.max acc (passCount s q)) 0
          some { order := np * 2048 + (if free then 0 else 1024) + q0, core := core, set := set }
        else none))

/-- The first of some choices. -/
def bestChoice (cs : List Choice) : Option Choice :=
  match cs with
  | [] => none
  | c :: rest => match bestChoice rest with
    | some d => some (if d.order < c.order then d else c)
    | none => some c

/-- Choose quoins for `k` bonds on distinct cores. -/
def chooseBonds (cs : List Choice) (k : Nat) : Option (List Choice) :=
  match k with
  | 0 => some []
  | n + 1 => match bestChoice cs with
    | none => none
    | some c => (chooseBonds (cs.filter (fun d => d.core ≠ c.core)) n).map (fun ds => c :: ds)

/-- Where a pier of a tenant goes: the die of its queue's HOME first, then the other (R317). -/
def choosePier (s : State) (home t pier : Nat) (harvest : Bool) (n : Need) : Option (Nat × List Choice) :=
  match chooseBonds (choicesOn s home t pier harvest n) n.bonds with
  | some cs => some (home, cs)
  | none => (chooseBonds (choicesOn s (1 - home) t pier harvest n) n.bonds).map (fun cs => (1 - home, cs))

/-! ### What can never be placed (R311) -/

/-- Cores of a die of a partition that hold a shape. -/
def shapeCores (s : State) (die t : Nat) (harvest : Bool) (shape : Nat) : List Nat :=
  let mine := classQuoins s t harvest
  ((List.range 96).map (fun i => 96 * die + i)).filter (fun core => (shapeSets shape core).any (fun set => set.all (fun q => memNat q mine)))

/-- A span that can never be placed: no die holds its shape on as many cores as a pier has bonds. -/
def neverFits (s : State) (t : Nat) (harvest : Bool) (n : Need) : Bool :=
  (shapeCores s 0 t harvest n.shape).length < n.bonds && (shapeCores s 1 t harvest n.shape).length < n.bonds

/-- How many parts that each need as much fit on an empty quoin. -/
def partCap (h : Held) : Nat :=
  ((List.range 33).filter (fun m =>
    m ≠ 0 && ({ slots := m * h.slots, even := m * h.even, odd := m * h.odd, scratch := m * h.scratch } : Held).fits)).length

/-- How many bonds fit on an empty core. -/
def coreCap (mine : List Nat) (n : Need) (core : Nat) : Nat :=
  ((shapeSets n.shape core).filter (fun set => set.all (fun q => memNat q mine))).foldl (fun acc set =>
    acc + (List.range set.length).foldl (fun m j => Nat.min m (partCap (partNeed n.courses n.regs n.size set.length j))) 32) 0

/-- Whether `k` piers fit on cores of some capacities at once: each takes distinct cores. -/
def piersFit (caps : List Nat) (bonds k : Nat) : Bool := k * bonds ≤ caps.foldl (fun acc c => acc + Nat.min c k) 0

/-- The most piers that fit on a die at once. -/
def mostPiers (caps : List Nat) (bonds fuel k : Nat) : Nat :=
  match fuel with
  | 0 => k
  | f + 1 => if piersFit caps bonds (k + 1) then mostPiers caps bonds f (k + 1) else k

/-- Whether all the piers of a span fit in the partition at once (R54). -/
def allFit (s : State) (t : Nat) (harvest : Bool) (n : Need) (piers : Nat) : Bool :=
  let mine := classQuoins s t harvest
  let caps (die : Nat) : List Nat := (List.range 96).map (fun i => coreCap mine n (96 * die + i))
  piers ≤ mostPiers (caps 0) n.bonds 12288 0 + mostPiers (caps 1) n.bonds 12288 0

end Sys2Proof.Machine
end

