-- ==== Sys2Proof/Machine/Queue.lean ====
section
/-! DEFINITION. `enq` (R309 to R312) and `lease` (R376, R377), with the steps in which they take effect. -/

namespace Sys2Proof.Machine

/-! ### Blocks in scratchpad (R336) -/

/-- Whether a block of the bond's scratchpad cannot be read yet: an access of the course to the scratchpad is not performed, or a copy or an array
command writes there. -/
def blockHeld (s : State) (off len : Nat) : Bool :=
  let c := s.cur
  c.ops.any (fun o => (opRanges s c o).any (fun r => r.space == .scr c.bond)) ||
  behindCopy s c.id c.nextOp { space := .scr c.bond, lo := off, len := len, write := false }

/-- The bytes of a block of the bond's scratchpad. -/
def blockAt (s : State) (off len : Nat) : Nat := match curBond s with | some b => scratchRead b off len | none => 0

/-- Whether they are poisoned. -/
def blockBad (s : State) (off len : Nat) : Bool := match curBond s with | some b => scratchBad b off len | none => false

/-- The class-1 sub-code of the status destination of `enq`, `lease` and engine commands: a scalar or Zero (R309, R335, R376). -/
def statusDst (s : State) (x : Ops) : Option Nat := longDst s.cur x 1 false true x.d

/-- How an add to a word ended: performed at its home, asked of the peer that holds it, refused by a pin, or not made (R337, R339). -/
inductive AddRes where
  | done
  | asked
  | refused
  | absent
  | cause (k : Nat)
deriving DecidableEq, Repr

/-- Add to a 4-byte word at its home, as an atomic, which leaves a poisoned word as it is; a peer's reply goes to `who`. A word of which no path reaches the peer is not added to. -/
def engineAdd (s : State) (a : Acc) (va : Nat) (inc : Nat) (who : ReqWho) : State × AddRes :=
  let ask (s : State) (dev : Nat) : State × AddRes :=
    match peerCause s a.asid dev with
    | some k => (s, .cause k)
    | none => (sendReq s (atmPacket s dev (vfOfAsid s a.asid) a.harvest va 0 false false inc) who, .asked)
  match homeLoad s a va 4 .write with
  | (s, .line l _, old) =>
    match l.peer with
    | some dev => ask (l2Drop s l.asid l.addr) dev
    | none => if poisonOf l.poison (va % 128) 4 then (s, .done) else ((homeStore s a va 4 (old + inc)).1, .done)
  | (s, .mmio die off, old) => (dieWrite s a.ring die off 4 (old + inc), .done)
  | (s, .peer dev, _) => ask s dev
  | (s, .pinned, _) => (s, .refused)
  | (s, .absent, _) => (s, .absent)
  | (s, .cause k, _) => (s, .cause k)

/-! ### `enq` -/

/-- Whether a queue may take records. -/
def queueOn (s : State) (t q : Nat) : Bool := match findQueue s t q with | some x => x.en | none => false

/-- `enq` (R310): its checks at issue, the release, then the record. -/
def execEnq (x : Ops) (s : State) : Out :=
  issue s 0xD0 x (minSub [statusDst s x, addrSub s x false, uniSub x.a, uniSub x.c, srcSub s x (.int false false) x.b, uniSub x.b])
      (class2 s x (addrRefs x false ++ opdRefs x.b 1) []) fun _ =>
    let va := addr64 s x 0
    let q := readU s x x.b 0
    let c := s.cur
    match minSub [subIf c.rgnOpen 0x103, subIf (15 < q || !queueOn s c.tenant q) 0xF0, subIf (decide (Config.vaLimit ≤ va)) 0x40,
        subIf (va % 128 ≠ 0) 0xF1] with
    | some k => .next (raiseSubset s k (if k = 0x40 || k = 0xF1 then va else 0))
    | none => match leaseCause s c va .read with
      | some k => trapOut s k
      | none => match probe s c.acc c.site va .read with
        | (s, .cause k) => .next (raiseSubset s (0x70 + k) va)
        | (s, _) =>
          let rel := { newOp s x (.order (some 5) none) s.iss.mask with flags := 0 }
          let o := { newOp s x (.enq (destOf x.d) va q) s.iss.mask with lanes := 1, addrs := [(0, va)] }
          issueOpF s x 1 [rel] o [] (fun s n => performOp s n)

/-- A 53-bit word address as a record holds it. -/
def wordAddrBad (v : Nat) : Bool := Config.vaLimit ≤ v || v % 4 ≠ 0

/-- The span record in 128 bytes (R304). -/
def spanRecOf (v : Nat) : SpanRec :=
  let nd := fieldAt v 0x34 4
  { entry := fieldAt v 0 8, args := fieldAt v 8 8, npiers := fieldAt v 0x10 4 + 1, spanId := BitVec.ofNat 32 (fieldAt v 0x14 4),
    shape := fieldAt v 0x18 1, bonds := fieldAt v 0x19 1, courses := fieldAt v 0x1A 1, regs := 8 * fieldAt v 0x1B 1, scratch := fieldAt v 0x1C 4,
    fpm := BitVec.ofNat 32 (fieldAt v 0x20 4), seed := BitVec.ofNat 32 (fieldAt v 0x24 4), lfmode := BitVec.ofNat 32 (fieldAt v 0x28 4),
    gang := bitAt (fieldAt v 0x2C 4) 0, sysScope := bitAt (fieldAt v 0x2C 4) 1, lease := fieldAt v 0x30 4,
    deps := (List.range (Nat.min nd 4)).map (fun j => (fieldAt v (0x48 + 8 * j) 8, BitVec.ofNat 32 (fieldAt v (0x68 + 4 * j) 4))),
    counter := fieldAt v 0x38 8, status := fieldAt v 0x40 8 }

/-- Whether a field of a record breaks its limits (R304, R311 sub-code 2). -/
def spanRecBad (v : Nat) : Bool :=
  let r := spanRecOf v
  let nd := fieldAt v 0x34 4
  wordAddrBad r.entry || decide (Config.vaLimit ≤ r.args) || 3 < r.shape || r.bonds = 0 || 8 < r.bonds || r.courses = 0 ||
  decide ((if r.shape = 0 then 16 else 64) < r.courses) || r.regs = 0 || 256 < r.regs || decide (65536 * shapeSize r.shape < r.scratch) ||
  decide (4 < r.fpm.toNat % 8) || (r.fpm &&& ~~~ 0x001F003F) ≠ 0 || 1 < r.lfmode.toNat || 3 < fieldAt v 0x2C 4 || 4 < nd ||
  wordAddrBad r.counter || wordAddrBad r.status || r.deps.any (fun d => wordAddrBad d.1) ||
  (List.range 4).any (fun j => nd ≤ j && (fieldAt v (0x48 + 8 * j) 8 ≠ 0 || fieldAt v (0x68 + 4 * j) 4 ≠ 0)) || fieldAt v 0x78 8 ≠ 0

/-- Whether some range of a lease admits writes of a word. -/
def leaseWrites (rs : List (Nat × Nat)) (va : Nat) : Bool := rs.any (fun r => rangeHas r va && bitAt r.1 1)

/-- The class-15 sub-code of a record for a queue (R311). -/
def recordSub (s : State) (t : Nat) (q : Queue) (v : Nat) : Option Nat :=
  let r := spanRecOf v
  let harvest : Bool := 16 ≤ q.prio
  if spanRecBad v then some 2
  else if neverFits s t harvest r.need then some 3
  else if r.gang && !allFit s t harvest r.need r.npiers then some 4
  else if !leaseNamed s t r.lease then some 5
  else if r.gang && harvest then some 6
  else
    let rs := (leaseAt s t (r.lease % 256)).ranges
    if !leaseWrites rs r.counter || !leaseWrites rs r.status then some 7 else none

/-- Append a record to a queue: its span is Queued, or head of a queue that was empty; the lease counts one more span (R310, R313, R373). -/
def appendSpan (s : State) (q : Queue) (v : Nat) : State :=
  let r := spanRecOf v
  let l := leaseAt s q.tenant (r.lease % 256)
  let kasid := match partition s q.tenant with | some p => p.kasid | none => s.kasid
  let s := ringStore s kasid (q.base + 128 * (q.tail.toNat % 2 ^ q.logDepth)) 128 v
  let sp : Span :=
    { id := s.nextId, tenant := q.tenant, queue := q.q, asid := l.asid, harvest := 16 ≤ q.prio, prio := q.prio, rcd := r,
      state := .queued, placed := 0, retired := 0, stage := 0, flush := 0, kind := 0, cause := 0, window := l.ranges }
  let s := if r.gang && !gangOn s sp.gangKey sp.id then gangRenew s sp.gangKey else s
  let s := putQueue { s with spans := s.spans ++ [sp], nextId := s.nextId + 1 } { q with tail := q.tail + 1 }
  leaveQueue (leaseCount s l (l.spans + 1)) sp

/-- A cause found when an operation that acts once completes: its flags count down, and the course traps where it stands. -/
def lateSubset (s : State) (o : Op) (k info : Nat) : State := raise (dropOpFlags (removeOp s o.seq) o) k o.all o.pc info 0

/-- The record has been read: it is checked and appended, or refused (R310). -/
def enqRecord (s : State) (o : Op) (q v : Nat) : State :=
  let t := s.cur.tenant
  match findQueue s t q with
  | none => lateSubset s o 0xF0 0
  | some x =>
    if !x.en then lateSubset s o 0xF0 0
    else match recordSub s t x v with
      | some k => lateSubset s o (0xF0 + k) 0
      | none =>
        if x.susp then finishOp s o [(0, 2)]
        else if (x.tail - x.head).toNat = 2 ^ x.logDepth then finishOp s o [(0, 1)]
        else finishOp (appendSpan s x v) o [(0, 0)]

/-- Read the record of an `enq` at home, and go on with it. -/
def performEnq (s : State) (o : Op) (va q : Nat) : State :=
  let w0 : LaneWork := { s := s, got := [], fs := [], absent := [], refused := false, wait := false, poison := false }
  let w := runLanes false (fun s i va => loadLane s o 2 128 i va) o.addrs w0 [0]
  match w.got, w.fs with
  | p :: _, _ => enqRecord w.s o q p.2
  | [], f :: _ => lateSubset w.s o f.cause va
  | [], [] => settleOp o w

/-- ENQ_APPEND (R310). -/
def execEnqAppend (c k : Nat) (s : State) : Out :=
  onOp s c k (fun o => !o.peerWait && o.parked.isNone) (fun s o =>
    match o.kind with
    | .enq _ va q => if opReady s s.cur o then performEnq s { o with refused := false } va q else s
    | _ => s)

/-! ### `lease` (R376, R377) -/

/-- The ranges of a request block. -/
def requestRanges (v n : Nat) : List (Nat × Nat) := (List.range n).map (fun j => (fieldAt v (16 + 16 * j) 8, fieldAt v (24 + 16 * j) 4))

/-- The end of a range. -/
def rangeEnd (r : Nat × Nat) : Nat := r.1 / 65536 * 65536 + 65536 * r.2

/-- Whether two ranges of a list overlap. -/
def rangesOverlap (rs : List (Nat × Nat)) : Bool :=
  match rs with
  | [] => false
  | r :: rest => rest.any (fun t => r.1 / 65536 * 65536 < rangeEnd t && t.1 / 65536 * 65536 < rangeEnd r) || rangesOverlap rest

/-- Whether a request block does not lie whole inside the bond's scratchpad (R377). -/
def requestOut (s : State) (off : Nat) : Bool :=
  let size := scratchSize s
  let n := bits (blockAt s off 4) 0 4
  off % 16 ≠ 0 || size < off + 16 || (1 ≤ n && n ≤ 8 && size < off + 16 + 16 * n)

/-- Bytes of a request block, of which the count of ranges is read first. -/
def requestBytes (s : State) (off : Nat) : Nat :=
  let n := bits (blockAt s off 4) 0 4
  if n ≤ 8 then 16 + 16 * n else 16

/-- The causes that the content of a request block gives (R377). -/
def requestSub (s : State) (off : Nat) : Option Nat :=
  let n := bits (blockAt s off 4) 0 4
  let v := blockAt s off (16 + 16 * n)
  let rs := if n ≤ 8 then requestRanges v n else []
  let zero : Bool := fieldAt v 0 16 / 16 ≠ 0 || (List.range rs.length).any (fun j =>
    fieldAt v (28 + 16 * j) 4 ≠ 0 || bits (fieldAt v (16 + 16 * j) 8) 3 13 ≠ 0 || bits (fieldAt v (16 + 16 * j) 8) 53 11 ≠ 0)
  let limit : Bool := n = 0 || 8 < n || rs.any (fun r => r.2 = 0 || 16777216 < r.2 || decide (Config.vaLimit < rangeEnd r))
  minSub [subIf zero 0xE1, subIf limit 0xE2, subIf (rangesOverlap rs) 0xE3]

/-- The cause of a `lease.req` at issue, the lowest class of all that hold (R51, R102, R336, R377); a poisoned block keeps its data (R209), and the checks
are made on it (assumption 104). -/
def requestCause (s : State) (off : Nat) : Option Nat :=
  if requestOut s off then some 0xE0
  else minSub [requestSub s off, subIf s.cur.rgnOpen 0x103, subIf (blockBad s off (requestBytes s off)) 0x150]

/-- `lease.req` (R377). -/
def execLeaseReq (x : Ops) (s : State) : Out :=
  issue s 0xD1 x (minSub [statusDst s x, addrSub s x true, uniSub x.a, uniSub x.c]) (class2 s x (addrRefs x true) []) fun _ =>
    let off := addr32 s x 0
    if blockHeld s off 144 then stallIssue s
    else
      let s := readRows s s.cur.bond off 144
      match requestCause s off with
      | some k => if k = 0x150 then .next (raise s 0x150 s.cur.live s.iss.pc 0 0) else trapOut s k
      | none =>
        let n := bits (blockAt s off 4) 0 4
        issueOp s x 1 { newOp s x (.lease (destOf x.d) 0 0 (requestRanges (blockAt s off (16 + 16 * n)) n)) s.iss.mask with lanes := 1 }

/-- A form that takes a handle. -/
def leaseHandle (x : Ops) (s : State) (form : Nat) : Out :=
  issue s 0xD1 x (minSub [statusDst s x, srcSub s x (.int false false) x.b, uniSub x.b]) (class2 s x (opdRefs x.b 1) []) fun _ =>
    if s.cur.rgnOpen then trapOut s 0x103
    else issueOp s x 1 { newOp s x (.lease (destOf x.d) form (readU s x x.b 0) []) s.iss.mask with lanes := 1 }

/-- `lease.rel` (R377). -/
def execLeaseRel (x : Ops) (s : State) : Out := leaseHandle x s 1
/-- `lease.qry` (R377). -/
def execLeaseQry (x : Ops) (s : State) : Out := leaseHandle x s 2

/-- Write a lease entry of a request (R373, R377): pending, with the next generation, which is never 0. -/
def leaseFill (s : State) (t i : Nat) (rs : List (Nat × Nat)) : State :=
  let g := ((leaseAt s t i).gen + 1) % 2 ^ 24
  let gen := if g = 0 then 1 else g
  let v := packFields ([(0, 1, 1), (1, 1, rs.length), (2, 2, s.cur.asid), (4, 4, gen), (8, 4, 0), (12, 4, 0)] ++
    (List.range 8).flatMap (fun j => [(16 + 16 * j, 8, (rs.getD j (0, 0)).1), (24 + 16 * j, 4, (rs.getD j (0, 0)).2)]))
  let s := leasePut s { tenant := t, ix := i, state := 1, asid := s.cur.asid, gen := gen, spans := 0, ranges := rs }
  physWrite s (leasePa s t i) 144 v

/-- The LRQ add of a lease step, under Keystone's ASID (R377, R382). -/
def lrqAdd (s : State) (o : Op) (r : Nat) : State :=
  match partition s s.cur.tenant with
  | none => finishOp s o [(0, r)]
  | some p =>
    match engineAdd s { core := none, asid := p.kasid, tenant := 64, ring := 2, harvest := false } p.lrq 1 (.span 0) with
    | (s, .refused) => putOp s { o with stage := 1, got := [(0, r)], refused := true }
    | (s, _) => finishOp s o [(0, r)]

/-- The table step of a `lease` (R377). -/
def leaseStep (s : State) (o : Op) (form h : Nat) (rs : List (Nat × Nat)) : State :=
  let t := s.cur.tenant
  let l := leaseAt s t (h % 256)
  match form with
  | 0 => match (List.range 256).find? (fun k => (leaseAt s t k).state == 0) with
    | none => finishOp s o [(0, 0)]
    | some k =>
      let s := leaseFill s t k rs
      lrqAdd s o ((leaseAt s t k).gen * 256 + k)
  | 1 =>
    if !leaseNamed s t h then finishOp s o [(0, 2)]
    else if l.spans ≠ 0 then finishOp s o [(0, 1)]
    else lrqAdd (physWrite (leasePut s { l with state := 3 }) (leasePa s t l.ix) 1 3) o 0
  | _ => finishOp s o [(0, if l.gen = h / 256 then l.state else 0xFFFFFFFF)]

/-- LEASE_STEP (R377): the table step of a `lease`, or the add that a pin refused. -/
def execLeaseStep (c k : Nat) (s : State) : Out :=
  onOp s c k (fun _ => true) (fun s o =>
    match o.kind with
    | .lease _ form h rs =>
      if !opReady s s.cur o then s
      else
        let o := { o with refused := false }
        if o.stage = 1 then lrqAdd s o ((assoc o.got 0).getD 0) else leaseStep s o form h rs
    | _ => s)

end Sys2Proof.Machine
end

