-- ==== Sys2Proof/Machine/Gang.lean ====
section
/-! DEFINITION. Gang launches across devices (R54 to R56, R460): the members' messages, the coordinator's one decision, and what it does to the courses. -/

namespace Sys2Proof.Machine

/-- The gang-span key of a course: the low 16 bits of SPANID. -/
def Course.gangKey (c : Course) : Nat := c.spanId.toNat % 65536

/-- The record of a gang span on this device; one never used is empty. -/
def getGang (s : State) (key : Nat) : Gang :=
  (s.gangs.find? (fun g => g.key == key)).getD { key := key, arrived := false, ready := 0, decision := 0, freed := false }

/-- Put a gang record back. -/
def putGang (s : State) (g : Gang) : State := { s with gangs := putWhere (fun x => x.key == g.key) g s.gangs }

/-- A GNG packet (R460): STATUS 0 ready, 1 release, 2 abort, 3 query. -/
def gangPacket (s : State) (dev key status : Nat) : Packet := { packet s 0x0C dev 0 false 0 with tag := key, status := status }

/-- The gang spans of a key that are on the device and not completing. -/
def gangSpans (s : State) (key : Nat) : List Span :=
  s.spans.filter (fun x => x.rcd.gang && x.gangKey == key && x.state ≠ .completing && x.state ≠ .done)

/-- Whether a wait is one at `gangsync`. -/
def isGangWait (w : Wait) : Bool :=
  match w with
  | .gang => true
  | .sleep _ | .barr _ _ _ _ | .waitb _ _ _ | .waitc _ _ _ _ _ _ => false

/-- End every gang span of a key with status "gang aborted" and a cause (R56). -/
def gangEnd (s : State) (key cause : Nat) : State := (gangSpans s key).foldl (fun s x => endSpan s x.id 2 cause) s

/-- A member acts on a decision (R55, R56): at release, which only a member that has sent ready can receive, the courses that wait at `gangsync` execute
it again and continue at once; at abort its spans end. -/
def gangAct (s : State) (key decision : Nat) : State :=
  let g := getGang s key
  if g.freed then s
  else if decision = 1 then
    if !g.arrived then s
    else updCourses (putGang s { g with freed := true }) (fun c => c.gangKey == key && (c.findWait isGangWait).isSome) (fun c => c.wake isGangWait)
  else gangEnd s key 0x161

/-- The coordinator decides, once, tells every other member and acts itself. -/
def gangDecide (s : State) (key decision : Nat) : State :=
  let g := getGang s key
  if g.decision ≠ 0 then s
  else
    let s := putGang s { g with decision := decision }
    let others := (List.range s.nDev).filter (fun d => d ≠ 0)
    gangAct (others.foldl (fun s d => sendPkt s (gangPacket s d key decision)) s) key decision

/-- The coordinator holds a ready message of a member; with every member's it sends release. A second one of a member after the decision belongs to the
next gang of the key (assumption 103). -/
def gangReadyFrom (s : State) (key dev : Nat) : State :=
  let g := getGang s key
  let bit : BitVec 16 := BitVec.ofNat 16 (2 ^ dev)
  let g := if g.decision ≠ 0 && g.ready.getLsbD dev then { g with next := g.next ||| bit } else { g with ready := g.ready ||| bit }
  let s := putGang s g
  if g.decision = 0 && (List.range s.nDev).all (fun d => g.ready.getLsbD d) then gangDecide s key 1 else s

/-- Whether every course of every pier of a span has executed `gangsync` or exited. -/
def gangAllIn (s : State) (x : Span) : Bool :=
  x.placed == x.rcd.npiers && !s.piers.any (fun p => p.span == x.id && p.pending && !p.halted) &&
  (coursesWhere s (fun c => c.span == x.id)).all (fun c =>
    match c.life with
    | .exited => true
    | .live | .halted _ => (c.findWait isGangWait).isSome
    | .none | .gone | .idle | .ended _ => false)

/-- A course of a span has arrived or exited: when all have, the member sends ready, or ends alone when no path to the coordinator remains. -/
def gangArrive (s : State) (span : Nat) : State :=
  match findSpan s span with
  | none => s
  | some x =>
    let key := x.gangKey
    let g := getGang s key
    if !x.rcd.gang || g.arrived || !gangAllIn s x then s
    else
      let s := putGang s { g with arrived := true }
      if s.devId = 0 then gangReadyFrom s key 0
      else if pathTo s 0 then sendPkt s (gangPacket s 0 key 0)
      else gangEnd s key 0x167

/-! ### Events -/

/-- GNG_READY (R55): only the coordinator receives one. -/
def execGngReady (p : Packet) (s : State) : Out := .next (accept s p fun s => if s.devId = 0 then gangReadyFrom s p.tag p.src else s)
/-- GNG_RELEASE (R55). -/
def execGngRelease (p : Packet) (s : State) : Out := .next (accept s p fun s => gangAct s p.tag 1)
/-- GNG_ABORT (R56). -/
def execGngAbort (p : Packet) (s : State) : Out := .next (accept s p fun s => gangAct s p.tag 2)

/-- GNG_QUERY (R460): answered with the decision, at once or when it is made. -/
def execGngQuery (p : Packet) (s : State) : Out :=
  .next (accept s p fun s =>
    let g := getGang s p.tag
    if s.devId ≠ 0 || g.decision = 0 then s else sendPkt s (gangPacket s p.src p.tag g.decision))

/-- Whether a course has arrived at `gangsync` of a key on this device: the gang timeout runs from the first on the coordinator (R55). -/
def gangBegun (s : State) (key : Nat) : Bool :=
  (getGang s key).arrived || (s.cur :: s.courses).any (fun c => c.exists && c.gangKey == key && (c.findWait isGangWait).isSome)

/-- GANG_TIMEOUT (R55): the coordinator without every ready message sends abort. -/
def execGangTimeout (key : Nat) (s : State) : Out := .next (if s.devId = 0 && gangBegun s key then gangDecide s key 2 else s)

end Sys2Proof.Machine
end

