-- ==== Sys2Proof/Machine/Control.lean ====
section
/-! DEFINITION. The control instructions (R158 to R188), the clause header (R109 to R113) and the words that are no instruction (R107). -/

namespace Sys2Proof.Machine

/-- `nop` (R177). -/
def execNop (x : Ops) (s : State) : Out := issue s 0x00 x none (class2 s x [] []) fun _ => done s x

/-! ### Transfers (R179–R181) -/

/-- How one lane transfers: to a target, pushing a return address or popping one, or a lane fault. -/
inductive Xfer where
  | goto (target : Nat)
  | fault (cause addr : Nat)
deriving DecidableEq, Repr

/-- The fault of a lane that cannot transfer. -/
def xferFault (i : Nat) (t : Xfer) : Option LaneFault :=
  match t with
  | .fault k a => some { lane := i, cause := k, addr := a }
  | .goto _ => none

/-- Where a lane goes. -/
def xferDest (t : Xfer) : Nat := match t with | .goto a => a | .fault _ _ => 0

/-- Push a return address (R159). -/
def Course.pushRet (c : Course) (i a : Nat) : Course :=
  let d := (Cells.get c.depth i).toNat
  { c with rstack := Cells.set c.rstack (8 * i + d) (BitVec.ofNat 53 a), depth := Cells.set c.depth i (BitVec.ofNat 4 (d + 1)) }

/-- Pop a return address (R159). -/
def Course.popRet (c : Course) (i : Nat) : Course :=
  let d := (Cells.get c.depth i).toNat
  { c with rstack := Cells.set c.rstack (8 * i + d - 1) 0, depth := Cells.set c.depth i (BitVec.ofNat 4 (d - 1)) }

/-- Transfer the participating lanes; the lanes whose guard is false advance, and faulting lanes stay (R158, R159). -/
def transfer (s : State) (x : Ops) (m : LaneSet) (f : Nat → Xfer) (stack : Course → Nat → Course) : Out :=
  let fs := (LaneSet.toList m).filterMap (fun i => xferFault i (f i))
  let good := m &&& ~~~ faultSet fs
  let hold := s.cur.holdMode
  let s1 := s.upd (fun c =>
    let c := (LaneSet.toList good).foldl stack c
    (c.advance (s.iss.mask &&& ~~~ m) x.len).jump good (fun i => xferDest (f i)))
  .next (noEligible (laneFaults s1 hold s.iss.pc fs))

/-- The word offset of `bra` and `call` (R179). -/
def jumpOff (x : Ops) : Int :=
  match x.form with
  | .sj off => off.toInt
  | .lx w => w.toInt
  | .l | .s => toInt 12 x.minor.toNat

/-- The target of `bra` and `call`: beyond the address space a lane fault (4, 12). -/
def jumpTo (s : State) (x : Ops) : Xfer :=
  let t : Int := s.iss.pc + 4 * jumpOff x
  if t < 0 || (Config.vaLimit : Int) ≤ t then .fault 0x4C (ofInt 53 t) else .goto t.toNat

/-- The target of `brx` and `calli` in a lane (R180). -/
def jumpTarget (s : State) (x : Ops) (i : Nat) : Xfer :=
  let t := readBase s x x.a i
  if t % 4 ≠ 0 then .fault 0x3F (t % Config.vaLimit) else if Config.vaLimit ≤ t then .fault 0x4C (t % Config.vaLimit) else .goto t

/-- A call at depth 8 faults; among several causes the lowest class counts (R102, R159). -/
def calling (s : State) (i : Nat) (t : Xfer) : Xfer :=
  match t with
  | .goto a => if (Cells.get s.cur.depth i).toNat = 8 then .fault 0xB3 0 else .goto a
  | .fault k a => .fault k a

/-- `bra` (R179). -/
def execBra (x : Ops) (s : State) : Out :=
  issue s 0x01 x none (class2 s x [] []) fun m => transfer s x m (fun _ => jumpTo s x) (fun c _ => c)

/-- `call` (R179). -/
def execCall (x : Ops) (s : State) : Out :=
  issue s 0x03 x none (class2 s x [] []) fun m =>
    transfer s x m (fun i => calling s i (jumpTo s x)) (fun c i => c.pushRet i (s.iss.pc + x.len))

/-- The class-1 sub-code of a target pair: anything but a register pair takes 11 (R180). -/
def targetSub (s : State) (x : Ops) : Option Nat :=
  match x.a with
  | .zero => some 11
  | .v _ | .o _ | .l _ | .s _ | .one | .lane | .cid | .bid | .pier | .mone | .two | .imask | .ncourse | .nbond | .lit | .imm _ | .hole _ | .resv _
  | .short _ => baseSub s x x.a

/-- `brx` (R180). -/
def execBrx (x : Ops) (s : State) : Out :=
  issue s 0x02 x (targetSub s x) (class2 s x (opdRefs x.a 2) []) fun m => transfer s x m (jumpTarget s x) (fun c _ => c)

/-- `calli` (R180). -/
def execCalli (x : Ops) (s : State) : Out :=
  issue s 0x04 x (targetSub s x) (class2 s x (opdRefs x.a 2) []) fun m =>
    transfer s x m (fun i => calling s i (jumpTarget s x i)) (fun c i => c.pushRet i (s.iss.pc + x.len))

/-- `ret` (R181). -/
def execRet (x : Ops) (s : State) : Out :=
  issue s 0x05 x none (class2 s x [] []) fun m =>
    transfer s x m (fun i =>
      let d := (Cells.get s.cur.depth i).toNat
      if d = 0 then .fault 0xB4 0 else .goto (Cells.get s.cur.rstack (8 * i + d - 1)).toNat) (fun c i => c.popRet i)

/-! ### Masks (R161–R163, R184) -/

/-- Whether a mask number is m11 in hold mode. -/
def heldMask (s : State) (k : Nat) : Bool := k == 11 && s.cur.holdMode

/-- `join`, `leave` and `waitm` on m11 in hold mode trap the whole issuing subset, when a lane participates (R94, R136, R163). -/
def maskOp (s : State) (x : Ops) (maj : Nat) (body : LaneSet → Out) : Out :=
  issue s maj x none (class2 s x [] []) fun m => if m ≠ 0 && heldMask s x.low4 then trapOut s 0xB1 else body m

/-- `join` (R161). -/
def execJoin (x : Ops) (s : State) : Out :=
  maskOp s x 0x06 fun m => done (s.upd (fun c => { c with enr := Cells.set c.enr x.low4 (Cells.get c.enr x.low4 ||| m) })) x

/-- `leave` (R161). -/
def execLeave (x : Ops) (s : State) : Out :=
  maskOp s x 0x07 fun m =>
    let s := s.upd (fun c => { c with enr := Cells.set c.enr x.low4 (Cells.get c.enr x.low4 &&& ~~~ m) })
    .next (noEligible ((s.pass x).upd (fun c => c.releaseMask x.low4)))

/-- `waitm` (R161): enrolled participating lanes wait at this PC; the others pass on. -/
def execWaitm (x : Ops) (s : State) : Out :=
  maskOp s x 0x08 fun m =>
    let k := x.low4
    let w : LaneSet := m &&& Cells.get s.cur.enr k
    let s := s.upd (fun c =>
      let c := c.advance (s.iss.mask &&& ~~~ w) x.len
      { c with
          waitm := Cells.set c.waitm k (Cells.get c.waitm k ||| w)
          waitLen := (LaneSet.toList w).foldl (fun y i => Cells.set y i (BitVec.ofNat 4 x.len)) c.waitLen })
    .next (noEligible (s.upd (fun c => c.releaseMask k)))

/-- `mget` (R184). -/
def execMget (x : Ops) (s : State) : Out :=
  let v : Word := if x.bit 4 then Cells.get s.cur.waitm x.low4 else Cells.get s.cur.enr x.low4
  issue s 0x09 x (minSub [dstSub s.cur x 1 x.d, scalarSub x []]) (class2 s x [] (opdRefs x.d 1)) fun m =>
    done (s.upd (fun c => c.writeLanes x.d 1 false ((LaneSet.toList m).map (fun i => (i, v.toNat))))) x

/-- `mput` (R184). -/
def execMput (x : Ops) (s : State) : Out :=
  let t : STy := .int false false
  issue s 0x0A x (minSub [srcSub s x t x.a, uniSub x.a]) (class2 s x (opdRefs x.a 1) []) fun m =>
    let k := x.low4
    let v : Word := BitVec.ofNat 32 (readU s x x.a 0)
    if m = 0 then done s x
    else if heldMask s k then done (s.upd (fun c => { c with enr := Cells.set c.enr 11 (Cells.get c.enr 11 &&& v), caught := c.caught &&& v })) x
    else if Cells.get s.cur.waitm k ≠ 0 then trapOut s 0xB2
    else done (s.upd (fun c => { c with enr := Cells.set c.enr k v, caught := if k = 11 then c.caught &&& v else c.caught })) x

/-! ### Ends and waits -/

/-- The course has no live lane left: it is Exited, full-bond phases may complete without it, and it counts as arrived in its gang (R38, R55, R402). -/
def courseExited (s : State) : State :=
  let c := s.cur
  let s := s.upd (fun c => { c with life := .exited, wait := none, waitBelow := none, aside := none, asideAt := none })
  gangArrive (bondExit s c.bond c.cid) c.span

/-- `exit` (R182). -/
def execExit (x : Ops) (s : State) : Out :=
  issue s 0x0B x none (class2 s x [] []) fun m =>
    if m = 0 then done s x
    else if s.cur.rgnOpen then trapOut s 0x103
    else
      let s := s.upd (fun c =>
        let c := (c.advance (s.iss.mask &&& ~~~ m) x.len).leaveBody m
        ({ c with live := c.live &&& ~~~ m }).releaseMasks 12)
      .next (if s.cur.live = 0 then courseExited s else noEligible s)

/-- `yield` (R185). -/
def execYield (x : Ops) (s : State) : Out :=
  issue s 0x0C x none (class2 s x [] []) fun _ => done (s.upd (fun c => { c with yielding := true })) x

/-- `sleep` (R186). -/
def execSleep (x : Ops) (s : State) : Out :=
  issue s 0x0D x (minSub [srcSub s x (.int false false) x.a, uniSub x.a]) (class2 s x (opdRefs x.a 1) []) fun m =>
    if m = 0 then done s x
    else done (s.upd (fun c => { c with wait := some (.sleep (Nat.max (readU s x x.a 0) 1)) })) x

/-- `brk` (R187): the PCs stay at the `brk`, and the code is the frame's INFO. -/
def execBrk (x : Ops) (s : State) : Out :=
  issue s 0x0E x none (class2 s x [] []) fun m =>
    if m = 0 then done s x else .next (raiseSubset s 0x110 (x.field 0 8))

/-- SLEEP_EXPIRY (R186): the sleep of a course runs out. -/
def execSleepExpiry (c : Nat) (s : State) : Out :=
  let p (w : Wait) : Bool := match w with | .sleep _ => true | _ => false
  .next (atCourse s c (fun s => s.upd (fun c => c.wake p)))

/-! ### Clause headers (R109–R113) -/

/-- Whether the words of a body are whole instructions: `n` words from `va`, with as many steps as words (R110). -/
def bodyWhole (s : State) (c : Course) (va n fuel : Nat) : Bool :=
  match fuel with
  | 0 => n == 0
  | k + 1 =>
    if n = 0 then true
    else
      let len := peekLen s c va / 4
      if n < len then false else bodyWhole s c (va + 4 * len) (n - len) k

/-- A slot value that is reserved. -/
def slotBad (v : BitVec 4) : Bool := 12 ≤ v.toNat && v.toNat < 15

/-- A clause header (R111): its checks, its wait on flags, and the entry of its lanes into the body. -/
def execClause (h : Header) (s : State) : Out :=
  let len := h.len.toNat
  let sub := minSub [subIf (len = 0 || !bodyWhole s s.cur (s.iss.pc + 4) len len) 4, subIf (s.iss.bodies ≠ 0) 5, subIf (slotBad h.setA || slotBad h.setB) 10]
  match sub with
  | some k => .next (raiseSubset s k 0)
  | none =>
    if !flagsClear s.cur h.wait then holdIssue s
    else
      let m := s.iss.mask
      .next (s.upd (fun c =>
        let c := (c.clearRecords m h.wait).setPcs m (fun i => c.pcOf i + 4)
        { c with
            chead := (LaneSet.toList m).foldl (fun y i => Cells.set y i h.word) c.chead
            cdist := (LaneSet.toList m).foldl (fun y i => Cells.set y i 1) c.cdist }))

/-! ### Words that are no instruction (R107, R108) -/

/-- A word that is no instruction takes class 0 with its lowest sub-code, those of its clause included. -/
def execIllegalEncoding (w : BadWord) (s : State) : Out :=
  let k := minSub [some w.sub.toNat, clauseSub s w.ctl (w.fs ≠ 0) (w.fs.getLsbD 0) (w.fs.getLsbD 1)]
  .next (raiseSubset s (k.getD 0) 0)

end Sys2Proof.Machine
end

