-- ==== Sys2Proof/Machine/System.lean ====
section
/-! DEFINITION. The system instructions (R166 to R176, R188 to R196) and the writes of special and counter-page registers as events. -/

namespace Sys2Proof.Machine

/-! ### Special registers (R166 Table 1) -/

/-- Whether a special register is 64 bits wide. -/
def srWide (n : Nat) : Bool := n = 0x04 || n = 0x0A || n = 0x20 || n = 0x21 || n = 0x22 || n = 0x28
/-- The lowest ring that may read or write it. -/
def srRing (n : Nat) : Nat :=
  match n with
  | 0x0A | 0x20 => 1
  | 0x21 | 0x28 => 2
  | 0x22 => 3
  | _ => 0
/-- Whether Table 1 gives it a ring to write from. -/
def srWritable (n : Nat) : Bool := n ≤ 0x02 || n = 0x0A || (0x20 ≤ n && n ≤ 0x22) || n = 0x28

/-- The enabled quoins of a tenant's partition (R16, R381). -/
def partQuoins (s : State) (t : Nat) : List Nat :=
  (s.quoins.filter (fun q => q.owned && q.owner == t && q.en && !q.fenced && quoinWhole s q.qid)).map (fun q => q.qid)

/-- The enabled cores of a tenant's partition (R16). -/
def partCores (s : State) (t : Nat) : List Nat := (List.range 192).filter (fun k => (partQuoins s t).any (fun q => coreOfQid q == k))

/-- The value of a special register for the course in the issue unit, in a lane (R167–R175). -/
def srValue (s : State) (n i : Nat) : Nat :=
  let c := s.cur
  match n with
  | 0x00 => c.fpm.toNat
  | 0x01 => (Cells.get c.srseed i).toNat
  | 0x02 => c.lfmode.toNat
  | 0x03 => c.live.toNat
  | 0x04 => c.rgnWord
  | 0x05 => c.cid
  | 0x06 => c.bid
  | 0x07 => c.pierIx.toNat
  | 0x08 => c.spanId.toNat
  | 0x09 => c.ring
  | 0x0A => c.frameBase + (if c.frameBusy then 1 else 0)
  | 0x10 => (laneMap s c.qid).toNat
  | 0x11 => goodLanes s c.qid * 256 + passCount s c.qid
  | 0x12 => c.qid
  | 0x18 => c.core
  | 0x19 => c.die
  | 0x1A => (partCores s c.tenant).length
  | 0x1B => (partQuoins s c.tenant).length
  | 0x1C => s.devId
  | 0x1D => s.nDev
  | 0x20 => (vectorOf s c 1).toNat
  | 0x21 => (vectorOf s c 2).toNat
  | 0x22 => (vectorOf s c 3).toNat
  | 0x28 => c.mine.toNat * 2 ^ 32 + (getDie s c.die).done.toNat * 2 ^ 16
  | _ => 0

/-- `srd` (R190): from a ring below the register's it traps when a lane participates (R94, R136, R167); a Zero destination reads nothing and raises
nothing. -/
def execSrd (x : Ops) (s : State) : Out :=
  let n := x.field 0 8
  let w := if srWide n then 2 else 1
  issue s 0x10 x (minSub [dstSub s.cur x w x.d, scalarSub x [], subIf (n = 1 && opdIsS x.d) 14]) (class2 s x [] (opdRefs x.d w)) fun m =>
    if x.d = .zero || m = 0 then done s x
    else if s.cur.ring < srRing n then trapOut s 0x131
    else done (s.upd (fun c => c.writeLanes x.d w false ((LaneSet.toList m).map (fun i => (i, srValue s n i))))) x

/-! ### Writes -/

/-- The defined bits of a trap vector (R173). -/
def vectorBits (v : Nat) : Double := BitVec.ofNat 64 (bits v 2 51 * 4 + v % 2)

/-- A write of `sr.FPM` (R68): RM 5 to 7 is refused with class 1, sub-code 8. -/
def writeFpm (s : State) (v : Nat) : State × Option Nat :=
  if 5 ≤ v % 8 then (s, some 0x18) else (s.upd (fun c => { c with fpm := BitVec.ofNat 32 (Nat.land v 0x001F1F3F) }), none)

/-- A write of `sr.SRSEED` in a lane (R76): zero is stored as 1. -/
def Course.setSeed (c : Course) (i v : Nat) : Course := { c with srseed := Cells.set c.srseed i (if v % 2 ^ 32 = 0 then 1 else BitVec.ofNat 32 v) }

/-- A write of `sr.LFMODE` (R169): a change that conflicts with m11 is refused. -/
def writeLfmode (s : State) (v : Nat) : State × Option Nat :=
  let c := s.cur
  if (v % 2 = 1) ≠ c.holdMode && Cells.get c.enr 11 ≠ 0 then (s, some 0xB8)
  else (s.upd (fun c => { c with lfmode := BitVec.ofNat 32 (v % 2) }), none)

/-- A write of `sr.TCOMMIT.TABLES` (R175, R389): zero has no effect; held while a commit runs or the course's earlier accesses and their release are
not performed. Answers whether it took effect. -/
def writeTcommit (s : State) (v : Nat) : State × Bool :=
  let c := s.cur
  if v % 256 = 0 then (s, true)
  else if s.commit.isSome || c.ops.any (fun o => o.isAccess) then (s, false)
  else
    let r := releaseLines s c.core (asidsOf s c.tenant c.asid) 5
    if !r.2.2 then (r.1, false)
    else
      let no := (getDie s c.die).lastNo + 1
      let s := updDie r.1 c.die (fun d => { d with lastNo := no })
      (({ s with commit := some { die := c.die, course := c.id, tables := BitVec.ofNat 8 v, number := no } }).upd
        (fun c => { c with mine := no, peers := c.peers ||| r.2.1 }), true)

/-- A write of one of the registers that act once for the course and cannot be held: its refusal cause, if it is refused (R167, R171, R173). At
rings 2 and 3, where no partition is the course's own, `sr.TVEC1` names the entry of tag 64, from which a partition takes its vector as it is made
(assumption 95). -/
def writeSr (s : State) (n v : Nat) : State × Option Nat :=
  match n with
  | 0x00 => writeFpm s v
  | 0x02 => writeLfmode s v
  | 0x0A => if v % 2 = 1 then (s, some 0x130) else (s.upd (fun c => { c with frameBase := bits v 12 41 * 4096 }), none)
  | 0x20 => ({ s with tvec1 := Cells.set s.tvec1 s.cur.tenant (vectorBits v) }, none)
  | 0x21 => (updDie s s.cur.die (fun d => { d with tvec2 := vectorBits v }), none)
  | 0x22 => (updDie s s.cur.die (fun d => { d with tvec3 := vectorBits v }), none)
  | _ => (s, none)

/-- The cause of an `swr` whose lanes participate (R102, R167): of the ring, the register and what the write itself refuses, the lowest class and
then the lowest sub-code. -/
def swrCause (s : State) (n v : Nat) : Option Nat :=
  minSub [subIf (s.cur.ring < srRing n) 0x131, subIf (!srWritable n) 0x130, (writeSr s n v).2]

/-- `swr` (R167, R190). A write of RM 5 to 7 is a cause of class 1, found with the others of its class from the source as it stands (R68, R102;
assumption 92). -/
def execSwr (x : Ops) (s : State) : Out :=
  let n := x.field 0 8
  let t : STy := .int (srWide n) false
  let v := readOpd s x t x.a 0
  issue s 0x11 x (minSub [srcSub s x t x.a, if n = 1 then none else uniSub x.a, subIf (n = 0 && decide (5 ≤ v % 8)) 8])
      (class2 s x (opdRefs x.a t.regs) []) fun m =>
    if m = 0 then done s x
    else if n = 1 then done (s.upd (fun c => (LaneSet.toList m).foldl (fun c i => c.setSeed i (readU s x x.a i)) c)) x
    else
      match swrCause s n v with
      | some k => trapOut s k
      | none =>
        if n = 0x28 then
          (match writeTcommit s v with
          | (s, true) => done s x
          | (s, false) => stallIssue s)
        else done (writeSr s n v).1 x

/-! ### `trap` and `rett` (R188, R189) -/

/-- `trap n` (R188): the PCs stand after it. -/
def execTrap (x : Ops) (s : State) : Out :=
  issue s 0x12 x none (class2 s x [] []) fun m =>
    let n := x.low4
    let ring := if n < 8 then 1 else if n < 12 then 2 else 3
    if m = 0 then done s x
    else if s.cur.rgnOpen then trapOut s 0x103
    else .next (raise (s.pass x) (if s.cur.ring < ring then 0x120 + n else 0x134) m s.iss.pc 0 0)

/-- `rett` (R189): it reads its frame after the handler's earlier ordering instructions (R217, R225). -/
def execRett (x : Ops) (s : State) : Out :=
  issue s 0x13 x none (class2 s x [] []) fun _ =>
    let c := s.cur
    match minSub [subIf (!c.reconverged) 0xB5, subIf (c.ring = 0) 0x132, subIf (c.ring = 1 && !c.frameBusy) 0x137] with
    | some k => trapOut s k
    | none => if c.ops.any (fun o => o.ring == c.ring && o.holdsLater) then stallIssue s else .next (returnTrap s)

/-! ### Regions (R48, R119, R164, R191) -/

/-- `rgn` (R191): the re-execution after a restart keeps RESTARTS (R491). -/
def execRgn (x : Ops) (s : State) : Out :=
  issue s 0x14 x none (class2 s x [] []) fun _ =>
    let c := s.cur
    match minSub [subIf (!c.reconverged) 0x100, subIf c.rgnOpen 0x101, subIf (!c.quiet) 0x106] with
    | some k => trapOut s k
    | none =>
      done (s.upd (fun c =>
        { c with
            shadow := { srseed := c.srseed, enr := c.enr, depth := c.depth, rstack := c.rstack }, rgnPc := s.iss.pc, rgnOpen := true,
            restarts := if c.restarted then c.restarts else 0, restarted := false, markTiles := 0, markActive := false, markShadow := false })) x

/-- `rgend` (R191). -/
def execRgend (x : Ops) (s : State) : Out :=
  issue s 0x15 x none (class2 s x [] []) fun _ =>
    match minSub [subIf (!s.cur.rgnOpen) 0x102, subIf (!s.cur.reconverged) 0x107] with
    | some k => trapOut s k
    | none => done (s.upd (fun c => { c with rgnOpen := false })) x

/-! ### Control blocks (R192–R195) -/

/-- The bytes of the control block of a course that resumes at `resume` (R192 Table 14). -/
def controlBlock (c : Course) (resume : Nat) : Nat :=
  packFields ([(0, 4, 1), (4, 4, c.live.toNat), (8, 8, resume), (0x5C, 4, c.fpm.toNat), (0x60, 4, c.lfmode.toNat), (0x68, 8, c.rgnWord)] ++
    arrayField 0x10 4 12 (fun k => (Cells.get c.enr k).toNat) ++ arrayField 0x40 4 7 (fun k => (Cells.get c.p k).toNat) ++
    arrayField 0x70 1 32 (fun i => (Cells.get c.depth i).toNat) ++ arrayField 0x100 4 32 (fun i => (Cells.get c.srseed i).toNat) ++
    arrayField 0x200 8 256 (fun k => if k % 8 < (Cells.get c.depth (k / 8)).toNat then (Cells.get c.rstack k).toNat else 0))

/-- The checks of R194 on a block. Bytes of a return stack at or above its lane's depth are not among the zero fields of Table 14, whose row gives
them a value only as `ctxsv` writes them; bits [63:53] and [1:0] of RESUME are not checked either (assumption 93). -/
def controlOk (c : Course) (b : Nat) : Bool :=
  fieldAt b 0 4 == 1 && fieldAt b 4 4 == c.live.toNat && fieldAt b 0x64 4 == 0 && fieldAt b 0x90 112 == 0 && fieldAt b 0x180 128 == 0 &&
  fieldAt b 0x68 8 % 2 == 0 && fieldAt b 0x5C 4 % 8 ≤ 4 &&
  allLanes.all (fun i =>
    let d := fieldAt b (0x70 + i) 1
    d ≤ 8 && (List.range d).all (fun j =>
      let r := fieldAt b (0x200 + 64 * i + 8 * j) 8
      r < 2 ^ 53 && r % 4 == 0))

/-- Load a checked block (R194): the control state and no data register but p0 to p6. Table 2 of R137 has `ctxld` load the other files from the
save area; R192 to R194 give the block none of them, and are followed (assumption 93). -/
def loadControl (c : Course) (b : Nat) : Course :=
  let c1 : Course :=
    { c with
        enr := cellsFrom 32 12 (fun k => fieldAt b (0x10 + 4 * k) 4), waitm := [], waitLen := []
        p := cellsFrom 32 7 (fun k => fieldAt b (0x40 + 4 * k) 4), fpm := BitVec.ofNat 32 (Nat.land (fieldAt b 0x5C 4) 0x001F1F3F)
        lfmode := BitVec.ofNat 32 (fieldAt b 0x60 4 % 2), caught := 0, rgnPc := bits (fieldAt b 0x68 8) 2 51 * 4, rgnOpen := false
        restarts := bits (fieldAt b 0x68 8) 53 11, depth := cellsFrom 4 32 (fun i => fieldAt b (0x70 + i) 1)
        rstack := cellsFrom 53 256 (fun k => if k % 8 < fieldAt b (0x70 + k / 8) 1 then fieldAt b (0x200 + 8 * k) 8 else 0) }
  let c2 := allLanes.foldl (fun c i => c.setSeed i (fieldAt b (0x100 + 4 * i) 4)) c1
  c2.jump c2.live (fun _ => bits (fieldAt b 8 8) 2 51 * 4)

/-- How the translation of a block's lines ended: all may be used, or the first that may not. -/
inductive BlockRes where
  | ok
  | cause (k va : Nat)
  | absent (va : Nat)
deriving DecidableEq, Repr

/-- Translate `n` lines from `va` (R195). -/
def checkBlock (s : State) (u : Use) (va n : Nat) : State × BlockRes :=
  match n with
  | 0 => (s, .ok)
  | k + 1 =>
    match leaseCause s s.cur va u with
    | some e => (s, .cause e va)
    | none =>
      match probe s s.cur.acc s.cur.site va u with
      | (s, .cause e) => (s, .cause (0x70 + e) va)
      | (s, .absent) => (s, .absent va)
      | (s, _) => checkBlock s u (va + 128) k

/-- Store the lines of a block; answers where it stopped, if it did. -/
def storeLines (s : State) (va v n : Nat) : State × Option (Nat × HRes) :=
  match n with
  | 0 => (s, none)
  | k + 1 =>
    match coreStore s s.cur.acc s.cur.site va 128 v with
    | (s, .line _ _) => storeLines s (va + 128) (v / 2 ^ 1024) k
    | (s, .mmio die off) => storeLines (dieWrite s s.cur.ring die off 128 v) (va + 128) (v / 2 ^ 1024) k
    | (s, r) => (s, some (va, r))

/-- `n` bytes that the spec leaves undefined, as a number. -/
def freeNum (k n : Nat) : Nat := packFields (arrayField 0 1 n (fun i => (Config.freeByte (k + i)).toNat))

/-- What a trapping `ctxsv` leaves in its block (R195): free bytes, in every line of it that the course may write. -/
def spoilLines (s : State) (va n : Nat) : State :=
  match n with
  | 0 => s
  | k + 1 =>
    let s := if (leaseCause s s.cur va .write).isSome then s
      else (coreStore { s with fresh := s.fresh + 128 } s.cur.acc s.cur.site va 128 (freeNum s.fresh 128)).1
    spoilLines s (va + 128) k

/-- What a cause that an access of a block finds leaves behind, by the KIND of the instruction: a trapping `ctxld` changes no state (R195). -/
def spoilBlock (s : State) (kind va : Nat) : State := if kind = 1 then spoilLines s va 20 else s

/-- How the reading of a block ended. -/
inductive BlockRead where
  | data (v : Nat)
  | stop (va : Nat) (r : HRes)
  | poison
deriving DecidableEq, Repr

/-- Load the lines of a block. -/
def loadLines (s : State) (va n : Nat) : State × BlockRead :=
  match n with
  | 0 => (s, .data 0)
  | k + 1 =>
    let go (s : State) (d : Nat) : State × BlockRead := match loadLines s (va + 128) k with
      | (s, .data v) => (s, .data (d + v * 2 ^ 1024))
      | (s, r) => (s, r)
    match fetchedLine s.cur va with
    | some d => go s d
    | none =>
      match coreRead s s.cur.acc s.cur.site va 128 0 .read with
      | (s, .line _ _, d, p) => if p then (s, .poison) else go s d
      | (s, .mmio die off, _, _) => go s (dieRead s die off 128)
      | (s, r, _, _) => (s, .stop va r)

/-- The course waits to issue the instruction again whole: for a part, a pin or a peer's line; or a cause against it is raised (R195). `base` is
the block's first address, `va` the line that stopped it. -/
def blockStop (s : State) (kind base va : Nat) (r : HRes) : State :=
  let c := s.cur
  match r with
  | .cause k => raise (spoilBlock s kind base) (0x70 + k) c.live s.iss.pc va 0
  | .pinned => addFetch s c.live va true false none
  | .peer dev => match peerCause s c.asid dev with
    | some k => raise (spoilBlock s kind base) k c.live s.iss.pc va 0
    | none => askLine (addFetch s c.live va false true none) c.acc dev va (.op c.id c.nextOp 0)
  | .absent =>
    if isSoft (windowOf s c) va then
      parkOn (perfAdd (addFetch s c.live va false false (some (partOf va))) c.tenant 0x28 1) (effAsid s c.tenant c.asid va) (partOf va) (c.id, c.nextOp)
        (faultOf c s va kind c.live)
    else if 2 ≤ c.ring then addFetch s c.live va true false none
    else raise (spoilBlock s kind base) 0x55 c.live s.iss.pc 0 0
  | .line _ _ | .mmio _ _ => s

/-- The sub-code of a base that must be a scalar pair (R192): any other base takes sub-code 12, with the causes of its specifier (R98, R101). -/
def scalarBaseSub (s : State) (x : Ops) (o : Opd) : Option Nat := minSub [specSub x o, groupSub s.cur o 2, subIf (!opdIsS o) 12]

/-- What `ctxsv` and `ctxld` share: their checks (R192), then the translation of every line (R195). -/
def controlOp (s : State) (x : Ops) (maj kind : Nat) (u : Use) (body : State → Nat → Out) : Out :=
  let t : STy := .int false true
  issue s maj x (minSub [scalarBaseSub s x x.a, srcSub s x t x.c, uniSub x.c]) (class2 s x (opdRefs x.a 2 ++ opdRefs x.c 1) []) fun _ =>
    let c := s.cur
    let va := addr64 s x 0
    match minSub [subIf (va % 256 ≠ 0) 0x3E, subIf (Config.vaLimit < va + 2560) 0x40, subIf (!(c.reconverged && c.quiet)) 0xB6,
        subIf c.rgnOpen 0x103, subIf (c.ring = 0) 0x133] with
    | some k => .next (raise s k c.live s.iss.pc (if k < 0x50 then va else 0) 0)
    | none =>
      if c.ops.any (fun o => o.isAccess) then stallIssue s
      else match checkBlock s u va 20 with
        | (s, .cause k a) => .next (raise (spoilBlock s kind va) k c.live s.iss.pc (if k < 0x60 then 0 else a) 0)
        | (s, .absent a) => .next (blockStop s kind va a .absent)
        | (s, .ok) => body s va

/-- `ctxsv` (R193). -/
def execCtxsv (x : Ops) (s : State) : Out :=
  controlOp s x 0x16 1 .write fun s va =>
    match storeLines s va (controlBlock s.cur (s.iss.pc + x.len)) 20 with
    | (s, none) => done s x
    | (s, some (a, r)) => .next (blockStop s 1 va a r)

/-- `ctxld` (R194). -/
def execCtxld (x : Ops) (s : State) : Out :=
  controlOp s x 0x17 0 .read fun s va =>
    match loadLines s va 20 with
    | (s, .stop a r) => .next (blockStop s 0 va a r)
    | (s, .poison) => .next (raise s 0x150 s.cur.live s.iss.pc 0 0)
    | (s, .data b) => if controlOk s.cur b then .next (noEligible (s.upd (fun c => loadControl c b))) else trapOut s 0xB7

/-! ### `gangsync` (R196) -/

/-- `gangsync` (R196): the PCs stay until release; once the member has received it, the course continues at once. -/
def execGangsync (x : Ops) (s : State) : Out :=
  issue s 0x18 x none (class2 s x [] []) fun _ =>
    let c := s.cur
    let gang := match findSpan s c.span with | some y => y.rcd.gang | none => false
    match minSub [subIf (!c.reconverged) 0xB9, subIf c.rgnOpen 0x103, subIf (!gang) 0x160] with
    | some k => trapOut s k
    | none =>
      if (getGang s c.gangKey).freed then done s x
      else .next (gangArrive (s.upd (fun c => { c with wait := some .gang })) c.span)

/-! ### Register writes as events -/

/-- A write that a course makes outside an instruction of this model's issue: refused ones trap it where its lowest live lane stands. -/
def eventWrite (s : State) (c : Nat) (f : State → State × Option Nat) : Out :=
  .next (atCourse s c (fun s => match f s with
    | (s, none) => s
    | (s, some k) => raise s k s.cur.live (s.cur.pcOf ((LaneSet.toList s.cur.live).headD 0)) 0 0))

/-- FPM_WRITE (R68). -/
def execFpmWrite (c : Nat) (v : Word) (s : State) : Out := eventWrite s c (fun s => writeFpm s v.toNat)
/-- SRSEED_WRITE (R76). -/
def execSrseedWrite (c : Nat) (m : LaneSet) (v : Word) (s : State) : Out :=
  eventWrite s c (fun s => (s.upd (fun c => (LaneSet.toList m).foldl (fun c i => c.setSeed i v.toNat) c), none))
/-- LFMODE_WRITE (R169). -/
def execLfmodeWrite (c : Nat) (v : Word) (s : State) : Out := eventWrite s c (fun s => writeLfmode s v.toNat)
/-- TCOMMIT_WRITE (R175): held as an `swr` is while a commit runs. -/
def execTcommitWrite (c : Nat) (tables : Byte) (s : State) : Out := eventWrite s c (fun s => ((writeTcommit s tables.toNat).1, none))

/-- REGISTER_WRITE (R167, R414): another special register, at the ring it asks for, or a counter-page word. -/
def execRegisterWrite (c : Nat) (r : RegName) (v : Double) (s : State) : Out :=
  let sr (n : Nat) : Out := eventWrite s c (fun s => match swrCause s n v.toNat with
    | some k => (s, some k)
    | none => writeSr s n v.toNat)
  match r with
  | .frame => sr 0x0A
  | .tvec1 => sr 0x20
  | .tvec2 => sr 0x21
  | .tvec3 => sr 0x22
  | .counterPage die off => eventWrite s c (fun s => (dieWrite s s.cur.ring die off (if off = 0xC08 then 8 else 4) v.toNat, none))

/-- HBEAT_WRITE (R414). -/
def execHbeatWrite (die : Nat) (s : State) : Out := .next (pageWord s 2 die 0 0)
/-- WDCTL_WRITE (R488). -/
def execWdctlWrite (die : Nat) (v : Word) (s : State) : Out := .next (pageWord s 2 die 0x008 v.toNat)

end Sys2Proof.Machine
end

