-- ==== Sys2Proof/Machine/Engine.lean ====
section
/-! DEFINITION. The engine commands (R334 to R355, R364): their checks at issue, what their engines do, and how they complete. -/

namespace Sys2Proof.Machine

/-! ### One access of an engine (R233, R339) -/

/-- How an engine's access ended. -/
inductive EngRes where
  | val (v : Nat)
  | poison
  | refused
  | wait
  /-- waiting for partners (R347) -/
  | idle
  | absent (va : Nat) (write : Bool)
  /-- the command ends with a status -/
  | stop (status : Nat)
  /-- the span ends with a cause -/
  | span (cause : Nat)
deriving DecidableEq, Repr

/-- The access of a command: its engine holds no pin (R228). -/
def engAcc (s : State) (o : Op) : Acc := { s.cur.acc with core := none, ring := o.ring }

/-- The lease check of a command; a course of ring 2 or 3 runs under no lease (assumption 20). -/
def engLease (s : State) (o : Op) (va : Nat) (u : Use) : Bool := decide (o.ring < 2) && (leaseSub (windowOf s s.cur) va u).isSome

/-- Why a peer cannot be reached, as a status (R348, R459). -/
def engPeer (s : State) (dev : Nat) : Option Nat := (peerCause s s.cur.asid dev).map (fun k => if k = 0x165 then 2 else 3)

/-- Read `n` bytes of one line at home. -/
def engPiece (s : State) (o : Op) (va n : Nat) : State × EngRes :=
  let la := lineOf va
  if engLease s o va .read then (s, .span 0x54)
  else match assoc o.data la with
    | some d => (s, if (assoc o.data (la + 1)).isSome then .poison else .val (dataRead (BitVec.ofNat 1024 d) (va % 128) n))
    | none =>
      if invBusy s (effAsid s s.cur.tenant s.cur.asid va) la then (s, .refused)
      else match homeGet s (engAcc s o) va .read with
      | (s, .line l _) => (s, if poisonOf l.poison (va % 128) n then .poison else .val (dataRead l.data (va % 128) n))
      | (s, .mmio die off) => (s, .val (dieRead s die off n))
      | (s, .peer dev) => (match engPeer s dev with
        | some st => (s, .stop st)
        | none => (askLine s (engAcc s o) dev va (.op s.cur.id o.seq 0), .wait))
      | (s, .cause k) => (s, .span (0x70 + k))
      | (s, .absent) => (s, .absent va false)
      | (s, .pinned) => (s, .refused)

/-- Read `n` bytes line by line. -/
def engRead (fuel : Nat) (s : State) (o : Op) (va n : Nat) : State × EngRes :=
  match fuel with
  | 0 => (s, .val 0)
  | f + 1 =>
    if n = 0 then (s, .val 0)
    else
      let k := Nat.min n (128 - va % 128)
      match engPiece s o va k with
      | (s, .val v) => (match engRead f s o (va + k) (n - k) with
        | (s, .val w) => (s, .val (v + w * 2 ^ (8 * k)))
        | r => r)
      | r => r

/-- Remember a peer that a command has written (R234). -/
def engWrote (s : State) (seq dev : Nat) : State :=
  s.upd (fun c => { c with ops := c.ops.map (fun x => if x.seq = seq && (assoc x.got dev).isNone then { x with got := x.got ++ [(dev, 1)] } else x) })

/-- Write the lowest `n` bytes of `v` within one line at home; the copy engine's writes invalidate the line in its core's L1. A peer that cannot be
reached ends the command (R338, R348). -/
def engPut (s : State) (o : Op) (va n v : Nat) : State × EngRes :=
  if engLease s o va .write then (s, .span 0x54)
  else match peerOf s o va with
    | (s, dev) =>
      match dev.bind (engPeer s) with
      | some st => (s, .stop st)
      | none =>
        match homeStore s (engAcc s o) va n v with
        | (s, .line _ _) =>
          let c := s.cur
          let s := if o.copies then l1Stale s c.core (effAsid s c.tenant c.asid va) (lineOf va) else s
          (match dev with | some d => engWrote s o.seq d | none => s, .val 0)
        | (s, .mmio die off) => (dieWrite s o.ring die off n v, .val 0)
        | (s, .peer d) => (engWrote s o.seq d, .val 0)
        | (s, .cause k) => (s, .span (0x70 + k))
        | (s, .absent) => (s, .absent va true)
        | (s, .pinned) => (s, .refused)

/-- Write `n` bytes line by line. -/
def engWrite (fuel : Nat) (s : State) (o : Op) (va n v : Nat) : State × EngRes :=
  match fuel with
  | 0 => (s, .val 0)
  | f + 1 =>
    if n = 0 then (s, .val 0)
    else
      let k := Nat.min n (128 - va % 128)
      match engPut s o va k v with
      | (s, .val _) => engWrite f s o (va + k) (n - k) (v / 2 ^ (8 * k))
      | r => r

/-- Lines that `n` bytes may touch, and one more. -/
def lineFuel (n : Nat) : Nat := n / 128 + 3

/-- The command of a number, as it stands. -/
def engOp (s : State) (seq : Nat) : Option Op := s.cur.ops.find? (fun o => o.seq == seq && o.isEngine)

/-! ### Blocks (R336, R364) -/

/-- Whether the header breaks Table 4. -/
def headerBad (s : State) (v : Nat) : Bool :=
  let ctl := fieldAt v 0 4
  let cnt := fieldAt v 8 8
  decide (16 ≤ ctl) ||
  (if bitAt ctl 1 then cnt % 4 ≠ 0 || decide (scratchSize s < cnt + 4) else Config.vaLimit ≤ cnt || cnt % 4 ≠ 0)

/-- Whether a field that must be zero is not: `n` bytes from `off`. -/
def tailBad (v off : Nat) : Bool := fieldAt v off (64 - off) ≠ 0

/-- The counter add of a block is asked for. -/
def blockCounts (v : Nat) : Bool := bitAt v 0

/-- Lowest byte and the byte after the highest of the rows of a copy (R342). -/
def rowHull (base : Nat) (stride : Int) (rows rlen : Nat) : Int × Int :=
  if rows = 0 then (0, 0)
  else
    let last : Int := base + ((rows - 1 : Nat) : Int) * stride
    (min (base : Int) last, max (base : Int) last + rlen)

/-- Whether two hulls share a byte. -/
def hullsMeet (a b : Int × Int) : Bool := a.1 < a.2 && b.1 < b.2 && a.1 < b.2 && b.1 < a.2

/-- The engine commands of an engine: of a core for `cpy`, of a die for the others; `xch` and `xred` share one (R334). -/
def engineLoad (s : State) (majs : List Nat) (core : Option Nat) (die : Nat) : Nat :=
  ((s.cur :: s.courses).filter (fun c => match core with | some k => c.core == k | none => c.die == die)).foldl (fun acc c =>
    acc + (c.ops.filter (fun o => match o.kind with | .engine _ maj _ _ _ _ _ => memNat maj majs | _ => false)).length) 0

/-- Whether the queue of a command's engine is full (R334 Table 2). -/
def engineFull (s : State) (maj : Nat) : Bool :=
  let c := s.cur
  if maj = 0xD2 then 64 ≤ engineLoad s [0xD2] (some c.core) c.die
  else if maj = 0xD3 || maj = 0xD4 then 32 ≤ engineLoad s [0xD3, 0xD4] none c.die
  else 16 ≤ engineLoad s [maj] none c.die

/-- What every engine command does at issue (R335, R336): its operands, then the block read from scratchpad, with the cause that a poisoned block
gives (R209). -/
def engine (s : State) (x : Ops) (maj : Nat) (body : State → Nat → Option Nat → Out) : Out :=
  let off := addr32 s x 0
  issue s maj x (minSub [statusDst s x, addrSub s x true, uniSub x.a, uniSub x.c]) (class2 s x (addrRefs x true) []) fun _ =>
    if off % 16 ≠ 0 || decide (scratchSize s < off + 64) then trapOut s 0xE0
    else if blockHeld s off 64 then stallIssue s
    else
      let s := readRows s s.cur.bond off 64
      body s (blockAt s off 64) (subIf (blockBad s off 64) 0x150)

/-- The trap of the lowest of the causes of an engine command at issue: a poisoned block traps as its load would (R436). -/
def engineTrap (s : State) (k : Nat) : Out := if k = 0x150 then .next (raise s 0x150 s.cur.live s.iss.pc 0 0) else trapOut s k

/-- The first number of the command itself when it issues: after the release of its acquire. -/
def engPre (s : State) (x : Ops) : List Op :=
  if x.bit 11 then [{ newOp s x (.order (some (x.field 7 3)) none) s.iss.mask with flags := 0 }] else []

/-- The command enters its engine's queue with what it captured; held while the queue is full. -/
def engineEnter (s : State) (x : Ops) (maj : Nat) (bytes : List Byte) (after : State → Nat → State) : Out :=
  if engineFull s maj then stallIssue s
  else
    let pre := engPre s x
    issueOpF s x 1 pre { newOp s x (.engine (destOf x.d) maj x.minor bytes 0 0 false) s.iss.mask with entered := s.turns } []
      (fun s n => after (performSeqs s ((List.range pre.length).map (fun j => n + j))) (n + pre.length))

/-- Checks, then entry. -/
def engineCheck (s : State) (x : Ops) (maj v : Nat) (subs : List (Option Nat)) (after : State → Nat → State) : Out :=
  match minSub (subIf (headerBad s v) 0xE1 :: subs) with
  | some k => engineTrap s k
  | none => engineEnter s x maj (bytesOf 64 v) after

/-! ### `cpy` (R341 to R343) -/

/-- Fields of a `cpy` block. -/
structure Copy where
  ssp : Bool
  dsp : Bool
  src : Nat
  dst : Nat
  rlen : Nat
  rows : Nat
  sstr : Int
  dstr : Int
deriving DecidableEq, Repr

/-- The `cpy` of a block. -/
def copyOf (v : Nat) : Copy :=
  { ssp := bitAt v 2, dsp := bitAt v 3, src := fieldAt v 0x10 8, dst := fieldAt v 0x18 8, rlen := fieldAt v 0x20 4, rows := fieldAt v 0x24 4,
    sstr := toInt 32 (fieldAt v 0x28 4), dstr := toInt 32 (fieldAt v 0x2C 4) }

/-- Whether a side of a copy leaves its space. -/
def sideBad (size : Nat) (sp : Bool) (a : Nat) (h : Int × Int) : Bool :=
  a % 16 ≠ 0 || (if sp then h.1 < 0 || decide ((size : Int) < h.2) else Config.vaLimit ≤ a || h.1 < 0 || decide ((Config.vaLimit : Int) < h.2))

/-- The class-14 sub-codes of a `cpy`. -/
def copySubs (size v : Nat) : List (Option Nat) :=
  let q := copyOf v
  let hs := rowHull q.src q.sstr q.rows q.rlen
  let hd := rowHull q.dst q.dstr q.rows q.rlen
  [subIf (tailBad v 0x30) 0xE1,
   subIf (q.rlen % 16 ≠ 0 || q.rlen = 0 || decide (2 ^ 24 < q.rlen) || decide (65536 < q.rows) || q.sstr % 16 ≠ 0 || q.dstr % 16 ≠ 0 ||
     sideBad size q.ssp q.src hs || sideBad size q.dsp q.dst hd) 0xE2,
   subIf (q.ssp == q.dsp && hullsMeet hs hd) 0xE3]

/-- The scratchpad ranges of a copy, as (first byte, length, written). -/
def copyRanges (q : Copy) : List (Nat × Nat × Bool) :=
  let one (sp : Bool) (h : Int × Int) (w : Bool) : List (Nat × Nat × Bool) := if sp && h.1 < h.2 then [(h.1.toNat, (h.2 - h.1).toNat, w)] else []
  one q.ssp (rowHull q.src q.sstr q.rows q.rlen) false ++ one q.dsp (rowHull q.dst q.dstr q.rows q.rlen) true

/-- The part of a bond that holds a row of its scratchpad. -/
def partOfRow (b : Bond) (row : Nat) : Nat := 128 * row / Nat.max (b.size / Nat.max b.quoins.length 1) 1

/-- Range-scoreboard entries for a range: one on each quoin whose part it touches (R231). -/
def rangeEntries (b : Bond) (course seq : Nat) (prior : List (Nat × Nat)) (r : Nat × Nat × Bool) : List RangeEntry :=
  let lo := r.1 / 128
  let hi := (r.1 + r.2.1 - 1) / 128
  let rows := Nat.max (b.size / Nat.max b.quoins.length 1) 128 / 128
  (List.range b.quoins.length).filterMap (fun j =>
    let l := Nat.max lo (rows * j)
    let h := Nat.min hi (rows * (j + 1) - 1)
    if l ≤ h then some { lo := l, hi := h, write := r.2.2, course := course, seq := seq, prior := prior } else none)

/-- Entries in use on a quoin. -/
def quoinRanges (s : State) (qid : Nat) : Nat :=
  s.bonds.foldl (fun acc b => acc + (b.ranges.filter (fun e => b.quoins.getD (partOfRow b e.lo) 768 == qid)).length) 0

/-- Whether a copy finds no free entry on a quoin it needs. -/
def rangesFull (s : State) (b : Bond) (q : Copy) : Bool :=
  let es := (copyRanges q).flatMap (rangeEntries b 0 0 [])
  b.quoins.any (fun qid =>
    let need := (es.filter (fun e => b.quoins.getD (partOfRow b e.lo) 768 == qid)).length
    need ≠ 0 && decide (32 < quoinRanges s qid + need))

/-- Take a copy's entries. -/
def takeRanges (s : State) (q : Copy) (seq : Nat) : State :=
  match curBond s with
  | none => s
  | some b =>
    let prior := (bondPrior s b.id).map (fun p => if p.1 = s.cur.id then (p.1, seq) else p)
    putBond s { b with ranges := b.ranges ++ (copyRanges q).flatMap (rangeEntries b s.cur.id seq prior) }

/-- `cpy` (R341): held while its scratchpad meets a copy in flight or a queued array command (R232, R282). -/
def execCpy (x : Ops) (s : State) : Out :=
  engine s x 0xD2 fun s v bad =>
    let q := copyOf v
    let c := s.cur
    let held := (copyRanges q).any (fun r => behindCopy s c.id c.nextOp { space := .scr c.bond, lo := r.1, len := r.2.1, write := r.2.2 })
    let full := match curBond s with | some b => rangesFull s b q | none => false
    match minSub (subIf (headerBad s v) 0xE1 :: copySubs (scratchSize s) v ++ [subIf (c.rgnOpen && blockCounts v) 0x103, bad]) with
    | some k => engineTrap s k
    | none => if held || full then stallIssue s else engineEnter s x 0xD2 (bytesOf 64 v) (fun s seq => takeRanges s q seq)

/-- Read `n` bytes of one side of a copy. -/
def sideRead (s : State) (o : Op) (sp : Bool) (a n : Nat) : State × EngRes :=
  if sp then
    let s := readRows s s.cur.bond a n
    (match curBond s with
    | some b => (s, if scratchBad b a n then .poison else .val (scratchRead b a n))
    | none => (s, .val 0))
  else engRead (lineFuel n) s o a n

/-- Write them. -/
def sideWrite (s : State) (o : Op) (sp : Bool) (a n v : Nat) : State × EngRes :=
  if sp then
    let s := readRows s s.cur.bond a n
    (match curBond s with
    | some b => (putBond s (scratchWrite b a n v), .val 0)
    | none => (s, .val 0))
  else engWrite (lineFuel n) s o a n v

/-- Unit `u` of a copy (R342). -/
def copyUnit (s : State) (o : Op) (q : Copy) (u : Nat) : State × EngRes :=
  let per := (q.rlen + 127) / 128
  let r := u / per
  let k := u % per
  let n := Nat.min 128 (q.rlen - 128 * k)
  let a := ((q.src : Int) + r * q.sstr + 128 * k).toNat
  let d := ((q.dst : Int) + r * q.dstr + 128 * k).toNat
  match sideRead s o q.ssp a n with
  | (s, .val v) => sideWrite s o q.dsp d n v
  | (s, .poison) => (s, .stop 1)
  | r => r

/-! ### Units in order (R334, R340) -/

/-- A command has done its units below `u`; lines that peers returned for them are spent. -/
def engAt (s : State) (seq u : Nat) (keep : Bool) : State :=
  s.upd (fun c =>
    { c with
        ops := c.ops.map (fun x =>
          if x.seq = seq then
            (match x.kind with
            | .engine d maj mi b st _ go => { x with kind := .engine d maj mi b st u go, data := if keep then x.data else [] }
            | _ => x)
          else x) })

/-- Perform the units of a command from `u` on, ascending, until one must wait or ends the command. -/
def engUnits (fuel : Nat) (f : State → Op → Nat → State × EngRes) (s : State) (seq u : Nat) : State × EngRes :=
  match fuel with
  | 0 => (s, .stop 0)
  | k + 1 =>
    match engOp s seq with
    | none => (s, .stop 0)
    | some o =>
      match f s o u with
      | (s, .val _) => engUnits k f (engAt s seq (u + 1) false) seq (u + 1)
      | (s, r) => (engAt s seq u true, r)

/-! ### Tag slots (R347) -/

/-- The tag slot of a VF. -/
def findTag (s : State) (vf tag : Nat) : Option TagSlot := s.tags.find? (fun t => t.vf == vf && t.tag == tag)
/-- Put it back, or add it. -/
def putTag (s : State) (t : TagSlot) : State := { s with tags := putWhere (fun x => x.vf == t.vf && x.tag == t.tag) t s.tags }
/-- A slot that nothing has used. -/
def newTag (vf tag : Nat) : TagSlot :=
  { vf := vf, tag := tag, owner := none, check := 0, arrived := 0, early := [], unacked := 0, status := 0, closed := false, parts := [] }
/-- Change the slot of a tag. -/
def updTag (s : State) (vf tag : Nat) (f : TagSlot → TagSlot) : State :=
  { s with tags := updWhere (fun x => x.vf == vf && x.tag == tag) f s.tags }
/-- Free it. -/
def dropTag (s : State) (vf tag : Nat) : State := { s with tags := s.tags.filter (fun x => !(x.vf == vf && x.tag == tag)) }

/-- The XTAG of an exchange command. -/
def xtagOf (maj v : Nat) : Nat := if maj = 0xD3 then fieldAt v 0x30 2 else fieldAt v 0x24 2

/-- Whether an unfinished command of the VF holds a tag (R347). -/
def tagHeld (s : State) (vf tag : Nat) : Bool := match findTag s vf tag with | some t => t.owner.isSome | none => false

/-- Whether a VF has no slot left for another command. -/
def tagsFull (s : State) (vf : Nat) : Bool := 16 ≤ (s.tags.filter (fun t => t.vf == vf && t.owner.isSome)).length

/-- The local command takes the slot of its tag; kept checks that differ from its own end it with status 7. -/
def claimTag (s : State) (vf tag check seq : Nat) : State :=
  let t := match findTag s vf tag with
    | some t => if t.closed then newTag vf tag else t
    | none => newTag vf tag
  putTag s { t with owner := some (s.cur.id, seq), check := check, closed := false, status := if t.early.any (fun e => e.1 ≠ check) then 7 else 0 }

/-- Record a status for a command of a tag; the first stays. -/
def tagStatus (s : State) (vf tag st : Nat) : State := updTag s vf tag (fun t => if t.status = 0 then { t with status := st } else t)

/-! ### Layout maps (R344, R345, R385) -/

/-- A layout map. -/
structure LMap where
  ndim : Nat
  zb : Nat
  sd0 : Nat
  p0 : Nat
  sd1 : Nat
  p1 : Nat
  ord : List Nat
  ext : List Nat
  dev : List Nat
deriving DecidableEq, Repr

/-- The map of 64 bytes. -/
def mapOf (v : Nat) : LMap :=
  { ndim := fieldAt v 0 1, zb := 2 ^ fieldAt v 1 1, sd0 := fieldAt v 2 1, p0 := fieldAt v 3 1, sd1 := fieldAt v 4 1, p1 := fieldAt v 5 1,
    ord := (List.range 4).map (fun j => bits (fieldAt v 6 1) (2 * j) 2), ext := (List.range 4).map (fun d => fieldAt v (8 + 4 * d) 4),
    dev := (List.range 16).map (fun k => fieldAt v (0x18 + k) 1) }

/-- Whether numbers of a list differ from one another. -/
def distinct (xs : List Nat) : Bool :=
  match xs with
  | [] => true
  | x :: rest => !memNat x rest && distinct rest

/-- Whether a map breaks R344 or R385. -/
def mapBad (v : Nat) : Bool :=
  let m := mapOf v
  let e (d : Nat) : Nat := m.ext.getD d 0
  let splitBad (sd p : Nat) : Bool := p = 0 || 16 < p || decide (m.ndim ≤ sd) || (p = 1 && sd ≠ 0) || e sd % p ≠ 0
  m.ndim = 0 || 4 < m.ndim || 4 < fieldAt v 1 1 || splitBad m.sd0 m.p0 || splitBad m.sd1 m.p1 || decide (16 < m.p0 * m.p1) ||
  (1 < m.p0 && 1 < m.p1 && m.sd0 == m.sd1) || fieldAt v 7 1 ≠ 0 || fieldAt v 0x28 24 ≠ 0 ||
  !distinct (m.ord.take m.ndim) || (m.ord.take m.ndim).any (fun d => decide (m.ndim ≤ d)) || (m.ord.drop m.ndim).any (fun d => d ≠ 0) ||
  (m.ext.take m.ndim).any (fun n => n = 0 || decide (2 ^ 24 < n)) || (m.ext.drop m.ndim).any (fun n => n ≠ 0) ||
  !distinct (m.dev.take (m.p0 * m.p1)) || (m.dev.drop (m.p0 * m.p1)).any (fun d => d ≠ 0)

/-- A DEV entry outside the domain. -/
def mapFar (s : State) (v : Nat) : Bool :=
  let m := mapOf v
  (m.dev.take (m.p0 * m.p1)).any (fun d => decide (s.nDev ≤ d))

/-- The local extent of dimension `d`. -/
def LMap.local (m : LMap) (d : Nat) : Nat :=
  let e := m.ext.getD d 0
  let e := if m.p0 ≠ 1 && d = m.sd0 then e / m.p0 else e
  if m.p1 ≠ 1 && d = m.sd1 then e / m.p1 else e

/-- Which block of split `k` an index vector lies in. -/
def LMap.block (m : LMap) (i : List Nat) (sd p : Nat) : Nat := if p = 1 then 0 else i.getD sd 0 * p / m.ext.getD sd 1

/-- `owner(M, i)` (R345). -/
def LMap.owner (m : LMap) (i : List Nat) : Nat := m.dev.getD (m.block i m.sd0 m.p0 + m.p0 * m.block i m.sd1 m.p1) 0

/-- The local index of an index vector in dimension `d`. -/
def LMap.localIx (m : LMap) (i : List Nat) (d : Nat) : Nat := i.getD d 0 % Nat.max (m.local d) 1

/-- `off(M, i)` (R345). -/
def LMap.off (m : LMap) (i : List Nat) : Nat :=
  m.zb * ((m.ord.take m.ndim).foldl (fun acc d => (acc.1 + m.localIx i d * acc.2, acc.2 * m.local d)) (0, 1)).1

/-- Elements of one device's buffer. -/
def LMap.count (m : LMap) : Nat := (List.range m.ndim).foldl (fun acc d => acc * m.local d) 1

/-- The block that a device holds. -/
def LMap.blockOf (m : LMap) (dev : Nat) : Option Nat := (List.range (m.p0 * m.p1)).find? (fun b => m.dev.getD b 16 == dev)

/-- The index vector of local element `n` of block `b`. -/
def LMap.index (m : LMap) (b n : Nat) : List Nat :=
  let parts := ((m.ord.take m.ndim).foldl (fun acc d => (acc.1 ++ [(d, acc.2 % Nat.max (m.local d) 1)], acc.2 / Nat.max (m.local d) 1))
    (([], n) : List (Nat × Nat) × Nat)).1
  (List.range m.ndim).map (fun d =>
    let l := (assoc parts d).getD 0
    let l := if m.p0 ≠ 1 && d = m.sd0 then l + b % m.p0 * m.local d else l
    if m.p1 ≠ 1 && d = m.sd1 then l + b / m.p0 * m.local d else l)

/-! ### `xch` (R346 to R348) -/

/-- An XWR packet (R453): the data of a line under a mask. `kind` tells what it carries: 0 elements, 1 a contribution to a chunk, 2 a chunk's result
(assumption 23); the map check follows the data. -/
def xwrPacket (s : State) (dev vf tag kind check la : Nat) (m : BitVec 128) (d : BitVec 1024) : Packet :=
  { packet s 0x0A dev vf s.cur.harvest la with tag := tag, status := kind, mask := m, data := bytesOf 128 d.toNat ++ bytesOf 2 check }

/-- Send an XWR and await its acknowledgement. -/
def sendXwr (s : State) (p : Packet) : State :=
  updTag (countSent (sendPkt s p) p.vf p.dst) p.vf p.tag (fun t =>
    { t with unacked := t.unacked + 1, unackedBy := putWhere (fun d => d.1 == p.dst) (p.dst, (assoc t.unackedBy p.dst).getD 0 + 1) t.unackedBy })

/-- Send `n` bytes at an address to a peer, line by line. -/
def sendBytes (fuel : Nat) (s : State) (dev vf tag kind check a n v : Nat) : State :=
  match fuel with
  | 0 => s
  | f + 1 =>
    if n = 0 then s
    else
      let k := Nat.min n (128 - a % 128)
      let s := sendXwr s (xwrPacket s dev vf tag kind check (lineOf a) (byteMask (a % 128) k) (dataWrite 0 (a % 128) k v))
      sendBytes f s dev vf tag kind check (a + k) (n - k) (v / 2 ^ (8 * k))

/-- Read one map for the engine: its value, or what the course waits for. A cause that the read meets is raised unless `held`, which says that the
command's tag is held, a lower cause (R102, R347). -/
def readMap (s : State) (va : Nat) (held : Bool) : State × Except State Nat :=
  let c := s.cur
  let o : Op := { seq := c.nextOp, pc := s.iss.pc, kind := .fetch, lanes := c.live, all := c.live, subset := c.live, addrs := [], data := [], got := [], flags := 0, sel := 0,
                  fpm := c.fpm, ring := c.ring, refused := false, peerWait := false, parked := none, entry := 4, chead := [], cdist := [],
                  hold := false, stage := 0, cut := false, etype := 0 }
  match fetchedLine c va with
  | some d => (s, .ok (dataRead (BitVec.ofNat 1024 d) (va % 128) 64))
  | none =>
    match engPiece s o va 64 with
    | (s, .val v) => (s, .ok v)
    | (s, .span k) => (s, .error (endSpan s c.span 1 k))
    | (s, .absent a _) => (s, .error (if c.ring < 2 && !isSoft (windowOf s c) a then endSpan s c.span 1 0x55 else blockStop s 4 va a .absent))
    | (s, .refused) => (s, .error (blockStop s 4 va va .pinned))
    | (s, .wait) => (s, .error (addFetch s c.live va false true none))
    | (s, .poison) => (s, .error (if held then raiseSubset s 0xE6 0 else raise s 0x150 c.live s.iss.pc 0 0))
    | (s, .stop st) => (s, .error (if held then raiseSubset s 0xE6 0 else raise s (if st = 2 then 0x165 else 0x163) c.live s.iss.pc va 0))
    | (s, .idle) => (s, .error s)

/-- The map check: the CRC of both maps (R347, R385). -/
def mapCheck (a b : Nat) : Nat := crcOf (bytesOf 64 a ++ bytesOf 64 b)

/-- The hulls of the local buffers of an `xch`. -/
def xchHulls (s : State) (v a b : Nat) : (Int × Int) × (Int × Int) :=
  let one (base m : Nat) : Int × Int :=
    if ((mapOf m).blockOf s.devId).isSome then ((base : Int), (base : Int) + (mapOf m).zb * (mapOf m).count) else (0, 0)
  (one (fieldAt v 0x10 8) a, one (fieldAt v 0x18 8) b)

/-- The causes of an `xch` that its maps decide. -/
def xchSubs (s : State) (v a b : Nat) : List (Option Nat) :=
  let ma := mapOf a
  let mb := mapOf b
  if mapBad a || mapBad b then [some 0xE4, subIf (!mapBad a && mapFar s a) 0xE5]
  else
    let h := xchHulls s v a b
    [subIf (fieldAt v 0x10 8 % ma.zb ≠ 0 || fieldAt v 0x18 8 % mb.zb ≠ 0 || decide ((Config.vaLimit : Int) < h.1.2) || decide ((Config.vaLimit : Int) < h.2.2)) 0xE2,
     subIf (hullsMeet h.1 h.2) 0xE3, subIf (ma.ndim ≠ mb.ndim || ma.ext ≠ mb.ext || ma.zb ≠ mb.zb) 0xE4, subIf (mapFar s a || mapFar s b) 0xE5]

/-- `xch` (R346). Inside a region it traps before its maps are read (R51; assumption 97). -/
def execXch (x : Ops) (s : State) : Out :=
  engine s x 0xD3 fun s v bad =>
    let vf := vfOfAsid s s.cur.asid
    let held := tagHeld s vf (xtagOf 0xD3 v)
    let sm := fieldAt v 0x20 8
    let dm := fieldAt v 0x28 8
    let far (a : Nat) : Bool := a % 64 ≠ 0 || decide (Config.vaLimit < a + 64)
    match minSub [subIf (headerBad s v || tailBad v 0x32) 0xE1,
        subIf (far sm || far dm || Config.vaLimit ≤ fieldAt v 0x10 8 || Config.vaLimit ≤ fieldAt v 0x18 8) 0xE2,
        subIf (held && (s.cur.rgnOpen || bad.isSome)) 0xE6, subIf s.cur.rgnOpen 0x103, bad] with
    | some k => engineTrap s k
    | none =>
      match readMap s sm held with
      | (_, .error t) => .next t
      | (s, .ok a) =>
        match readMap s dm held with
        | (_, .error t) => .next t
        | (s, .ok b) =>
          match minSub (xchSubs s v a b ++ [subIf held 0xE6]) with
          | some k => trapOut s k
          | none =>
            if tagsFull s vf then stallIssue s
            else engineEnter s x 0xD3 (bytesOf 64 v ++ bytesOf 64 a ++ bytesOf 64 b) (fun s seq => claimTag s vf (xtagOf 0xD3 v) (mapCheck a b) seq)

/-- Read the 4 KiB unit that starts with element `u` of a source buffer of `count` elements (R334, R346); inside a unit nothing is read ahead. -/
def xchAhead (s : State) (o : Op) (src zb count u : Nat) : State × EngRes :=
  let n := Nat.min 4096 (zb * (count - u))
  if zb * u % 4096 = 0 then engRead (lineFuel n) s o (src + zb * u) n else (s, .val 0)

/-- Element `u` of the local source buffer of an exchange (R346), after its 4 KiB unit has been read. -/
def xchUnit (v a b vf : Nat) (s : State) (o : Op) (u : Nat) : State × EngRes :=
  let ma := mapOf a
  let mb := mapOf b
  match ma.blockOf s.devId with
  | none => (s, .val 0)
  | some blk =>
    let i := ma.index blk u
    let dev := mb.owner i
    let d := fieldAt v 0x18 8 + mb.off i
    let ahead := xchAhead s o (fieldAt v 0x10 8) ma.zb ma.count u
    let s := ahead.1
    match (match ahead.2 with | .val _ => engRead 2 s o (fieldAt v 0x10 8 + ma.zb * u) ma.zb | r => (s, r)) with
    | (s, .val e) =>
      if dev = s.devId then engWrite 2 s o d ma.zb e
      else match engPeer s dev with
        | some st => (tagStatus s vf (xtagOf 0xD3 v) st, .val 0)
        | none => (engWrote (sendBytes 2 s dev vf (xtagOf 0xD3 v) 0 (mapCheck a b) d ma.zb e) o.seq dev, .val 0)
    | (s, .poison) => (s, .stop 1)
    | r => r

/-- Bytes that the maps send to this device from its peers. -/
def xchExpected (s : State) (a b : Nat) : Nat :=
  match (mapOf b).blockOf s.devId with
  | none => 0
  | some blk => (mapOf b).zb * ((List.range (mapOf b).count).filter (fun n => (mapOf a).owner ((mapOf b).index blk n) ≠ s.devId)).length

/-- Elements that an exchange reads at its source. -/
def xchUnits (s : State) (a : Nat) : Nat := if ((mapOf a).blockOf s.devId).isSome then (mapOf a).count else 0

/-- Write free bytes over `n` bytes from `va`: what the spec leaves undefined after a mismatch (R347). -/
def freeBytes (s : State) (a : Acc) (va n : Nat) : State :=
  match n with
  | 0 => s
  | k + 1 => freeBytes (bumpFresh (homeStore s a va 1 (Config.freeByte s.fresh).toNat).1) a (va + 1) k

/-- The bytes of a line under a mask become free values. -/
def freeLine (s : State) (a : Acc) (la : Nat) (m : BitVec 128) : State :=
  ((List.range 128).filter (fun j => m.getLsbD j)).foldl (fun s j => freeBytes s a (la + j) 1) s

/-- A local command that its partners' checks contradict (R347): its destination and what early packets wrote are undefined. -/
def xchMismatch (s : State) (o : Op) (v a b vf : Nat) : State :=
  let h := (xchHulls s v a b).2
  let acc := engAcc s o
  let s := match findTag s vf (xtagOf 0xD3 v) with
    | some t => t.early.foldl (fun s e => freeLine s acc e.2.1 (BitVec.ofNat 128 e.2.2)) s
    | none => s
  freeBytes s acc h.1.toNat (h.2 - h.1).toNat

/-! ### `xred` (R350, R351) -/

/-- Fields of an `xred` block. -/
structure Red where
  src : Nat
  dst : Nat
  count : Nat
  tag : Nat
  members : List Nat
  fmt : Nat
  opr : Nat
  mode : Nat
  root : Nat
deriving DecidableEq, Repr

/-- The `xred` of a block. -/
def redOf (v : Nat) : Red :=
  { src := fieldAt v 0x10 8, dst := fieldAt v 0x18 8, count := fieldAt v 0x20 4, tag := fieldAt v 0x24 2,
    members := (List.range 16).filter (fun d => (fieldAt v 0x26 2).testBit d), fmt := fieldAt v 0x28 1, opr := fieldAt v 0x29 1,
    mode := fieldAt v 0x2A 1, root := fieldAt v 0x2B 1 }

/-- Bytes of an element. -/
def Red.size (r : Red) : Nat := if r.fmt = 1 || r.fmt = 2 then 2 else if r.fmt = 14 then 8 else 4

/-- Chunks. -/
def Red.chunks (r : Red) : Nat := (r.count + 1023) / 1024

/-- The owner of a chunk. -/
def Red.owner (r : Red) (c : Nat) : Nat := r.members.getD (c % Nat.max r.members.length 1) 0

/-- Elements of a chunk. -/
def Red.elems (r : Red) (c : Nat) : Nat := Nat.min 1024 (r.count - 1024 * c)

/-- Whether the format is one of Table 9. -/
def redFmt (f : Nat) : Bool := f = 0 || f = 1 || f = 2 || f = 14 || f = 15

/-- The class-14 sub-codes of an `xred`. -/
def redSubs (s : State) (v : Nat) : List (Option Nat) :=
  let r := redOf v
  let n := r.count * r.size
  let fits (a : Nat) : Bool := a % r.size = 0 && a + n ≤ Config.vaLimit
  [subIf (tailBad v 0x2C) 0xE1,
   subIf (r.count = 0 || decide (2 ^ 30 < r.count) || !memNat s.devId r.members || !redFmt r.fmt || 2 < r.opr || 2 < r.mode || !memNat r.root r.members ||
     !fits r.src || !fits r.dst) 0xE2,
   subIf (meets r.src n r.dst n) 0xE3, subIf (r.members.any (fun d => decide (s.nDev ≤ d))) 0xE5]

/-- `xred` (R350). -/
def execXred (x : Ops) (s : State) : Out :=
  engine s x 0xD4 fun s v bad =>
    let vf := vfOfAsid s s.cur.asid
    let tag := xtagOf 0xD4 v
    match minSub (subIf (headerBad s v) 0xE1 :: redSubs s v ++ [subIf (tagHeld s vf tag) 0xE6, subIf s.cur.rgnOpen 0x103, bad]) with
    | some k => engineTrap s k
    | none => if tagsFull s vf then stallIssue s else engineEnter s x 0xD4 (bytesOf 64 v) (fun s seq => claimTag s vf tag 0 seq)

/-- Keep the bytes of a contribution: (member, byte offset in the array, byte). -/
def keepParts (s : State) (vf tag member off n v : Nat) : State :=
  updTag s vf tag (fun t => { t with parts := t.parts ++ (List.range n).map (fun j => (member, off + j, fieldAt v j 1)) })

/-- One step of a fold, in FP32, FP64 or INT32 (R351). -/
def redOpr (fmt opr a b : Nat) : Nat :=
  let md : FMode := { rm := 0, daz := false, ftz := false, sat := false }
  if fmt = 15 then
    (match opr with
    | 0 => (a + b) % 2 ^ 32
    | 1 => if toInt 32 b < toInt 32 a then b else a
    | _ => if toInt 32 a < toInt 32 b then b else a)
  else
    let code := if fmt = 14 then 14 else 0
    let f := (fpFmt code).getD fp32
    match opr with
    | 0 => (fAdd code f md (readF code f false a) (readF code f false b)).bits
    | k => (fMinMax (k ≠ 1) code f md a b).bits

/-- An element as the fold takes it: FP16 and BF16 widened exactly. -/
def redWiden (fmt v : Nat) : Nat :=
  if fmt = 1 || fmt = 2 then
    (match fpFmt fmt with
    | some f => (deliver 0 fp32 { rm := 0, daz := false, ftz := false, sat := false } false (readF fmt f false v)).bits
    | none => v)
  else v

/-- The folded value rounded to the format. -/
def redNarrow (fmt v : Nat) : Nat :=
  if fmt = 1 || fmt = 2 then
    (match fpFmt fmt with
    | some f => (deliver fmt f { rm := 0, daz := false, ftz := false, sat := false } false (readF 0 fp32 false v)).bits
    | none => v)
  else v

/-- A byte of a member's contribution. -/
def partByte (parts : List (Nat × Nat × Nat)) (m off : Nat) : Option Nat := (parts.find? (fun p => p.1 == m && p.2.1 == off)).map (fun p => p.2.2)

/-- The result of a fold of one member in FP32 or FP64: a NaN is canonical all the same (R351). -/
def redAlone (fmt v : Nat) : Nat :=
  if fmt = 0 || fmt = 14 then
    (match fpFmt fmt with
    | some f => (deliver fmt f { rm := 0, daz := false, ftz := false, sat := false } false (readF fmt f false v)).bits
    | none => v)
  else v

/-- Fold the members' values of an element, in ascending member order. -/
def redElem (r : Red) (parts : List (Nat × Nat × Nat)) (e : Nat) : Nat :=
  let vs := r.members.map (fun m =>
    redWiden r.fmt (packFields ((List.range r.size).map (fun k => (k, 1, (partByte parts m (e * r.size + k)).getD 0)))))
  match vs with
  | [] => 0
  | [x] => redNarrow r.fmt (redAlone r.fmt x)
  | x :: rest => redNarrow r.fmt (rest.foldl (redOpr r.fmt r.opr) x)

/-- Whether the values of some members of a chunk are there. -/
def redReady (r : Red) (members : List Nat) (parts : List (Nat × Nat × Nat)) (c : Nat) : Bool :=
  members.all (fun m => (List.range (r.elems c * r.size)).all (fun j => (partByte parts m (1024 * c * r.size + j)).isSome))

/-- The devices that a chunk's result is written on. -/
def redTargets (r : Red) (c : Nat) : List Nat := match r.mode with | 0 => r.members | 1 => [r.owner c] | _ => [r.root]

/-- The contribution of a chunk: kept when this device owns it, else sent to its owner. -/
def redSend (r : Red) (vf c : Nat) (s : State) (o : Op) : State × EngRes :=
  let off := 1024 * c * r.size
  let n := r.elems c * r.size
  match engRead (lineFuel n) s o (r.src + off) n with
  | (s, .val v) =>
    let dev := r.owner c
    if dev = s.devId then
      (keepParts s vf r.tag dev off n v, .val 0)
    else match engPeer s dev with
      | some st => (tagStatus s vf r.tag st, .val 0)
      | none => (sendBytes (lineFuel n) s dev vf r.tag 1 0 off n v, .val 0)
  | (s, .poison) => (s, .stop 1)
  | t => t

/-- Whether a chunk's fold waits for members that can be reached. -/
def redWaits (s : State) (r : Red) (t : TagSlot) (c : Nat) : Bool := !redReady r (r.members.filter (fun m => (engPeer s m).isNone || m = s.devId)) t.parts c

/-- Fold a chunk that this device owns and deliver its result. A chunk that waits for none but members out of reach is not folded: the command has its
status from them (R348). -/
def redFold1 (r : Red) (vf c : Nat) (s : State) (o : Op) : State × EngRes :=
  let t := (findTag s vf r.tag).getD (newTag vf r.tag)
  if r.owner c ≠ s.devId then (s, .val 0)
  else if redWaits s r t c then (s, .idle)
  else if !redReady r r.members t.parts c then
    let far := r.members.filterMap (fun m => if m = s.devId then none else engPeer s m)
    (tagStatus s vf r.tag (far.headD 3), .val 0)
  else
    let v := packFields ((List.range (r.elems c)).map (fun j => (j * r.size, r.size, redElem r t.parts (1024 * c + j))))
    let off := 1024 * c * r.size
    let n := r.elems c * r.size
    let mine := redTargets r c
    match if memNat s.devId mine then engWrite (lineFuel n) s o (r.dst + off) n v else (s, .val 0) with
    | (s, .val _) =>
      let s := (mine.filter (fun d => d ≠ s.devId)).foldl (fun s d =>
        match engPeer s d with
        | some st => tagStatus s vf r.tag st
        | none => engWrote (sendBytes (lineFuel n) s d vf r.tag 2 0 off n v) o.seq d) s
      (updTag s vf r.tag (fun t => { t with parts := t.parts.filter (fun p => p.2.1 / (1024 * r.size) ≠ c) }), .val 0)
    | t => t

/-- Unit `u` of a reduction: first every chunk's contribution, then every chunk's fold. -/
def redUnit (v vf : Nat) (s : State) (o : Op) (u : Nat) : State × EngRes :=
  let r := redOf v
  if u < r.chunks then redSend r vf u s o else redFold1 r vf (u - r.chunks) s o

/-- Bytes of results that come from peers. -/
def redExpected (s : State) (v : Nat) : Nat :=
  let r := redOf v
  ((List.range r.chunks).filter (fun c => r.owner c ≠ s.devId && memNat s.devId (redTargets r c))).foldl (fun acc c => acc + r.elems c * r.size) 0

/-! ### `hash`, `sigv`, `scrub` (R353 to R355) -/

/-- `hash` (R353). -/
def execHash (x : Ops) (s : State) : Out :=
  engine s x 0xD5 fun s v bad =>
    let src := fieldAt v 0x10 8
    let len := fieldAt v 0x18 8
    let dst := fieldAt v 0x20 8
    let size := if fieldAt v 0x28 1 = 1 then 32 else 48
    engineCheck s x 0xD5 v
      [subIf (tailBad v 0x29) 0xE1,
       subIf (decide (2 ^ 40 < len) || Config.vaLimit ≤ src || decide (Config.vaLimit < src + len) || dst % 16 ≠ 0 || decide (Config.vaLimit < dst + size) ||
         1 < fieldAt v 0x28 1) 0xE2,
       subIf (s.cur.rgnOpen && blockCounts v) 0x103, bad] (fun s _ => s)

/-- Blocks of a `hash`. -/
def hashBlocks (v : Nat) : Nat := shaCount (fieldAt v 0x28 1 == 0) (fieldAt v 0x18 8)

/-- The hash value after the blocks done is kept with the command, beside the peers it has written. -/
def keepHash (s : State) (o : Op) (h : List Nat) : State := putOp s { o with got := o.got.filter (fun p => p.1 ≠ 16) ++ [(16, shaPack h)] }

/-- Padded block `u` of a `hash` (R334, R353): the last writes the digest; poison in the source leaves none. -/
def hashUnit (v : Nat) (s : State) (o : Op) (u : Nat) : State × EngRes :=
  let wide : Bool := fieldAt v 0x28 1 == 0
  let z := shaBlockBytes wide
  let len := fieldAt v 0x18 8
  let n := Nat.min z (len - z * u)
  match engRead 3 s o (fieldAt v 0x10 8 + z * u) n with
  | (s, .val m) =>
    let h0 := match assoc o.got 16 with | some x => shaUnpack x | none => shaInit wide
    let h := shaBlock wide h0 (beWords (z / 16) (shaPadded wide len u (bytesOf n m)) 16)
    if u + 1 < hashBlocks v then (keepHash s o h, .val 0)
    else
      let d := shaOut wide h
      engWrite 3 s o (fieldAt v 0x20 8) d.length (numOf d)
  | (s, .poison) => (s, .stop 1)
  | r => r

/-- `sigv` (R354). -/
def execSigv (x : Ops) (s : State) : Out :=
  engine s x 0xD6 fun s v poisoned =>
    let bad (a n : Nat) : Bool := a % 16 ≠ 0 || decide (Config.vaLimit < a + n)
    engineCheck s x 0xD6 v
      [subIf (tailBad v 0x28) 0xE1, subIf (bad (fieldAt v 0x10 8) 48 || bad (fieldAt v 0x18 8) 96 || bad (fieldAt v 0x20 8) 96) 0xE2,
       subIf (s.cur.rgnOpen && blockCounts v) 0x103, poisoned] (fun s _ => s)

/-- Read three operands in order. -/
def read3 (s : State) (o : Op) (a na b nb c nc : Nat) : State × Except EngRes (Nat × Nat × Nat) :=
  match engRead 3 s o a na with
  | (s, .val x) =>
    match engRead 3 s o b nb with
    | (s, .val y) =>
      match engRead 3 s o c nc with
      | (s, .val z) => (s, .ok (x, y, z))
      | (s, r) => (s, .error r)
    | (s, r) => (s, .error r)
  | (s, r) => (s, .error r)

/-- The verification of a `sigv` (R354). -/
def sigvUnit (v : Nat) (s : State) (o : Op) (_u : Nat) : State × EngRes :=
  match read3 s o (fieldAt v 0x10 8) 48 (fieldAt v 0x18 8) 96 (fieldAt v 0x20 8) 96 with
  | (s, .ok (d, k, g)) =>
    let be (x off : Nat) : Nat := beNum (bytesOf 48 (fieldAt x off 48))
    (s, if ecdsaValid (be d 0) (be k 0) (be k 48) (be g 0) (be g 48) then .val 0 else .stop 6)
  | (s, .error .poison) => (s, .stop 1)
  | (s, .error r) => (s, r)

/-- Whether a frame may be scrubbed: Free, with every cached line invalidated (R379). -/
def scrubbable (s : State) (f : Nat) : Bool := (frameEntry s f).state == 0 && (frameEntry s f).inv

/-- `scrub` (R355). -/
def execScrub (x : Ops) (s : State) : Out :=
  engine s x 0xD7 fun s v bad =>
    let f := fieldAt v 0x10 8
    let n := fieldAt v 0x18 4
    engineCheck s x 0xD7 v
      [subIf (tailBad v 0x1C) 0xE1,
       subIf (524288 ≤ f || n = 0 || 4096 < n || decide (524288 < f + n) || (List.range (Nat.min n 4096)).any (fun j => !scrubbable s (f + j))) 0xE2,
       subIf s.cur.rgnOpen 0x103, subIf (s.cur.ring < 2) 0x136, bad] (fun s _ => s)

/-- Put a frame-state entry into force. -/
def putFrame (s : State) (e : FrameEntry) : State := { s with frames := putWhere (fun x => x.frame == e.frame) e s.frames }

/-- The address of a frame's entry in the frame-state table. -/
def framePa (s : State) (frame : Nat) : Nat := physRead s (s.boot.troot + 0x10) 8 + 8 * frame

/-- Zero a frame in HBM, with new check bits, and set its SCRUB bit in the frame-state table, of which nothing else changes (R355, R378). -/
def scrubUnit (v : Nat) (s : State) (_o : Op) (u : Nat) : State × EngRes :=
  let f := fieldAt v 0x10 8 + u
  let s :=
    { s with
        mem := Cells.drop s.mem (2097152 * f) (2097152 * (f + 1))
        hpoison := Cells.drop s.hpoison (32768 * f) (32768 * (f + 1))
        hmeta := Cells.drop s.hmeta (32768 * f) (32768 * (f + 1)) }
  let b := physHomeRead s (framePa s f) 1
  (physHomeWrite (putFrame s { frameEntry s f with scrub := true }) (framePa s f) 1 (if bitAt b 2 then b else b + 4), .val 0)

/-! ### The course of a command (R337 to R340) -/

/-- Perform what a command can of its body now. -/
def engineBody (s : State) (seq maj : Nat) (block : List Byte) (u : Nat) : State × EngRes :=
  let v := numOf (block.take 64)
  let a := numOf ((block.drop 64).take 64)
  let b := numOf (block.drop 128)
  let vf := vfOfAsid s s.cur.asid
  let run (total : Nat) (f : State → Op → Nat → State × EngRes) : State × EngRes := engUnits (total - u) f s seq u
  match maj with
  | 0xD2 =>
    let q := copyOf v
    run (q.rows * ((q.rlen + 127) / 128)) (fun s o u => copyUnit s o q u)
  | 0xD3 =>
    (match findTag s vf (xtagOf 0xD3 v), engOp s seq with
    | some t, some o => if t.early.any (fun e => e.1 ≠ t.check) then (xchMismatch s o v a b vf, .stop 7) else run (xchUnits s a) (xchUnit v a b vf)
    | _, _ => run (xchUnits s a) (xchUnit v a b vf))
  | 0xD4 => run (2 * (redOf v).chunks) (redUnit v vf)
  | 0xD5 => run (hashBlocks v) (hashUnit v)
  | 0xD6 => run 1 (sigvUnit v)
  | _ => run (fieldAt v 0x18 4) (scrubUnit v)

/-- The counter add of a command (R337), performed whatever its status; one at a peer is awaited. -/
def engineCount (s : State) (o : Op) (v : Nat) : State × EngRes :=
  let cnt := fieldAt v 8 8
  let inc := fieldAt v 4 4
  if !blockCounts v then (s, .val 0)
  else if bitAt v 1 then
    let s := readRows s s.cur.bond cnt 4
    (match curBond s with
    | some b => (if scratchBad b cnt 4 then s else putBond s (scratchWrite b cnt 4 (scratchRead b cnt 4 + inc)), .val 0)
    | none => (s, .val 0))
  else if engLease s o cnt .write then (s, .span 0x54)
  else match engineAdd s (engAcc s o) cnt inc (.op s.cur.id o.seq 0) with
    | (s, .done) => (s, .val 0)
    | (s, .asked) => (s, .wait)
    | (s, .refused) => (s, .refused)
    | (s, .absent) => (s, .absent cnt true)
    | (s, .cause k) => (s, if k < 16 then .span (0x70 + k) else .stop (if k = 0x165 then 2 else 3))

/-- A command whose units are done or will not be: it holds no range any more (R231). -/
def engineEnd (s : State) (seq st : Nat) : State :=
  let s := match engOp s seq with
    | some o => (match o.kind with
      | .engine d maj mi b _ u _ => putOp s { o with kind := .engine d maj mi b st u true, data := [], refused := false, stage := 1 }
      | _ => s)
    | none => s
  match curBond s with
  | some b => unstallAll (putBond s { b with ranges := b.ranges.filter (fun e => !(e.course == s.cur.id && e.seq == seq)) })
  | none => unstallAll s

/-- What follows when a command has gone as far as it can: it waits for a pin, a peer or a part (R360), its units are done, or its span ends, and the
command with status 8 (R339). -/
def engineSettle (s : State) (seq : Nat) (r : EngRes) : State :=
  match engOp s seq with
  | none => s
  | some o =>
    let c := s.cur
    let fail (k : Nat) : State := if (findSpan s c.span).isSome then endSpan s c.span 1 k else engineEnd s seq 8
    match r with
    | .val _ | .idle => s
    | .poison => engineEnd s seq 1
    | .stop st => engineEnd s seq st
    | .refused => putOp s { o with refused := true }
    | .wait => putOp s { o with peerWait := true }
    | .span k => fail k
    | .absent va w =>
      if 2 ≤ o.ring then putOp s { o with refused := true }
      else if isSoft (windowOf s c) va then
        let f := { faultOf c s va (if w then 5 else 4) 0 with engine := true }
        parkOn (putOp s { o with parked := some (partOf va) }) (effAsid s c.tenant c.asid va) (partOf va) (c.id, seq) f
      else fail 0x55

/-- Whether an access of an operation to its own bond's scratchpad is still to be performed. -/
def scratchOpen (s : State) (c : Course) (o : Op) : Bool := (opRanges s c o).any (fun r => r.space == .scr c.bond)

/-- Whether a command of a course may start or go on: what orders the course's later accesses is done, a copy's earlier scratchpad accesses of the course
are performed (R231), and it waits for nothing of its own. -/
def engineFree (s : State) (c : Course) (o : Op) : Bool :=
  let before := c.ops.takeWhile (fun q => q.seq ≠ o.seq)
  o.entry ≠ 1 && o.entry ≠ 3 && !o.peerWait && o.parked.isNone && o.stage = 0 && !before.any Op.holdsLater && !(o.copies && before.any (scratchOpen s c))

/-- Whether a command holds no unit because its next fold waits for its partners (R347). -/
def engineIdle (s : State) (c : Course) (o : Op) : Bool :=
  match o.kind with
  | .engine _ 0xD4 _ b _ u true =>
    let v := numOf (b.take 64)
    let r := redOf v
    let vf := vfOfAsid s c.asid
    r.chunks ≤ u && r.owner (u - r.chunks) = s.devId && redWaits s r ((findTag s vf r.tag).getD (newTag vf r.tag)) (u - r.chunks)
  | _ => false

/-- The engine of a command: its class among the engines of a die, and the core of a copy engine (R334 Table 2). -/
def engineOf (c : Course) (o : Op) : Option (Nat × Nat) :=
  match o.kind with
  | .engine _ maj _ _ _ _ _ => some (if maj = 0xD2 then (0xD2, c.core) else (if maj = 0xD4 then 0xD3 else maj, c.die))
  | _ => none

/-- Whether an engine takes a command now: its oldest guaranteed one that can proceed, and a harvest one only when none can (R334). -/
def engineFirst (s : State) (o : Op) : Bool :=
  let c := s.cur
  (s.cur :: s.courses).all (fun d => d.ops.all (fun p =>
    (d.id == c.id && p.seq == o.seq) || engineOf d p ≠ engineOf c o || p.refused || !engineFree s d p || engineIdle s d p ||
      (if d.harvest ≠ c.harvest then d.harvest else o.entered < p.entered || (o.entered = p.entered && (d.id ≠ c.id || o.seq < p.seq)))))

/-- Start a command, or go on with its body. -/
def engineGo (s : State) (o : Op) : State :=
  match o.kind with
  | .engine d maj mi b st u _ =>
    if !engineFree s s.cur o || engineIdle s s.cur o || !engineFirst s o then s
    else
      let s := putOp s { o with refused := false, kind := .engine d maj mi b st u true }
      if st ≠ 0 then engineEnd s o.seq st
      else
        let r := engineBody s o.seq maj b u
        engineSettle r.1 o.seq r.2
  | _ => s

/-- The slot of the tag that an exchange command holds (R347); a command that timed out or whose span has ended holds none. -/
def ownTag (s : State) (o : Op) (maj v : Nat) : Option TagSlot :=
  if maj = 0xD3 || maj = 0xD4 then
    (findTag s (vfOfAsid s s.cur.asid) (xtagOf maj v)).bind (fun t => if t.owner == some (s.cur.id, o.seq) then some t else none)
  else none

/-- Whether an exchange command waits for nothing more from its partners; with a status it waits only for acknowledgements (R347, R348). -/
def exchangeDone (s : State) (o : Op) (maj st : Nat) (b : List Byte) : Bool :=
  let v := numOf (b.take 64)
  match ownTag s o maj v with
  | some t => t.unacked = 0 && (st ≠ 0 || t.status ≠ 0 ||
      decide ((if maj = 0xD3 then xchExpected s (numOf ((b.drop 64).take 64)) (numOf (b.drop 128)) else redExpected s v) ≤ t.arrived))
  | none => true

/-- The status of a command, the first recorded: its own, its exchange's, else `st'`. -/
def engineStatus (s : State) (o : Op) (maj st v st' : Nat) : Nat :=
  let tag := match ownTag s o maj v with | some t => t.status | none => 0
  if st ≠ 0 then st else if tag ≠ 0 then tag else st'

/-- A command is complete (R337, R338): its slot is freed, its status delivered, and with D Zero a non-zero one is reported. -/
def engineDeliver (s : State) (o : Op) (d : Dest) (maj st : Nat) : State :=
  let s := { s with tags := s.tags.filter (fun t => t.owner ≠ some (s.cur.id, o.seq)) }
  let s := unstallAll (finishOp s o [(0, st)])
  if d = .none && st ≠ 0 then lateCause s s.cur.id o.ring o.pc 0xE8 (st + 256 * maj) (st + 256 * maj) else s

/-- The last steps of a command: its counter add, then its status (R337, R338). An add that meets a cause ends the span; of a command whose span has
ended such an add is not made. -/
def engineFinish (s : State) (o : Op) (d : Dest) (maj st v : Nat) : State :=
  let done (s : State) (st' : Nat) : State := engineDeliver s o d maj (engineStatus s o maj st v st')
  if o.stage = 3 then done s ((assoc o.got 17).getD 0)
  else match engineCount s o v with
    | (s, .val _) => done s 0
    | (s, .stop k) => done s k
    | (s, .wait) => putOp s { o with stage := 3, peerWait := true }
    | (s, .refused) => putOp s { o with refused := true }
    | (s, r) => if s.cur.stopped || (findSpan s s.cur.span).isNone then done s 8 else engineSettle s o.seq r

/-- The peers that a command has written (R234). -/
def engineWritten (o : Op) : List Nat := (o.got.map (fun p => p.1)).filter (fun d => d < 16)

/-- Complete a command whose body is done: copies at peers of what it wrote are invalidated (R457), its release with a flushing read to every peer
written at system scope (R234), its counter add and its status. -/
def engineComplete (s : State) (o : Op) : State :=
  match o.kind with
  | .engine d maj mi b st u go =>
    let v := numOf (b.take 64)
    if o.stage = 0 || o.peerWait || o.parked.isSome || !exchangeDone s o maj st b || invOpen s (asidsOf s s.cur.tenant s.cur.asid) || destHeld s.cur o then s
    else
      let o := { o with refused := false }
      let s := putOp s o
      if o.stage = 1 && mi.getLsbD 10 && (mi.extractLsb' 7 3).toNat = 6 then
        let out := (engineWritten o).filterMap (engPeer s)
        let peers := (engineWritten o).filter (fun dev => (engPeer s dev).isNone)
        let o := { o with kind := .engine d maj mi b (if st = 0 then out.headD 0 else st) u go, stage := 2 }
        if peers.isEmpty then engineFinish (putOp s o) o d maj (if st = 0 then out.headD 0 else st) v
        else
          let vf := vfOfAsid s s.cur.asid
          putOp (peers.foldl (fun s dev => sendReq s (frdPacket s dev vf) (.op s.cur.id o.seq dev)) s) { o with peerWait := true }
      else engineFinish s o d maj st v
  | _ => s

/-- ENGINE_COMMAND_START (R337): a command starts, or goes on with its units. -/
def execEngineCommandStart (c k : Nat) (s : State) : Out := onOp s c k Op.isEngine engineGo

/-- ENGINE_COMMAND_COMPLETION (R337). -/
def execEngineCommandCompletion (c k : Nat) (s : State) : Out := onOp s c k Op.isEngine engineComplete

/-! ### Requests sent again (R228, R369) -/

/-- Send a refused request of an operation again. -/
def retryOp (s : State) (c k : Nat) : Out :=
  onOp s c k (fun o => o.refused) (fun s o =>
    let o := { o with refused := false }
    let s := putOp s o
    match o.kind with
    | .fetch => s
    | .enq _ va q => if opReady s s.cur o then performEnq s o va q else s
    | .lease _ form h rs => if o.stage = 1 then lrqAdd s o ((assoc o.got 0).getD 0) else leaseStep s o form h rs
    | .engine _ _ _ _ _ _ _ => if o.stage = 0 then engineGo s o else engineComplete s o
    | .load _ _ _ _ | .loadC _ _ _ _ | .store _ _ | .atomic _ _ _ _ | .loadS _ _ | .storeS _ | .atomicS _ _ _ | .order _ _ | .afence _ _ | .pflush _
    | .put _ _ _ _ _ _ | .array _ => performOp s o.seq)

/-- MISS_SLOT_RETRY (R369): a refused miss is sent again. -/
def execMissSlotRetry (c k : Nat) (s : State) : Out := retryOp s c k
end Sys2Proof.Machine
end

