-- ==== Sys2Proof/Machine/Fabric.lean ====
section
/-! DEFINITION. Brynmer Link (R452 to R459): packets that arrive, flits and ports, and the draining of virtual functions. -/

namespace Sys2Proof.Machine

/-! ### Serving a peer's request (R454) -/

/-- The agent under which a request naming a VF is served, or the STATUS that refuses it. -/
def serveAs (s : State) (vf : Nat) (cls : Bool) : Except Nat Acc :=
  if vf = 0 then (if s.ken then .ok { core := none, asid := s.kasid, tenant := 64, ring := 2, harvest := cls } else .error 1)
  else match s.vfs.find? (fun v => v.vf == vf) with
    | some v => if v.state = 1 then .ok { core := none, asid := v.asid, tenant := v.tenant, ring := 0, harvest := cls } else .error 1
    | none => .error 1

/-- Whether some lease of a tenant that a handle can name admits a write of an address (R373, R454). -/
def leaseAdmits (s : State) (tenant va : Nat) : Bool :=
  (List.range 256).any (fun i =>
    ((leaseAt s tenant i).state == 1 || (leaseAt s tenant i).state == 2) && leaseWrites (leaseAt s tenant i).ranges va)

/-- Whether a write or atomic of a VF's request is refused (R454); VF 0 is checked against no lease. -/
def leaseRefuses (s : State) (vf : Nat) (a : Acc) (va : Nat) : Bool := vf ≠ 0 && !leaseAdmits s a.tenant va

/-- The reply to a request. -/
def replyPacket (s : State) (p : Packet) (opc : Byte) (status : Nat) (data : List Byte) (poison : BitVec 2) : Packet :=
  { packet s opc p.src p.vf p.cls (128 * p.laddr) with status := status, tag := p.tag, data := data, poison := poison }

/-- Send a reply to a request. -/
def replyTo (s : State) (p : Packet) (opc : Byte) (status : Nat) (data : List Byte) (poison : BitVec 2) : State :=
  sendPkt s (replyPacket s p opc status data poison)

/-- Send the reply of a write at home to a line: only after the copies at peers have been invalidated (R457). -/
def replyWritten (s : State) (asid la : Nat) (r : Packet) : State :=
  if invBusy s asid la then { s with acks := s.acks ++ [(asid, la, r)] } else sendPkt s r

/-- Send the replies whose lines wait for no copy any more. -/
def releaseAcks (s : State) : State :=
  let free (a : Nat × Nat × Packet) : Bool := !invBusy s a.1 a.2.1
  (s.acks.filter free).foldl (fun s a => sendPkt s a.2.2) { s with acks := s.acks.filter (fun a => !free a) }

/-- A request that a pin refuses, or a line whose copies are being invalidated, is kept and tried again (R228, R457). -/
def keepRx (s : State) (p : Packet) : State := { s with refusedRx := s.refusedRx ++ [p] }

/-- The STATUS of a request that translation or protection refuses (assumption 24). -/
def refusedStatus : Nat := 2

/-- A peer's read of a line sets its sharer bit; its CRCs are checked as it is sent (R264, R457). -/
def serveRd (s : State) (p : Packet) : State :=
  let la := 128 * p.laddr
  match serveAs s p.vf p.cls with
  | .error st => replyTo s p 2 st [] 0
  | .ok a =>
    match homeGet s a la .read with
    | (s, .line l held) =>
      let s := if held then l2Put s { l with sharers := l.sharers ||| BitVec.ofNat 16 (2 ^ p.src) } else s
      let out := checkOut s { l with sharers := l.sharers ||| BitVec.ofNat 16 (2 ^ p.src) } held 0 128
      replyTo out.1 p 2 0 (bytesOf 128 out.2.data.toNat) out.2.poison
    | (s, .mmio die off) => replyTo s p 2 0 (bytesOf 128 (dieRead s die off 128)) 0
    | (s, .peer _) => replyTo s p 2 3 [] 0
    | (s, .cause _) => replyTo s p 2 refusedStatus [] 0
    | (s, .absent) => replyTo s p 2 refusedStatus [] 0
    | (s, .pinned) => keepRx s p

/-! ### Posted packets and their counts (R458) -/

/-- Whether a flushing read's count has been reached and no write waits for copies to be invalidated. -/
def flushMet (s : State) (p : Packet) : Bool :=
  s.invWait.isEmpty && decide (0 ≤ toInt 32 (((Cells.get s.donePosted (16 * p.vf + p.src)).toNat + 2 ^ 32 - p.laddr % 2 ^ 32) % 2 ^ 32))

/-- Answer the flushing reads whose counts have been reached. -/
def answerFlushes (s : State) : State :=
  let met := s.flushes.filter (flushMet s)
  met.foldl (fun s p => replyTo s p 9 0 [] 0) { s with flushes := s.flushes.filter (fun p => !flushMet s p) }

/-- Count a posted packet of a peer as performed, or dropped. -/
def countDone (s : State) (p : Packet) : State :=
  answerFlushes { s with donePosted := Cells.set s.donePosted (16 * p.vf + p.src) (Cells.get s.donePosted (16 * p.vf + p.src) + 1) }

/-- Event code 14: a host or fabric write refused, with the VF and the source in DETAIL (R444, R454). -/
def writeRefused (s : State) (va vf src : Nat) : State := postDie s (homeDie va) { code := 14, addr := va, detail := vf + 256 * src }

/-- How a write of a packet's bytes ended: performed, refused for good, or refused by a pin. -/
inductive WrRes where
  | performed | refused | pinned
deriving DecidableEq, Repr

/-- Write the bytes of a packet at home; poison that it carries marks its sectors (R453). -/
def performWr (s : State) (a : Acc) (la : Nat) (p : Packet) : State × WrRes :=
  let d : BitVec 1024 := BitVec.ofNat 1024 (numOf (p.data.take 128))
  match homeGet s a la .write with
  | (s, .mmio die off) =>
    (((List.range 128).filter (fun j => p.mask.getLsbD j)).foldl (fun s j => dieWrite s a.ring die (off + j) 1 (dataRead d j 1)) s, .performed)
  | (s, .cause _) => (s, .refused)
  | (s, .absent) => (s, .refused)
  | (s, .pinned) => (s, .pinned)
  | (s, .peer _) => (s, .refused)
  | (s, .line _ _) =>
    match homeWrite s a la p.mask d p.poison (some p.src) with
    | (s, .line _ _) => (s, .performed)
    | (s, _) => (s, .refused)

/-- A posted write-through is performed at home, or dropped (R454). -/
def serveWr (s : State) (p : Packet) : State :=
  let la := 128 * p.laddr
  match serveAs s p.vf p.cls with
  | .error _ => countDone s p
  | .ok a =>
    if leaseRefuses s p.vf a la then countDone (writeRefused s la p.vf p.src) p
    else match performWr s a la p with
      | (s, .performed) => countDone s p
      | (s, .refused) => countDone (writeRefused s la p.vf p.src) p
      | (s, .pinned) => keepRx s p

/-- INV (R457): this device's copies of a peer's line are dropped. -/
def execInv (p : Packet) (s : State) : Out :=
  .next (accept s p fun s => replyTo { s with l2 := s.l2.filter (fun l => !(l.peer == some p.src && l.addr == 128 * p.laddr)) } p 5 0 [] 0)

/-- Take a device out of the first wait of a line that names it. -/
def clearWait (ws : List (Nat × Nat × BitVec 16)) (la dev : Nat) : List (Nat × Nat × BitVec 16) :=
  match ws with
  | [] => []
  | w :: rest =>
    if w.2.1 = la && w.2.2.getLsbD dev then
      let m := w.2.2 &&& ~~~ BitVec.ofNat 16 (2 ^ dev)
      if m = 0 then rest else (w.1, w.2.1, m) :: rest
    else w :: clearWait rest la dev

/-- INVA (R457): a peer has dropped its copy. -/
def execInva (p : Packet) (s : State) : Out :=
  .next (accept s p fun s => answerFlushes (releaseAcks { s with invWait := clearWait s.invWait (128 * p.laddr) p.src }))

/-- An atomic performed at home for a peer, or a store through to the line as an exchange without return (R245, R453). Poison leaves an atomic's word as it
is; bytes stored are merged (R209). -/
def serveAtm (s : State) (p : Packet) : State :=
  let la := 128 * p.laddr
  let off := p.mask.toNat % 128
  let op := bits p.mask.toNat 7 4
  let z := atmSize p.mask
  let ret := bitAt p.mask.toNat 12
  let b := numOf (p.data.take 16) % 2 ^ (if op = 9 then 16 * z else 8 * z)
  let reply (s : State) (asid old : Nat) : State := replyWritten s asid la (replyPacket s p 7 0 (if ret then bytesOf 16 old else []) 0)
  match serveAs s p.vf p.cls with
  | .error st => replyTo s p 7 st [] 0
  | .ok a =>
    let asid := effAsid s a.tenant a.asid la
    if leaseRefuses s p.vf a la then replyTo s p 7 2 [] 0
    else match homeLoad s a (la + off) z .write with
      | (s, .line l _, old) =>
        if poisonOf l.poison off z && (ret || op ≠ 8) then replyTo s p 7 0 (if ret then bytesOf 16 0 else []) 3
        else
          let m := byteMask off z
          reply (if atomWrites op z old b then (homeWrite s a la m (dataWrite 0 off z (atomNew op z old b)) 0 (some p.src)).1 else s) asid old
      | (s, .mmio die o, _) =>
        let old := dieRead s die o z
        reply (if atomWrites op z old b then dieWrite s a.ring die o z (atomNew op z old b) else s) asid old
      | (s, .peer _, _) => replyTo s p 7 3 [] 0
      | (s, .cause _, _) => replyTo s p 7 refusedStatus [] 0
      | (s, .absent, _) => replyTo s p 7 refusedStatus [] 0
      | (s, .pinned, _) => keepRx s p

/-- FRD (R458): answered once every posted packet that it counts is performed; a VF that is not active is answered with STATUS 1. -/
def execFrd (p : Packet) (s : State) : Out :=
  .next (accept s p fun s => match serveAs s p.vf p.cls with
    | .error st => replyTo s p 9 st [] 0
    | .ok _ => answerFlushes { s with flushes := s.flushes ++ [p] })

/-! ### Replies -/

/-- The request that a reply answers. -/
def findReq (s : State) (p : Packet) (opc : Nat) : Option PeerReq := s.reqs.find? (fun r => r.tag == p.tag && r.dev == p.src && r.opc == opc)
/-- Take it off the list. -/
def dropReq (s : State) (r : PeerReq) : State := { s with reqs := s.reqs.filter (fun x => !(x.tag == r.tag && x.opc == r.opc)) }

/-- Whether an operation still awaits replies. -/
def awaits (s : State) (c seq : Nat) : Bool := s.reqs.any (fun r => match r.who with | .op c' q _ => c' == c && q == seq | .span _ | .host _ | .pref _ _ _ _ _ => false)

/-- Whether replies for a VF are dropped: it is draining (R459). -/
def replyDropped (s : State) (vf : Nat) : Bool := s.vfs.any (fun v => v.vf == vf && v.state == 2)

/-- The engine status of a reply's STATUS (R454). -/
def engStatus (st : Nat) : Nat := match st with | 1 => 2 | 2 => 5 | 3 => 3 | 4 => 7 | _ => 4

/-- A reply with a STATUS other than done, for some lanes of an operation: a fault of those lanes, of the subset, or an engine status. -/
def replyFails (s : State) (o : Op) (st : Nat) (lane : Nat → Bool) : State :=
  let k := statusCause st
  let ls := (LaneSet.toList o.lanes).filter lane
  let fs : List LaneFault := ls.map (fun i => { lane := i, cause := k, addr := (assoc o.addrs i).getD 0 })
  let more := awaits s s.cur.id o.seq
  if o.isWatch && o.behind s.cur then putOp s { o with peerWait := more, refused := true }
  else if o.isWatch then
    lateFaults (endWatch s o) o [{ lane := 0, cause := k, addr := (assoc o.addrs 0).getD 0 }]
  else match o.kind with
    | .engine d maj mi b own u go =>
      putOp s { o with peerWait := more, got := o.got ++ [(17, engStatus st)], kind := .engine d maj mi b (if own = 0 then engStatus st else own) u go }
    | .enq _ va _ => lateSubset s o k va
    | .fetch => noEligible (laneFaults (removeOp s o.seq) o.hold o.pc (ls.map (fun i => { lane := i, cause := k, addr := (assoc o.addrs 0).getD 0 })))
    | .load _ _ _ _ | .loadC _ _ _ _ | .atomic _ _ _ _ | .store _ _ =>
      settleOp { o with refused := false } { s := s, got := [], fs := fs, absent := [], refused := false, wait := more, poison := false }
    | .order _ _ | .afence _ _ | .pflush _ =>
      let o := { o with got := [(16, Nat.min k ((assoc o.got 16).getD k))], peerWait := more }
      if more then putOp s o else finishOrder (putOp s o) o
    | .loadS _ _ | .storeS _ | .atomicS _ _ _ | .put _ _ _ _ _ _ | .lease _ _ _ _ | .array _ => s

/-- Fill the local peer line of a reply (R214). -/
def fillPeer (s : State) (a : Acc) (la d : Nat) (poison : BitVec 2) : State :=
  match translate s a la .read with
  | .rem dev e =>
    (l2Fill s a
      { tagLine a (effAsid s a.tenant a.asid la) la e (some dev) with data := BitVec.ofNat 1024 d, valid := fullMask, poison := poison }).1
  | .loc _ _ | .absent | .cause _ => s

/-- Go on with an operation whose reply has come. -/
def goOn (s : State) (seq : Nat) : State :=
  match s.cur.ops.find? (fun o => o.seq == seq) with
  | none => s
  | some o => match o.kind with
    | .enq _ va q => if opReady s s.cur o then performEnq s o va q else s
    | .engine _ _ _ _ _ _ _ => if o.stage = 0 then engineGo s o else engineComplete s o
    | .fetch => s
    | .load _ _ _ _ | .loadC _ _ _ _ | .store _ _ | .atomic _ _ _ _ | .loadS _ _ | .storeS _ | .atomicS _ _ _ | .order _ _ | .afence _ _ | .pflush _
    | .put _ _ _ _ _ _ | .lease _ _ _ _ | .array _ => performOp s seq

/-! ### Host reads (R444) -/

/-- The VF entry of a host access, when it is active. -/
def hostVf (s : State) (vf : Nat) : Option Vf := s.vfs.find? (fun v => v.vf == vf && v.state == 1)

/-- The VF entry of a host access that has been taken: one that waits goes on while its VF is draining (R462). -/
def hostVfTaken (s : State) (vf : Nat) : Option Vf := s.vfs.find? (fun v => v.vf == vf && v.state ≠ 0)

/-- The agent of a VF's host accesses: a home agent of its ASID and tenant (R371, R444). -/
def hostAcc (v : Vf) : Acc := { core := none, asid := v.asid, tenant := v.tenant, ring := 0, harvest := false }

/-- Take a waiting read off the list. -/
def dropWait (s : State) (tag : Nat) : State := { s with hostWaits := s.hostWaits.filter (fun w => !(w.read && w.acc.tag = tag)) }
/-- Put a waiting read on the list, in its place. -/
def putWait (s : State) (w : HostWait) : State := { s with hostWaits := putWhere (fun x => x.read && x.acc.tag == w.acc.tag) w s.hostWaits }
/-- Tell the host. -/
def tellHost (s : State) (m : HostMsg) : State := { s with toHost := s.toHost ++ [m] }

/-- A byte of a VF's BAR0 beyond its counter page (R443): the mask bit of an MSI-X vector's entry, the pending bits, else zero (assumption 26). -/
def barByte (s : State) (vf o : Nat) : Byte :=
  if 4096 ≤ o && o < 4352 && o % 16 = 12 then (if (Cells.get s.msixMask vf).getLsbD ((o - 4096) / 16) then 1 else 0)
  else if o = 8192 || o = 8193 then (Cells.get s.msixPend vf).extractLsb' (8 * (o - 8192)) 8
  else 0

/-- The virtual address of a host access: in the window of BAR2, or from 2^36 on in the counter page at the start of BAR0 (R443, R444). -/
def hostVa (v : Vf) (off : Nat) : Nat := if off < 2 ^ 36 then v.winBase + off else v.cpage + (off - 2 ^ 36)

/-- Go on with a host read: bytes come line by line from home; an absent part or a peer is waited for. EP collects poison (R444). -/
def hostReadGo (fuel : Nat) (s : State) (w : HostWait) : State :=
  match fuel with
  | 0 => s
  | f + 1 =>
    match hostVfTaken s w.acc.vf with
    | none => tellHost (dropWait s w.acc.tag) (.unsupported w.acc.tag)
    | some v =>
      let pos := w.data.length
      if w.len ≤ pos then tellHost (dropWait s w.acc.tag) (.readData w.acc.tag (w.data.take w.len) w.acc.ep)
      else
        let va := hostVa v (w.acc.off + pos)
        let k := Nat.min (w.len - pos) (128 - va % 128)
        let fail (s : State) : State := tellHost (dropWait s w.acc.tag) (.unsupported w.acc.tag)
        let a := hostAcc v
        if 2 ^ 36 + 4096 ≤ w.acc.off + pos then
          hostReadGo f s { w with data := w.data ++ (List.range k).map (fun j => barByte s w.acc.vf (w.acc.off + pos - 2 ^ 36 + j)) }
        else match homeGet s a (lineOf va) .read with
        | (s, .line l held) =>
          let out := checkOut s l held (va % 128) k
          let s := out.1
          let l := out.2
          hostReadGo f s { w with data := w.data ++ bytesOf k (dataRead l.data (va % 128) k), acc := { w.acc with ep := w.acc.ep || poisonOf l.poison (va % 128) k } }
        | (s, .mmio die off) => hostReadGo f s { w with data := w.data ++ bytesOf k (dieRead s die (off + va % 128) k) }
        | (s, .peer dev) => if (peerCause s a.asid dev).isSome then fail s else askLine (putWait s w) a dev va (.host w.acc.tag)
        | (s, .absent) => putWait s { w with held := false }
        | (s, .cause _) => fail s
        | (s, .pinned) => putWait s { w with held := true }

/-- A peer's line has come for a host read. -/
def hostReadArrives (s : State) (tag : Nat) (p : Packet) : State :=
  match s.hostWaits.find? (fun w => w.read && w.acc.tag == tag) with
  | none => s
  | some w =>
    if p.status ≠ 0 then tellHost (dropWait s tag) (.unsupported tag)
    else
      let off := (w.acc.off + w.data.length) % 128
      let k := Nat.min (w.len - w.data.length) (128 - off)
      let d : BitVec 1024 := BitVec.ofNat 1024 (numOf (p.data.take 128))
      hostReadGo (w.len + 1) s { w with data := w.data ++ bytesOf k (dataRead d off k), acc := { w.acc with ep := w.acc.ep || p.poison ≠ 0 } }

/-- A line that a peer returned for a `pref` fills the L1 of its core (R260); one that the L1 has no way for is dropped. -/
def prefArrives (s : State) (a : Acc) (quoin la d : Nat) (poison : BitVec 2) : State :=
  let s := fillPeer s a la d poison
  match translate s a la .read with
  | .rem dev e =>
    let h : Line := { tagLine a (effAsid s a.tenant a.asid la) la e (some dev) with data := BitVec.ofNat 1024 d, valid := fullMask, poison := poison }
    (coreFill s a { core := a.core.getD 0, quoin := quoin, course := 0 } la 1 0 h false).1
  | .loc _ _ | .absent | .cause _ => s

/-- The reply to a read of a line: it fills the local peer line and serves what waited for it. A STATUS fails the lanes that `lane` tells. -/
def rdrReply (s : State) (p : Packet) (who : ReqWho) (lane : Op → Nat → Bool) : State :=
  let la := 128 * p.laddr
  let d := numOf (p.data.take 128)
  let bad : List (Nat × Nat) := if p.poison = 0 then [] else [(la + 1, 1)]
  match who with
  | .op c seq _ => atCourse s c (fun s =>
    match s.cur.ops.find? (fun o => o.seq == seq) with
    | none => s
    | some o =>
      if p.status ≠ 0 then replyFails s o p.status (lane o)
      else
        let s := fillPeer s (opAcc s.cur o) la d p.poison
        let s := putOp s { o with peerWait := awaits s c seq, data := o.data ++ [(la, d)] ++ bad }
        goOn s seq)
  | .span _ => if p.status ≠ 0 then s else match serveAs s p.vf p.cls with
    | .ok a => fillPeer s a la d p.poison
    | .error _ => s
  | .host t => hostReadArrives s t p
  | .pref core quoin asid tenant harvest =>
    if p.status ≠ 0 then s else prefArrives s { core := some core, asid := asid, tenant := tenant, ring := 0, harvest := harvest } quoin la d p.poison

/-- The reply to an atomic: the old value of a lane's word, when the lane asked for it; of a command's counter add that it is done; of a completion write
how it went (R307). -/
def atmrReply (s : State) (p : Packet) (who : ReqWho) : State :=
  match who with
  | .op c seq lane => atCourse s c (fun s =>
    match s.cur.ops.find? (fun o => o.seq == seq) with
    | none => s
    | some o =>
      if o.isEngine then
        goOn (if p.status ≠ 0 then replyFails s o p.status (fun _ => false) else putOp s { o with peerWait := false }) seq
      else if p.status ≠ 0 then replyFails s o p.status (fun i => i == lane)
      else
        let ret : Bool := o.dest ≠ .none
        let s := if ret then s else s.upd (fun c => c.addPeer p.src)
        settleOp o { s := s, got := [(lane, numOf p.data % 2 ^ (8 * o.accBytes))], fs := [], absent := [], refused := false,
                     wait := awaits s c seq, poison := ret && p.poison ≠ 0 })
  | .span id => completeSpan (completionReplied s id p.status) id
  | .host _ | .pref _ _ _ _ _ => s

/-- The reply to a flushing read. -/
def frrReply (s : State) (p : Packet) (who : ReqWho) : State :=
  match who with
  | .op c seq _ => atCourse s c (fun s =>
    match s.cur.ops.find? (fun o => o.seq == seq) with
    | none => s
    | some o =>
      if p.status ≠ 0 then replyFails s o p.status (fun _ => false)
      else if awaits s c seq then s
      else goOn (putOp s { o with peerWait := false }) seq)
  | .span id => (match findSpan s id with
    | some sp => completeSpan (putSpan s { sp with flush := sp.flush &&& ~~~ BitVec.ofNat 16 (2 ^ p.src) }) id
    | none => s)
  | .host _ | .pref _ _ _ _ _ => s

/-- A reply has come: its request is answered. One for a draining VF is dropped (R459); a span's completion goes on all the same. -/
def takeReply (s : State) (p : Packet) (opc : Nat) (f : State → Packet → ReqWho → State) : State :=
  match findReq s p opc with
  | none => s
  | some r =>
    let s := dropReq s r
    if !replyDropped s p.vf then f s p r.who
    else match r.who with
      | .span _ => f s { p with status := 1 } r.who
      | .op _ _ _ | .host _ | .pref _ _ _ _ _ => s

/-- RDR (R453). -/
def execRdr (p : Packet) (s : State) : Out :=
  .next (accept s p fun s => takeReply s p 1 (fun s p w => rdrReply s p w (fun o i => o.isFetch || lineOf ((assoc o.addrs i).getD 0) == 128 * p.laddr)))

/-- ATMR (R453). -/
def execAtmr (p : Packet) (s : State) : Out := .next (accept s p fun s => takeReply s p 6 atmrReply)

/-- FRR (R458): a flushing read is answered. -/
def execFrr (p : Packet) (s : State) : Out := .next (accept s p fun s => takeReply s p 8 frrReply)

/-! ### Exchange packets (R347, R348) -/

/-- Acknowledge an exchange packet. -/
def xack (s : State) (p : Packet) (st : Nat) : State := countDone (replyTo s p 11 st [] 0) p

/-- Acknowledge one that has been written at home, once the copies of its line at peers are invalidated (R457). -/
def xackWritten (s : State) (p : Packet) (asid la : Nat) : State := countDone (replyWritten s asid la (replyPacket s p 11 0 [] 0)) p

/-- The `xred` block of the command that holds a slot. -/
def slotBlock (s : State) (t : TagSlot) : Option Nat :=
  t.owner.bind (fun w => (courseById s w.1).bind (fun c => (c.ops.find? (fun o => o.seq == w.2)).bind (fun o =>
    match o.kind with
    | .engine _ _ _ b _ _ _ => some (numOf (b.take 64))
    | _ => none)))

/-- Bytes of a mask. -/
def maskBytes (m : BitVec 128) : List Nat := (List.range 128).filter (fun j => m.getLsbD j)

/-- Write the bytes of a result at their places in the local destination. -/
def writeResult (s : State) (a : Acc) (dst : Nat) (p : Packet) : State :=
  let d : BitVec 1024 := BitVec.ofNat 1024 (numOf (p.data.take 128))
  (maskBytes p.mask).foldl (fun s j =>
    let va := dst + 128 * p.laddr + j
    (performWr s a (lineOf va) { p with mask := byteMask (va % 128) 1, data := bytesOf 128 (dataWrite 0 (va % 128) 1 (dataRead d j 1)).toNat }).1) s

/-- Whether a pin refuses the write of a result at one of the lines that it falls in. -/
def resultPinned (s : State) (a : Acc) (va : Nat) : Bool :=
  [lineOf va, lineOf (va + 127)].any (fun la => match (homeGet s a la .write).2 with
    | .pinned => true
    | .line _ _ | .mmio _ _ | .peer _ | .cause _ | .absent => false)

/-- An exchange packet is written, kept or dropped, counted in its tag slot and acknowledged (R347, R348); a packet of other layout maps is dropped
whatever its address. -/
def serveXwr (s : State) (p : Packet) : State :=
  let la := 128 * p.laddr
  let check := numOf (p.data.drop 128)
  let n := (maskBytes p.mask).length
  match serveAs s p.vf p.cls with
  | .error st => xack s p st
  | .ok a =>
    let t := (findTag s p.vf p.tag).getD (newTag p.vf p.tag)
    let asid := effAsid s a.tenant a.asid la
    if t.closed then xack s p 5
    else match p.status with
      | 1 =>
        let d : BitVec 1024 := BitVec.ofNat 1024 (numOf (p.data.take 128))
        xack (putTag s { t with parts := t.parts ++ (maskBytes p.mask).map (fun j => (p.src, la + j, dataRead d j 1)) }) p 0
      | 2 => (match slotBlock s t with
        | none => xack s p 5
        | some v =>
          if leaseRefuses s p.vf a ((redOf v).dst + la) then xack s p 2
          else if resultPinned s a ((redOf v).dst + la) then keepRx (homeGet (homeGet s a (lineOf ((redOf v).dst + la)) .write).1 a (lineOf ((redOf v).dst + la + 127)) .write).1 p
          else xackWritten (putTag (writeResult s a (redOf v).dst p) { t with arrived := t.arrived + n }) p asid (lineOf ((redOf v).dst + la)))
      | _ =>
        if t.owner.isSome && check ≠ t.check then xack (tagStatus s p.vf p.tag 7) p 4
        else if leaseRefuses s p.vf a la then xack s p 2
        else match performWr s a la p with
          | (s, .refused) => xack s p refusedStatus
          | (s, .pinned) => keepRx s p
          | (s, .performed) =>
            let early := if t.owner.isSome then t.early else t.early ++ [(check, la, p.mask.toNat)]
            xackWritten (putTag s { t with arrived := t.arrived + n, early := early }) p asid la

/-- Serve a request of a peer; one to a line for which an earlier one is kept waits behind it. -/
def serve (s : State) (p : Packet) : State :=
  if s.refusedRx.any (fun q => q.laddr == p.laddr && q.vf == p.vf && q.src == p.src) then keepRx s p
  else if p.opc = 1 then serveRd s p
  else if p.opc = 3 then serveWr s p
  else if p.opc = 6 then serveAtm s p
  else serveXwr s p

/-- The requests kept are tried again, in the order in which they came. -/
def retryRx (s : State) : State := s.refusedRx.foldl serve { s with refusedRx := [] }

/-- RD (R457). -/
def execRd (p : Packet) (s : State) : Out := .next (accept s p fun s => serve s p)
/-- WR (R454). -/
def execWr (p : Packet) (s : State) : Out := .next (accept s p fun s => serve s p)
/-- ATM (R453). -/
def execAtm (p : Packet) (s : State) : Out := .next (accept s p fun s => serve s p)
/-- XWR (R347). -/
def execXwr (p : Packet) (s : State) : Out := .next (accept s p fun s => serve s p)

/-- One packet of a slot to a device is acknowledged, or `n` are. -/
def TagSlot.acked (t : TagSlot) (dev n : Nat) : TagSlot :=
  { t with unacked := t.unacked - n, unackedBy := updWhere (fun d => d.1 == dev) (fun d => (d.1, d.2 - n)) t.unackedBy }

/-- XACK (R347): a packet of a local command is acknowledged; its STATUS may end the command. -/
def execXack (p : Packet) (s : State) : Out :=
  .next (accept s p fun s =>
    let s := updTag s p.vf p.tag (fun t => t.acked p.src 1)
    if p.status = 0 then s else tagStatus s p.vf p.tag (engStatus p.status))

/-- Whether an exchange command has done what it can and waits for its partners (R347). -/
def partnersAwaited (s : State) (c : Course) (o : Op) : Bool :=
  match o.kind with
  | .engine _ maj _ b st _ go =>
    (maj = 0xD3 || maj = 0xD4) && go && (if o.stage = 0 then engineIdle s c o else o.stage = 1 && !exchangeDone { s with cur := c } o maj st b)
  | _ => false

/-- XCH_TIMEOUT (R348): the oldest exchange command that waits for partners ends with status 4 after its release and counter add, and its tag closes;
a status that it has already stays. -/
def execXchTimeout (s : State) : Out :=
  let waits (t : TagSlot) : Option (Nat × Op) := t.owner.bind (fun w =>
    (courseById s w.1).bind (fun c => (c.ops.find? (fun o => o.seq == w.2)).bind (fun o => if partnersAwaited s c o then some (w.1, o) else none)))
  match s.tags.find? (fun t => (waits t).isSome) with
  | none => .next s
  | some t =>
    .next (match waits t with
      | none => s
      | some (c, o) =>
        let s := putTag s { newTag t.vf t.tag with closed := true }
        atCourse s c (fun s => match o.kind with
          | .engine d maj mi b st u go =>
            let st := if st ≠ 0 then st else if t.status ≠ 0 then t.status else 4
            let o := { o with stage := 1, refused := false, kind := .engine d maj mi b st u go }
            engineComplete (putOp s o) o
          | _ => s))

/-- UNKNOWN_PACKET (R453): dropped, with event code 15. -/
def execUnknownPacket (p : Packet) (s : State) : Out := .next (accept s p fun s => postDie s 0 { code := 15, detail := p.opc.toNat })

/-! ### Flits and ports (R455, R456) -/

/-- The die that a port attaches to (R450). -/
def portDie (port : Nat) : Nat := if port < 8 then 0 else 1

/-- An outstanding request to a device that no path reaches any more is answered here with STATUS 3 (R456). -/
def answerOne (s : State) (r : PeerReq) : State :=
  let p := { packet s 0 s.devId 0 false 0 with src := r.dev, tag := r.tag, status := 3 }
  match r.opc with
  | 1 => rdrReply (dropReq s r) p r.who (fun o i => o.isFetch || (match r.who with | .op _ _ k => i == k | .span _ | .host _ | .pref _ _ _ _ _ => false))
  | 6 => atmrReply (dropReq s r) p r.who
  | _ => frrReply (dropReq s r) p r.who

/-- Every outstanding request to devices that no path reaches any more is answered (R456): reads, atomics and flushing reads, exchange packets, and
invalidations, whose copies are out of reach. -/
def answerCut (s : State) : State :=
  let gone := (List.range 16).filter (fun d => d ≠ s.devId && !pathTo s d)
  if gone.isEmpty then s
  else
    let m : BitVec 16 := BitVec.ofNat 16 (gone.foldl (fun acc d => acc + 2 ^ d) 0)
    let cutTag (t : TagSlot) : TagSlot := gone.foldl (fun t d =>
      match assoc t.unackedBy d with
      | some (n + 1) => { t.acked d (n + 1) with status := if t.status = 0 then 3 else t.status }
      | _ => t) t
    let s : State :=
      { s with
          invWait := (s.invWait.map (fun w => (w.1, w.2.1, w.2.2 &&& ~~~ m))).filter (fun w => w.2.2 ≠ 0)
          tags := s.tags.map cutTag }
    answerFlushes (releaseAcks ((s.reqs.filter (fun r => memNat r.dev gone)).foldl answerOne s))

/-- A port goes down: event code 11. Packets not yet taken leave by the path that is left (R455, R456). -/
def portDown (s : State) (n : Nat) : State :=
  match s.ports.find? (fun p => p.port == n) with
  | none => s
  | some p =>
    if !p.up then s
    else
      let s := { s with ports := updWhere (fun x => x.port == n) (fun x => { x with up := false, replays := 0 }) s.ports }
      answerCut (postDie s (portDie n) { code := 11, detail := n })

/-- A packet that is counted as posted (R458). -/
def posted (p : Packet) : Bool := p.opc == 3 || p.opc == 10

/-- A port is reset (R455, R459): it goes down to retrain, and what a draining VF still awaits or has in flight over it counts as lost. -/
def resetPort (s : State) (n : Nat) : State :=
  let peer := match s.ports.find? (fun p => p.port == n) with | some p => p.peer | none => 16
  let s := portDown s n
  { s with
      tx := s.tx.filter (fun p => !(p.dst == peer && posted p && replyDropped s p.vf))
      reqs := s.reqs.filter (fun r => !(r.dev == peer && match r.who with
        | .op c _ _ => (match courseById s c with | some x => vfDraining s x.asid | none => false)
        | .span i => (match findSpan s i with | some x => vfDraining s x.asid | none => false)
        | .pref _ _ asid _ _ => vfDraining s asid
        | .host _ => false)) }

/-- FLIT_RECEIVED (R455): a flit whose CRC fails is NAKed and replayed; sixteen replays of one flit take the port down. -/
def execFlitReceived (port seq : Nat) (crcOk : Bool) (s : State) : Out :=
  match s.ports.find? (fun p => p.port == port && p.up) with
  | none => .next s
  | some p =>
    if crcOk then
      .next { s with ports := updWhere (fun x => x.port == port) (fun x => if seq = p.seq then { x with seq := (x.seq + 1) % 4096, replays := 0 } else x) s.ports }
    else if 16 ≤ p.replays + 1 then .next (portDown s port)
    else .next { s with ports := updWhere (fun x => x.port == port) (fun x => { x with replays := x.replays + 1 }) s.ports }

/-- LOSS_OF_LOCK (R455). -/
def execLossOfLock (port : Nat) (s : State) : Out := .next (portDown s port)

/-- Posted writes whose path has returned are sent, ahead of later packets (R456); their lines hold no unsent bytes any more. -/
def sendUnsent (s : State) : State :=
  let now := s.unsent.filter (fun p => pathTo s p.dst)
  let s := { s with unsent := s.unsent.filter (fun p => !pathTo s p.dst) }
  let s := now.foldl (fun s p => if p.src = s.devId then countSent (sendPkt s p) p.vf p.dst else relay s p) s
  { s with
      l2 := updWhere (fun l => l.peer.isSome && now.any (fun p => l.peer == some p.dst && l.addr == 128 * p.laddr) &&
        !s.unsent.any (fun p => l.peer == some p.dst && l.addr == 128 * p.laddr)) (fun l => { l with dirty := 0 }) s.l2 }

/-- PORT_RETRAIN (R455): a down port that retrains is up again, with event code 12. -/
def execPortRetrain (port : Nat) (ok : Bool) (s : State) : Out :=
  match s.ports.find? (fun p => p.port == port && p.en && !p.up) with
  | none => .next s
  | some _ =>
    if !ok then .next s
    else
      let s := { s with ports := updWhere (fun x => x.port == port) (fun x => { x with up := true, seq := 0, replays := 0 }) s.ports }
      .next (sendUnsent (postDie s (portDie port) { code := 12, detail := port }))

/-- GANG_DECISION_TIMEOUT (R56, R460): a member without a decision resets its direct ports to the coordinator and queries by relay, or ends alone when no
path remains. -/
def execGangDecisionTimeout (key : Nat) (s : State) : Out :=
  if s.devId = 0 || (getGang s key).freed || (gangSpans s key).isEmpty then .next s
  else
    let s := ((s.ports.filter (fun p => p.peer == 0)).map (fun p => p.port)).foldl resetPort s
    .next (if pathTo s 0 then sendPkt s (gangPacket s 0 key 3) else gangEnd s key 0x167)

/-! ### Draining (R459) -/

/-- Whether a draining VF has no reply reservation left and no posted packet in flight: one that no path reaches any more stays in the replay buffer
(R455, R459), and any other has arrived (assumption 15). -/
def vfIdle (s : State) (v : Vf) : Bool :=
  !s.reqs.any (fun r => match r.who with
    | .op c _ _ => (match courseById s c with | some x => x.asid == v.asid | none => false)
    | .span id => (match findSpan s id with | some x => x.asid == v.asid | none => false)
    | .pref _ _ asid _ _ => asid == v.asid
    | .host _ => false) &&
  !s.tx.any (fun p => p.vf == v.vf && posted p && !pathTo s p.dst)

/-- A VF starts draining: its unsent bytes are lost and its tag slots freed (R456, R459). -/
def drainVf (s : State) (vf : Nat) : State :=
  { s with unsent := s.unsent.filter (fun p => p.vf ≠ vf), tags := s.tags.filter (fun t => t.vf ≠ vf || t.owner.isSome) }

/-- VF_DRAINED (R459): the lowest draining VF with nothing outstanding posts event code 13, once. -/
def execVfDrained (s : State) : Out :=
  match (s.vfs.filter (fun v => v.state == 2 && !v.drained && vfIdle s v)).head? with
  | none => .next s
  | some v => .next (postDie { s with vfs := updWhere (fun x => x.vf == v.vf) (fun x => { x with drained := true }) s.vfs } 0 { code := 13, detail := v.vf })

/-- FLR (R459): a function-level reset starts the draining of its VF and posts event code 16, so that Keystone commits STATE 2. -/
def execFlr (vf : Nat) (s : State) : Out :=
  match s.vfs.find? (fun v => v.vf == vf && v.state == 1) with
  | none => .next s
  | some _ =>
    let s := { s with vfs := updWhere (fun v => v.vf == vf) (fun v => { v with state := 2 }) s.vfs }
    .next (postDie (drainVf s vf) 0 { code := 16, detail := vf })

end Sys2Proof.Machine
end

