-- ==== Sys2Proof/Machine/HostLink.lean ====
section
/-! DEFINITION. The host link (R442 to R449): accesses through the BARs, IDE, the security protocol's requests, and device interfaces. -/

namespace Sys2Proof.Machine

/-! ### Which accesses are taken (R447, R448) -/

/-- Where the BARs lie in the host's addresses: BAR2 of VF v at v · 2^36 and BAR0 at 2^42 + v · 2^16 (assumption 26; the host assigns them). -/
def bar2 (vf off : Nat) : Nat := 2 ^ 36 * vf + off
/-- The same for BAR0. -/
def bar0 (vf off : Nat) : Nat := 2 ^ 42 + 65536 * vf + off

/-- Where a read goes on the host's bus: an offset of BAR2, or from 2^36 on of BAR0 (R443). -/
def hostBus (vf off : Nat) : Nat := if off < 2 ^ 36 then bar2 vf off else bar0 vf (off - 2 ^ 36)

/-- How the IDE and interface checks end. -/
inductive Taken where
  | ok | dropped | unsupported
deriving DecidableEq, Repr

/-- A stream whose keys are programmed. -/
def findStream (s : State) (n : Nat) : Option IdeStream := s.streams.find? (fun x => x.stream == n)

/-- Whether an address falls in a range of a stream. -/
def IdeStream.holds (x : IdeStream) (addr : Nat) : Bool := x.ranges.any (fun r => r.1 ≤ addr && addr < r.2)

/-- The IDE checks of a TLP (R447) and the binding of a running interface (R448). A failed integrity check moves the stream to Insecure. -/
def takeTlp (s : State) (a : HostAccess) (v : Vf) (addr : Nat) : State × Taken :=
  match a.stream with
  | some n =>
    if !a.intact then ({ s with streams := updWhere (fun x => x.stream == n) (fun x => { x with insecure := true }) s.streams }, .dropped)
    else if (match findStream s n with | some x => x.insecure | none => false) then (s, .dropped)
    else if s.streams.any (fun x => x.stream ≠ n && x.holds addr) then (s, .dropped)
    else if (v.ideReq || v.tdi = 2) && n ≠ v.ide then (s, .unsupported)
    else (s, .ok)
  | none =>
    if s.streams.any (fun x => x.holds addr) then (s, .dropped)
    else if v.ideReq || v.tdi = 2 then (s, .unsupported)
    else (s, .ok)


/-! ### The PF (R443) -/

/-- The PF has no entry of its own: no interface, and no stream that its accesses demand (R451). -/
def pfEntry : Vf :=
  { vf := 0, state := 0, tenant := 64, asid := 0, winPages := 0, winBase := 0, cpage := 0, ide := 0, ideReq := false, tdi := 0, drained := false }

/-- Where BAR0 of the PF lies in the host's addresses (assumption 26). -/
def pfBus (off : Nat) : Nat := 2 ^ 43 + off

/-- Where the PF's counter page lies in memory; its command mailbox lies as far above it as in BAR0 (assumption 117). -/
def pfBase : Nat := Config.pfPage 0 % 524288 * 2097152

/-- What the status block tells (R443, R471): ACTIVE, PENDING, the steps of the boot record, and the version in the header of each slot (R487). -/
def statusKey (b : Boot) : List Nat :=
  [b.active.toNat, b.pending.toNat, numOf ((b.slot0.drop 4).take 4), numOf ((b.slot1.drop 4).take 4)] ++
    b.steps.flatMap (fun e => [(if e.running then 1 else 0) + (if e.failed then 2 else 0), e.mode, e.result.toNat])

/-- A byte of BAR0 of the PF: its counter page, the mask bit of an MSI-X vector's entry, the pending bits, the mailbox, the status block, else zero. -/
def pfByte (s : State) (o : Nat) : Byte :=
  if o < 4096 || (65536 ≤ o && o < 131072) then BitVec.ofNat 8 (physHomeRead s (pfBase + o) 1)
  else if o < 5120 then (if o % 16 = 12 && (Cells.get s.msixMask (64 + (o - 4096) / 256)).getLsbD ((o - 4096) / 16 % 16) then 1 else 0)
  else if 8192 ≤ o && o < 8200 then (Cells.get s.msixPend (64 + (o - 8192) / 2)).extractLsb' (8 * ((o - 8192) % 2)) 8
  else if 131072 ≤ o then Config.freeStatus (statusKey s.boot) (o - 131072)
  else 0

/-- A host read of BAR0 of the PF, as it is taken. -/
def pfRead (s : State) (a : HostAccess) (len : Nat) : State :=
  match takeTlp s a pfEntry (pfBus (a.off - 2 ^ 36)) with
  | (s, .dropped) => s
  | (s, .unsupported) => tellHost s (.unsupported a.tag)
  | (s, .ok) =>
    if a.off < 2 ^ 36 || 2 ^ 36 + 2 ^ 20 < a.off + len then tellHost s (.unsupported a.tag)
    else tellHost s (.readData a.tag ((List.range len).map (fun j => pfByte s (a.off - 2 ^ 36 + j))) false)

/-- Writes to a physical word are announced to the courses that wait on it (R403). -/
def announcePhys (s : State) (pa : Nat) : State :=
  let word (c : Course) (w : Option Wait) : List (Nat × Nat) := match w with
    | some (.waitc false a _ _ _ _) => let k := effAsid s c.tenant c.asid a; if rawPa s k a == some pa then [(k, a)] else []
    | some (.waitc true _ _ _ _ _) | some (.sleep _) | some (.barr _ _ _ _) | some (.waitb _ _ _) | some .gang | none => []
  { s with announced := s.announced ++ (s.cur :: s.courses).flatMap (fun c => word c c.wait ++ word c c.waitBelow) }

/-- A host write to BAR0 of the PF: the bytes that fall into the mailbox are written at home, the others ignored. -/
def pfWrite (s : State) (a : HostAccess) (data : List Byte) : State :=
  match takeTlp s a pfEntry (pfBus (a.off - 2 ^ 36)) with
  | (s, .ok) =>
    (List.range data.length).foldl (fun s j =>
      let o := a.off + j
      if 2 ^ 36 + 65536 ≤ o && o < 2 ^ 36 + 131072 then physHomeWrite s (pfBase + (o - 2 ^ 36)) 1 (data.getD j 0).toNat else s) s
  | (s, _) => s

/-- A host write of a word of BAR0 of the PF: an add to a word of its counter page (R308, R443), or the mask bit of an MSI-X vector. -/
def pfWord (s : State) (a : HostAccess) (v : Word) : State :=
  match takeTlp s a pfEntry (pfBus a.off) with
  | (s, .ok) =>
    if a.off < 4096 then
      let pa := pfBase + a.off / 4 * 4
      announcePhys (physHomeWrite s pa 4 ((physHomeRead s pa 4 + v.toNat) % 2 ^ 32)) pa
    else if a.off < 5120 && a.off % 16 = 12 then
      let k := (a.off - 4096) / 16
      let b : BitVec 16 := BitVec.ofNat 16 (2 ^ (k % 16))
      let m := Cells.get s.msixMask (64 + k / 16)
      { s with msixMask := Cells.set s.msixMask (64 + k / 16) (if v.getLsbD 0 then m ||| b else m &&& ~~~ b) }
    else s
  | (s, _) => s

/-! ### Accesses (R308, R444) -/

/-- Whether the host link is down: in reset (R464), or when the step that trains it halted the boot (R466). -/
def linkDown (s : State) : Bool := s.run == .held || s.run == .recovery 30

/-- HOST_READ (R443, R444). -/
def execHostRead (a : HostAccess) (len : Nat) (s : State) : Out :=
  .next (if linkDown s then s else if a.vf = 0 then pfRead s a len else match hostVf s a.vf with
    | none => tellHost s (.unsupported a.tag)
    | some v =>
      match takeTlp s a v (hostBus a.vf a.off) with
      | (s, .dropped) => s
      | (s, .unsupported) => tellHost s (.unsupported a.tag)
      | (s, .ok) =>
        if (if a.off < 2 ^ 36 then 2097152 * v.winPages else 2 ^ 36 + 65536) < a.off + len then tellHost s (.unsupported a.tag)
        else hostReadGo (len + 1) s { acc := { a with ep := false }, read := true, len := len, data := [] })

/-- Go on with a write of a VF, line by line; what is left of it waits while a part is absent or a line pinned. EP poisons every sector it touches. A
write from 2^36 on is one to a word of the counter page: an add at home (R308). -/
def hostWriteGo (fuel : Nat) (s : State) (w : HostWait) : State × Option HostWait :=
  match fuel with
  | 0 => (s, none)
  | f + 1 =>
    match hostVfTaken s w.acc.vf with
    | none => (s, none)
    | some v =>
      let a := hostAcc v
      if w.data.isEmpty then (s, none)
      else if 2 ^ 36 ≤ w.acc.off then
        let va := v.cpage + (w.acc.off - 2 ^ 36) / 4 * 4
        match engineAdd s a va (numOf w.data) (.host w.acc.tag) with
        | (s, .done) | (s, .asked) => (s, none)
        | (s, .refused) => (s, some { w with held := true })
        | (s, .absent) => (s, some { w with held := false })
        | (s, .cause _) => (postDie s (homeDie va) { code := 14, addr := va, detail := v.vf }, none)
      else
        let va := v.winBase + w.acc.off
        let la := lineOf va
        let k := Nat.min w.data.length (128 - va % 128)
        let mark : BitVec 2 := BitVec.ofNat 2 ((if va % 128 < 64 then 1 else 0) + (if 64 < va % 128 + k then 2 else 0))
        let rest : HostWait := { w with data := w.data.drop k, acc := { w.acc with off := w.acc.off + k } }
        match homeGet s a la .write with
        | (s, .mmio die off) => hostWriteGo f (dieWrite s 0 die (off + va % 128) k (numOf (w.data.take k))) rest
        | (s, .absent) => (s, some { w with held := false })
        | (s, .pinned) => (s, some { w with held := true })
        | (s, .cause _) => (postDie s (homeDie va) { code := 14, addr := va, detail := v.vf }, none)
        | (s, .line _ _) | (s, .peer _) =>
          hostWriteGo f (homeWrite s a la (byteMask (va % 128) k) (dataWrite 0 (va % 128) k (numOf (w.data.take k))) (if w.acc.ep then mark else 0) none).1 rest

/-- Perform a write of a VF behind those of the VF that wait: writes of one VF are performed in the order in which they arrive (R308). -/
def hostWriteIn (s : State) (w : HostWait) : State :=
  if s.hostWaits.any (fun x => !x.read && x.acc.vf == w.acc.vf) then { s with hostWaits := s.hostWaits ++ [{ w with held := true }] }
  else match hostWriteGo (w.data.length + 1) s w with
    | (s, none) => s
    | (s, some r) => { s with hostWaits := s.hostWaits ++ [r] }

/-- HOST_WRITE (R443, R444). -/
def execHostWrite (a : HostAccess) (data : List Byte) (s : State) : Out :=
  .next (if linkDown s then s else if a.vf = 0 then pfWrite s a data else match hostVf s a.vf with
    | none => s
    | some v =>
      match takeTlp s a v (bar2 a.vf a.off) with
      | (s, .dropped) => s
      | (s, .unsupported) => s
      | (s, .ok) =>
        if 2097152 * v.winPages < a.off + data.length then postDie s 0 { code := 14, detail := v.vf }
        else hostWriteIn s { acc := a, read := false, len := data.length, data := data })

/-- A write of the mask bit of MSI-X vector `k`: a pending vector that is unmasked is raised (R443, R445). -/
def msixMaskWrite (s : State) (vf k : Nat) (masked : Bool) : State :=
  let b : BitVec 16 := BitVec.ofNat 16 (2 ^ k)
  if masked then { s with msixMask := Cells.set s.msixMask vf (Cells.get s.msixMask vf ||| b) }
  else
    let s1 := { s with msixMask := Cells.set s.msixMask vf (Cells.get s.msixMask vf &&& ~~~ b), msixPend := Cells.set s.msixPend vf (Cells.get s.msixPend vf &&& ~~~ b) }
    if (Cells.get s.msixPend vf).getLsbD k && !s.toHost.any (fun x => x == .msix vf k) then tellHost s1 (.msix vf k) else s1

/-- HOST_COUNTER_WRITE (R308): an add to a word of the VF's counter page at home; beyond the page, the mask bit of an MSI-X vector. -/
def execHostCounterWrite (a : HostAccess) (v : Word) (s : State) : Out :=
  .next (if linkDown s then s else if a.vf = 0 then pfWord s a v else match hostVf s a.vf with
    | none => s
    | some x =>
      match takeTlp s a x (bar0 a.vf a.off) with
      | (s, .dropped) => s
      | (s, .unsupported) => s
      | (s, .ok) =>
        if a.off < 4096 then hostWriteIn s { acc := { a with off := 2 ^ 36 + a.off }, read := false, len := 4, data := bytesOf 4 v.toNat }
        else if a.off < 4096 + 256 && a.off % 16 = 12 then msixMaskWrite s a.vf ((a.off - 4096) / 16) (v.getLsbD 0)
        else s)

/-- HOST_ACCESS_TIMEOUT (R444): the oldest access that waits on an absent part; a read is aborted, a write dropped. -/
def execHostAccessTimeout (s : State) : Out :=
  match s.hostWaits.find? (fun w => !w.held && !(w.read && s.reqs.any (fun r => r.who == .host w.acc.tag))) with
  | none => .next s
  | some w =>
    let s := { s with hostWaits := s.hostWaits.erase w }
    .next (if w.read then tellHost s (.abort w.acc.tag) else s)

/-- Try the waiting writes again, in order: those of a VF behind one that goes on waiting stay. -/
def hostWritesAgain (s : State) (ws : List HostWait) (stuck : List Nat) : State :=
  match ws with
  | [] => s
  | w :: rest =>
    let keep (s : State) (w : HostWait) : State := { s with hostWaits := s.hostWaits ++ [w] }
    if memNat w.acc.vf stuck then hostWritesAgain (keep s w) rest stuck
    else match hostWriteGo (w.data.length + 1) s w with
      | (s, none) => hostWritesAgain s rest stuck
      | (s, some r) => hostWritesAgain (keep s r) rest (w.acc.vf :: stuck)

/-- Waiting host accesses are tried again: parts have become resident, or pins have ended. -/
def hostRetry (s : State) : State :=
  let s := (s.hostWaits.filter (fun w => w.read && !s.reqs.any (fun r => r.who == .host w.acc.tag))).foldl (fun s w => hostReadGo (w.len + 1) s w) s
  let ws := s.hostWaits.filter (fun w => !w.read)
  if ws.isEmpty then s else hostWritesAgain { s with hostWaits := s.hostWaits.filter (fun w => w.read) } ws []

/-- What agents other than courses have been refused is tried again (R228): requests of peers, replies that wait, host accesses, and the completion writes
of spans (R307). -/
def retryAgents (s : State) : State :=
  let s := hostRetry (releaseAcks (retryRx s))
  (s.spans.filter (fun x => x.state = .completing)).foldl (fun s x => completeSpan s x.id) s

/-- PIN_RETRY (R228): a request refused by a pin is sent again: one of a course's operations, or with course 0 those of every other agent. -/
def execPinRetry (c k : Nat) (s : State) : Out := if c = 0 then .next (retryAgents s) else retryOp s c k

/-! ### SPDM (R446) -/

/-- Who answers a request (R446, R449, R466, R469): the running device on every endpoint; in recovery its MCTP endpoint alone; above 105 °C the MCTP
endpoint with the thermal state. -/
def attend (s : State) (e : Endpoint) (k : Out) : Out :=
  match s.run with
  | .running => k
  | .recovery n => if e = .mctp && n ≠ 30 then k else .next s
  | .thermal => .next (if e = .mctp then tellHost s .thermal else s)
  | .held => .next s
  | .stopped => .next s

/-- An answer of the device, by the place of its request in the list of R446; what the spec does not give of its content is a free value. -/
def answer (s : State) (e : Endpoint) (code : Nat) (body : List Nat) : State := tellHost s (.spdm e code body)

/-- The next free part of an answer. -/
def freePart (s : State) (code : Nat) : State × Nat := (bumpFresh s, Config.freeAnswer code s.fresh)

/-- An answer whose content is free. -/
def freeReply (s : State) (e : Endpoint) (code : Nat) (body : List Nat) : Out :=
  let r := freePart s code
  .next (answer r.1 e code (body ++ [r.2]))

/-- GET_VERSION (R446): SPDM 1.3. -/
def execGetVersion (e : Endpoint) (s : State) : Out := attend s e (
  .next (answer s e 0 [0x13]))
/-- GET_CAPABILITIES (R446). -/
def execGetCapabilities (e : Endpoint) (s : State) : Out := attend s e (
  freeReply s e 1 [])
/-- NEGOTIATE_ALGORITHMS (R446): ECDSA on P-384 with SHA-384, ECDHE on P-384, AES-256-GCM, by these places. -/
def execNegotiateAlgorithms (e : Endpoint) (s : State) : Out := attend s e (
  .next (answer s e 2 [0, 1, 2]))
/-- GET_DIGESTS (R446): of the device chain and the alias chain. -/
def execGetDigests (e : Endpoint) (s : State) : Out := attend s e (
  let r := freePart s 3
  freeReply r.1 e 3 [r.2])
/-- GET_CERTIFICATE (R446): of slot 0 or 1. -/
def execGetCertificate (e : Endpoint) (slot : Nat) (s : State) : Out := attend s e (
  freeReply s e 4 [slot])
/-- CHALLENGE (R446): a signature over the nonce. -/
def execChallenge (e : Endpoint) (slot nonce : Nat) (s : State) : Out := attend s e (
  freeReply s e 5 [slot, nonce])

/-- GET_MEASUREMENTS (R446): blocks 1 to 4. -/
def execGetMeasurements (e : Endpoint) (block : Nat) (s : State) : Out := attend s e (
  let ks := if block = 0 then [1, 2, 3, 4] else [block]
  .next (answer s e 6 (ks.map (fun k => (Cells.get s.measure k).toNat))))

/-- KEY_EXCHANGE (R446): at most four secured sessions are open. -/
def execKeyExchange (e : Endpoint) (session : Nat) (s : State) : Out := attend s e (
  if 4 ≤ s.sessions.length then .next (tellHost s (.spdmError e true))
  else freeReply { s with sessions := s.sessions ++ [{ id := session, finished := false }] } e 7 [session])

/-- FINISH (R446). -/
def execFinish (e : Endpoint) (session : Nat) (s : State) : Out := attend s e (
  if s.sessions.any (fun x => x.id == session) then
    .next (answer { s with sessions := updWhere (fun x => x.id == session) (fun x => { x with finished := true }) s.sessions } e 8 [session])
  else .next (tellHost s (.spdmError e false)))

/-- END_SESSION (R446). -/
def execEndSession (e : Endpoint) (session : Nat) (s : State) : Out := attend s e (
  if s.sessions.any (fun x => x.id == session) then .next (answer { s with sessions := s.sessions.filter (fun x => x.id ≠ session) } e 9 [session])
  else .next (tellHost s (.spdmError e false)))

/-- Any other request (R446): ERROR, UnsupportedRequest. -/
def execSpdmUnsupportedRequest (e : Endpoint) (_code : Nat) (s : State) : Out := attend s e (
  .next (tellHost s (.spdmError e false)))

/-! ### IDE and device interfaces (R447, R448) -/

/-- IDE_KM (R447): within a secured session, the keys and up to four ranges of one of the four streams are programmed. -/
def execIdeKm (session stream : Nat) (ranges : List (Nat × Nat)) (s : State) : Out :=
  if s.sessions.any (fun x => x.id == session && x.finished) && stream < 4 && ranges.length ≤ 4 then
    .next { s with streams := putWhere (fun x => x.stream == stream) { stream := stream, ranges := ranges, insecure := false } s.streams }
  else .next s

/-- Whether some range of a stream covers addresses from `lo` to `hi`. -/
def IdeStream.covers (x : IdeStream) (lo hi : Nat) : Bool := x.ranges.any (fun r => r.1 ≤ lo && hi ≤ r.2)

/-- Whether a VF's entry names a stream whose ranges cover its BARs. -/
def vfCovered (s : State) (v : Vf) : Bool :=
  v.ideReq && (match findStream s v.ide with
    | some x => !x.insecure && x.covers (bar2 v.vf 0) (bar2 v.vf (2 ^ 36)) && x.covers (bar0 v.vf 0) (bar0 v.vf 65536)
    | none => false)

/-- Change the interface state of a VF. -/
def setTdi (s : State) (vf t : Nat) : State := { s with vfs := updWhere (fun v => v.vf == vf) (fun v => { v with tdi := t }) s.vfs }

/-- LOCK_INTERFACE (R448). -/
def execLockInterface (vf : Nat) (s : State) : Out :=
  match hostVf s vf with
  | some v => .next (if v.tdi = 0 && vfCovered s v then setTdi s vf 1 else s)
  | none => .next s

/-- START_INTERFACE (R448). -/
def execStartInterface (vf : Nat) (s : State) : Out :=
  match hostVf s vf with
  | some v => .next (if v.tdi = 1 then setTdi s vf 2 else s)
  | none => .next s

/-- The 32 bytes of a VF entry (R451 Table 4). -/
def vfBytes (v : Vf) : Nat :=
  packFields [(0, 1, v.state), (1, 1, v.tenant), (2, 2, v.asid), (4, 4, v.winPages), (8, 8, v.winBase), (0x10, 8, v.cpage),
    (0x18, 1, v.ide + (if v.ideReq then 4 else 0))]

/-- GET_DEVICE_INTERFACE_REPORT (R448): the BARs' addresses, the window's size, and the SHA-384 digest of the VF entry. -/
def execGetDeviceInterfaceReport (vf : Nat) (s : State) : Out :=
  match s.vfs.find? (fun v => v.vf == vf && v.state ≠ 0) with
  | some v => .next (tellHost s (.report vf [bar0 vf 0, bar2 vf 0, 2097152 * v.winPages, beNum (sha true (bytesOf 32 (vfBytes v)))]))
  | none => .next s

end Sys2Proof.Machine
end

