-- ==== Sys2Proof/Machine/Create.lean ====
section
/-! DEFINITION. The creation of courses, bonds and piers (R35, R77, R130–R132, R171, R174, R318), and of a handler course (R428). -/

namespace Sys2Proof.Machine

/-- The seed of a lane (R77). -/
def laneSeed (seed : Word) (i : Nat) : Word :=
  let x := seed ^^^ BitVec.ofNat 32 (0x9E3779B9 * (i + 1))
  if x = 0 then 1 else x

/-- The seeds of a new course. -/
def seedCells (seed : Word) : Cells 32 := Cells.setAll [] (allLanes.map (fun i => (i, laneSeed seed i)))

/-- `sr.FPM` of a new course: the span record's fields, exception flags clear, reserved bits zero (R68). -/
def fpmAtCreation (w : Word) : Word := w &&& 0x001F003F

/-- Where a course is created. -/
structure Place where
  id : Nat
  qid : Nat
  slot : Nat
  frameSlot : Nat
  bond : Nat
  bid : Nat
  cid : Nat
  segs : List Nat
deriving DecidableEq, Repr

/-- A new course of a pier of a span (R35). -/
def newCourse (s : State) (sp : Span) (p : Pier) (w : Place) : Course :=
  let c : Course :=
    { Reset.course with
      id := w.id, life := .live, live := 0xFFFFFFFF, s := Cells.set (Cells.set [] 0 (BitVec.ofNat 32 sp.rcd.args)) 1 (BitVec.ofNat 32 (bits sp.rcd.args 32 21)),
      fpm := fpmAtCreation sp.rcd.fpm, srseed := seedCells sp.rcd.seed, lfmode := sp.rcd.lfmode &&& 1, cid := w.cid, bid := w.bid,
      pierIx := BitVec.ofNat 32 p.ix, spanId := sp.rcd.spanId, qid := w.qid, slot := w.slot, bond := w.bond, pier := p.id, span := sp.id,
      tenant := sp.tenant, asid := sp.asid, regs := sp.rcd.regs, harvest := sp.harvest, prio := sp.prio, frameSlot := w.frameSlot, segs := w.segs }
  let c := c.setPcs 0xFFFFFFFF (fun _ => sp.rcd.entry)
  { c with frameBase := slotBase s c }

/-- A new bond (R32, R35): its scratchpad is zero and its barriers are at phase 0 with no arrivals. -/
def newBond (id pier bid shape courses size : Nat) (quoins : List Nat) : Bond :=
  { id := id, pier := pier, bid := bid, shape := shape, quoins := quoins, courses := courses, size := size, scratch := [], spoison := [],
    bars := [], arrivals := [], exited := 0, tiles := [], tpoison := [],
    active := { rcd := { valid := false, fb := 0, fa := 0, sb := false }, slots := [], scales := [], poison := [] },
    shadow := { rcd := { valid := false, fb := 0, fa := 0, sb := false }, slots := [], scales := [], poison := [] },
    queue := [], nextCmd := 0, ranges := [], placed := true }

/-- The handler course of a ring on a die: quoins 768 and 769 stand for the control cores. -/
def handlerOf (s : State) (die ring : Nat) : Option Course :=
  (s.cur :: s.courses).find? (fun c => c.qid == 768 + die && c.ring == ring && c.exists)

/-- A handler course between traps (R428): it runs under Keystone's ASID and tag 64, outside every span, on a bond
of its own; its QID and CORE are the model's (assumption 87). -/
def newHandler (s : State) (die ring : Nat) : State :=
  if (handlerOf s die ring).isSome then s
  else
    let id := s.nextId
    let b := newBond (id + 1) 0 0 0 1 65536 [768 + die]
    let c : Course :=
      { Reset.course with
        id := id, life := .idle, live := 0xFFFFFFFF, qid := 768 + die, slot := ring, bond := id + 1, tenant := 64, asid := s.kasid, ring := ring,
        srseed := seedCells 0 }
    { s with courses := s.courses ++ [c], bonds := s.bonds ++ [b], nextId := id + 2 }

end Sys2Proof.Machine
end

