-- ==== Sys2Proof/Machine/Spill.lean ====
section
/-! DEFINITION. The spill engine (R200, R213, R327, R329, R330, R433): where the image of a pier that holds nothing stands in HBM, how it is written
there and how it is read back. -/

namespace Sys2Proof.Machine

/-! ### Piers -/

/-- Change a pier. -/
def updPier (s : State) (id : Nat) (f : Pier → Pier) : State := { s with piers := updWhere (fun p => p.id == id) f s.piers }
/-- A pier. -/
def findPier (s : State) (id : Nat) : Option Pier := s.piers.find? (fun p => p.id == id)
/-- The courses of a pier. -/
def pierCourses (s : State) (id : Nat) : List Course := coursesWhere s (fun c => c.pier == id)
/-- The bonds of a pier. -/
def pierBonds (s : State) (id : Nat) : List Bond := s.bonds.filter (fun b => b.pier == id)
/-- The quoins that a pier's bonds lie on. -/
def pierQuoins (s : State) (id : Nat) : List Nat := (pierBonds s id).flatMap (fun b => b.quoins)
/-- Whether a pier belongs to a harvest span. -/
def pierHarvest (s : State) (p : Pier) : Bool := match findSpan s p.span with | some sp => sp.harvest | none => false
/-- The tenant of a pier. -/
def pierTenant (s : State) (p : Pier) : Nat := match findSpan s p.span with | some sp => sp.tenant | none => 0

/-! ### Slots (R213, R330, R433) -/

/-- Bytes of a spill slot. -/
def spillSlotBytes : Nat := 393216
/-- Bytes of its directory. -/
def slotHead : Nat := 8192

/-- How many of some numbers are below another. -/
def countBelow (xs : List Nat) (k : Nat) : Nat := (xs.filter (fun x => x < k)).length

/-- The place of a quoin's slot in its partition's spill region: the quoins that the tenant owns, or is leaving, ascending, then those lent to it
(R213, R319; assumption 72). -/
def slotIndex (s : State) (t qid : Nat) : Nat :=
  let own := (s.quoins.filter (fun q => q.vacating == some t || (q.owned && q.owner == t && q.vacating.isNone))).map (fun q => q.qid)
  let lent := (s.quoins.filter (fun q => q.resv && q.lessee == t && q.owner ≠ t)).map (fun q => q.qid)
  if memNat qid own then countBelow own qid else own.length + countBelow lent qid

/-- Where the slot for a quoin's part of a pier's image lies: in the context save area of its request, else in the partition's spill region. -/
def slotAt (s : State) (p : Pier) (qid : Nat) : Nat :=
  match p.save with
  | some base => base + spillSlotBytes * countBelow p.saveQuoins qid
  | none => (match partition s (pierTenant s p) with | some x => x.spill | none => 0) + spillSlotBytes * slotIndex s (pierTenant s p) qid

/-! ### Images (R329) -/

/-- Bytes of a course's image but for its save frame: main-file rows, scalar slot, operand and last-result files. -/
def imageBytes (regs : Nat) : Nat := 128 * regs + 1792

/-- Bytes of each part of a bond's scratchpad. -/
def partBytes (b : Bond) : Nat := b.size / Nat.max b.quoins.length 1

/-- The stretches of HBM that images take up. -/
def imagesHeld (s : State) : List (Nat × Nat) :=
  ((s.cur :: s.courses).filter (fun c => c.imageAt ≠ 0)).map (fun c => (c.imageAt, imageBytes c.regs)) ++
    s.bonds.flatMap (fun b => b.imageAt.map (fun a => (a, partBytes b)))

/-- The lowest place in a slot for `n` bytes beside what it holds; 0 where there is none. -/
def pieceAt (held : List (Nat × Nat)) (slot n : Nat) : Nat :=
  let free (a : Nat) : Bool := slot + slotHead ≤ a && a + n ≤ slot + spillSlotBytes && !held.any (fun h => meets a n h.1 h.2)
  ((listMin (((slot + slotHead) :: held.map (fun h => h.1 + h.2)).filter free))).getD 0

/-- Write `n` bytes at home, line by line; none when there is no place for them. -/
def imagePut (fuel : Nat) (s : State) (pa n v : Nat) : State :=
  match fuel with
  | 0 => s
  | f + 1 =>
    if n = 0 || pa = 0 then s
    else
      let k := Nat.min n (128 - pa % 128)
      imagePut f (physHomeWrite s pa k (v % 2 ^ (8 * k))) (pa + k) (n - k) (v / 2 ^ (8 * k))

/-- Read `n` bytes at home, line by line. -/
def imageGet (fuel : Nat) (s : State) (pa n : Nat) : Nat :=
  match fuel with
  | 0 => 0
  | f + 1 =>
    if n = 0 then 0
    else
      let k := Nat.min n (128 - pa % 128)
      physHomeRead s pa k + 2 ^ (8 * k) * imageGet f s (pa + k) (n - k)

/-- A spill write or a restore of `n` bytes is charged to the partition's guaranteed buckets (R410). -/
def chargeSpill (s : State) (tenant pa n : Nat) : State :=
  (List.range (if pa = 0 then 0 else (pa + n + 255) / 256 - pa / 256)).foldl (fun s k => drawBucket s tenant false (256 * (pa / 256 + k))) s

/-- Cells as one number, key by key. -/
def cellsNum {w : Nat} (cs : Cells w) : Nat := cs.foldl (fun acc kv => acc + kv.2.toNat * 2 ^ (w * kv.1)) 0

/-- The `n` cells of a number. -/
def numCells (w n v : Nat) : Cells w :=
  (List.range n).filterMap (fun k => if bits v (w * k) w = 0 then none else some (k, BitVec.ofNat w (bits v (w * k) w)))

/-- The image of a course, in the order of R329: each row of the main file is a register, lane 0 lowest. -/
def courseImage (c : Course) : Nat :=
  packFields [(0, 128 * c.regs, cellsNum c.v), (128 * c.regs, 256, cellsNum c.s), (128 * c.regs + 256, 1024, cellsNum c.o),
    (128 * c.regs + 1280, 512, cellsNum c.l)]

/-- A course with the files that an image holds, in which the results that waited for them land. -/
def Course.fromImage (c : Course) (v : Nat) : Course :=
  c.landing.foldl Course.land
    { c with
        v := numCells 32 (32 * c.regs) v, s := numCells 32 64 (fieldAt v (128 * c.regs) 256), o := numCells 32 256 (fieldAt v (128 * c.regs + 256) 1024)
        l := numCells 64 64 (fieldAt v (128 * c.regs + 1280) 512), imageAt := 0, landing := [] }

/-- The courses of a pier that are saved, by bond and index. -/
def savedCourses (s : State) (id : Nat) : List Course :=
  (pierBonds s id).flatMap (fun b => (List.range b.courses).filterMap (fun k =>
    (pierCourses s id).find? (fun c => c.bond == b.id && c.cid == k && c.life ≠ .exited)))

/-- Write a course's image to the slot of its quoin, unless it is there already. -/
def spillCourse (s : State) (p : Pier) (c : Course) : State :=
  if c.imageAt ≠ 0 then s else
  let a := pieceAt (imagesHeld s) (slotAt s p c.qid) (imageBytes c.regs)
  let s := chargeSpill s (pierTenant s p) a (imageBytes c.regs)
  updCourses (imagePut (imageBytes c.regs) s a (imageBytes c.regs) (courseImage c)) (fun x => x.id == c.id) (fun x => { x with imageAt := a })

/-- Write the parts of a bond's scratchpad to the slots of its quoins. -/
def spillBond (s : State) (p : Pier) (b : Bond) : State :=
  (List.range b.quoins.length).foldl (fun s j =>
    let n := partBytes b
    let a := pieceAt (imagesHeld s) (slotAt s p (b.quoins.getD j 0)) n
    let s := imagePut n (chargeSpill s (pierTenant s p) a n) a n (readNum b.scratch (n * j) n)
    { s with bonds := updWhere (fun x => x.id == b.id) (fun x => { x with imageAt := x.imageAt ++ [a] }) s.bonds }) s

/-- Whether a bond's scratchpad holds a row that reads as uncorrectable (R207). -/
def rowLost (s : State) (b : Bond) : Bool :=
  b.ssyn.any (fun kv => match readRow (retiredBank s (rowUnit b kv.1)) (readNum b.scratch (128 * kv.1) 128) kv.2.toNat with
    | .uncorrectable => true
    | .clean | .corrected _ _ | .rebuilt _ => false)

/-- Write the image of a pier: the courses in order, then the scratchpad parts (R330), whose rows are read for it (R207). -/
def spillImage (s : State) (id : Nat) : State :=
  match findPier s id with
  | none => s
  | some p =>
    let s := (pierBonds s id).foldl (fun s b => readRows s b.id 0 b.size) s
    let s := (savedCourses s id).foldl (fun s c => spillCourse s p c) s
    (pierBonds s id).foldl (fun s b => spillBond s p b) s

/-- Read a pier's image back: what had no place stays as it was saved. -/
def readImage (s : State) (id : Nat) : State :=
  let t := match findPier s id with | some p => pierTenant s p | none => 64
  let s := ((pierCourses s id).filter (fun c => c.imageAt ≠ 0)).foldl (fun s c => chargeSpill s t c.imageAt (imageBytes c.regs)) s
  let s := (pierBonds s id).foldl (fun s b => (b.imageAt.filter (fun a => a ≠ 0)).foldl (fun s a => chargeSpill s t a (partBytes b)) s) s
  let s := updCourses s (fun c => c.pier == id && c.imageAt ≠ 0) (fun c => c.fromImage (imageGet (imageBytes c.regs) s c.imageAt (imageBytes c.regs)))
  let bond (b : Bond) : Bond :=
    let n := partBytes b
    { b with
        scratch := (List.range b.imageAt.length).foldl (fun cs j =>
          let a := b.imageAt.getD j 0
          if a = 0 then cs else writeNum cs (n * j) n (imageGet n s a n)) b.scratch
        imageAt := [] }
  { s with bonds := updWhere (fun b => b.pier == id) bond s.bonds }

/-! ### A harvest course stopped at ring 2 or 3 (R428) -/

/-- Whether a course stopped at ring 2 or 3 still holds what its image frees. -/
def Course.stillHeld (c : Course) : Bool := c.life = .halted 0 && c.stopRing.isSome && !c.segs.isEmpty

/-- The image of a stopped course goes to its quoin's slot, and the course holds nothing. -/
def spillStopped (s : State) (c : Course) : State :=
  match findPier s c.pier with
  | none => s
  | some p =>
    updCourses (updPier (spillCourse s p c) p.id (fun p => { p with image := c.qid :: p.image })) (fun x => x.id == c.id) (fun x => { x with segs := [] })

/-- Whether a course is one that its handler has released and whose placed pier is not halting (R428). -/
def released (s : State) (c : Course) : Bool :=
  c.life = .halted 0 && c.stopRing.isNone &&
  (match findPier s c.pier with | some p => p.resident && !p.halted && !p.evicting | none => false) &&
  (pierCourses s c.pier).all (fun x => !x.haltReq && (match x.life with
    | .halted k => k = 0
    | .none | .live | .exited | .ended _ | .gone | .idle => true))

/-- Its files are read back from its image. -/
def filesBack (s : State) (c : Course) : State :=
  let v := imageGet (imageBytes c.regs) s c.imageAt (imageBytes c.regs)
  let s := if c.imageAt = 0 then s else chargeSpill s c.tenant c.imageAt (imageBytes c.regs)
  let s := updCourses s (fun x => x.id == c.id && x.imageAt ≠ 0) (fun x => x.fromImage v)
  updPier s c.pier (fun p => { p with image := ((pierCourses s c.pier).filter (fun x => x.imageAt ≠ 0)).map (fun x => x.qid) })

/-- It has segments of its quoin again. -/
def segsBack (s : State) (c : Course) : State :=
  let segs := if c.segs.isEmpty then giveSegs s c.qid c.harvest c.regs else c.segs
  updCourses s (fun x => x.id == c.id) (fun x => { x with segs := segs })

/-- Whether what it needs is free on its quoin (R328). -/
def fitsBack (s : State) (c : Course) : Bool := !c.segs.isEmpty || (quoinHeld (segsBack s c) (fun _ => true) c.qid).fits

/-! ### Puts between images (R327) -/

/-- The puts of the course in the issue unit that have not landed take effect, in order. -/
def landPuts (s : State) : State :=
  let ps := s.cur.ops.filter (fun o => o.putBond.isSome)
  ps.foldl (fun s o => match o.kind with
    | .put b doff soff len coff inc => landPut s o b doff soff len coff inc
    | _ => s) s

end Sys2Proof.Machine
end

