-- ==== Sys2Proof/Machine/Halt.lean ====
section
/-! DEFINITION. How courses stop and come back: traps taken late and handlers started (R424, R428), halts, pre-emption requests and debug stops
(R43, R59, R430–R433), harvest eviction (R52, R323–R328), containment of a failed core or die (R436, R437), and restoration (R434). -/

namespace Sys2Proof.Machine

/-! ### Frames and handlers -/

/-- Whether a debug stop can be taken: at a reconvergence point of the program at ring 0 (R430, R441). -/
def debugDue (c : Course) : Bool :=
  c.debugReq && c.life = .live && c.ring = 0 && c.stopRing.isNone && c.pend.isEmpty && c.aside.isNone && c.reconverged

/-- Take the debug stop of the course in the issue unit: class 17, sub-code 2. -/
def takeDebugStop (s : State) : State :=
  raise (s.upd (fun c => { c with debugReq := false })) 0x112 s.cur.live s.cur.headPc 0 0

/-- FRAME_TAKEN (R424): the oldest pending trap of a course takes its frame, or its debug stop is taken at a reconvergence point. -/
def execFrameTaken (c : Nat) (s : State) : Out :=
  .next (atCourse s c (fun s => if debugDue s.cur then takeDebugStop s else takePending s))

/-- DEBUG_STOP_TIMEOUT (R430): the frame is taken from wherever the lanes stand. -/
def execDebugStopTimeout (c : Nat) (s : State) : Out :=
  .next (atCourse s c (fun s =>
    let c := s.cur
    if c.debugReq && c.life = .live && c.ring = 0 && c.stopRing.isNone then takeDebugStop s else s))

/-- Start an idle handler course at its vector for a listed trap (R428). -/
def startHandler (c : Course) (entry : Nat) (t : TrapRec) : Course :=
  let c1 := c.jump c.live (fun _ => entry)
  { c1 with
      life := .live, wait := none, stopRing := none, enr := [], waitm := [], waitLen := [], depth := [], heldLanes := 0
      s := [(0, t.frame % 2 ^ 32), (1, t.frame / 2 ^ 32), (2, t.cause), (3, t.who)].foldl (fun x p => Cells.set x p.1 (BitVec.ofNat 32 p.2)) c.s }

/-- HANDLER_COURSE_START (R428): the idle handler course of a ring on a die starts on the oldest listed trap. -/
def execHandlerCourseStart (die ring : Nat) (s : State) : Out :=
  let d := getDie s die
  let list := if ring = 2 then d.list2 else d.list3
  match handlerOf s die ring, list with
  | some h, t :: rest =>
    if h.life ≠ .idle || d.dead then .next s
    else
      let entry := vectorEntry (if ring = 2 then d.tvec2 else d.tvec3)
      let s := updDie s die (fun d => if ring = 2 then { d with list2 := rest, serve2 := some t } else { d with list3 := rest, serve3 := some t })
      .next (atCourse s h.id (fun s => s.upd (fun c => startHandler c entry t)))
  | _, _ => .next s

/-! ### Saving a course (R59, R225, R420, R424) -/

/-- Write back lines of the course in the issue unit that its halt owes (R225); those that another core's pin refuses stay owed (R228). With none left the
core's pins for the course's ASIDs are cleared. -/
def haltFlush (s : State) (ls : List (Nat × Nat)) : State :=
  match ls with
  | [] => if s.cur.owing.isEmpty then clearPins s s.cur.core (asidsOf s s.cur.tenant s.cur.asid) else s
  | x :: rest =>
    match s.l1.find? (fun l => l.core == s.cur.core && l.asid == x.1 && l.addr == x.2 && l.dirty ≠ 0) with
    | none => haltFlush s rest
    | some l =>
      match l1WriteBack s l with
      | (s, true) => haltFlush (cleanL1 s l) rest
      | (s, false) => haltFlush (s.upd (fun c => { c with owing := c.owing ++ [x] })) rest

/-- The write-back of the course in the issue unit begins with every dirty line of its ASIDs in its core's L1. -/
def haltWriteBack (s : State) : State :=
  haltFlush (s.upd (fun c => { c with owing := [] })) ((dirtyLines s s.cur.core (asidsOf s s.cur.tenant s.cur.asid)).map (fun l => (l.asid, l.addr)))

/-- The lines still owed are tried again. -/
def haltAgain (s : State) : State := haltFlush (s.upd (fun c => { c with owing := [] })) s.cur.owing

/-- Whether an operation is one of an array command. -/
def Op.isArray (o : Op) : Bool :=
  match o.kind with
  | .array _ => true
  | .load _ _ _ _ | .loadS _ _ | .loadC _ _ _ _ | .store _ _ | .storeS _ | .atomic _ _ _ _ | .atomicS _ _ _ | .put _ _ _ _ _ _ | .order _ _
  | .afence _ _ | .pflush _ | .enq _ _ _ | .lease _ _ _ _ | .engine _ _ _ _ _ _ _ | .fetch => false

/-- Whether an engine command can stop where it stands, its undone units being a suffix (R334, R340): a started signature command runs to completion, an
exchange stops at 4 KiB of outgoing data; one whose units are done stops while it waits for its partners or its writes. -/
def Op.stopsHere (o : Op) : Bool :=
  match o.kind with
  | .engine _ maj _ b _ u go =>
    if o.stage = 0 then
      (maj ≠ 0xD6 || !go) && (maj ≠ 0xD3 || (mapOf (numOf ((b.drop 64).take 64))).zb * u % 4096 = 0)
    else o.stage = 1
  | _ => false

/-- What remains of an engine command, as a frame keeps it (R340, R423). -/
def Op.remainder (o : Op) : Op := { o with entry := 1, etype := 3, stage := 0 }

/-- Whether an operation of a halting course has reached the end of its unit (R390, R424): it is parked, a command whose started units are
complete, a fetch or a read of `waitc`, which are made again (R403), or an entry of the frame that a ring-1 handler serves, whose data is there (R441). -/
def atUnit (c : Course) (o : Op) : Bool :=
  o.isFetch || o.isWatch || o.parked.isSome || (if o.ring = c.ring then o.stopsHere else o.entry = 1 || o.entry = 3)

/-- The operations of a course that halts at ring `r` as its frame keeps them: remainders of commands as entries of TYPE 3 while the frame holds them
(R340), parked accesses with their park records, fetches not at all; those of another ring stay as they are. Answers whether every remainder has an
entry. -/
def haltOps (ops : List Op) (r n used : Nat) : List Op × Bool :=
  match ops with
  | [] => ([], true)
  | o :: rest =>
    if (o.isFetch || o.isWatch) && o.parked.isNone then haltOps rest r n used
    else if o.ring ≠ r then
      let t := haltOps rest r n used
      (o :: t.1, t.2)
    else if o.isEngine then
      if n < 16 && used + 5 ≤ 22 then
        let t := haltOps rest r (n + 1) (used + 5)
        (o.remainder :: t.1, t.2)
      else (o :: (haltOps rest r n used).1, false)
    else
      let t := haltOps rest r n used
      ({ o with etype := 4 } :: t.1, t.2)

/-- Whether a course asked to halt can be saved now: reconverged or forced, with no trap to take, every operation at its unit and every remainder
an entry (R59, R424). -/
def canHalt (c : Course) : Bool :=
  c.haltReq && c.life = .live && c.stopRing.isNone && c.pend.isEmpty && c.aside.isNone && (c.forced || c.reconverged) &&
  c.ops.all (atUnit c) && (haltOps c.ops c.ring 0 0).2

/-- Save the course in the issue unit with a halt frame of a KIND (R420, R432, R437): its state stays its image. -/
def saveCourse (s : State) (kind cause : Nat) : State :=
  let s := settleSleep s
  let c := s.cur
  let s := writeFrame s c (slotBase s c + 0x3000) (buildFrame c { kind := kind, cause := cause, tpc := c.headPc, lanes := 0, info := 0, recs := 0 })
  haltWriteBack (s.upd (fun c => { c with life := .halted kind, haltReq := false, forced := false, evicting := false, heldLanes := 0 }))

/-- Halt the course in the issue unit: KIND 1 at a reconvergence point, KIND 2 with CAUSE 0x140 from wherever its lanes stand. -/
def haltCourse (s : State) : State :=
  if !canHalt s.cur then s
  else
    let kind := if s.cur.reconverged then 1 else 2
    saveCourse (s.upd (fun c => { c with ops := (haltOps c.ops c.ring 0 0).1 })) kind (if kind = 2 then 0x140 else 0)

/-! ### Piers -/

/-- Free the quoin resources of a pier: its bonds hold nothing, nor do its courses. -/
def freePier (s : State) (id : Nat) : State :=
  updCourses { s with bonds := updWhere (fun b => b.pier == id) (fun b => { b with placed := false }) s.bonds } (fun c => c.pier == id)
    (fun c => { c with segs := [] })

/-- Whether a course has stopped for good or is saved. -/
def Course.saved (c : Course) : Bool :=
  match c.life with
  | .halted _ | .exited => true
  | .none | .live | .ended _ | .gone | .idle => false

/-- A pier of which every course is saved or exited, whose array queues are empty and whose puts have landed becomes Halted: its image is written, and it
holds nothing (R38, R43, R284, R433). An uncorrectable row met on the way ends its courses with sub-code 3 (R441). -/
def settlePier (s : State) (id : Nat) : State :=
  match findPier s id with
  | none => s
  | some p =>
    let cs := pierCourses s id
    let still : Bool := (s.bonds.filter (fun b => b.pier == id)).all (fun b => b.queue.isEmpty) && cs.all (fun c => c.ops.all (fun o => o.putBond.isNone))
    if p.halted || p.pending || p.evicting || !p.resident || !cs.all Course.saved || cs.all (fun c => c.life = .exited) || !still then s
    else if (pierBonds s id).any (rowLost s) then endSpan s p.span 1 0x153
    else
      let qs := if p.save.isSome then p.image else pierQuoins s id
      freePier (spillImage (updPier s id (fun p => { p with halted := true, resident := false, image := qs })) id) id

/-- Every pier that has come to a stop. -/
def settlePiers (s : State) : State := (s.piers.map (fun p => p.id)).foldl settlePier s

/-- COURSE_HALT (R59): a course asked to halt is saved, and with the last one its pier; the write-backs that a saved course owes are tried again (R225). -/
def execCourseHalt (c : Nat) (s : State) : Out :=
  .next (settlePiers (atCourse s c (fun s => if s.cur.owing.isEmpty then haltCourse s else haltAgain s)))

/-- FORCED_FULL_SAVE (R59): 20 us after the request the course issues nothing more, and is saved as soon as what is in flight is settled. -/
def execForcedFullSave (c : Nat) (s : State) : Out :=
  .next (settlePiers (atCourse s c (fun s => if s.cur.haltReq then haltCourse (s.upd (fun c => { c with forced := true })) else s)))

/-- Ask a pier to halt, its image going to the partition's spill region (R437, R438). -/
def preemptPier (s : State) (id : Nat) : State :=
  updCourses (updPier s id (fun p => { p with save := none })) (fun c => c.pier == id && c.life = .live) (fun c => { c with haltReq := true })

/-! ### Pre-emption requests (R430–R432) -/

/-- PREEMPT_SPAN (R431). -/
def execPreemptSpan (die : Nat) (q : Prq) (s : State) : Out := .next (startPrq s die 1 q)
/-- PREEMPT_PIER (R431). -/
def execPreemptPier (die : Nat) (q : Prq) (s : State) : Out := .next (startPrq s die 2 q)
/-- PREEMPT_TENANT (R431). -/
def execPreemptTenant (die : Nat) (q : Prq) (s : State) : Out := .next (startPrq s die 3 q)
/-- PREEMPT_RELEASE (R431). -/
def execPreemptRelease (die : Nat) (q : Prq) (s : State) : Out := .next (startPrq s die 4 q)
/-- DEBUG_STOP (R430, R431). -/
def execDebugStop (die : Nat) (q : Prq) (s : State) : Out := .next (startPrq s die 5 q)

/-- A command of the course that has not reached the end of its unit. -/
def runningCommand (c : Course) : Option Op := c.ops.find? (fun o => o.isEngine && !o.stopsHere)

/-- Whether a course has acknowledged a request (R432). -/
def courseAcked (c : Course) (kind : Nat) : Bool :=
  if kind = 5 then !c.debugReq || c.life ≠ .live
  else c.life ≠ .live || (c.stopRing.isSome && (runningCommand c).isNone)

/-- Whether every acknowledgement of a request is in: its courses', and their piers halted as a whole. -/
def prqAcked (s : State) (r : PrqRun) : Bool :=
  r.courses.all (fun id => match courseById s id with
    | none => true
    | some c => courseAcked c r.kind && (r.kind = 5 || match findPier s c.pier with
      | none => true
      | some p => p.halted || p.evicting || (pierCourses s p.id).all (fun c => c.life = .exited) ||
          (pierCourses s p.id).any (fun c => c.life = .live && c.stopRing.isSome)))

/-- The running request of the lowest die that satisfies `p`. -/
def firstPrq (s : State) (p : PrqRun → Bool) : Option PrqRun :=
  match s.prqs.find? (fun r => r.die = 0 && p r) with
  | some r => some r
  | none => s.prqs.find? p

/-- PREEMPT_REQUEST_DONE (R432). -/
def execPreemptRequestDone (s : State) : Out :=
  let s := settlePiers s
  .next (match firstPrq s (prqAcked s) with
    | some r => prqComplete s r.die r.overdue
    | none => s)

/-- PREEMPT_OVERDUE (R432): OVERDUE is set, and each course of the request whose command has not reached its unit traps with class 20, sub-code 1,
with the engine's OP and its agent's position on the die. -/
def execPreemptOverdue (s : State) : Out :=
  .next (match firstPrq s (fun r => !r.overdue && !prqAcked s r) with
    | none => s
    | some r =>
      let s := updDie { s with prqs := updWhere (fun x => x.die == r.die) (fun x => { x with overdue := true }) s.prqs } r.die
        (fun d => { d with prqOverdue := true })
      if r.kind = 5 then s
      else r.courses.foldl (fun s id => atCourse s id (fun s =>
        match runningCommand s.cur with
        | some o => match o.kind with
          | .engine _ maj _ _ _ _ _ =>
            if s.cur.life = .live && s.cur.stopRing.isNone then raise s 0x141 s.cur.live o.pc (maj + 65536 * (s.cur.core % 96)) 0 else s
          | _ => s
        | none => s)) s)

/-! ### Harvest eviction (R323–R327) -/

/-- Mark a pier as a victim: its courses issue nothing more (R325). -/
def evictPier (s : State) (id : Nat) : State :=
  updCourses (updPier s id (fun p => { p with evicting := true })) (fun c => c.pier == id) (fun c => { c with evicting := true })

/-- The last of some things. -/
def lastOf {α : Type} (xs : List α) : Option α := xs.reverse.head?

/-- Whether what stays on a quoin once its victims are gone does not fit. -/
def overfull (s : State) (qid : Nat) : Bool :=
  !(quoinHeld s (fun b => !s.piers.any (fun p => p.id == b.pier && p.evicting)) qid).fits

/-- The next victim on a quoin: the harvest pier placed, being placed or being restored there most recently (R323, R331). -/
def nextVictim (s : State) (qid : Nat) : Option Pier :=
  let here (p : Pier) : Bool := s.bonds.any (fun b => b.pier == p.id && b.placed && memNat qid b.quoins)
  lastOf (s.piers.filter (fun p => pierHarvest s p && !p.evicting && here p && (p.resident || p.pending)))

/-- Choose victims on a quoin, most recently placed first, until what stays fits (R323): an unfinished restore is abandoned, and a pier that is being placed
is evicted when its placement has finished (R331). -/
def markVictims (s : State) (qid fuel : Nat) : State :=
  match fuel with
  | 0 => s
  | f + 1 =>
    if !overfull s qid then s
    else match nextVictim s qid with
      | none => s
      | some p =>
        if p.pending && p.halted then markVictims (freePier (updPier s p.id (fun p => { p with pending := false })) p.id) qid f
        else if p.pending then markVictims (updPier s p.id (fun p => { p with evicting := true })) qid f
        else markVictims (evictPier s p.id) qid f

/-- EVICTION_DEMAND (R323): a guaranteed demand reaches a quoin. -/
def execEvictionDemand (qid : Nat) (s : State) : Out := .next (markVictims s qid (s.piers.length + 1))

/-- The operations of an evicted course outside a region as its frame keeps them, entries while it holds them (R326): discarded loads and
atomics not yet performed as TYPE 1, sent atomics as TYPE 0 in flight, and what remains of an engine command as TYPE 3 (R325, R340), but for a started
signature command and one whose counter add has been sent to a peer; parked accesses wait
with their park records, fetches are dropped. Operations of other rings stay as they are. -/
def evictOps (ops : List Op) (r n used : Nat) : List Op :=
  match ops with
  | [] => []
  | o :: rest =>
    let keep (o' : Op) : List Op :=
      if n < 16 && used + o'.units ≤ 22 then o' :: evictOps rest r (n + 1) (used + o'.units) else { o with etype := 4 } :: evictOps rest r n used
    if o.ring ≠ r then o :: evictOps rest r n used
    else if (o.isFetch || o.isWatch) && o.parked.isNone then evictOps rest r n used
    else if o.parked.isSome && !o.isEngine then { o with etype := 4 } :: evictOps rest r n used
    else match o.kind with
      | .engine _ maj _ _ _ _ go =>
        if 3 ≤ o.stage || (maj = 0xD6 && go && o.stage = 0) then
          (if o.returns then keep { o with entry := 2 } else o :: evictOps rest r n used)
        else keep { o.remainder with refused := false, peerWait := false }
      | .load _ _ _ _ | .loadS _ _ | .loadC _ _ _ _ =>
        keep { o with entry := 1, etype := 1, lanes := o.all, got := [], data := [], refused := false, peerWait := false }
      | .atomic d _ _ _ =>
        if d = .none then o :: evictOps rest r n used
        else if o.peerWait then keep { o with entry := 2 } else keep { o with entry := 1, etype := 1, refused := false }
      | .atomicS d _ _ => if d = .none then o :: evictOps rest r n used else keep { o with entry := 1, etype := 1, refused := false }
      | .enq _ _ _ | .lease _ _ _ _ => if o.returns then keep { o with entry := 2 } else o :: evictOps rest r n used
      | .store _ _ | .storeS _ | .put _ _ _ _ _ _ | .order _ _ | .afence _ _ | .pflush _ | .array _ | .fetch => o :: evictOps rest r n used

/-- What stands for the passes of a set-aside instruction in a frame (R423): an entry of TYPE 2. -/
def passOp (c : Course) (a : Aside) : Op :=
  { seq := c.nextOp, pc := c.pcOf ((LaneSet.toList a.rest).headD 0), kind := .order none none, lanes := a.rest, all := a.rest, subset := a.whole, addrs := [], data := [],
    got := [], flags := 0, sel := 0, fpm := a.fpm, ring := c.ring, refused := false, peerWait := false, parked := none, entry := 1, chead := [], cdist := [],
    hold := c.holdMode, stage := 0, cut := false, etype := 2 }

/-- Accept the stores and puts of the course in the issue unit (R325). -/
def acceptStores (s : State) : State :=
  performSeqs s ((s.cur.ops.filter (fun o => !o.returns && !o.isEngine && !o.isArray && !o.isFetch && !o.blocked && o.entry = 4 && o.stage = 0)).map
    (fun o => o.seq))

/-- Discard operations of the course in the issue unit, with their park records and the replies they await. -/
def discardOps (s : State) (p : Op → Bool) : State :=
  let c := s.cur
  let gone (k : Nat) : Bool := c.ops.any (fun o => o.seq == k && p o)
  let s := unpark s (fun w => w.1 == c.id && gone w.2)
  { s with
      reqs := s.reqs.filter (fun r => match r.who with | .op i k _ => !(i == c.id && gone k) | .span _ | .host _ | .pref _ _ _ _ _ => true)
      cur := { c with ops := c.ops.filter (fun o => !p o) } }

/-- The drain of an evicted course inside an open region (R52, R325, R60): everything but its stores is discarded, a trap with it, and it restarts at
its `rgn`. -/
def drainInside (s : State) : State :=
  let store (o : Op) : Bool := !o.returns && !o.isEngine && !o.isArray && !o.isFetch && o.parked.isNone && o.ring = s.cur.ring
  let s := discardOps s (fun o => !store o)
  saveCourse (s.upd (fun c =>
    { c with pend := [], aside := none, asideAt := none, wait := none, waitBelow := none, ring := 0, frameBusy := false, flags := [], vguard := [],
             pguard := [], sguard := [], landing := [] })) 4 0

/-- The requests of the course in the issue unit whose replies its discarded loads and stopped commands no longer await. -/
def dropReplies (s : State) : State :=
  let c := s.cur
  { s with reqs := s.reqs.filter (fun r => match r.who with
      | .op i k _ => !(i == c.id && c.ops.any (fun o => o.seq == k && o.entry == 1))
      | .span _ | .host _ | .pref _ _ _ _ _ => true) }

/-- The array commands that are queued no more leave no operation behind: their flags count down (R284, R325). -/
def dropArrays (s : State) : State :=
  let queued (o : Op) : Bool := match curBond s with
    | some b => b.queue.any (fun q => q.course == s.cur.id && q.opSeq == o.seq)
    | none => false
  (s.cur.ops.filter (fun o => o.isArray && !queued o)).foldl (fun s o => dropOpFlags (removeOp s o.seq) o) s

/-- The drain of an evicted course outside a region, or of one saved whatever it does (R326, R437): its frame keeps its operations as entries. -/
def drainOutside (s : State) (kind cause : Nat) : State :=
  let s := (dropArrays s).upd (fun c =>
    let c := match c.aside with
      | some a => { c with ops := c.ops ++ [passOp c a], nextOp := c.nextOp + 1 }
      | none => c
    { c with ops := evictOps c.ops c.ring 0 0 })
  saveCourse (dropReplies s) kind cause

/-- The drain of the course in the issue unit (R325, R326): outside a region a pending trap is taken first (R60). -/
def drainCourse (s : State) : State :=
  if s.cur.life ≠ .live then s.upd (fun c => { c with evicting := false })
  else
    let s := acceptStores s
    if s.cur.rgnOpen then drainInside s
    else
      let s := if s.cur.pend.isEmpty then s else takePending s
      if s.cur.life ≠ .live then s.upd (fun c => { c with evicting := false }) else drainOutside s 3 0

/-- Drain a victim pier: array commands are discarded, copies stop and their scoreboard entries are freed, and every course is saved. -/
def drainPier (s : State) (id : Nat) : State :=
  let cs := pierCourses s id
  let s := { s with bonds := updWhere (fun b => b.pier == id) (fun b => { b with queue := [], ranges := [] }) s.bonds }
  let s := updPier s id (fun p => { p with halted := true, spilled := cs.any (fun c => c.life = .live && c.rgnOpen) })
  cs.foldl (fun s c => atCourse s c.id drainCourse) s

/-- The victims with a bond on a quoin that are drained, or not. -/
def victimsOn (s : State) (qid : Nat) (drained : Bool) : List Nat :=
  (s.piers.filter (fun p => p.evicting && p.halted == drained && memNat qid (pierQuoins s p.id))).map (fun p => p.id)

/-- EVICTION_DRAIN_COMPLETE (R325): the drain of the victims on a quoin, each as a whole, on every quoin it lies on (R323). -/
def execEvictionDrainComplete (qid : Nat) (s : State) : Out := .next ((victimsOn s qid false).foldl drainPier s)

/-- A victim's state has been read: the puts of its courses that had not landed are completed (R327), the spill slots of its quoins hold its image, and it
holds nothing (R325, R330). -/
def spillPier (s : State) (id : Nat) : State :=
  match findPier s id with
  | none => s
  | some p =>
    let n := (pierCourses s id).filter (fun c => c.life ≠ .exited)
    let qs := pierQuoins s id
    let s := n.foldl (fun s c => atCourse s c.id landPuts) (perfAdd s (pierTenant s p) 0x18 n.length)
    let s := updPier s id (fun p => { p with evicting := false, resident := false, image := qs, save := none })
    freePier (spillImage s id) id

/-- SPILL_COMPLETE (R325, R428): the images of the victims on a quoin, and of its courses stopped at ring 2 or 3, have been written. -/
def execSpillComplete (qid : Nat) (s : State) : Out :=
  let s := (victimsOn s qid true).foldl spillPier s
  .next ((coursesWhere s (fun c => c.qid == qid && c.stillHeld)).foldl spillStopped s)

/-! ### Restoration (R328, R434) -/

/-- Whether the background of a halted pier is done: write-backs, puts and pending atomic returns (R225, R327). -/
def pierQuiet (s : State) (id : Nat) : Bool :=
  (pierCourses s id).all (fun c =>
    c.owing.isEmpty && c.ops.all (fun o => o.entry = 1 || o.entry = 3 || o.etype = 4 || o.parked.isSome))

/-- `n` cells of free values from a counter. -/
def freeCells (n w k : Nat) (f : Nat → Nat) : Cells w :=
  (List.range n).filterMap (fun j =>
    let v : BitVec w := BitVec.ofNat w (f (k + j))
    if v = 0 then none else some (j, v))

/-- The tiles and planes of the bonds of a restarted pier are undefined (R52): free values; both plane records read VALID = 0 (R274, R300). -/
def undefineArrays (s : State) (id : Nat) : State :=
  let plane (k : Nat) : Plane :=
    { rcd := { valid := false, fb := 0, fa := 0, sb := false }, slots := freeCells 4096 48 k (fun j => (Config.freeSlot j).toNat), scales := freeCells 1024 8 k (fun j => (Config.freeByte j).toNat), poison := [] }
  let one (b : Bond) : Bond :=
    let k := s.fresh
    { b with tiles := freeCells 16384 32 k (fun j => (Config.freeWord j).toNat), tpoison := [], active := plane k, shadow := plane (k + 4096) }
  { s with bonds := updWhere (fun b => b.pier == id) one s.bonds, fresh := s.fresh + 16384 }

/-- Every field of a halt frame (R434) over what `restoreCourse` takes from any frame. -/
def restoreHalt (s : State) (c : Course) (raw : Nat) : Course :=
  let c1 := restoreCourse s c raw
  let rgn := fieldAt raw 0x20 8
  let waiting := bitAt (fieldAt raw 7 1) 1
  let w := match c1.wait with
    | some (.sleep _) => some (Wait.sleep (fieldAt raw 0x1F8 4))
    | x => x
  { c1 with
      ring := fieldAt raw 3 1, fpm := BitVec.ofNat 32 (Nat.land (fieldAt raw 0x1C 4) 0x001F1F3F), rgnPc := bits rgn 2 51 * 4, rgnOpen := bitAt rgn 0
      restarts := bits rgn 53 11, peers := BitVec.ofNat 16 (fieldAt raw 0x3E 2), srseed := cellsFrom 32 32 (fun i => fieldAt raw (0x200 + 4 * i) 4)
      faults := cellsFrom 64 32 (fun i => fieldAt raw (0x280 + 8 * i) 8), wait := if waiting then w else none }

/-- A course restarts its region (R52, R119, R164): flags and records are empty, and the next `rgn` is the re-execution. -/
def restartRegion (c : Course) : Course :=
  { c with
      rgnOpen := false, restarted := true, restarts := Nat.min 2047 (c.restarts + 1), flags := [], vguard := [], pguard := [], sguard := []
      chead := [], cdist := [] }

/-- The scratchpad ranges of the copies of the course in the issue unit that go on are taken again (R231, R340). -/
def takeRangesAgain (s : State) : State :=
  (s.cur.ops.filter (fun o => o.copies && o.stage = 0 && o.entry = 4)).foldl (fun s o => match o.kind, curBond s with
    | .engine _ _ _ b _ _ _, some x =>
      if x.ranges.any (fun e => e.course == s.cur.id && e.seq == o.seq) then s else takeRanges s (copyOf (numOf (b.take 64))) o.seq
    | _, _ => s) s

/-- A course as it goes on. -/
def Course.goesOn (c : Course) : Course :=
  { c with life := .live, haltReq := false, forced := false, evicting := false, held := false, heldLanes := 0, away := true,
           ops := c.ops.map (fun o => if o.etype = 4 then { o with etype := 0 } else o) }

/-- The course in the issue unit, stopped at ring 2 or 3 and released by its handler, goes on. -/
def goOnHere (s : State) : State := noEligibleHere (takePending (s.upd Course.goesOn))

/-- Restore the course in the issue unit at a place (R434): a refused halt frame ends it and its span with class 23, sub-code 4. -/
def restoreOne (s : State) (qid slot : Nat) : State :=
  let s := s.upd (fun c => { c with qid := qid, slot := slot })
  let c := s.cur
  match c.life with
  | .halted 0 => if c.stopRing.isNone then goOnHere s else s
  | .halted k =>
    let ents := entriesOf c.ops c.ring 0
    (match readBlock s { c.acc with ring := 2 } (slotBase s c + 0x3000) 32 with
    | (s, raw) =>
      if !frameOkay s c raw c.live.toNat ents || 1 < fieldAt raw 3 1 || fieldAt raw 6 1 ≠ 0 || bitAt (fieldAt raw 7 1) 0 then endSpan s c.span 1 0x174
      else
        let c1 := reinjectAll (restoreHalt s c raw) raw ents 0
        let s := { s with cur := Course.goesOn (if k = 4 then restartRegion c1 else c1) }
        let s := if k = 4 then perfAdd s c.tenant 0x20 1 else s
        noEligible (takePending (rereadWait (takeRangesAgain s))))
  | .none | .live | .exited | .ended _ | .gone | .idle => s

/-- The lowest free course slot of a quoin (R33). -/
def freeSlot (s : State) (qid pier : Nat) : Nat :=
  let used := (coursesWhere s (fun c => c.qid == qid && s.piers.any (fun p => p.id == c.pier && (p.resident || p.id == pier) && !(p.halted && p.id ≠ pier)))).map
    (fun c => c.slot)
  ((List.range 32).find? (fun k => !memNat k used)).getD 0

/-- Where course `cid` of a bond resides (R31). -/
def homeQuoin (b : Bond) (cid : Nat) : Nat := b.quoins.getD (cid % b.quoins.length) 0

/-- Move the courses of a pier to the quoins of its bonds, each to a free slot. -/
def moveCourses (s : State) (id : Nat) (ids : List Nat) : State :=
  match ids with
  | [] => s
  | k :: rest =>
    let s := match courseById s k with
      | none => s
      | some c => match findBond s c.bond with
        | none => s
        | some b =>
          let q := homeQuoin b c.cid
          let slot := freeSlot s q id
          let segs := giveSegs s q c.harvest c.regs
          updCourses s (fun x => x.id == k) (fun x => { x with qid := q, slot := slot, segs := segs })
    moveCourses s id rest

/-- Whether a pier comes after another in the order of placement. -/
def placedAfter (s : State) (id other : Nat) : Bool := memNat other (((s.piers.map (fun p => p.id)).dropWhile (fun i => i ≠ id)).drop 1)

/-- Whether the resources of a placement are free: on every quoin of its bonds what is held fits (R317, R318). A placement that is being made does not
wait for those begun after it (R331). -/
def placementFree (s : State) (id : Nat) : Bool :=
  let later (b : Bond) : Bool := placedAfter s id b.pier && s.piers.any (fun p => p.id == b.pier && p.pending)
  (pierQuoins s id).all (fun q => (quoinHeld s (fun b => !later b) q).fits)

/-- Restore a halted pier whose placement has reached its quoins (R328): its courses are restored in order, and its arrays are undefined where a
region restarts. -/
def restorePier (s : State) (p : Pier) : State :=
  let ids := (pierCourses s p.id).map (fun c => c.id)
  let s := readImage s p.id
  -- no slot of the old places stays in use
  let s := updCourses s (fun c => c.pier == p.id) (fun c => { c with slot := 32, segs := [] })
  let s := moveCourses s p.id ids
  let s := if p.spilled then undefineArrays s p.id else s
  let s := updPier s p.id (fun p => { p with pending := false, halted := false, resident := true, spilled := false, image := [], held := false, save := none, saveQuoins := [] })
  ids.foldl (fun s i => atCourse s i (fun s => restoreOne s s.cur.qid s.cur.slot)) s

/-- A course of a placed pier that its handler has released is placed again once what it needs is free (R328, R428). -/
def returnCourse (s : State) (c : Course) : State :=
  if !released s c then s
  else
    let s := filesBack s c
    if fitsBack s c then atCourse (segsBack s c) c.id goOnHere else s

/-- RESTORE_COMPLETE (R328, R428, R434). -/
def execRestoreComplete (pier : Nat) (s : State) : Out :=
  .next (match findPier s pier with
    | some p =>
      if p.pending && p.halted then (if placementFree s pier && pierQuiet s pier then restorePier s p else s)
      else ((pierCourses s pier).map (fun c => c.id)).foldl (fun s i => match courseById s i with | some c => returnCourse s c | none => s) s
    | none => s)

/-! ### Retirement (R42, R46) -/

/-- Whether a pier can retire: every course of it has exited, every put has landed, and nothing of it is still in flight. -/
def canRetire (s : State) (p : Pier) : Bool :=
  let cs := pierCourses s p.id
  !p.pending && !cs.isEmpty && cs.all (fun c => c.life = .exited && c.ops.isEmpty) && (s.bonds.filter (fun b => b.pier == p.id)).all (fun b => b.queue.isEmpty)

/-- A pier retires: all it holds is freed in one step, and with the last pier the span completes (R42, R46, R313). The course in the issue unit
stays there, gone, until another is selected. -/
def retirePier (s : State) (p : Pier) : State :=
  let wrote : BitVec 16 := (pierCourses s p.id).foldl (fun acc c => acc ||| c.peers) 0
  let s :=
    { s with
        piers := s.piers.filter (fun x => x.id ≠ p.id), bonds := s.bonds.filter (fun b => b.pier ≠ p.id)
        courses := s.courses.filter (fun c => c.pier ≠ p.id || !c.exists)
        cur := if s.cur.pier == p.id then { s.cur with life := .gone } else s.cur }
  match findSpan s p.span with
  | none => s
  | some sp =>
    let sp := { sp with retired := sp.retired + 1, peers := sp.peers ||| wrote }
    let s := putSpan s sp
    if sp.state = .running && sp.retired = sp.rcd.npiers then completeSpan (putSpan s { sp with state := .completing, kind := 0, cause := 0 }) sp.id else s

/-- PIER_RETIREMENT (R42). -/
def execPierRetirement (s : State) : Out :=
  .next (match s.piers.find? (canRetire s) with
    | some p => retirePier s p
    | none => s)

/-! ### Containment (R436, R437) -/

/-- Set FENCED in the entries of a core's quoins, installed and in the table (R381). -/
def fenceQuoins (s : State) (core : Nat) : State :=
  let qs := (List.range 4).map (fun i => 4 * core + i)
  let s := qs.foldl (fun s q => { s with quoins := putWhere (fun e => e.qid == q) { quoinEntry s q with fenced := true } s.quoins }) s
  let base := physRead s (s.boot.troot + 0x18) 8
  qs.foldl (fun s q =>
    let b := physHomeRead s (base + 8 * q) 1
    physHomeWrite s (base + 8 * q) 1 (if bitAt b 1 then b else b + 2)) s

/-- The course in the issue unit is saved by containment (R437): a frame of KIND 6, whose CAUSE the spec does not give. One that is stopped at ring 2 or 3
keeps the frame that it has (assumption 113). -/
def containCourse (s : State) : State :=
  if s.cur.life ≠ .live then s
  else if s.cur.stopRing.isSome then s.upd (fun c => { c with life := .halted 0 })
  else
    let cause := (Config.freeWord s.fresh).toNat % 512
    drainOutside (acceptStores (bumpFresh s)) 6 cause

/-- CORE_CONTAINMENT (R437): the core is fenced; courses that cannot be read end with their sub-code and their spans end; the others on the core are
saved at once, and the other bonds of their piers halt; the L1 and its pins are settled; event code 7 is posted. -/
def execCoreContainment (core : Nat) (bad : List (Nat × Nat)) (s : State) : Out :=
  let s := fenceQuoins s core
  let here := coursesWhere s (fun c => c.core == core && c.life = .live)
  let piers := (s.piers.filter (fun p => (pierQuoins s p.id).any (fun q => coreOfQid q == core) && p.resident)).map (fun p => p.id)
  let s := bad.foldl (fun s x => match here.find? (fun c => c.id == x.1) with
    | some c => endSpan s c.span 1 (0x150 + x.2 % 16)
    | none => s) s
  let s := here.foldl (fun s c => atCourse s c.id containCourse) s
  let s := piers.foldl preemptPier s
  -- the L1 and its pins (R235): a line that cannot be read goes home poisoned; another core's pin on one ends first (assumption 105)
  let lines := s.l1.filter (fun l => l.core == core && l.dirty ≠ 0)
  let s := lines.foldl (fun s l => match l2Find s l.asid l.addr with
    | some x => if x.pin.isSome && x.pin ≠ some core then forcePin (l2Put s { x with refusedOnce := true }) l.asid l.addr else s
    | none => s) s
  let s := (writeBackAll s lines).1
  let s := { s with l1 := s.l1.filter (fun l => l.core ≠ core), l2 := updWhere (fun l => l.pin == some core) (fun l => { l with pin := none, refusedOnce := false }) s.l2 }
  .next (settlePiers (postDie s (dieOfCore core) { code := 7, unit := core, detail := core }))

/-- DIE_L2_FAILURE (R436): every course of the die is stopped, their spans end with class 21, sub-code 4, and the die stays unusable until reset. -/
def execDieL2Failure (die : Nat) (s : State) : Out :=
  let s := updDie s die (fun d => { d with dead := true })
  let spans := (s.piers.filter (fun p => p.die == die)).map (fun p => p.span)
  let s := spans.foldl (fun s i => endSpan s i 1 0x154) s
  .next (updCourses s (fun c => c.exists && c.die == die) (fun c => c.stop 0x154))

end Sys2Proof.Machine
end

