-- ==== Sys2Proof/Machine/Place.lean ====
section
/-! DEFINITION. The dispatcher (R313–R318): when a head span may be placed, which span is served next, the choice of quoins, the placement of new
and of halted piers, and the windows of the notification network that announce writes to it (R21, R314, R403). -/

namespace Sys2Proof.Machine

/-! ### Dependences and leases (R305, R315) -/

/-- The value of a dependence word as the dispatcher reads it at home under the span's ASID, without any check against the lease; none where the
read cannot be made. -/
def depValue (s : State) (sp : Span) (va : Nat) : Option Nat :=
  match homeLoad s (spanAcc sp) va 4 .read with
  | (_, .line _ _, v) => some v
  | _ => none

/-- The peer that holds a dependence word, if its line has still to be asked for. -/
def depPeer (s : State) (sp : Span) (va : Nat) : Option Nat :=
  match homeLoad s (spanAcc sp) va 4 .read with
  | (_, .peer dev, _) => if pathTo s dev && !reqPending s 1 (.span sp.id) then some dev else none
  | _ => none

/-- Whether every dependence of a span is met. -/
def depsMet (s : State) (sp : Span) : Bool :=
  sp.rcd.deps.all (fun d => match depValue s sp d.1 with
    | some v => counterMet v d.2
    | none => false)

/-- Whether the lease that a span names is active. -/
def leaseActive (s : State) (sp : Span) : Bool :=
  let l := leaseAt s sp.tenant (sp.rcd.lease % 256)
  l.gen == sp.rcd.lease / 256 && l.state == 2

/-- Whether the queue of a span is suspended (R303). -/
def queueHeld (s : State) (sp : Span) : Bool :=
  match findQueue s sp.tenant sp.queue with
  | some q => q.susp || !q.en
  | none => true

/-- The state that a head or eligible span takes as its dependences and lease stand (R313). -/
def headState (s : State) (sp : Span) : SpanState :=
  match sp.state with
  | .head => if depsMet s sp && leaseActive s sp then .eligible else .head
  | .eligible => if depsMet s sp then .eligible else .head
  | .queued => .queued
  | .placing => .placing
  | .running => .running
  | .completing => .completing
  | .done => .done

/-- A head whose lease was revoked while it was Queued (R313, R374; assumption 107). -/
def revokedHead (s : State) (x : Span) : Bool := x.state == .head && !leaseNamed s x.tenant x.rcd.lease

/-- The spans of a die's dispatcher whose dependences or lease changed what they are, and the requests to peers for dependence words. -/
def updateHeads (s : State) (die : Nat) : State :=
  (s.spans.filter (fun x => spanDie s x == die)).foldl (fun s x =>
    if revokedHead s x then endSpan s x.id 3 0
    else
    let s := if headState s x ≠ x.state then putSpan s { x with state := headState s x } else s
    if x.state = .head then
      x.rcd.deps.foldl (fun s d => match depPeer s x d.1 with
        | some dev => askLine s (spanAcc x) dev d.1 (.span x.id)
        | none => s) s
    else s) s

/-- Whether that would change anything. -/
def headsMove (s : State) (die : Nat) : Bool :=
  s.spans.any (fun x => spanDie s x == die && (revokedHead s x || headState s x ≠ x.state || (x.state = .head && x.rcd.deps.any (fun d => (depPeer s x d.1).isSome))))

/-! ### Candidates (R316) -/

/-- The balance of a tenant's class (R408). -/
def balance (s : State) (t : Nat) (harvest : Bool) : Int :=
  match s.budgets.find? (fun b => b.tenant == t && b.harvest == harvest) with
  | some b => b.bal
  | none => 0

/-- A halted pier of a span that may be placed again (R327, R328, R433). -/
def haltedPier (s : State) (sp : Span) : Option Pier :=
  s.piers.find? (fun p => p.span == sp.id && p.halted && !p.pending && !p.held && !p.evicting && pierQuiet s p.id)

/-- Whether the next pier of a span may be placed: the span is Eligible or Placing and its queue is not held (R303, R316). -/
def newPier (s : State) (sp : Span) : Bool :=
  (sp.state = .eligible || sp.state = .placing) && sp.placed < sp.rcd.npiers && !queueHeld s sp

/-- The place of a tenant in the rotation of a priority: after the tenant served last (R316). -/
def rotation (s : State) (prio t : Nat) : Nat := (t + 128 - (Cells.get s.lastServed prio).toNat) % 64

/-- The order of candidates (R316): class, priority, rotation, queue. -/
def rank (s : State) (sp : Span) : Nat :=
  (if sp.harvest then 2 ^ 20 else 0) + sp.prio * 2 ^ 14 + rotation s sp.prio sp.tenant * 2 ^ 6 + sp.queue

/-- Insert a span by its rank, after its equals. -/
def insertRank (s : State) (sp : Span) (xs : List Span) : List Span :=
  match xs with
  | [] => [sp]
  | x :: rest => if rank s sp < rank s x then sp :: x :: rest else x :: insertRank s sp rest

/-- Whether the piers of another span of a span's tenant, a gang, are being placed (R54, R316). -/
def gangBars (s : State) (x : Span) : Bool :=
  s.gangOnly.any (fun id => id ≠ x.id && (match findSpan s id with | some g => g.tenant == x.tenant | none => false))

/-- The candidates of a die's dispatcher in order. While the piers of a gang are being placed, no other pier of its tenant is (R316). -/
def candidates (s : State) (die : Nat) : List Span :=
  (s.spans.filter (fun x => spanDie s x == die && decide (0 < balance s x.tenant x.harvest) && ((haltedPier s x).isSome || newPier s x) &&
    !gangBars s x)).foldr (insertRank s) []

/-! ### Plans -/

/-- A placement: the span, the halted pier or none for a new one, the die and the choices for the bonds. -/
structure Plan where
  span : Span
  pier : Option Pier
  die : Nat
  set : List Choice
deriving DecidableEq, Repr

/-- The frame slots in use of a tenant: those of its courses, and those that pending piers will take (R418). -/
def slotsUsed (s : State) (t : Nat) : Nat :=
  (coursesWhere s (fun c => c.tenant == t && c.qid < 768)).length +
  (s.piers.filter (fun p => p.pending && !p.halted)).foldl (fun acc p => match findSpan s p.span with
    | some sp => if sp.tenant == t then acc + sp.rcd.bonds * sp.rcd.courses else acc
    | none => acc) 0

/-- Whether frame slots are free for a new pier (R418). -/
def slotsFree (s : State) (sp : Span) : Bool :=
  match partition s sp.tenant with
  | some p => slotsUsed s sp.tenant + sp.rcd.bonds * sp.rcd.courses ≤ 128 * p.framePages
  | none => false

/-- A bond reserved for a pier on a choice. -/
def bondOn (id pier bid : Nat) (r : SpanRec) (c : Choice) : Bond := newBond id pier bid r.shape r.courses r.need.size c.set

/-- Reserve the resources of a new pier: its record stands pending, its bonds hold their quoins (R39, R317). -/
def reserveNew (s : State) (sp : Span) (die : Nat) (cs : List Choice) : State :=
  let id := s.nextId
  let n := cs.length
  let bonds := (List.range n).filterMap (fun j => (cs[j]?).map (fun c => bondOn (id + 1 + j) id j sp.rcd c))
  let p : Pier :=
    { id := id, span := sp.id, ix := sp.placed, die := die, bonds := bonds.map (fun b => b.id), pending := true, resident := false, halted := false,
      held := false, evicting := false, spilled := false, image := [], retired := false }
  { s with piers := s.piers ++ [p], bonds := s.bonds ++ bonds, nextId := id + 1 + n }

/-- The plan for a span, if its next pier fits (R317): halted piers before new ones, on their own die (R43). -/
def planFor (s : State) (home : Nat) (sp : Span) : Option Plan :=
  match haltedPier s sp with
  | some p =>
    (chooseBonds (choicesOn s p.die sp.tenant p.id sp.harvest sp.rcd.need) sp.rcd.bonds).map
      (fun cs => { span := sp, pier := some p, die := p.die, set := cs })
  | none =>
    if !newPier s sp || !slotsFree s sp then none
    else (choosePier s home sp.tenant 0 sp.harvest sp.rcd.need).map (fun r => { span := sp, pier := none, die := r.1, set := r.2 })

/-- Whether all the piers of a gang span fit in one step (R54, R316). -/
def gangFits (s : State) (home : Nat) (sp : Span) (k : Nat) : Bool :=
  match k with
  | 0 => true
  | n + 1 => slotsFree s sp && match choosePier s home sp.tenant 0 sp.harvest sp.rcd.need with
    | some r => gangFits (reserveNew s sp r.1 r.2) home sp n
    | none => false

/-- The first candidate whose next pier can be placed: one that cannot blocks the later ones of its tenant and class (R316). -/
def choosePlan (s : State) (home : Nat) (cs : List Span) (blocked : List (Nat × Bool)) : Option Plan :=
  match cs with
  | [] => none
  | sp :: rest =>
    if blocked.any (fun b => b.1 == sp.tenant && b.2 == sp.harvest) then choosePlan s home rest blocked
    else
      let whole : Bool := !sp.rcd.gang || sp.placed ≠ 0 || gangFits s home sp sp.rcd.npiers
      match if whole then planFor s home sp else none with
      | some p => some p
      | none => choosePlan s home rest ((sp.tenant, sp.harvest) :: blocked)

/-! ### Decisions -/

/-- Place the next pier of a span as planned: the first makes it Placing, the last Running, when it leaves its queue (R313). -/
def placeNew (s : State) (p : Plan) : State :=
  let s := reserveNew s p.span p.die p.set
  let n := p.span.placed + 1
  let last : Bool := n = p.span.rcd.npiers
  let sp := { p.span with placed := n, state := if last then .running else .placing, window := (leaseAt s p.span.tenant (p.span.rcd.lease % 256)).ranges }
  let others := s.gangOnly.filter (fun id => id ≠ sp.id)
  let s := { putSpan s sp with gangOnly := if sp.rcd.gang && !last then sp.id :: others else others }
  if last then leaveQueue s sp else s

/-- Give a halted pier quoins again, bonds in order; it counts as placed last (R328). -/
def placeAgain (s : State) (p : Pier) (cs : List Choice) : State :=
  let one (b : Bond) : Bond := if b.pier == p.id then { b with quoins := match cs[b.bid]? with | some c => c.set | none => b.quoins, placed := true } else b
  { s with bonds := s.bonds.map one, piers := s.piers.filter (fun x => x.id ≠ p.id) ++ [{ p with pending := true }] }

/-- One decision of a die's dispatcher (R316). -/
def decide1 (s : State) (die : Nat) : State :=
  let s := settlePiers s
  let s := updateHeads s die
  match choosePlan s die (candidates s die) [] with
  | none => s
  | some p =>
    let s := { s with lastServed := Cells.set s.lastServed p.span.prio (BitVec.ofNat 7 (p.span.tenant + 1)) }
    match p.pier with
    | some q => placeAgain s q p.set
    | none => placeNew s p

/-- Whether a decision of a die would change anything. -/
def decides (s : State) (die : Nat) : Bool :=
  !(getDie s die).dead && (headsMove s die || (choosePlan s die (candidates s die) []).isSome)

/-- DISPATCHER_DECISION (R316). -/
def execDispatcherDecision (die : Nat) (s : State) : Out := .next (if (getDie s die).dead then s else decide1 s die)

/-! ### Creation (R35, R318) -/

/-- The lowest frame slot of a tenant that no course holds (R418). -/
def freeFrame (s : State) (t n : Nat) : Nat :=
  let used := (coursesWhere s (fun c => c.tenant == t && c.qid < 768)).map (fun c => c.frameSlot)
  ((List.range n).find? (fun k => !memNat k used)).getD 0

/-- Create the courses of one bond in order. The creation of each counts as an acquire at device scope (R310); a pier that was chosen for
eviction while it was being placed is evicted now (R331). -/
def createCourses (s : State) (sp : Span) (p : Pier) (b : Bond) (cids : List Nat) : State :=
  match cids with
  | [] => s
  | k :: rest =>
    let q := homeQuoin b k
    let pages := match partition s sp.tenant with | some x => 128 * x.framePages | none => 0
    let c := newCourse s sp p
      { id := s.nextId, qid := q, slot := freeSlot s q p.id, frameSlot := freeFrame s sp.tenant pages, bond := b.id, bid := b.bid, cid := k,
        segs := giveSegs s q sp.harvest sp.rcd.regs }
    let s := acquireLines s c.core (asidsOf s c.tenant c.asid) 5
    createCourses { s with courses := s.courses ++ [c], nextId := s.nextId + 1 } sp p b rest

/-- The placement of a new pier reaches its cores: its courses are created, all before any issues, and the lease window is loaded (R318, R374). -/
def createPier (s : State) (p : Pier) : State :=
  match findSpan s p.span with
  | none => s
  | some sp =>
    let s := updPier s p.id (fun p => { p with pending := false, resident := true })
    let s := (s.bonds.filter (fun b => b.pier == p.id)).foldl (fun s b => createCourses s sp p b (List.range b.courses)) s
    if p.evicting then evictPier s p.id else s

/-- PIER_PLACEMENT (R318): made when the resources are free; a placement that waits for an eviction waits. -/
def execPierPlacement (pier : Nat) (s : State) : Out :=
  .next (match findPier s pier with
    | some p => if p.pending && !p.halted && placementFree s pier then createPier s p else s
    | none => s)

/-! ### Windows of the notification network (R21) -/

/-- The place of an announcement in a window: the station of its slice, die 0 before die 1. -/
def station (a : Nat × Nat) : Nat := 2 * sliceOf a.2 + homeDie a.2

/-- Insert an announcement by its station, before one whose station is higher. Of several announcements of one station in a window, which the spec
does not order, the one made last goes first in `execBroadcastWindow` (assumption 88). -/
def insertStation (a : Nat × Nat) (xs : List (Nat × Nat)) : List (Nat × Nat) :=
  match xs with
  | [] => [a]
  | x :: rest => if station a < station x then a :: x :: rest else x :: insertStation a rest

/-- Whether a course waits on an announced word (R403). -/
def watches (s : State) (c : Course) (a : Nat × Nat) : Bool :=
  (c.findWait (fun w => match w with
    | .waitc false va _ _ _ _ => va == a.2 && effAsid s c.tenant c.asid va == a.1
    | .waitc true _ _ _ _ _ | .sleep _ | .barr _ _ _ _ | .waitb _ _ _ | .gang => false)).isSome

/-- BROADCAST_WINDOW (R21): the pending announcements are made in the order of stations; courses that wait on an announced word read it again (R403),
and the dispatchers evaluate the dependences named (R314). -/
def execBroadcastWindow (s : State) : Out :=
  let order := s.announced.foldr insertStation []
  let s := { s with announced := [], window := s.window + 1 }
  let s := order.foldl (fun s a => ((coursesWhere s (fun c => watches s c a)).map (fun c => c.id)).foldl (fun s i => atCourse s i rereadWait) s) s
  .next (updateHeads (updateHeads s 0) 1)

end Sys2Proof.Machine
end

