-- ==== Sys2Proof/Machine/Commit.lean ====
section
/-! DEFINITION. Table commits (R375, R378–R384, R387–R389): every entry of the named tables is read and checked, the change list is applied, the
accepted values are installed with what follows from them, parked accesses resume, and DONE takes the number. With it the sweep of removed ways
(R384) and the end of a quoin's vacating (R438). -/

namespace Sys2Proof.Machine

/-! ### Reading the tables (R387) -/

/-- The address that entry `k` of the table root block holds. -/
def rootPtr (s : State) (k : Nat) : Nat := physHomeRead s (s.boot.troot + 8 * k) 8

/-- `n` bytes at an address of a table, at home, line by line. -/
def tableRead (s : State) (pa n fuel : Nat) : Nat :=
  match fuel with
  | 0 => 0
  | f + 1 =>
    let k := Nat.min n (128 - pa % 128)
    if n = 0 then 0 else physHomeRead s pa k + 2 ^ (8 * k) * tableRead s (pa + k) (n - k) f

/-- What the reading of a table gave: the accepted entries, and the refused indices. -/
structure ReadRes (α : Type) where
  ok : List α
  bad : List Nat
deriving DecidableEq, Repr

/-- Read and check entries: `f i` answers the accepted entry of index `i`, or none where it is refused. -/
def takeAll {α : Type} (n : Nat) (f : Nat → Option α) : ReadRes α :=
  let rs := (List.range n).map (fun i => (i, f i))
  { ok := rs.filterMap (fun p => p.2), bad := (rs.filter (fun p => p.2.isNone)).map (fun p => p.1) }

/-- Event code 8 for refused entries of a table (R389): DETAIL holds the table bit above the index (assumption 27). -/
def postRefused (s : State) (die bit : Nat) (is : List Nat) : State := is.foldl (fun s i => postDie s die { code := 8, detail := bit * 2 ^ 24 + i }) s

/-! ### ASIDs and share groups (R380, R382) -/

/-- The installed ASID entry of an index; one never committed is not VALID and not CLEAN. -/
def asidAt (s : State) (i : Nat) : AsidEntry :=
  (s.asids.find? (fun e => e.asid == i)).getD { asid := i, valid := false, clean := false, group := false, tenant := 0, root := 0 }

/-- An ASID entry as committed, or none where it is refused. -/
def takeAsid (s : State) (base i : Nat) : Option AsidEntry :=
  let v := tableRead s (base + 16 * i) 16 2
  let w := v % 2 ^ 32
  let root := fieldAt v 8 8
  let old := asidAt s i
  let e : AsidEntry := { old with valid := bitAt w 0, group := bitAt w 2, tenant := bits w 8 6, root := root }
  if bits w 3 5 ≠ 0 || bits w 14 18 ≠ 0 || fieldAt v 4 4 ≠ 0 || root % 4096 ≠ 0 || Config.hbmBytes ≤ root then none
  else if !old.clean && ((e.valid && !old.valid) || e.tenant ≠ old.tenant || e.group ≠ old.group) then none
  else some { e with clean := if e.valid && !old.valid then false else old.clean }

/-- A share-group entry as committed: none where it is refused, no entry where it is not VALID. -/
def takeShare (s : State) (asids : List AsidEntry) (base i : Nat) : Option (Option ShareEntry) :=
  let v := tableRead s (base + 32 * i) 32 2
  if !bitAt (fieldAt v 2 1) 0 then some none
  else
    let g : ShareEntry := { ix := i, gasid := fieldAt v 0 2, npages := fieldAt v 4 4, wbase := fieldAt v 8 8, members := BitVec.ofNat 64 (fieldAt v 0x10 8) }
    let named := asids.any (fun e => e.asid == g.gasid && e.valid && e.group)
    if 1 < fieldAt v 2 1 || fieldAt v 3 1 ≠ 0 || fieldAt v 0x18 8 ≠ 0 || 4096 ≤ g.gasid || !named || g.npages = 0 || 2 ^ 24 < g.npages ||
        g.wbase % 2097152 ≠ 0 || Config.vaLimit < g.wbase + 2097152 * g.npages then none
    else some (some g)

/-- Whether two windows overlap. -/
def windowsMeet (a b : ShareEntry) : Bool := a.wbase < b.wbase + 2097152 * b.npages && b.wbase < a.wbase + 2097152 * a.npages

/-- The conditions on the share groups of a tenant (R382). -/
def sharesOk (gs : List ShareEntry) : Bool :=
  (List.range 64).all (fun t =>
    let mine := gs.filter (fun g => g.members.getLsbD t)
    mine.length ≤ 8 && mine.all (fun a => mine.all (fun b => a.ix == b.ix || !windowsMeet a b)))

/-! ### Frames (R378, R379) -/

/-- A frame-state entry as committed (R379 Table 8): Mapped and Keystone's own frames are freed unscrubbed, and only a scrubbed, invalidated Free frame
becomes Mapped. Its RSV bits are ignored (R5). -/
def takeFrame (s : State) (base i : Nat) : Option FrameEntry :=
  let v := physHomeRead s (base + 8 * i) 8
  let old := frameEntry s i
  let e : FrameEntry := { old with state := bits v 0 2, owner := bits v 8 6, sg := bitAt v 16, gasid := bits v 17 12 }
  match old.state, e.state with
  | _, 3 => none
  | 0, 0 => some e
  | 0, 1 => if old.scrub && old.inv then some e else none
  | 0, 2 => some e
  | 1, 0 => some { e with scrub := false, inv := false }
  | 1, 1 => if e.owner = old.owner && e.gasid = old.gasid then some e else none
  | 2, 0 => some { e with scrub := false, inv := false }
  | 2, 2 => some e
  | _, _ => none

/-- A frame-state entry as its table holds it (R378). -/
def frameBits (e : FrameEntry) : Nat :=
  e.state % 4 + (if e.scrub then 4 else 0) + (if e.inv then 8 else 0) + 2 ^ 8 * (e.owner % 64) + (if e.sg then 2 ^ 16 else 0) + 2 ^ 17 * (e.gasid % 4096)

/-- A refused frame-state entry is unchanged (R379 Table 8), so the table, which walkers read (R369), holds its previous value again
(assumption 106). -/
def restoreFrame (s : State) (i : Nat) : State := physHomeWrite s (rootPtr s 2 + 8 * i) 8 (frameBits (frameEntry s i))

/-- Write the device's bits of a frame-state entry to the table (R378). -/
def writeFrameBits (s : State) (e : FrameEntry) : State :=
  let pa := rootPtr s 2 + 8 * e.frame
  let b := physHomeRead s pa 1
  physHomeWrite s pa 1 (b / 16 * 16 + b % 4 + (if e.scrub then 4 else 0) + (if e.inv then 8 else 0))

/-! ### Quoins and partitions (R381, R382, R407) -/

/-- A quoin entry as committed; its RSV bits are ignored (R5). -/
def takeQuoin (s : State) (base i : Nat) : Option QuoinEntry :=
  let v := physHomeRead s (base + 8 * i) 8
  let old := quoinEntry s i
  let e : QuoinEntry :=
    { old with owner := bits v 8 6, owned := bitAt v 14, resv := bitAt v 15, lessee := bits v 16 6, gseg := bits v 24 9 }
  if bitAt v 0 ≠ old.en || bitAt v 1 ≠ old.fenced || 256 < e.gseg || (e.resv && !e.owned) ||
      (e.lessee ≠ 0 && !e.resv) then none
  else some e

/-- A partition entry as committed: none where it is refused, not VALID with its VALID bit clear. -/
def takePartition (s : State) (base i : Nat) : Option Partition :=
  let v := tableRead s (base + 128 * i) 128 2
  let f (off n : Nat) : Nat := fieldAt v off n
  let p : Partition :=
    { tenant := i, valid := bitAt (f 0 4) 0, kasid := f 4 2, lrq := f 8 8, wmg0 := BitVec.ofNat 32 (f 0x10 4), wmh0 := BitVec.ofNat 32 (f 0x14 4),
      wmg1 := BitVec.ofNat 32 (f 0x18 4), wmh1 := BitVec.ofNat 32 (f 0x1C 4), spill := f 0x20 8, frames := f 0x28 8 / 2097152 * 2097152,
      framePages := f 0x28 8 % 65536, gbud := f 0x40 4, hbud := f 0x44 4, gbor := f 0x48 4, hbor := f 0x4C 4, lendG := bitAt (f 0x50 1) 0,
      lendH := bitAt (f 0x50 1) 1, ghbm := f 0x54 2, hhbm := f 0x56 2, ghdep := f 0x58 2, hhdep := f 0x5A 2, gfab := f 0x5C 1, hfab := f 0x5D 1,
      pcnt := f 0x60 8 }
  let zeros : Bool := f 0 4 / 2 ≠ 0 || f 6 2 ≠ 0 || f 0x30 16 ≠ 0 || 4 ≤ f 0x50 1 || f 0x51 3 ≠ 0 || f 0x5E 2 ≠ 0 || f 0x68 24 ≠ 0 ||
    bits (f 0x28 8) 16 5 ≠ 0 || bits (f 0x28 8) 53 11 ≠ 0
  let limits : Bool := 4096 ≤ p.kasid || p.lrq % 4 ≠ 0 || Config.vaLimit ≤ p.lrq || p.spill % 2097152 ≠ 0 || Config.hbmBytes ≤ p.spill || p.framePages = 0 ||
    76800 < p.gbud || 76800 < p.hbud || p.gbud < p.gbor || p.hbud < p.hbor || 40960 < p.ghbm || p.ghdep = 0 || 1024 < p.ghdep || p.hhdep = 0 ||
    1024 < p.hhdep || 200 < p.gfab || 200 < p.hfab || p.pcnt % 4096 ≠ 0 || Config.hbmBytes ≤ p.pcnt
  if p.valid && (zeros || limits) then none else some p

/-- Whether the guaranteed mask of one tenant meets a mask of another on a die (R383). -/
def masksMeet (a b : Partition) : Bool :=
  (a.wmg0 &&& (b.wmg0 ||| b.wmh0)) ≠ 0 || (a.wmg1 &&& (b.wmg1 ||| b.wmh1)) ≠ 0

/-- The conditions on the partition table as a whole (R383, R407). -/
def partsOk (ps : List Partition) (enabled : Nat) : Bool :=
  let on := ps.filter (fun p => p.valid)
  on.foldl (fun acc p => acc + p.gbud) 0 ≤ 100 * enabled && on.foldl (fun acc p => acc + p.ghbm) 0 ≤ 36864 &&
  on.foldl (fun acc p => acc + p.gfab) 0 ≤ 180 && on.all (fun a => on.all (fun b => a.tenant == b.tenant || !masksMeet a b))

/-! ### Leases, queues, rings (R301, R303, R356, R373) -/

/-- A lease entry as committed; SPANS stays the dispatcher's. -/
def takeLease (s : State) (t i : Nat) : Option Lease :=
  let v := tableRead s (leasePa s t i) 256 3
  let old := leaseAt s t i
  let n := fieldAt v 1 1
  let rs : List (Nat × Nat) := (List.range (Nat.min n 8)).map (fun j => (fieldAt v (16 + 16 * j) 8, fieldAt v (24 + 16 * j) 4))
  let l : Lease := { old with state := fieldAt v 0 1, asid := fieldAt v 2 2, gen := fieldAt v 4 4, ranges := rs }
  let zeros : Bool := fieldAt v 12 4 ≠ 0 || fieldAt v 0x90 112 ≠ 0 || (List.range 8).any (fun j =>
    fieldAt v (28 + 16 * j) 4 ≠ 0 || (n ≤ j && (fieldAt v (16 + 16 * j) 8 ≠ 0 || fieldAt v (24 + 16 * j) 4 ≠ 0)))
  let limits : Bool := n = 0 || 8 < n || 4096 ≤ l.asid || l.gen = 0 || 2 ^ 24 ≤ l.gen || rs.any (fun r =>
    bits r.1 3 13 ≠ 0 || bits r.1 53 11 ≠ 0 || r.2 = 0 || 2 ^ 24 < r.2 || Config.vaLimit < rangeEnd r) || rangesOverlap rs
  if l.state = 0 then some { l with gen := l.gen % 2 ^ 24 } else if 3 < l.state || zeros || limits then none else some l

/-- The installed descriptor of a queue; one never committed is disabled and empty. -/
def queueAt (s : State) (t q : Nat) : Queue :=
  (findQueue s t q).getD
    { tenant := t, loc := rootPtr s 6 + 32 * (16 * t + q), q := q, en := false, susp := false, prio := 0, logDepth := 0, home := 0, base := 0, head := 0, tail := 0 }

/-- A queue descriptor as committed (R301, R303); HEAD and TAIL stay the dispatcher's. -/
def takeQueue (s : State) (t q : Nat) : Option Queue :=
  let old := queueAt s t q
  let pa := rootPtr s 6 + 32 * (16 * t + q)
  let v := tableRead s pa 32 2
  let c := fieldAt v 0 4
  let x : Queue :=
    { old with loc := pa, en := bitAt c 0, susp := bitAt c 1, prio := bits c 8 5, logDepth := bits c 16 4, home := bits c 20 1, base := fieldAt v 8 8 }
  if bits c 2 6 ≠ 0 || bits c 13 3 ≠ 0 || bits c 21 11 ≠ 0 || fieldAt v 4 4 ≠ 0 || fieldAt v 0x18 8 ≠ 0 || 23 < x.prio || x.logDepth < 6 ||
      12 < x.logDepth || x.base % 128 ≠ 0 || Config.vaLimit ≤ x.base then none
  else if old.en && old.head ≠ old.tail && (x.base ≠ old.base || x.logDepth ≠ old.logDepth) then none
  else some x

/-- The rings in the order of their descriptors (assumption 22). -/
def ringKinds : List RingKind :=
  (List.range 64).map RingKind.fault ++ (List.range 64).map RingKind.event ++ [.dieEvent 0, .dieEvent 1] ++ (List.range 64).map RingKind.dirty

/-- LOGDEPTH limits of a ring (R357 Table 14). -/
def ringDepth (k : RingKind) : Nat × Nat :=
  match k with
  | .fault _ => (6, 16)
  | .event _ | .dieEvent _ => (6, 12)
  | .dirty _ => (10, 24)

/-- A ring descriptor as committed, with whether the commit clears OVF (R356, R357). -/
def takeRing (s : State) (i : Nat) : Option (Ring × Bool) :=
  match ringKinds[i]? with
  | none => none
  | some k =>
    let pa := rootPtr s 7 + 32 * i
    let v := tableRead s pa 32 2
    let c := fieldAt v 0 4
    let old := (s.rings.find? (fun r => r.kind == k)).getD
      { kind := k, loc := pa, en := false, ovf := false, lost := 0, logDepth := 0, base := 0, head := 0, tail := 0, round := 0, filter := [] }
    let logRing : Bool := match k with | .dirty _ => true | .fault _ | .event _ | .dieEvent _ => false
    let aux := fieldAt v 0x18 8
    let en := bitAt c 0
    let depth := bits c 16 5
    let x : Ring :=
      { old with loc := pa, en := en, logDepth := depth, base := fieldAt v 8 8, head := BitVec.ofNat 32 (fieldAt v 0x10 4), round := aux % 16 }
    let lim := ringDepth k
    if bits c 2 14 ≠ 0 || bits c 21 11 ≠ 0 || (if logRing then 16 ≤ aux else aux ≠ 0) then none
    else if en && (depth < lim.1 || lim.2 < depth || x.base % (ringRecBytes k * 2 ^ depth) ≠ 0) then none
    else some (x, old.ovf && !bitAt c 1)

/-! ### The domain map (R451) -/

/-- The header of the domain map. -/
structure Domain where
  domId : Nat
  devId : Nat
  nDev : Nat
  gangTo : Nat
  kasid : Nat
  ken : Bool
  /-- by port: PEER, EN, RST -/
  ports : List (Nat × Bool × Bool)
deriving DecidableEq, Repr

/-- The header as committed. -/
def takeDomain (s : State) : Option Domain :=
  let v := tableRead s (rootPtr s 8) 64 2
  let port (k : Nat) : Nat := fieldAt v (0x10 + 2 * k) 2
  let ps := (List.range 15).map (fun k => (port k % 16, bitAt (port k) 4, bitAt (port k) 5))
  let d : Domain :=
    { domId := fieldAt v 0 2, devId := fieldAt v 2 1, nDev := fieldAt v 3 1, gangTo := fieldAt v 4 4, kasid := bits (fieldAt v 8 2) 0 12,
      ken := bitAt (fieldAt v 8 2) 15, ports := ps }
  if 16 ≤ d.devId || d.nDev = 0 || 16 < d.nDev || d.gangTo = 0 || 1000 < d.gangTo || bits (fieldAt v 8 2) 12 3 ≠ 0 || fieldAt v 0xA 6 ≠ 0 ||
      (List.range 15).any (fun k => 64 ≤ port k) || fieldAt v 0x2E 18 ≠ 0 || ps.any (fun p => p.2.1 && (p.1 = d.devId || d.nDev ≤ p.1)) then none
  else some d

/-- The installed VF entry of an index; one never committed is absent. -/
def vfAt (s : State) (i : Nat) : Vf :=
  (s.vfs.find? (fun v => v.vf == i)).getD
    { vf := i, state := 0, tenant := 0, asid := 0, winPages := 0, winBase := 0, cpage := 0, ide := 0, ideReq := false, tdi := 0, drained := false }

/-- A VF entry as committed (R448, R451). -/
def takeVf (s : State) (i : Nat) : Option Vf :=
  let v := tableRead s (rootPtr s 8 + 0x40 + 32 * i) 32 2
  let old := vfAt s i
  let x : Vf :=
    { old with state := fieldAt v 0 1, tenant := fieldAt v 1 1, asid := fieldAt v 2 2, winPages := fieldAt v 4 4, winBase := fieldAt v 8 8,
               cpage := fieldAt v 0x10 8, ide := fieldAt v 0x18 1 % 4, ideReq := bitAt (fieldAt v 0x18 1) 2 }
  if i = 0 then (if v = 0 then some x else none)
  else if 2 < x.state || 64 ≤ x.tenant || 4096 ≤ x.asid || 32768 < x.winPages || x.winBase % 2097152 ≠ 0 || Config.vaLimit ≤ x.winBase ||
      x.cpage % 4096 ≠ 0 || Config.vaLimit ≤ x.cpage || 8 ≤ fieldAt v 0x18 1 || fieldAt v 0x19 7 ≠ 0 then none
  else if (old.state = 0 && x.state = 2) || (old.state = 2 && x.state = 1) then none
  else if (old.tdi = 1 || old.tdi = 2) && { x with state := old.state } ≠ old then none
  else some x

/-! ### The change list (R387) -/

/-- A change entry: kind, ASID, first address, parts, and the frame it withdraws. -/
structure Change where
  kind : Nat
  asid : Nat
  va : Nat
  parts : Nat
  frame : Option Nat
deriving DecidableEq, Repr

/-- A change entry as read, or none where it is refused. -/
def takeChange (s : State) (i : Nat) : Option Change :=
  let v := physHomeRead s (s.boot.troot + 0x100 + 16 * i) 16
  let kind := bits v 0 4
  let fv := bitAt v 4
  let va := bits v 32 64
  let n := bits v 96 32
  if 2 < kind || (fv && kind ≠ 1) || bits v 5 11 ≠ 0 || bits v 28 4 ≠ 0 || va % 65536 ≠ 0 || Config.vaLimit ≤ va then none
  else if fv then (if va % 2097152 ≠ 0 || 524288 ≤ n then none else some { kind := kind, asid := bits v 16 12, va := va, parts := 32, frame := some n })
  else if kind ≠ 2 && (n = 0 || 2 ^ 24 < n) then none
  else some { kind := kind, asid := bits v 16 12, va := va, parts := n, frame := none }

/-- Whether an address of an ASID is covered by a change. -/
def Change.covers (c : Change) (asid va : Nat) : Bool := asid == c.asid && (c.kind = 2 || (c.va ≤ va && va < c.va + 65536 * c.parts))

/-- Write back and invalidate the lines that a change covers, in every L1 and L2 of the device. -/
def withdrawLines (s : State) (c : Change) : State :=
  let s := (s.l2.filter (fun l => c.covers l.asid l.addr && l.pin.isSome)).foldl (fun s l => endPin s l.asid l.addr) s
  let s := (writeBackAll s (s.l1.filter (fun l => c.covers l.asid l.addr))).1
  let s := (s.l2.filter (fun l => c.covers l.asid l.addr)).foldl l2Evict s
  { s with l1 := s.l1.filter (fun l => !c.covers l.asid l.addr) }

/-- Drop the TLB and page-walk-cache entries that translate what a change covers (R387). -/
def dropWalks (s : State) (c : Change) : State :=
  let tlbHit (t : TlbEntry) : Bool := t.asid == c.asid && (c.kind = 2 || (pageOf c.va ≤ t.page && t.page < c.va + 65536 * c.parts))
  let walkHit (w : Nat × Nat × Nat × Nat) : Bool :=
    let k := w.2.2.1
    w.2.1 == c.asid && (c.kind = 2 || (decide (walkKey c.va (k % 4) ≤ k) && decide (k ≤ walkKey (c.va + 65536 * c.parts - 1) (k % 4))))
  { s with tlb := s.tlb.filter (fun t => !tlbHit t), walkCache := s.walkCache.filter (fun w => !walkHit w) }

/-- Apply one change. -/
def applyChange (s : State) (c : Change) : State :=
  let s := if c.kind = 0 then s else withdrawLines s c
  let s := dropWalks s c
  if c.kind = 2 then
    let e := asidAt s c.asid
    let pa := rootPtr s 0 + 16 * c.asid
    let b := physHomeRead s pa 1
    physHomeWrite { s with asids := putWhere (fun x => x.asid == c.asid) { e with clean := true } s.asids } pa 1 (if bitAt b 1 then b else b + 2)
  else s

/-- The completion of a commit that withdraws a frame (R379): a Free frame has been invalidated. -/
def withdrawFrame (s : State) (f : Nat) : State :=
  let e := frameEntry s f
  if e.state ≠ 0 then s
  else
    let e := { e with inv := true }
    writeFrameBits { s with frames := putWhere (fun x => x.frame == f) e s.frames } e

/-! ### Installing (R389 step 5) -/

/-- Install ASID entries, with CLEAN written to the table. -/
def installAsids (s : State) (es : List AsidEntry) : State :=
  (es.filter (fun e => e ≠ asidAt s e.asid)).foldl (fun s e =>
    let old := asidAt s e.asid
    let s := { s with asids := putWhere (fun x => x.asid == e.asid) { e with clean := if e.valid && !old.valid then false else old.clean } s.asids }
    if e.valid && !old.valid then
      let pa := rootPtr s 0 + 16 * e.asid
      let b := physHomeRead s pa 1
      physHomeWrite s pa 1 (if bitAt b 1 then b - 2 else b)
    else s) s

/-- Install frame-state entries. -/
def installFrames (s : State) (es : List FrameEntry) : State :=
  (es.filter (fun e => e ≠ frameEntry s e.frame)).foldl (fun s e => writeFrameBits { s with frames := putWhere (fun x => x.frame == e.frame) e s.frames } e) s

/-- Whether a bond's tenant and class may use a quoin under its entry (R319). -/
def admitsBond (s : State) (e : QuoinEntry) (b : Bond) : Bool :=
  match (findPier s b.pier).bind (fun p => findSpan s p.span) with
  | some sp => e.owned && (if sp.harvest && e.resv then e.lessee == sp.tenant else e.owner == sp.tenant)
  | none => true

/-- Whether a quoin still holds something that its entry does not admit (R438). -/
def foreignBonds (s : State) (e : QuoinEntry) : List Bond := s.bonds.filter (fun b => b.placed && memNat e.qid b.quoins && !admitsBond s e b)

/-- Install quoin entries; a quoin that leaves a partition is vacating: its harvest piers are evicted and its guaranteed piers pre-empted (R438). -/
def installQuoins (s : State) (es : List QuoinEntry) : State :=
  (es.filter (fun e => e ≠ quoinEntry s e.qid)).foldl (fun s e =>
    let old := quoinEntry s e.qid
    let left : Option Nat :=
      if old.owned && (!e.owned || e.owner ≠ old.owner) then some old.owner
      else if old.resv && (!e.resv || e.lessee ≠ old.lessee) then some old.lessee
      else if !old.resv && e.resv && e.lessee ≠ e.owner then some old.owner
      else old.vacating
    let e := { e with vacating := left }
    let s := { s with quoins := putWhere (fun x => x.qid == e.qid) e s.quoins }
    (foreignBonds s e).foldl (fun s b => if bondHarvest s b then evictPier s b.pier else preemptPier s b.pier) s) s

/-- What the dispatcher meters of a new partition (R408): its balances at its budgets, its buckets full (R410). -/
def meterNew (s : State) (p : Partition) : State :=
  let bud (h : Bool) : Budget := { tenant := p.tenant, harvest := h, bal := ((if h then p.hbud else p.gbud) : Nat), borrowed := 0, owed := [] }
  let buck (h : Bool) (k : Nat) : Bucket := { ctrl := k, tenant := p.tenant, harvest := h, bytes := 1024 * (if h then p.hhdep else p.ghdep) }
  { s with
      budgets := s.budgets ++ [bud false, bud true]
      buckets := s.buckets ++ (List.range 16).map (buck false) ++ (List.range 16).map (buck true) }

/-- A tenant is torn down: its spans end with status KIND 4 (R313), its meters and counters go, and its VFs drain with event code 16 (R459). -/
def tearDown (s : State) (t : Nat) : State :=
  let s := ((s.spans.filter (fun x => x.tenant == t)).map (fun x => x.id)).foldl (fun s i => endSpan s i 4 0) s
  let s :=
    { s with
        budgets := s.budgets.filter (fun b => b.tenant ≠ t), buckets := s.buckets.filter (fun b => b.tenant ≠ t)
        perf := s.perf.filter (fun p => p.tenant ≠ t), tvec1 := Cells.set s.tvec1 t 0 }
  (s.vfs.filter (fun v => v.tenant == t && v.state == 1)).foldl (fun s v =>
    let s := { s with vfs := updWhere (fun x => x.vf == v.vf) (fun x => { x with state := 2 }) s.vfs }
    postDie (drainVf s v.vf) 0 { code := 16, detail := v.vf }) s

/-- The ways that an entry takes from its tenant (R384). -/
def waysRemoved (old p : Partition) : Bool :=
  ((old.wmg0 &&& ~~~ p.wmg0) ||| (old.wmh0 &&& ~~~ p.wmh0) ||| (old.wmg1 &&& ~~~ p.wmg1) ||| (old.wmh1 &&& ~~~ p.wmh1)) ≠ 0

/-- Install partition entries with what they start and end. A new partition's `sr.TVEC1` is what Keystone has set (R173, assumption 95). -/
def installPartitions (s : State) (es : List Partition) : State :=
  es.foldl (fun s p =>
    match partition s p.tenant with
    | none =>
      if p.valid then
        meterNew { s with parts := putWhere (fun x => x.tenant == p.tenant) p s.parts, tvec1 := Cells.set s.tvec1 p.tenant (Cells.get s.tvec1 64) } p
      else s
    | some old =>
      if p = old then s
      else if !p.valid then tearDown { s with parts := s.parts.filter (fun x => x.tenant ≠ p.tenant), sweeps := s.sweeps ++ [p.tenant] } p.tenant
      else
        let cut (b : Bucket) : Bucket := { b with bytes := Nat.min b.bytes (1024 * (if b.harvest then p.hhdep else p.ghdep)) }
        { s with
            parts := putWhere (fun x => x.tenant == p.tenant) p s.parts, buckets := updWhere (fun b => b.tenant == p.tenant) cut s.buckets
            sweeps := if waysRemoved old p && !memNat p.tenant s.sweeps then s.sweeps ++ [p.tenant] else s.sweeps }) s

/-- A span whose lease Keystone has revoked ends (R313 Table 5, R374): with status KIND 3 from Head, Eligible or Placing, with class 5, sub-code 7 from
Running. A Queued span stays Queued, and ends so when it is head (assumption 107). -/
def revokeSpan (s : State) (sp : Span) : State :=
  match sp.state with
  | .head | .eligible | .placing => endSpan s sp.id 3 0
  | .running => endSpan s sp.id 1 0x57
  | .queued | .completing | .done => s

/-- Install lease entries: windows are reloaded (R374), a revoked lease ends its spans, and so does a part removed from the lease while a course of
the span is parked on it (R359). -/
def installLeases (s : State) (es : List Lease) : State :=
  (es.filter (fun l => l ≠ leaseAt s l.tenant l.ix)).foldl (fun s l =>
    let old := leaseAt s l.tenant l.ix
    let s := leasePut s { l with spans := old.spans }
    let named (sp : Span) : Bool :=
      sp.tenant == l.tenant && sp.rcd.lease % 256 == l.ix && sp.rcd.lease / 256 == old.gen && sp.state ≠ .completing && sp.state ≠ .done
    let held : Bool := l.gen = old.gen && (l.state = 1 || l.state = 2)
    if !held then (s.spans.filter named).foldl revokeSpan s
    else
      let s := { s with spans := updWhere named (fun sp => { sp with window := l.ranges }) s.spans }
      (s.spans.filter named).foldl (fun s sp =>
        let gone := s.parks.any (fun e => e.parkers.any (fun w => match courseById s w.1 with
          | some c => c.span == sp.id && !l.ranges.any (fun r => rangeHas r e.part)
          | none => false))
        if gone then endSpan s sp.id 1 0x56 else s) s) s

/-- Install queue descriptors with their changes (R303). -/
def installQueues (s : State) (es : List Queue) : State :=
  (es.filter (fun x => x ≠ queueAt s x.tenant x.q)).foldl (fun s x =>
    let old := queueAt s x.tenant x.q
    let s := { s with queues := putWhere (fun y => y.tenant == x.tenant && y.q == x.q) { x with head := old.head, tail := old.tail } s.queues }
    let mine (sp : Span) : Bool := sp.tenant == x.tenant && sp.queue == x.q && sp.state ≠ .completing && sp.state ≠ .done
    if old.en && !x.en then ((s.spans.filter mine).map (fun sp => sp.id)).foldl (fun s i => endSpan s i 4 0) s
    else
      let cls (p : Nat) : Bool := 16 ≤ p
      let early (sp : Span) : Bool := sp.state = .queued || sp.state = .head || sp.state = .eligible
      let one (sp : Span) : Span :=
        if cls x.prio = cls old.prio then { sp with prio := if cls sp.prio = cls x.prio then x.prio else sp.prio }
        else if early sp then { sp with prio := x.prio, harvest := cls x.prio }
        else sp
      { s with spans := updWhere mine one s.spans }) s

/-- A ring under its committed descriptor: TAIL, LOST and OVF are the device's as they stand now, but that a commit which clears OVF clears LOST with
it (R356, R357), and a new ROUND starts with nothing logged (R362, R363). -/
def Ring.installed (r : Ring) (x : Ring × Bool) : Ring :=
  let anew : Bool := x.1.round != r.round
  { x.1 with
      tail := r.tail, lost := if x.2 then 0 else r.lost, ovf := r.ovf && !x.2, filter := if anew then [] else r.filter,
      allDirty := r.allDirty && !anew }

/-- Install ring descriptors, with the device's fields written back to the tables. -/
def installRings (s : State) (es : List (Ring × Bool)) : State :=
  es.foldl (fun s x =>
    match s.rings.find? (fun r => r.kind == x.1.kind) with
    | some r =>
      let r := r.installed x
      let ctl := physHomeRead s r.loc 4
      let s := if x.2 && bitAt ctl 1 then physHomeWrite s r.loc 4 (ctl - 2) else s
      ringPut { s with rings := s.rings.map (fun y => if y.kind == r.kind then r else y) } r
    | none => if x.1.en then ringPut { s with rings := s.rings ++ [x.1] } x.1 else s) s

/-- Install the header of the domain map; handler courses run under the KASID it names (R428). -/
def installDomain (s : State) (d : Domain) : State :=
  let s := { s with domId := d.domId, devId := d.devId, nDev := d.nDev, gangTo := d.gangTo, kasid := d.kasid, ken := d.ken }
  let s := updCourses s (fun c => c.tenant == 64) (fun c => { c with asid := d.kasid })
  (List.range 15).foldl (fun s k =>
    match d.ports[k]? with
    | none => s
    | some (peer, en, rst) =>
      let s := match s.ports.find? (fun p => p.port == k) with
        | none => if en then { s with ports := s.ports ++ [{ port := k, peer := peer, en := true, up := false, seq := 0, replays := 0 }] } else s
        | some old =>
          let s := if !en || peer ≠ old.peer then portDown s k else s
          { s with ports := updWhere (fun p => p.port == k) (fun p => { p with peer := peer, en := en }) s.ports }
      if rst then resetPort s k else s) s

/-- The send allowances of an active VF (R411). -/
def allowancesOf (s : State) (v : Vf) : List Allowance :=
  match partition s v.tenant with
  | none => []
  | some p => (List.range 15).flatMap (fun k =>
      [{ vf := v.vf, port := k, harvest := false, bytes := 32 * p.gfab }, { vf := v.vf, port := k, harvest := true, bytes := 32 * p.hfab }])

/-- Install VF entries (R459): a new one starts its service, one that drains moves its TDI to ERROR where it was locked or running (R448), one that is
absent again is forgotten. -/
def installVfs (s : State) (es : List Vf) : State :=
  (es.filter (fun x => x ≠ vfAt s x.vf)).foldl (fun s x =>
    let old := vfAt s x.vf
    let tdi := if x.state = 2 && (old.tdi = 1 || old.tdi = 2) then 3 else if old.state = 0 then 0 else old.tdi
    if x.state = 0 then { s with vfs := s.vfs.filter (fun v => v.vf ≠ x.vf), allowances := s.allowances.filter (fun a => a.vf ≠ x.vf), tags := s.tags.filter (fun t => t.vf ≠ x.vf) }
    else
      let s := { s with vfs := putWhere (fun v => v.vf == x.vf) { x with tdi := tdi } s.vfs }
      if x.state = 2 && old.state = 1 then drainVf s x.vf
      else if old.state = 0 then
        { s with
            allowances := s.allowances.filter (fun a => a.vf ≠ x.vf) ++ allowancesOf s x, msixMask := Cells.set s.msixMask x.vf 0xFFFF,
            msixPend := Cells.set s.msixPend x.vf 0 }
      else s) s

/-! ### The commit (R389) -/

/-- Whether the commit names a table. -/
def names (r : CommitRun) (bit : Nat) : Bool := r.tables.getLsbD bit

/-- Steps 3 and 5 for the ASID and share-group tables. -/
def commitAsids (s : State) (die : Nat) : State × (State → State) :=
  let t := takeAll 4096 (takeAsid s (rootPtr s 0))
  let asids := t.ok ++ s.asids.filter (fun e => memNat e.asid t.bad)
  let base := rootPtr s 1
  let raw := (List.range 256).map (fun i => (i, takeShare s asids base i))
  let kept := raw.filterMap (fun p => match p.2 with
    | some g => g
    | none => s.shares.find? (fun g => g.ix == p.1))
  let okay := sharesOk kept
  let bad := (raw.filter (fun p => match p.2 with | some g => !okay && g ≠ s.shares.find? (fun x => x.ix == p.1) | none => true)).map (fun p => p.1)
  (postRefused (postRefused s die 1 t.bad) die 1 (bad.map (fun i => 4096 + i)),
    fun s => { installAsids s t.ok with shares := if okay then kept else s.shares })

/-- Steps 3 and 5 for the frame-state table. -/
def commitFrames (s : State) (die : Nat) : State × (State → State) :=
  let t := takeAll 524288 (takeFrame s (rootPtr s 2))
  (postRefused s die 2 t.bad, fun s => t.bad.foldl restoreFrame (installFrames s t.ok))

/-- Steps 3 and 5 for the quoin and partition tables. -/
def commitParts (s : State) (die : Nat) : State × (State → State) :=
  let q := takeAll 768 (takeQuoin s (rootPtr s 3))
  let p := takeAll 64 (takePartition s (rootPtr s 4))
  let enabled := ((List.range 768).filter (fun i => (quoinEntry s i).en && quoinWhole s i && !(quoinEntry s i).fenced)).length
  let after := p.ok ++ s.parts.filter (fun x => memNat x.tenant p.bad)
  let okay := partsOk after enabled
  let changed := (p.ok.filter (fun x => match partition s x.tenant with | some old => old ≠ x | none => x.valid)).map (fun x => x.tenant)
  (postRefused (postRefused s die 3 q.bad) die 3 ((p.bad ++ (if okay then [] else changed)).map (fun i => 768 + i)),
    fun s => installQuoins (if okay then installPartitions s p.ok else s) q.ok)

/-- Steps 3 and 5 for the lease tables. -/
def commitLeases (s : State) (die : Nat) : State × (State → State) :=
  let t := takeAll 16384 (fun i => takeLease s (i / 256) (i % 256))
  (postRefused s die 4 t.bad, fun s => installLeases s t.ok)

/-- Steps 3 and 5 for the queue descriptors. -/
def commitQueues (s : State) (die : Nat) : State × (State → State) :=
  let t := takeAll 1024 (fun i => takeQueue s (i / 16) (i % 16))
  (postRefused s die 5 t.bad, fun s => installQueues s t.ok)

/-- Steps 3 and 5 for the record-ring descriptors. -/
def commitRings (s : State) (die : Nat) : State × (State → State) :=
  let t := takeAll 194 (takeRing s)
  (postRefused s die 6 t.bad, fun s => installRings s t.ok)

/-- Steps 3 and 5 for the domain map; its header counts as entry 64. -/
def commitDomain (s : State) (die : Nat) : State × (State → State) :=
  let d := takeDomain s
  let t := takeAll 64 (takeVf s)
  (postRefused s die 7 (t.bad ++ (if d.isNone then [64] else [])),
    fun s => installVfs (match d with | some d => installDomain s d | none => s) t.ok)

/-- The tables of a commit, each with its bit. -/
def commitTables (s : State) (r : CommitRun) : State × List (State → State) :=
  [(1, commitAsids), (2, commitFrames), (3, commitParts), (4, commitLeases), (5, commitQueues), (6, commitRings), (7, commitDomain)].foldl
    (fun acc t => if names r t.1 then let x := t.2 acc.1 r.die; (x.1, acc.2 ++ [x.2]) else acc) (s, [])

/-- The changes of a commit of the page tables, with the refused entries; a count beyond 256 is refused whole. -/
def changesOf (s : State) (r : CommitRun) : ReadRes Change :=
  if !names r 0 then { ok := [], bad := [] }
  else
    let n := physHomeRead s (s.boot.troot + 0x48) 8
    if 256 < n then { ok := [], bad := [256] } else takeAll n (takeChange s)

/-- Frame checks of the TLB's leaves against the tables as they now stand. -/
def recheckTlb (s : State) : State := { s with tlb := s.tlb.map (fun t => { t with frameOk := frameOk s t.asid t.leaf.toNat }) }

/-- Whether a part is no longer absent: its accesses are to be sent again. -/
def partBack (s : State) (asid part : Nat) : Bool :=
  match leafAt s asid part with
  | .ok (e, _) => leafLocal e part || leafRemote e part
  | .error _ => true

/-- A parker resumes (R359): its access is sent again; a course that is Ready again takes its STAMP now, after those before it in park order. Parker 0
stands for the completion write of a span. -/
def resumeParker (s : State) (w : Nat × Nat) : State :=
  if w.1 = 0 then completeSpan s (w.2 / 2)
  else
    stampReady (atCourse s w.1 (fun s => s.upd (fun c =>
      { c with ops := c.ops.map (fun o => if o.seq = w.2 then { o with parked := none } else o), heldLanes := 0 })))

/-- Whether some entry holds a parker. -/
def parksHold (es : List ParkEntry) (w : Nat × Nat) : Bool := es.any (fun e => e.parkers.any (fun p => p == w))

/-- Step 6: park entries on parts now local or remote are freed, and their parkers resume in the order in which they parked, whatever the part. -/
def resumeParks (s : State) : State :=
  let back := s.parks.filter (fun e => partBack s e.asid e.part)
  let kept := s.parks.filter (fun e => !partBack s e.asid e.part)
  let order := s.parkOrder.filter (parksHold back)
  order.foldl resumeParker { s with parks := kept, parkOrder := s.parkOrder.filter (parksHold kept) }

/-- Keystone's root span of a partition that a commit has made (R44): the record it places and the queue are Config's (assumption 108); a queue that does
not exist, or a record that R311 refuses, places none. -/
def rootSpan (s : State) (t : Nat) : State :=
  match findQueue s t (Config.rootQueue t) with
  | none => s
  | some q => if !q.en || q.susp || (recordSub s t q (Config.rootRecord t)).isSome then s else appendSpan s q (Config.rootRecord t)

/-- What follows the installation of partitions that did not exist before: their root spans. -/
def startPartitions (before s : State) : State :=
  (s.parts.filter (fun p => (partition before p.tenant).isNone)).foldl (fun s p => rootSpan s p.tenant) s

/-- Step 7: DONE takes the number, and held `swr` may start. -/
def finishCommit (s : State) (r : CommitRun) : State :=
  updCourses { updDie s r.die (fun d => { d with done := r.number }) with commit := none } (fun _ => true) (fun c => { c with heldLanes := 0 })

/-- COMMIT_COMPLETE (R389): the running commit of a die, all its steps. -/
def execCommitComplete (die : Nat) (s : State) : Out :=
  .next (match s.commit with
    | none => s
    | some r =>
      if r.die ≠ die then s
      else
        let t := commitTables s r
        let ch := changesOf s r
        let s := postRefused t.1 r.die 0 ch.bad
        let s := ch.ok.foldl applyChange s
        let s := startPartitions s (t.2.foldl (fun s f => f s) s)
        let s := ch.ok.foldl (fun s c => match c.frame with | some f => withdrawFrame s f | none => s) s
        let s := resumeParks (recheckTlb s)
        finishCommit (updateHeads (updateHeads (hostRetry s) 0) 1) r)

/-! ### What commits leave to be done -/

/-- WAY_MASK_SWEEP (R384): a tenant's lines in ways outside its masks are written back and invalidated; a pinned one stays until its pin clears. -/
def execWayMaskSweep (tenant : Nat) (s : State) : Out :=
  let out (l : Line) : Bool := l.tenant == tenant && !(wayMask s tenant l.cls (homeDie l.addr)).getLsbD l.way && !(l.peer.isSome && l.dirty ≠ 0)
  if !memNat tenant s.sweeps then .next s
  else
    let s2 := (s.l2.filter (fun l => out l && l.pin.isNone)).foldl l2Evict s
    .next (if s2.l2.any out then s2 else { s2 with sweeps := s2.sweeps.filter (fun t => t ≠ tenant) })

/-- Whether a vacating quoin holds nothing of its old owner. -/
def vacated (s : State) (e : QuoinEntry) : Bool := e.vacating.isSome && (foreignBonds s e).isEmpty

/-- QUOIN_VACATED (R438): the lowest vacating quoin that holds nothing of its old owner posts event code 10, and its new owner may place there. -/
def execQuoinVacated (s : State) : Out :=
  match listMin ((s.quoins.filter (vacated s)).map (fun e => e.qid)) with
  | none => .next s
  | some q =>
    let s := { s with quoins := updWhere (fun e => e.qid == q) (fun e => { e with vacating := none }) s.quoins }
    .next (postDie s (dieOfQid q) { code := 10, unit := q, detail := q })

end Sys2Proof.Machine
end

