-- ==== Sys2Proof/Machine/Meter.lean ====
section
/-! DEFINITION. What the device meters: tokens, borrowing and repayment (R408, R409), memory buckets and send allowances (R410, R411), the counter
page of a partition (R416) and the correction counts of banks (R208). -/

namespace Sys2Proof.Machine

/-! ### Tokens (R408, R409) -/

/-- The budget of a tenant's class for a period (R407). -/
def periodBudget (s : State) (t : Nat) (harvest : Bool) : Nat :=
  match partition s t with
  | some p => if harvest then p.hbud else p.gbud
  | none => 0

/-- The most a tenant's class may borrow in a period. -/
def borrowCap (s : State) (t : Nat) (harvest : Bool) : Nat :=
  match partition s t with
  | some p => if harvest then p.hbor else p.gbor
  | none => 0

/-- Change a balance. -/
def updBudget (s : State) (t : Nat) (harvest : Bool) (f : Budget → Budget) : State :=
  { s with budgets := updWhere (fun b => b.tenant == t && b.harvest == harvest) f s.budgets }

/-- Whether a tenant lends in a class (R409). -/
def lends (s : State) (b : Budget) : Bool :=
  decide (0 < b.bal) && (match partition s b.tenant with | some p => if b.harvest then p.lendH else p.lendG | none => false) &&
  !s.spans.any (fun x => x.tenant == b.tenant && x.harvest == b.harvest && (x.state = .eligible || x.state = .placing || x.state = .running))

/-- The lender with the lowest tenant tag. -/
def lender (s : State) (harvest : Bool) : Option Budget :=
  match listMin ((s.budgets.filter (fun b => b.harvest == harvest && lends s b)).map (fun b => b.tenant)) with
  | some t => s.budgets.find? (fun b => b.tenant == t && b.harvest == harvest)
  | none => none

/-- Add to what is owed to a lender. -/
def addOwed (xs : List (Nat × Nat)) (who n : Nat) : List (Nat × Nat) := putWhere (fun p => p.1 == who) (who, (assoc xs who).getD 0 + n) xs

/-- A tenant borrows in blocks of up to 100 while its balance is at or below zero and its cap is not reached. -/
def borrow (s : State) (t : Nat) (harvest : Bool) (fuel : Nat) : State :=
  match fuel with
  | 0 => s
  | f + 1 =>
    match s.budgets.find? (fun b => b.tenant == t && b.harvest == harvest) with
    | none => s
    | some b =>
      let room := borrowCap s t harvest - b.borrowed
      if decide (0 < b.bal) || room = 0 then s
      else match lender s harvest with
        | none => s
        | some l =>
          let n := Nat.min (Nat.min 100 room) l.bal.toNat
          let s := updBudget s l.tenant harvest (fun b => { b with bal := b.bal - n })
          borrow (updBudget s t harvest (fun b => { b with bal := b.bal + n, borrowed := b.borrowed + n, owed := addOwed b.owed l.tenant n })) t harvest f

/-- The quoins on which resident piers of a tenant's class lie. -/
def residentQuoins (s : State) (t : Nat) (harvest : Bool) : List Nat :=
  let piers := (s.piers.filter (fun p => p.resident && match findSpan s p.span with | some x => x.tenant == t && x.harvest == harvest | none => false)).map
    (fun p => p.id)
  (List.range 768).filter (fun q => s.bonds.any (fun b => memNat b.pier piers && memNat q b.quoins))

/-- TOKEN_CHARGE (R408): every quoin of resident piers charges one token, then who may borrow does (R409). -/
def execTokenCharge (s : State) : Out :=
  let s := { s with budgets := s.budgets.map (fun (b : Budget) => { b with bal := b.bal - (((residentQuoins s b.tenant b.harvest).length : Nat) : Int) }) }
  .next (s.budgets.foldl (fun s b => borrow s b.tenant b.harvest 1024) s)

/-- How a repayment of `r` is spread over what is owed, in the order given: what goes to each, and what stays owed. -/
def spread (r : Nat) (xs : List (Nat × Nat)) : List (Nat × Nat) × List (Nat × Nat) :=
  match xs with
  | [] => ([], [])
  | x :: rest =>
    let n := Nat.min r x.2
    let t := spread (r - n) rest
    ((x.1, n) :: t.1, if x.2 - n = 0 then t.2 else (x.1, x.2 - n) :: t.2)

/-- What is owed in the order of repayment: to nobody first, then by ascending tenant tag. -/
def owedInOrder (xs : List (Nat × Nat)) : List (Nat × Nat) :=
  ([64] ++ List.range 64).filterMap (fun t => (assoc xs t).map (fun n => (t, n)))

/-- A borrower repays from its new balance. -/
def repay (s : State) (b : Budget) : State :=
  let xs := owedInOrder b.owed
  let total := xs.foldl (fun acc x => acc + x.2) 0
  let r := Nat.min total (periodBudget s b.tenant b.harvest / 2)
  let t := spread r xs
  let s := updBudget s b.tenant b.harvest (fun b => { b with bal := b.bal - r, owed := t.2 })
  t.1.foldl (fun s x => updBudget s x.1 b.harvest (fun l =>
    { l with bal := max l.bal (min (l.bal + x.2) (2 * (periodBudget s l.tenant l.harvest : Int))) })) s

/-- BUDGET_PERIOD_BOUNDARY (R409): balances are reset to their budgets, a negative one being added to what is owed, and borrowers repay. -/
def execBudgetPeriodBoundary (s : State) : Out :=
  let fresh (b : Budget) : Budget :=
    { b with
        bal := (periodBudget s b.tenant b.harvest : Nat), borrowed := 0
        owed := if b.bal < 0 then addOwed b.owed 64 b.bal.natAbs else b.owed }
  let s := { s with budgets := s.budgets.map fresh }
  .next (s.budgets.foldl repay s)

/-! ### Bandwidth (R410, R411) -/

/-- HBM_BUCKET_REFILL (R410): the buckets of a controller fill at a sixteenth of their class's rate up to their depth; one event stands for 64 clk
(assumption 28), in which that is twice the rate in GB/s in bytes. -/
def execHbmBucketRefill (ctrl : Nat) (s : State) : Out :=
  let one (b : Bucket) : Bucket := match partition s b.tenant with
    | some p => { b with bytes := Nat.min (b.bytes + 2 * (if b.harvest then p.hhbm else p.ghbm)) (1024 * (if b.harvest then p.hhdep else p.ghdep)) }
    | none => b
  .next { s with buckets := updWhere (fun b => b.ctrl == ctrl) one s.buckets }

/-- ALLOWANCE_REFILL (R411): at the start of a window every allowance is what its class is given; what was not used lapses. -/
def execAllowanceRefill (s : State) : Out :=
  let one (a : Allowance) : Allowance :=
    match (s.vfs.find? (fun v => v.vf == a.vf)).bind (fun v => partition s v.tenant) with
    | some p => { a with bytes := 32 * (if a.harvest then p.hfab else p.gfab) }
    | none => a
  .next { s with allowances := s.allowances.map one }

/-! ### The counter page of a partition (R416) -/

/-- What a tenant owes in a class. -/
def owedBy (s : State) (t : Nat) (harvest : Bool) : Nat :=
  match s.budgets.find? (fun b => b.tenant == t && b.harvest == harvest) with
  | some b => b.owed.foldl (fun acc x => acc + x.2) 0
  | none => 0

/-- The value of the counter at an offset (R416 Table 7). -/
def perfValue (s : State) (t off : Nat) : Nat :=
  match off with
  | 0x60 => ofInt 64 (balance s t false)
  | 0x68 => owedBy s t false
  | 0x70 => ofInt 64 (balance s t true)
  | 0x78 => owedBy s t true
  | _ => match s.perf.find? (fun p => p.tenant == t) with
    | some p => (Cells.get p.counts off).toNat
    | none => 0

/-- PERF_COUNTER_SNAPSHOT (R416): the counters are written to the tenant's page, and SEQ after them. -/
def execPerfCounterSnapshot (tenant : Nat) (s : State) : Out :=
  .next (match partition s tenant with
    | none => s
    | some p =>
      if p.pcnt = 0 then s
      else
        let v := packFields ((List.range 17).map (fun k => (8 * k, 8, perfValue s tenant (8 * (k + 1)))))
        let s := physHomeWrite (physHomeWrite s (p.pcnt + 8) 120 v) (p.pcnt + 128) 128 (v / 2 ^ 960)
        let s := (List.range 30).foldl (fun s k => physHomeWrite s (p.pcnt + 256 + 128 * k) 128 0) s
        let s := perfAdd s tenant 0 1
        physHomeWrite s p.pcnt 8 (perfValue s tenant 0))

/-- CORRECTION_WINDOW_CLEAR (R208): every bank's correction count is cleared; retirements last until reset. -/
def execCorrectionWindowClear (s : State) : Out := .next { s with banks := s.banks.map (fun b => { b with count := 0 }) }

end Sys2Proof.Machine
end

