-- ==== Sys2Proof/Machine/Device.lean ====
section
/-! DEFINITION. Start-up and power (R463 to R472): reset and the boot, firmware slots, the monitor's calls (R486), the watchdog (R415), thermal limits,
and the management messages (R471). -/

namespace Sys2Proof.Machine

/-! ### Firmware slots (R467, R487) -/

/-- The bytes of a firmware slot. -/
def slotBytes (b : Boot) (n : Nat) : List Byte := if n = 0 then b.slot0 else b.slot1

/-- A field of a slot's header (R487). -/
def slotField (b : Boot) (n off size : Nat) : Nat := numOf (((slotBytes b n).drop off).take size)

/-- The image of a slot: as many bytes after the header as LENGTH says. -/
def slotImage (b : Boot) (n : Nat) : List Byte := ((slotBytes b n).drop 4096).take (slotField b n 8 8)

/-- The digest of a slot's image, as a number. -/
def slotDigest (b : Boot) (n : Nat) : Nat := beNum (sha true (slotImage b n))

/-- Bytes of a slot's header read as a big-endian number, and bytes of the key. -/
def slotBe (b : Boot) (n off : Nat) : Nat := beNum (((slotBytes b n).drop off).take 48)
/-- Qx (0) or Qy (48) of the verifying key. -/
def keyBe (b : Boot) (off : Nat) : Nat := beNum (bytesOf 48 (b.key / 256 ^ off))

/-- The check of a slot (R467, R487): its image is whole and its signature over the image's digest is valid. -/
def slotOk (b : Boot) (n : Nat) : Bool :=
  let len := slotField b n 8 8
  4096 ≤ len && len ≤ 33554432 - 4096 && len % 4096 = 0 && (slotImage b n).length = len &&
  ecdsaValid (slotDigest b n) (keyBe b 0) (keyBe b 48) (slotBe b n 0x40) (slotBe b n 0x70)

/-! ### Reset (R426, R464) -/

/-- Everything that a reset takes back: HBM, the flash, DF3, what has already been sent and the model's own fields stay (R379, R426). -/
def deviceReset (s : State) : State :=
  { State.reset with
      mem := s.mem, hpoison := s.hpoison, hmeta := s.hmeta, boot := s.boot, die0 := { Reset.die 0 with df3 := s.die0.df3 }, die1 := { Reset.die 1 with df3 := s.die1.df3 },
      tx := s.tx, toHost := s.toHost, nextId := s.nextId, nextTag := s.nextTag, inputs := s.inputs, fresh := s.fresh, run := s.run }

/-! ### The boot (R466) -/

/-- Whether a step has an alternate mode (R466 Table 3). -/
def stepAlt (k : Nat) : Bool := (6 ≤ k && k ≤ 19) || k == 24 || k == 25
/-- Whether a step may be skipped. -/
def stepSkip (k : Nat) : Bool := 20 ≤ k && k ≤ 23

/-- The entry of a step in the boot record. -/
def stepAt (b : Boot) (k : Nat) : BootStep := match b.steps[k]? with | some e => e | none => Reset.bootStep

/-- The mode in which a step runs: 0 normal, 1 alternate, 2 skip, or none to halt in recovery. -/
def stepMode (k : Nat) (e : BootStep) : Option Nat :=
  if !(e.running || e.failed) then some 0
  else if e.mode = 0 && stepAlt k then some 1
  else if stepSkip k then some 2
  else none

/-- Change a step's entry. -/
def setStep (s : State) (k : Nat) (f : BootStep → BootStep) : State :=
  { s with boot := { s.boot with steps := s.boot.steps.set k (f (stepAt s.boot k)) } }

/-- The entries of a table of `n` entries of 8 bytes, of which those that `f` names have `v` as their lowest byte and every other byte is zero, in
place of what memory holds there. -/
def tableCells (base n v : Nat) (f : Nat → Bool) (cs : Cells 8) : Cells 8 :=
  cs.filter (fun c => c.1 < base) ++ ((List.range n).filter f).map (fun i => (base + 8 * i, BitVec.ofNat 8 v)) ++
    cs.filter (fun c => base + 8 * n ≤ c.1)

/-- Write such a table where root entry `k` names one within HBM; the sectors written are sound (R210). -/
def bootTable (s : State) (k n v : Nat) (f : Nat → Bool) : State :=
  let base := rootPtr s k
  let beside {w : Nat} (cs : Cells w) : Cells w := cs.filter (fun c => c.1 < base / 64 || (base + 8 * n + 63) / 64 ≤ c.1)
  if base = 0 || Config.hbmBytes < base + 8 * n then s
  else { s with mem := tableCells base n v f s.mem, hpoison := beside s.hpoison, hmeta := beside s.hmeta }

/-- Mark lanes of every quoin bad, a free choice for each: those that lane repair is in doubt about (R466). -/
def markDoubt (s : State) : State :=
  { s with
      lbad := Cells.setAll s.lbad ((List.range Config.quoins).map (fun q => (q, Cells.get s.lbad q ||| Config.freeLanes (s.fresh + q))))
      fresh := s.fresh + Config.quoins }

/-- The structures that the boot's test of the SRAM die and the L2 covers: the L1s, the scratchpads and the L2 slices. -/
def testedUnits : List Nat :=
  (List.range Config.cores).map l1Unit ++ (List.range Config.quoins).map scratchUnit ++ (List.range 192).map (2048 + ·)

/-- Retire the failing bank of every structure that has one and no retired bank yet, a free choice for each (R208, R466). -/
def retireFailing (s : State) : State :=
  let found := (testedUnits.map (fun u => (u, Config.freeBank (s.fresh + u)))).filter (fun p => p.2 < 10 && (retiredBank s p.1).isNone)
  { s with
      banks := s.banks ++ found.map (fun p => { unit := p.1, bank := p.2, count := 0, retired := true, posted := false })
      fresh := s.fresh + 2240 }

/-- A free address for a vector of the firmware, with VALID set. -/
def freeVector (s : State) : Double :=
  BitVec.ofNat 64 (((Config.freeWord s.fresh).toNat + 2 ^ 32 * (Config.freeWord (s.fresh + 1)).toNat) % 2 ^ 53 / 4 * 4 + 1)

/-- The slot that steps 24 and 25 take in a mode: the one that ACTIVE names, or the other. -/
def bootSlot (b : Boot) (mode : Nat) : Nat := if mode = 1 then 1 - b.active.toNat % 2 else b.active.toNat % 2

/-- The monitor's report of a double fault at ring 3 (R426). -/
def reportDf3 (s : State) (d : Nat) : State :=
  let v := (getDie s d).df3
  if v = 0 then s else updDie (tellHost s (.doubleFault d v)) d (fun x => { x with df3 := 0 })

/-- The image of a slot is entered: measurement block 3 is its digest, and the control cores run it (R467). -/
def enterSlot (s : State) (n : Nat) : State :=
  { s with
      measure := Cells.set s.measure 3 (BitVec.ofNat 384 (slotDigest s.boot n))
      die0 := { s.die0 with slot := n }, die1 := { s.die1 with slot := n } }

/-- What a step does in a mode, and whether it succeeds. What the spec gives no effect on the state for does nothing; lane repair
finds no lane bad in normal mode (assumption 7), and a quoin with fewer than eight good lanes is not enabled (R14). -/
def runStep (s : State) (k mode : Nat) : State × Bool :=
  match k with
  | 3 => ({ s with
      measure := Cells.set (Cells.set (Cells.set s.measure 1 (BitVec.ofNat 384 (Config.freeAnswer 17 0))) 2 (BitVec.ofNat 384 (Config.freeAnswer 18 0)))
        4 (BitVec.ofNat 384 (Config.freeAnswer 20 0)) }, true)
  | 4 => (reportDf3 (reportDf3 s 0) 1, true)
  | 5 =>
    let v := freeVector s
    (updDie (updDie { s with fresh := s.fresh + 2 } 0 (fun d => { d with tvec3 := v })) 1 (fun d => { d with tvec3 := v }), true)
  | 24 =>
    let n := bootSlot s.boot mode
    if slotOk s.boot n then ({ s with boot := { s.boot with active := BitVec.ofNat 8 n } }, true) else (s, false)
  | 25 =>
    let n := bootSlot s.boot mode
    if mode = 1 && !slotOk s.boot n then (s, false)
    else
      let s := enterSlot { s with boot := { s.boot with active := BitVec.ofNat 8 n } } n
      let v := freeVector s
      let f (d : Die) : Die := { d with tvec2 := v, key := s.boot.key }
      (updDie (updDie { s with fresh := s.fresh + 2 } 0 f) 1 f, true)
  | 6 | 7 | 8 | 9 => (if mode = 1 then markDoubt s else s, true)
  | 10 | 11 | 12 | 13 => (if mode = 1 then retireFailing s else s, true)
  | 26 => (bootTable (bootTable s 2 524288 8 (fun _ => true)) 3 768 1 (quoinWhole s), true)
  | 29 => (newHandler (newHandler (newHandler (newHandler s 0 2) 0 3) 1 2) 1 3, true)
  | _ => (s, true)

/-- The end of a boot in which every step succeeded: attempts are cleared when all ran in their normal mode. -/
def bootDone (s : State) : State :=
  let all := s.boot.steps.all (fun e => e.mode == 0)
  { s with run := .running, boot := { s.boot with steps := if all then s.boot.steps.map (fun e => { e with attempts := 0 }) else s.boot.steps } }

/-- The start at step `k` (R466). Every step that is run takes its result code from the list, 0 when it is exhausted; a step that fails ends the start and
a new one begins. -/
def bootFrom (fuel : Nat) (s : State) (k : Nat) (codes : List Word) : State :=
  match fuel with
  | 0 => s
  | f + 1 =>
    if 32 ≤ k then bootDone s
    else
      match stepMode k (stepAt s.boot k) with
      | none => { s with run := .recovery k }
      | some mode =>
        let s := setStep s k (fun e => { e with running := true, mode := mode, attempts := Nat.min 65535 (e.attempts + 1) })
        let ends (s : State) (failed : Bool) (code : Word) : State := setStep s k (fun e => { e with running := false, failed := failed, result := code })
        if mode = 2 then bootFrom f (ends s false 0) (k + 1) codes
        else
          let code := codes.headD 0
          if code ≠ 0 then bootFrom f (deviceReset (ends s true code)) 0 codes.tail
          else
            match runStep s k mode with
            | (s, true) => bootFrom f (ends s false 0) (k + 1) codes.tail
            | (s, false) => bootFrom f (deviceReset (ends (bumpFresh s) true (Config.freeWord s.fresh ||| 1))) 0 codes.tail

/-- A boot: at most one new start for every failing code, and two for the check of a slot. -/
def boot (s : State) (codes : List Word) : State := bootFrom (33 * (codes.length + 4)) (deviceReset s) 0 codes

/-- PERST_RELEASE (R464): the boot starts. -/
def execPerstRelease (results : List Word) (s : State) : Out := .next (if s.run = .held then boot s results else s)

/-- MAIN_POWER_RETURN (R464): as the release of PERST#; HBM and DF3 have lost what they held (assumption 8). -/
def execMainPowerReturn (results : List Word) (s : State) : Out :=
  .next (if s.run = .held then boot { s with mem := [], hpoison := [], hmeta := [], die0 := Reset.die 0, die1 := Reset.die 1 } results else s)

/-- PERST_ASSERT (R464): every die is held in reset and the link is down. -/
def execPerstAssert (s : State) : Out := .next { deviceReset s with run := .held }

/-- REQUEST_RESET (R464, R471): the boot runs again, with the link kept up. -/
def execRequestReset (results : List Word) (s : State) : Out := .next (if linkDown s then s else boot s results)

/-! ### Management messages (R466, R469, R471) -/

/-- Who takes a management message: the control core of die 0 when the device runs or is in recovery; above 105 °C it answers the thermal state. -/
def manage (s : State) (k : Out) : Out := attend s .mctp k

/-- SELECT_ACTIVE (R471): refused while PENDING names a slot, and for a number that is no slot. -/
def execSelectActive (slot : Byte) (s : State) : Out :=
  manage s (.next (if s.boot.pending = 0xFF && slot.toNat < 2 then { s with boot := { s.boot with active := slot } } else tellHost s .mctpRefused))

/-- READ_SENSORS (R471): the temperatures of two dies and sixteen HBM stacks and the 48 V reading, which are free values. -/
def execReadSensors (s : State) : Out :=
  manage s (.next (tellHost { s with fresh := s.fresh + 19 } (.sensors ((List.range 19).map (fun i => (Config.freeWord (s.fresh + i)).toNat)))))

/-- The bytes of a step's entry (R465 Table 2). -/
def stepBytes (b : Boot) (k : Nat) : List Byte :=
  let e := stepAt b k
  let flags := (if stepAlt k then 1 else 0) + (if stepSkip k then 2 else 0) + (if e.running then 4 else 0) + (if e.failed then 8 else 0)
  bytesOf 24 (packFields [(0, 1, flags), (1, 1, e.mode), (2, 2, e.attempts), (4, 4, e.result.toNat)])

/-- The 1,024 bytes of the boot record (R465 Table 1). -/
def bootRecord (b : Boot) : List Byte :=
  bytesOf 64 (packFields [(0, 4, 1), (4, 1, b.active.toNat), (5, 1, b.pending.toNat), (8, 8, b.troot), (0x10, 8, b.cpage0), (0x18, 8, b.cpage1)]) ++
  (List.range 32).flatMap (stepBytes b) ++ List.replicate 192 0

/-- READ_BOOT_RECORD (R471). -/
def execReadBootRecord (s : State) : Out := manage s (.next (tellHost s (.bootRecord (bootRecord s.boot))))

/-! ### Temperature (R469) -/

/-- THERMAL_ABOVE_95: no harvest course issues on the die, with event code 17. -/
def execThermalAbove95 (die : Nat) (s : State) : Out :=
  .next (if s.run ≠ .running || (getDie s die).hot then s else postDie (updDie s die (fun d => { d with hot := true })) die { code := 17 })

/-- THERMAL_BELOW_90: harvest issue resumes. -/
def execThermalBelow90 (die : Nat) (s : State) : Out := .next (updDie s die (fun d => { d with hot := false }))

/-- THERMAL_ABOVE_105: cores, arrays, L2 slices and loops of both dies are held in reset until a new boot; HBM keeps its contents. -/
def execThermalAbove105 (_die : Nat) (s : State) : Out := .next (if s.run = .held then s else { deviceReset s with run := .thermal })

/-! ### The watchdog (R415, R468, R488) -/

/-- The control core of a die starts again: its handler courses are idle, and a trap that one was serving is listed again. -/
def restartControl (s : State) (die : Nat) : State :=
  let s := updCourses s (fun c => c.qid == 768 + die && c.tenant == 64) (fun c =>
    { Reset.course with
      id := c.id, life := .idle, live := 0xFFFFFFFF, qid := c.qid, slot := c.slot, bond := c.bond, tenant := 64, asid := s.kasid, ring := c.ring, srseed := seedCells 0 })
  updDie s die (fun d =>
    { d with
        list2 := (match d.serve2 with | some t => [t] | none => []) ++ d.list2, list3 := (match d.serve3 with | some t => [t] | none => []) ++ d.list3
        serve2 := none, serve3 := none })

/-- WATCHDOG_EXPIRY (R415): counted and posted; under UPD the live update is rolled back (R468), else the control core is reset into its slot and the host
is told. -/
def execWatchdogExpiry (die : Nat) (s : State) : Out :=
  let d := getDie s die
  if s.run ≠ .running || !d.wdctl.getLsbD 0 then .next s
  else
    let s := postDie (updDie s die (fun d => { d with wdcnt := d.wdlim, wdexp := d.wdexp + 1 })) die { code := 9 }
    if d.wdctl.getLsbD 1 then
      let n := s.boot.active.toNat % 2
      if !slotOk s.boot n then .next { deviceReset s with run := .recovery 24 }
      else
        let s := restartControl { s with boot := { s.boot with pending := 0xFF }, measure := Cells.set s.measure 3 (BitVec.ofNat 384 (slotDigest s.boot n)) } die
        .next (updDie s die (fun d =>
          { d with slot := n, wdctl := d.wdctl &&& 1, hand := (match d.shadow with | some h => h | none => d.hand), shadow := none }))
    else .next (tellHost (restartControl s die) (.watchdog die))

/-! ### Monitor calls (R486) -/

/-- The course whose `trap 12` from ring 2 the monitor of a die serves, once every access it had issued has been performed. -/
def monitorCaller (s : State) (die : Nat) : Option Course :=
  match (getDie s die).serve3 with
  | none => none
  | some t =>
    match courseById s t.course with
    | none => none
    | some c => if t.cause = 0x12C && c.ring = 2 && c.ops.isEmpty then some c else none

/-- Serve a call: its function code must be the one asked for, and RESULT is 0 when it is done and 1 when it is refused. -/
def monitorCall (s : State) (die func : Nat) (f : Course → Option State) : Out :=
  match monitorCaller s die with
  | none => .next s
  | some c =>
    if (getDie s die).func.toNat ≠ func then .next s
    else match f c with
      | some t => .next (updDie t die (fun d => { d with result := 0 }))
      | none => .next (updDie s die (fun d => { d with result := 1 }))

/-- Drop every cached line of an ASID whose addresses translate into a physical range. -/
def dropPhys (s : State) (asid lo n : Nat) : State :=
  let hit (l : Line) : Bool := l.asid == asid && (match rawPa s asid l.addr with | some pa => lo < pa + 128 && pa < lo + n | none => false)
  { s with l1 := s.l1.filter (fun l => !hit l), l2 := s.l2.filter (fun l => !hit l) }

/-- LOADSLOT (R486): the header and image of slot ARG0 go to HBM at ARG1. -/
def execLoadslot (die : Nat) (s : State) : Out :=
  monitorCall s die 1 (fun c =>
    let d := getDie s die
    let n := d.arg0.toNat
    if 2 ≤ n || n = s.boot.active.toNat then none
    else
      let bytes := (slotBytes s.boot n).take (4096 + slotField s.boot n 8 8)
      some (dropPhys (physWrite s d.arg1.toNat bytes.length (numOf bytes)) c.asid d.arg1.toNat bytes.length))

/-- SETPENDING (R486): PENDING becomes ARG0, a slot that ACTIVE does not name or 0xFF for none. -/
def execSetpending (die : Nat) (s : State) : Out :=
  monitorCall s die 2 (fun _ =>
    let n := (getDie s die).arg0.toNat
    if (2 ≤ n && n ≠ 255) || n = s.boot.active.toNat then none else some { s with boot := { s.boot with pending := BitVec.ofNat 8 n } })

/-- MEASURE (R486): measurement block 3 becomes the 48 bytes at ARG1. -/
def execMeasure (die : Nat) (s : State) : Out :=
  monitorCall s die 3 (fun _ =>
    some { s with measure := Cells.set s.measure 3 (BitVec.ofNat 384 (beNum (bytesOf 48 (tableRead s (getDie s die).arg1.toNat 48 2)))) })

/-- COMMIT (R486): ACTIVE := PENDING and PENDING := 0xFF; refused while PENDING is 0xFF. -/
def execCommitCall (die : Nat) (s : State) : Out :=
  monitorCall s die 4 (fun _ =>
    if s.boot.pending = 0xFF then none else some { s with boot := { s.boot with active := s.boot.pending, pending := 0xFF } })

end Sys2Proof.Machine
end

