-- ==== Sys2Proof/Machine/Dispatch.lean ====
section
/-! DEFINITION. The meaning of every row of the opcode table: one arm for each, a direct call of it. -/

namespace Sys2Proof.Machine

/-- Execute one row. -/
def exec (i : Instr) (s : State) : Host.Outcome State Fault Refusal :=
  match i with
  | .nop x => Sys2Proof.Machine.execNop x s
  | .bra x => Sys2Proof.Machine.execBra x s
  | .brx x => Sys2Proof.Machine.execBrx x s
  | .call x => Sys2Proof.Machine.execCall x s
  | .calli x => Sys2Proof.Machine.execCalli x s
  | .ret x => Sys2Proof.Machine.execRet x s
  | .join x => Sys2Proof.Machine.execJoin x s
  | .leave x => Sys2Proof.Machine.execLeave x s
  | .waitm x => Sys2Proof.Machine.execWaitm x s
  | .mget x => Sys2Proof.Machine.execMget x s
  | .mput x => Sys2Proof.Machine.execMput x s
  | .exit x => Sys2Proof.Machine.execExit x s
  | .yield x => Sys2Proof.Machine.execYield x s
  | .sleep x => Sys2Proof.Machine.execSleep x s
  | .brk x => Sys2Proof.Machine.execBrk x s
  | .srd x => Sys2Proof.Machine.execSrd x s
  | .swr x => Sys2Proof.Machine.execSwr x s
  | .trap x => Sys2Proof.Machine.execTrap x s
  | .rett x => Sys2Proof.Machine.execRett x s
  | .rgn x => Sys2Proof.Machine.execRgn x s
  | .rgend x => Sys2Proof.Machine.execRgend x s
  | .ctxsv x => Sys2Proof.Machine.execCtxsv x s
  | .ctxld x => Sys2Proof.Machine.execCtxld x s
  | .gangsync x => Sys2Proof.Machine.execGangsync x s
  | .mov x => Sys2Proof.Machine.execMov x s
  | .movi x => Sys2Proof.Machine.execMovi x s
  | .add x => Sys2Proof.Machine.execAdd x s
  | .sub x => Sys2Proof.Machine.execSub x s
  | .addc x => Sys2Proof.Machine.execAddc x s
  | .subb x => Sys2Proof.Machine.execSubb x s
  | .mul x => Sys2Proof.Machine.execMul x s
  | .mulhi x => Sys2Proof.Machine.execMulhi x s
  | .mad x => Sys2Proof.Machine.execMad x s
  | .min x => Sys2Proof.Machine.execMin x s
  | .max x => Sys2Proof.Machine.execMax x s
  | .abs x => Sys2Proof.Machine.execAbs x s
  | .neg x => Sys2Proof.Machine.execNeg x s
  | .sad x => Sys2Proof.Machine.execSad x s
  | .dp4a x => Sys2Proof.Machine.execDp4a x s
  | .and x => Sys2Proof.Machine.execAnd x s
  | .or x => Sys2Proof.Machine.execOr x s
  | .xor x => Sys2Proof.Machine.execXor x s
  | .andn x => Sys2Proof.Machine.execAndn x s
  | .not x => Sys2Proof.Machine.execNot x s
  | .shl x => Sys2Proof.Machine.execShl x s
  | .shr x => Sys2Proof.Machine.execShr x s
  | .sar x => Sys2Proof.Machine.execSar x s
  | .rot x => Sys2Proof.Machine.execRot x s
  | .bfe x => Sys2Proof.Machine.execBfe x s
  | .bfi x => Sys2Proof.Machine.execBfi x s
  | .bfrev x => Sys2Proof.Machine.execBfrev x s
  | .popc x => Sys2Proof.Machine.execPopc x s
  | .clz x => Sys2Proof.Machine.execClz x s
  | .ctz x => Sys2Proof.Machine.execCtz x s
  | .sel x => Sys2Proof.Machine.execSel x s
  | .cmp x => Sys2Proof.Machine.execCmp x s
  | .clamp x => Sys2Proof.Machine.execClamp x s
  | .lea x => Sys2Proof.Machine.execLea x s
  | .sext x => Sys2Proof.Machine.execSext x s
  | .prmt x => Sys2Proof.Machine.execPrmt x s
  | .fadd x => Sys2Proof.Machine.execFadd x s
  | .fsub x => Sys2Proof.Machine.execFsub x s
  | .fmul x => Sys2Proof.Machine.execFmul x s
  | .ffma x => Sys2Proof.Machine.execFfma x s
  | .fmin x => Sys2Proof.Machine.execFmin x s
  | .fmax x => Sys2Proof.Machine.execFmax x s
  | .fcmp x => Sys2Proof.Machine.execFcmp x s
  | .fclass x => Sys2Proof.Machine.execFclass x s
  | .frcp x => Sys2Proof.Machine.execFrcp x s
  | .frsq x => Sys2Proof.Machine.execFrsq x s
  | .fsqrt x => Sys2Proof.Machine.execFsqrt x s
  | .fdiv x => Sys2Proof.Machine.execFdiv x s
  | .fexp2 x => Sys2Proof.Machine.execFexp2 x s
  | .flog2 x => Sys2Proof.Machine.execFlog2 x s
  | .fsin x => Sys2Proof.Machine.execFsin x s
  | .fcos x => Sys2Proof.Machine.execFcos x s
  | .ftanh x => Sys2Proof.Machine.execFtanh x s
  | .fsigm x => Sys2Proof.Machine.execFsigm x s
  | .fscale x => Sys2Proof.Machine.execFscale x s
  | .ffrac x => Sys2Proof.Machine.execFfrac x s
  | .frnd x => Sys2Proof.Machine.execFrnd x s
  | .cvt x => Sys2Proof.Machine.execCvt x s
  | .fpack x => Sys2Proof.Machine.execFpack x s
  | .funpack x => Sys2Proof.Machine.execFunpack x s
  | .fdot2 x => Sys2Proof.Machine.execFdot2 x s
  | .shfl x => Sys2Proof.Machine.execShfl x s
  | .lbal x => Sys2Proof.Machine.execLbal x s
  | .lany x => Sys2Proof.Machine.execLany x s
  | .lall x => Sys2Proof.Machine.execLall x s
  | .lfirst x => Sys2Proof.Machine.execLfirst x s
  | .bcast x => Sys2Proof.Machine.execBcast x s
  | .lperm x => Sys2Proof.Machine.execLperm x s
  | .lred x => Sys2Proof.Machine.execLred x s
  | .lscan x => Sys2Proof.Machine.execLscan x s
  | .lmatch x => Sys2Proof.Machine.execLmatch x s
  | .ld x => Sys2Proof.Machine.execLd x s
  | .st x => Sys2Proof.Machine.execSt x s
  | .lds x => Sys2Proof.Machine.execLds x s
  | .sts x => Sys2Proof.Machine.execSts x s
  | .ldc x => Sys2Proof.Machine.execLdc x s
  | .atom x => Sys2Proof.Machine.execAtom x s
  | .atoms x => Sys2Proof.Machine.execAtoms x s
  | .put x => Sys2Proof.Machine.execPut x s
  | .phase x => Sys2Proof.Machine.execPhase x s
  | .fence x => Sys2Proof.Machine.execFence x s
  | .afence x => Sys2Proof.Machine.execAfence x s
  | .pref x => Sys2Proof.Machine.execPref x s
  | .pflush x => Sys2Proof.Machine.execPflush x s
  | .arrive x => Sys2Proof.Machine.execArrive x s
  | .waitb x => Sys2Proof.Machine.execWaitb x s
  | .barr x => Sys2Proof.Machine.execBarr x s
  | .waitc x => Sys2Proof.Machine.execWaitc x s
  | .waitf x => Sys2Proof.Machine.execWaitf x s
  | .fcnt x => Sys2Proof.Machine.execFcnt x s
  | .bstat x => Sys2Proof.Machine.execBstat x s
  | .mxld x => Sys2Proof.Machine.execMxld x s
  | .mxsw x => Sys2Proof.Machine.execMxsw x s
  | .mxm x => Sys2Proof.Machine.execMxm x s
  | .mxz x => Sys2Proof.Machine.execMxz x s
  | .mxrd x => Sys2Proof.Machine.execMxrd x s
  | .mxwr x => Sys2Proof.Machine.execMxwr x s
  | .had x => Sys2Proof.Machine.execHad x s
  | .qnt x => Sys2Proof.Machine.execQnt x s
  | .mxst x => Sys2Proof.Machine.execMxst x s
  | .mxsv x => Sys2Proof.Machine.execMxsv x s
  | .mxrs x => Sys2Proof.Machine.execMxrs x s
  | .enq x => Sys2Proof.Machine.execEnq x s
  | .leaseReq x => Sys2Proof.Machine.execLeaseReq x s
  | .leaseRel x => Sys2Proof.Machine.execLeaseRel x s
  | .leaseQry x => Sys2Proof.Machine.execLeaseQry x s
  | .cpy x => Sys2Proof.Machine.execCpy x s
  | .xch x => Sys2Proof.Machine.execXch x s
  | .xred x => Sys2Proof.Machine.execXred x s
  | .hash x => Sys2Proof.Machine.execHash x s
  | .sigv x => Sys2Proof.Machine.execSigv x s
  | .scrub x => Sys2Proof.Machine.execScrub x s
  | .clause h => Sys2Proof.Machine.execClause h s
  | .fpmWrite c v => Sys2Proof.Machine.execFpmWrite c v s
  | .srseedWrite c m v => Sys2Proof.Machine.execSrseedWrite c m v s
  | .lfmodeWrite c v => Sys2Proof.Machine.execLfmodeWrite c v s
  | .tcommitWrite c tables => Sys2Proof.Machine.execTcommitWrite c tables s
  | .registerWrite c r v => Sys2Proof.Machine.execRegisterWrite c r v s
  | .hbeatWrite die => Sys2Proof.Machine.execHbeatWrite die s
  | .wdctlWrite die v => Sys2Proof.Machine.execWdctlWrite die v s
  | .preemptSpan die q => Sys2Proof.Machine.execPreemptSpan die q s
  | .preemptPier die q => Sys2Proof.Machine.execPreemptPier die q s
  | .preemptTenant die q => Sys2Proof.Machine.execPreemptTenant die q s
  | .preemptRelease die q => Sys2Proof.Machine.execPreemptRelease die q s
  | .debugStop die q => Sys2Proof.Machine.execDebugStop die q s
  | .fixedLatencyResult c => Sys2Proof.Machine.execFixedLatencyResult c s
  | .setAside c pass => Sys2Proof.Machine.execSetAside c pass s
  | .setAsidePassesIssue c => Sys2Proof.Machine.execSetAsidePassesIssue c s
  | .loadDataReturn c k => Sys2Proof.Machine.execLoadDataReturn c k s
  | .storeOrderingPoint c k => Sys2Proof.Machine.execStoreOrderingPoint c k s
  | .atomicPerformedAtHome c k => Sys2Proof.Machine.execAtomicPerformedAtHome c k s
  | .putLanding c k => Sys2Proof.Machine.execPutLanding c k s
  | .pageWalkComplete c k => Sys2Proof.Machine.execPageWalkComplete c k s
  | .missSlotRetry c k => Sys2Proof.Machine.execMissSlotRetry c k s
  | .park c k => Sys2Proof.Machine.execPark c k s
  | .pinRetry c k => Sys2Proof.Machine.execPinRetry c k s
  | .pinForcedWriteback asid line => Sys2Proof.Machine.execPinForcedWriteback asid line s
  | .frameTaken c => Sys2Proof.Machine.execFrameTaken c s
  | .handlerCourseStart die ring => Sys2Proof.Machine.execHandlerCourseStart die ring s
  | .replayDataArrival c k => Sys2Proof.Machine.execReplayDataArrival c k s
  | .courseHalt c => Sys2Proof.Machine.execCourseHalt c s
  | .forcedFullSave c => Sys2Proof.Machine.execForcedFullSave c s
  | .evictionDemand qid => Sys2Proof.Machine.execEvictionDemand qid s
  | .evictionDrainComplete qid => Sys2Proof.Machine.execEvictionDrainComplete qid s
  | .spillComplete qid => Sys2Proof.Machine.execSpillComplete qid s
  | .restoreComplete pier => Sys2Proof.Machine.execRestoreComplete pier s
  | .dispatcherDecision die => Sys2Proof.Machine.execDispatcherDecision die s
  | .pierPlacement pier => Sys2Proof.Machine.execPierPlacement pier s
  | .waitcReread c => Sys2Proof.Machine.execWaitcReread c s
  | .peerWaitcPoll c => Sys2Proof.Machine.execPeerWaitcPoll c s
  | .enqAppend c k => Sys2Proof.Machine.execEnqAppend c k s
  | .leaseStep c k => Sys2Proof.Machine.execLeaseStep c k s
  | .arrivalPoint c => Sys2Proof.Machine.execArrivalPoint c s
  | .sleepExpiry c => Sys2Proof.Machine.execSleepExpiry c s
  | .arrayCommandStart bond k => Sys2Proof.Machine.execArrayCommandStart bond k s
  | .arrayCommandCompletion bond k => Sys2Proof.Machine.execArrayCommandCompletion bond k s
  | .engineCommandStart c k => Sys2Proof.Machine.execEngineCommandStart c k s
  | .engineCommandCompletion c k => Sys2Proof.Machine.execEngineCommandCompletion c k s
  | .commitComplete die => Sys2Proof.Machine.execCommitComplete die s
  | .wayMaskSweep tenant => Sys2Proof.Machine.execWayMaskSweep tenant s
  | .watchdogExpiry die => Sys2Proof.Machine.execWatchdogExpiry die s
  | .loadslot die => Sys2Proof.Machine.execLoadslot die s
  | .setpending die => Sys2Proof.Machine.execSetpending die s
  | .measure die => Sys2Proof.Machine.execMeasure die s
  | .commitCall die => Sys2Proof.Machine.execCommitCall die s
  | .perfCounterSnapshot tenant => Sys2Proof.Machine.execPerfCounterSnapshot tenant s
  | .coreContainment core bad => Sys2Proof.Machine.execCoreContainment core bad s
  | .dieL2Failure die => Sys2Proof.Machine.execDieL2Failure die s
  | .thermalAbove95 die => Sys2Proof.Machine.execThermalAbove95 die s
  | .thermalBelow90 die => Sys2Proof.Machine.execThermalBelow90 die s
  | .thermalAbove105 die => Sys2Proof.Machine.execThermalAbove105 die s
  | .perstRelease results => Sys2Proof.Machine.execPerstRelease results s
  | .hostWrite a data => Sys2Proof.Machine.execHostWrite a data s
  | .hostRead a len => Sys2Proof.Machine.execHostRead a len s
  | .hostCounterWrite a v => Sys2Proof.Machine.execHostCounterWrite a v s
  | .flr vf => Sys2Proof.Machine.execFlr vf s
  | .getVersion e => Sys2Proof.Machine.execGetVersion e s
  | .getCapabilities e => Sys2Proof.Machine.execGetCapabilities e s
  | .negotiateAlgorithms e => Sys2Proof.Machine.execNegotiateAlgorithms e s
  | .getDigests e => Sys2Proof.Machine.execGetDigests e s
  | .getCertificate e slot => Sys2Proof.Machine.execGetCertificate e slot s
  | .challenge e slot nonce => Sys2Proof.Machine.execChallenge e slot nonce s
  | .getMeasurements e block => Sys2Proof.Machine.execGetMeasurements e block s
  | .keyExchange e session => Sys2Proof.Machine.execKeyExchange e session s
  | .finish e session => Sys2Proof.Machine.execFinish e session s
  | .endSession e session => Sys2Proof.Machine.execEndSession e session s
  | .spdmUnsupportedRequest e code => Sys2Proof.Machine.execSpdmUnsupportedRequest e code s
  | .ideKm session stream ranges => Sys2Proof.Machine.execIdeKm session stream ranges s
  | .lockInterface vf => Sys2Proof.Machine.execLockInterface vf s
  | .startInterface vf => Sys2Proof.Machine.execStartInterface vf s
  | .getDeviceInterfaceReport vf => Sys2Proof.Machine.execGetDeviceInterfaceReport vf s
  | .requestReset results => Sys2Proof.Machine.execRequestReset results s
  | .selectActive slot => Sys2Proof.Machine.execSelectActive slot s
  | .flitReceived port seq crcOk => Sys2Proof.Machine.execFlitReceived port seq crcOk s
  | .portRetrain port ok => Sys2Proof.Machine.execPortRetrain port ok s
  | .rd p => Sys2Proof.Machine.execRd p s
  | .rdr p => Sys2Proof.Machine.execRdr p s
  | .wr p => Sys2Proof.Machine.execWr p s
  | .inv p => Sys2Proof.Machine.execInv p s
  | .inva p => Sys2Proof.Machine.execInva p s
  | .atm p => Sys2Proof.Machine.execAtm p s
  | .atmr p => Sys2Proof.Machine.execAtmr p s
  | .frd p => Sys2Proof.Machine.execFrd p s
  | .frr p => Sys2Proof.Machine.execFrr p s
  | .xwr p => Sys2Proof.Machine.execXwr p s
  | .xack p => Sys2Proof.Machine.execXack p s
  | .gngReady p => Sys2Proof.Machine.execGngReady p s
  | .gngRelease p => Sys2Proof.Machine.execGngRelease p s
  | .gngAbort p => Sys2Proof.Machine.execGngAbort p s
  | .gngQuery p => Sys2Proof.Machine.execGngQuery p s
  | .unknownPacket p => Sys2Proof.Machine.execUnknownPacket p s
  | .gangTimeout key => Sys2Proof.Machine.execGangTimeout key s
  | .gangDecisionTimeout key => Sys2Proof.Machine.execGangDecisionTimeout key s
  | .lossOfLock port => Sys2Proof.Machine.execLossOfLock port s
  | .mainPowerReturn results => Sys2Proof.Machine.execMainPowerReturn results s
  | .debugStopTimeout c => Sys2Proof.Machine.execDebugStopTimeout c s
  | .hbmBucketRefill ctrl => Sys2Proof.Machine.execHbmBucketRefill ctrl s
  | .illegalEncoding w => Sys2Proof.Machine.execIllegalEncoding w s
  | .preemptRequestDone => Sys2Proof.Machine.execPreemptRequestDone s
  | .preemptOverdue => Sys2Proof.Machine.execPreemptOverdue s
  | .pierRetirement => Sys2Proof.Machine.execPierRetirement s
  | .broadcastWindow => Sys2Proof.Machine.execBroadcastWindow s
  | .xchTimeout => Sys2Proof.Machine.execXchTimeout s
  | .quoinVacated => Sys2Proof.Machine.execQuoinVacated s
  | .budgetPeriodBoundary => Sys2Proof.Machine.execBudgetPeriodBoundary s
  | .tokenCharge => Sys2Proof.Machine.execTokenCharge s
  | .allowanceRefill => Sys2Proof.Machine.execAllowanceRefill s
  | .correctionWindowClear => Sys2Proof.Machine.execCorrectionWindowClear s
  | .perstAssert => Sys2Proof.Machine.execPerstAssert s
  | .hostAccessTimeout => Sys2Proof.Machine.execHostAccessTimeout s
  | .vfDrained => Sys2Proof.Machine.execVfDrained s
  | .readSensors => Sys2Proof.Machine.execReadSensors s
  | .readBootRecord => Sys2Proof.Machine.execReadBootRecord s

end Sys2Proof.Machine
end

