-- ==== Sys2Proof/Machine/Schedule.lean ====
section
/-! DEFINITION. Which event of the device the model performs by itself, and when: what happens as soon as it can, and what is still outstanding
when no course can issue (assumptions 1 and 2). What only time, the host or a peer decides comes from `inputs`. -/

namespace Sys2Proof.Machine

/-! ### Before the next instruction -/

/-- The first event that some things of a list call for. -/
def firstOf {α : Type} (xs : List α) (f : α → Option Instr) : Option Instr := xs.findSome? f

/-- An event when it is due. -/
def due (b : Bool) (i : Instr) : Option Instr := if b then some i else none

/-- Whether the oldest pending trap of a course can take its frame (R424). -/
def trapDue (c : Course) : Bool :=
  match c.pend with
  | [] => false
  | t :: _ => t.ring == c.ring && c.life = .live && (assignEntries c.ops c.ring 0 0).2 && c.stopRing.isNone && c.aside.isNone

/-- Whether a wait is over that is one on a word of scratchpad: the word meets its target (R403), or it is poisoned and a trap can be raised (R436). -/
def scratchOver (b : Bond) (w : Option Wait) (top : Bool) : Bool :=
  match w with
  | some (.waitc true off t _ _ _) => if scratchPoisoned b off 4 then top else counterMet (scratchRead b off 4) t
  | some (.waitc false _ _ _ _ _) | some (.sleep _) | some (.barr _ _ _ _) | some (.waitb _ _ _) | some .gang | none => false

/-- Whether a wait of a course on a word of scratchpad is over. -/
def scratchDue (s : State) (c : Course) : Bool :=
  match findBond s c.bond with
  | some b => c.life = .live && (scratchOver b c.wait c.stopRing.isNone || scratchOver b c.waitBelow false)
  | none => false

/-- What is due of a course: a frame (R424, R430), its halt (R59), the spilling or the return of one stopped at ring 2 or 3 (R428), or a re-read (R403). The rest of an instruction set aside waits for the course's
selection (R321). -/
def courseEvent (s : State) (c : Course) : Option Instr :=
  if trapDue c || debugDue c then some (.frameTaken c.id)
  else if canHalt c then some (.courseHalt c.id)
  else if c.stillHeld && (findPier s c.pier).isSome then some (.spillComplete c.qid)
  else if released s c && (c.imageAt ≠ 0 || fitsBack s c) then some (.restoreComplete c.pier)
  else due (scratchDue s c) (.waitcReread c.id)

/-- An idle handler course starts on a listed trap (R428). -/
def handlerEvent (s : State) (die ring : Nat) : Option Instr :=
  let d := getDie s die
  match handlerOf s die ring with
  | some h => due (h.life = .idle && !d.dead && !(if ring = 2 then d.list2 else d.list3).isEmpty) (.handlerCourseStart die ring)
  | none => none

/-- What is due of a pier: that it is Halted as a whole, its placement or its restoration (R43, R318, R328), or the eviction that its placement waits
for (R323, R325). A new pier is evicted when its placement has finished (R331). -/
def pierEvent (s : State) (p : Pier) : Option Instr :=
  if p.evicting && !(p.pending && !p.halted) then
    (match (pierQuoins s p.id).head? with
    | some q => some (if p.halted then .spillComplete q else .evictionDrainComplete q)
    | none => none)
  else if p.pending then
    (if placementFree s p.id then (if p.halted then due (pierQuiet s p.id) (.restoreComplete p.id) else some (.pierPlacement p.id))
    else if pierHarvest s p then none
    else firstOf (pierQuoins s p.id) (fun q => due (overfull s q && (nextVictim s q).isSome) (.evictionDemand q)))
  else
    match findPier (settlePier s p.id) p.id, (pierCourses s p.id).head? with
    | some q, some c => due (q.halted && !p.halted) (.courseHalt c.id)
    | _, _ => none

/-- What happens before the next instruction issues. -/
def urgentEvent (s : State) : Option Instr :=
  if s.run ≠ .running then none
  else
    match firstOf (s.cur :: s.courses) (courseEvent s) with
    | some e => some e
    | none => match firstOf [(0, 2), (0, 3), (1, 2), (1, 3)] (fun p => handlerEvent s p.1 p.2) with
      | some e => some e
      | none => match firstOf s.piers (pierEvent s) with
        | some e => some e
        | none =>
          if s.piers.any (canRetire s) then some .pierRetirement
          else if !s.prqs.isEmpty && (firstPrq s (prqAcked s)).isSome then some .preemptRequestDone
          else if s.quoins.any (vacated s) then some .quoinVacated
          else firstOf [0, 1] (fun die => due (decides s die) (.dispatcherDecision die))

/-! ### When no course can issue -/

/-- The event in which an operation goes on. -/
def opEvent (c : Nat) (o : Op) : Instr :=
  match o.kind with
  | .load _ _ _ _ | .loadS _ _ | .loadC _ _ _ _ => if o.entry = 2 then .replayDataArrival c o.seq else .loadDataReturn c o.seq
  | .store _ _ | .storeS _ | .order _ _ | .afence _ _ | .pflush _ => .storeOrderingPoint c o.seq
  | .atomic _ _ _ _ | .atomicS _ _ _ => .atomicPerformedAtHome c o.seq
  | .put _ _ _ _ _ _ => if o.stage = 0 then .storeOrderingPoint c o.seq else .putLanding c o.seq
  | .enq _ _ _ => .enqAppend c o.seq
  | .lease _ _ _ _ => .leaseStep c o.seq
  | .engine _ _ _ _ _ _ _ => if o.stage = 0 then .engineCommandStart c o.seq else .engineCommandCompletion c o.seq
  | .array _ | .fetch => .pinRetry c o.seq

/-- The state after such an event. -/
def runOpEvent (s : State) (c : Nat) (o : Op) : Out :=
  match opEvent c o with
  | .replayDataArrival _ _ => execReplayDataArrival c o.seq s
  | .loadDataReturn _ _ => execLoadDataReturn c o.seq s
  | .storeOrderingPoint _ _ => execStoreOrderingPoint c o.seq s
  | .atomicPerformedAtHome _ _ => execAtomicPerformedAtHome c o.seq s
  | .putLanding _ _ => execPutLanding c o.seq s
  | .enqAppend _ _ => execEnqAppend c o.seq s
  | .leaseStep _ _ => execLeaseStep c o.seq s
  | .engineCommandStart _ _ => execEngineCommandStart c o.seq s
  | .engineCommandCompletion _ _ => execEngineCommandCompletion c o.seq s
  | _ => execPinRetry c o.seq s

/-- What an event of a course's operations shows: its life, traps, wait and operations. -/
def opView (s : State) (c : Nat) : Option (Life × List Trap × Option Wait × List Op) := (courseById s c).map (fun x => (x.life, x.pend, x.wait, x.ops))

/-- Whether an event brings a course's operations forward. -/
def moves (s : State) (c : Nat) (o : Out) : Bool := opView (outState o s) c ≠ opView s c

/-- The oldest operation of a course that can go on. -/
def opGo (s : State) (c : Course) : Option Instr :=
  firstOf c.ops (fun o =>
    due (!o.refused && !o.peerWait && o.parked.isNone && o.entry ≠ 1 && o.entry ≠ 3 && o.etype ≠ 4 && moves s c.id (runOpEvent s c.id o)) (opEvent c.id o))

/-- A refused operation that goes on when it is sent again. -/
def opRetry (s : State) (c : Course) : Option Instr :=
  firstOf c.ops (fun o => due (o.refused && moves s c.id (execPinRetry c.id o.seq s)) (.pinRetry c.id o.seq))

/-- The oldest arrival of a bond that can be counted (R399), or the oldest array command that can start or complete (R281, R283). -/
def bondEvent (s : State) (b : Bond) : Option Instr :=
  let changed (o : Out) : Bool := findBond (outState o s) b.id ≠ some b
  match firstOf b.arrivals (fun a => due (changed (execArrivalPoint a.course s)) (.arrivalPoint a.course)) with
  | some e => some e
  | none => firstOf b.queue (fun q =>
      if q.started then due (changed (execArrayCommandCompletion b.id q.id s)) (.arrayCommandCompletion b.id q.id)
      else due (cmdCanStart s b q) (.arrayCommandStart b.id q.id))

/-- A pin that has refused a request (R229). -/
def pinEvent (s : State) : Option Instr := firstOf s.l2 (fun l => due (l.pin.isSome && l.refusedOnce) (.pinForcedWriteback l.asid l.addr))

/-- A course's sleep. -/
def sleepEvent (c : Course) : Option Instr :=
  match c.wait with
  | some (.sleep _) => due (c.life = .live) (.sleepExpiry c.id)
  | _ => none

/-- A course that waits on a word of a remote part and has no read of it outstanding (R403). -/
def pollEvent (s : State) (c : Course) : Option Instr :=
  match c.wait with
  | some (.waitc false _ _ _ _ _) => due (c.life = .live && c.stopRing.isNone && moves s c.id (execPeerWaitcPoll c.id s)) (.peerWaitcPoll c.id)
  | _ => none

/-- A saved course that owes a write-back which now goes on (R225, R228). -/
def owingEvent (s : State) (c : Course) : Option Instr :=
  due (!c.owing.isEmpty && (courseById (outState (execCourseHalt c.id s) s) c.id).map (fun x => x.owing) ≠ some c.owing) (.courseHalt c.id)

/-- Whether agents other than courses wait for the same in two states: completion writes, requests of peers and replies, and accesses of the host. -/
def agentsSame (s t : State) : Bool :=
  s.spans.map (fun x => (x.id, x.state, x.stage, x.asked)) = t.spans.map (fun x => (x.id, x.state, x.stage, x.asked)) &&
  s.refusedRx = t.refusedRx && s.acks = t.acks && s.hostWaits = t.hostWaits

/-- Some of it goes on when it is tried again (R228). -/
def agentsEvent (s : State) : Option Instr :=
  let idle : Bool := s.refusedRx.isEmpty && s.acks.isEmpty && s.hostWaits.isEmpty && s.spans.all (fun x => x.state ≠ .completing)
  due (!idle && !agentsSame (retryAgents s) s) (.pinRetry 0 0)

/-- What is held at issue is tried again when nothing else is outstanding (R114, R394, R395). -/
def idleStep (s : State) : State := unstallAll s

/-- What happens when no course can issue: what has been outstanding longest of the course selected longest ago first. -/
def pendingEvent (s : State) : Option Instr :=
  if s.run ≠ .running then none
  else
    let cs := s.courses ++ [s.cur]
    match firstOf cs (opGo s) with
    | some e => some e
    | none => match firstOf s.bonds (bondEvent s) with
      | some e => some e
      | none => match s.commit with
        | some r => some (.commitComplete r.die)
        | none =>
          if !s.announced.isEmpty then some .broadcastWindow
          else match pinEvent s with
            | some e => some e
            | none => match firstOf cs (opRetry s) with
              | some e => some e
              | none => match (firstOf cs (owingEvent s)).or (agentsEvent s) with
                | some e => some e
                | none =>
                match firstOf s.sweeps (fun t => due ((outState (execWayMaskSweep t s) s).sweeps ≠ s.sweeps) (.wayMaskSweep t)) with
                | some e => some e
                | none =>
                  if s.vfs.any (fun v => v.state == 2 && !v.drained && vfIdle s v) then some .vfDrained
                  else match firstOf cs sleepEvent with
                    | some e => some e
                    | none => firstOf cs (pollEvent s)

/-- Whether a row is an instruction, issued by a course and by nothing else. -/
def isIssued (i : Instr) : Bool :=
  match i with
  | .clause _ | .illegalEncoding _ => true
  | _ => i.major?.isSome

end Sys2Proof.Machine
end

