-- ==== Sys2Proof/Machine/World.lean ====
section
/-! DEFINITION. A small world in which one course runs code at a given address: what stands for the loading of a program from outside the machine
(assumption 18), used by `State.withFetchWord`. -/

namespace Sys2Proof.Machine

namespace World

/-- The address of the code. -/
def codeVa : Nat := 0x10000
/-- The frame that page 0 of the world's ASID maps to. -/
def frameNo : Nat := 1
/-- A leaf with every part local, writable and executable, mapping frame 1. -/
def leaf : Nat := 2 + 2 ^ 8 + 2 ^ 9 + frameNo * 2 ^ 21 + (2 ^ 32 - 1) * 2 ^ 64
/-- The span of the world: one range over the page, with X and W. -/
def span : Span :=
  { id := 1, tenant := 1, queue := 0, asid := 1, harvest := false, prio := 0,
    rcd := { entry := codeVa, args := 0x11000, npiers := 1, spanId := 1, shape := 0, bonds := 1, courses := 1, regs := 256, scratch := 65536,
             fpm := 0, seed := 1, lfmode := 0, gang := false, sysScope := false, lease := 0, deps := [], counter := 0x12000, status := 0x12008 },
    state := .running, placed := 1, retired := 0, stage := 0, flush := 0, kind := 0, cause := 0, window := [(6, 32)], out := true, peers := 0, asked := false }
/-- Its pier. -/
def pier : Pier :=
  { id := 2, span := 1, ix := 0, die := 0, bonds := [3], pending := false, resident := true, halted := false, held := false, evicting := false,
    spilled := false, image := [], retired := false }

end World

/-- The state with `n` bytes of code placed for a course that issues next: a running device, no schedule, the world's span, pier, bond and course
alone, and page 0 of its ASID in the TLB. -/
def placed (s : State) (code n : Nat) : State :=
  let c := newCourse s World.span World.pier { id := 4, qid := 0, slot := 0, frameSlot := 0, bond := 3, bid := 0, cid := 0, segs := List.range 32 }
  { s with
      run := .running, inputs := [], cur := c, courses := [], prqs := [], commit := none, l1 := [], l2 := [], shares := [],
      spans := [World.span], piers := [World.pier], bonds := [newBond 3 2 0 0 1 65536 [0]], nextId := Nat.max s.nextId 5,
      tlb := (List.range 16).map (fun k => { asid := 1, page := 0, leaf := BitVec.ofNat 128 World.leaf, frameOk := true, ctrl := k }),
      mem := writeNum s.mem (2097152 * World.frameNo + World.codeVa) n code }

end Sys2Proof.Machine
end

