-- ==== Sys2Proof/Machine/Step.lean ====
section
/-! DEFINITION. One step: an event of the schedule, or an event that is due, or the issue of one instruction by the selected course, or an event
that is outstanding; else what is held at issue is tried again. -/

namespace Sys2Proof.Machine

/-- Fetch, decode and execute the instruction of the issuing subset of the course in the issue unit; the remaining passes of an instruction set aside go
first (R321). -/
def issueStep (s : State) : Host.Outcome State Fault Refusal :=
  if s.cur.aside.isSome then .next (restPasses s)
  else match s.cur.subset with
  | none => .next s
  | some (m, pc) =>
    match fetchInstr { s with iss := issueAt s.cur m pc 1 } pc with
    | (s, .error f) => .next (fetchStop s f)
    | (s, .ok ws) =>
      match decodeWords ws with
      | .error _ => .refused .cutShort
      | .ok (i, n) =>
        match exec i (prepare s m pc n i) with
        | .next t => .next (afterStep t)
        | .fault r => .fault r
        | .refused r => .refused r

/-- One step of the device. -/
def step (s : State) : Host.Outcome State Fault Refusal :=
  match s.inputs with
  | i :: rest => if isIssued i then .next { s with inputs := rest } else exec i { s with inputs := rest }
  | [] =>
    match urgentEvent s with
    | some e => exec e s
    | none =>
      match selectCourse s with
      | some (s, true) => issueStep s
      | some (s, false) => .next s
      | none =>
        match pendingEvent s with
        | some e => exec e s
        | none => .next (idleStep s)

/-- The state with an instruction placed where the next step fetches: a course of its own, alone on the device, at address 0x10000 (see `placed`). -/
def State.withFetchWord (s : State) (nbits w : Nat) : State := placed s (numOf (tableBytes nbits w)) 12

end Sys2Proof.Machine
end

