-- ==== Sys2Proof/Safety.lean ====
section
/-! DEFINITION. What the statements call a well-kept state, and the terms they are stated in: an instruction that meets no cause, the state that
it leaves when it writes a destination, and how an instruction enters the course's list of operations. -/

namespace Sys2Proof.Machine

/-- The canonical form of a byte memory: addresses strictly rising, no entry equal to the zero that an unlisted address reads as. -/
def Memory.wf (m : List Host.Cell) : Bool := Cells.wf m

/-- The invariant of a state whose HBM is in canonical form. -/
abbrev State.MemOk (s : State) : Prop := Memory.wf s.mem = true

/-- A step did not stop. -/
def Completes (o : Out) : Prop := ∃ t, o = .next t

end Sys2Proof.Machine

namespace Sys2Proof.Claims

open Sys2Proof.Machine

/-- No cause of class 0, 1 or 2 applies where the instruction issues (R102): an instruction with typed sources and a destination of `n` registers. -/
abbrev Clear (s : State) (maj : Nat) (x : Ops) (srcs : List (STy × Opd)) (n : Nat) : Prop :=
  class0 s maj x = none ∧ aluSub1 s x srcs n = none ∧ class2 s x (aluReads srcs) (opdRefs x.d n) = none

/-- The participating lanes, in ascending order (R136). -/
def lanes (s : State) (x : Ops) : List Nat := LaneSet.toList (partLanes s x)

/-- Each participating lane has a value of `n` registers in the destination, and the issuing subset has advanced. -/
def wrote (s : State) (x : Ops) (n : Nat) (f : Nat → Nat) : State :=
  noEligible ((s.upd (fun c => c.writeLanes x.d n (opdPushes x.d) ((lanes s x).map (fun i => (i, f i))))).pass x)

/-- Each participating lane has a truth value in the destination predicate, and the issuing subset has advanced. -/
def wrotePred (s : State) (x : Ops) (f : Nat → Bool) : State :=
  noEligible ((s.upd (fun c => c.writePred x.d ((lanes s x).map (fun i => (i, f i))))).pass x)

/-- The lanes whose results a floating instruction computes: with a scalar destination, the lowest (R101). -/
def fltLanes (s : State) (x : Ops) : List Nat := if opdIsS x.d then (lanes s x).take 1 else lanes s x

/-- No exception of the results is trap-enabled (R72). -/
abbrev Quiet (s : State) (rs : List (Nat × FRes)) : Prop :=
  teCause s.cur.fpm (allFlags rs) = none ∧ rs.all (fun r => (teCause s.cur.fpm r.2.flags).isNone) = true

/-- A floating instruction has set its exceptions in XF, written its results and advanced. -/
def floated (s : State) (x : Ops) (rs : List (Nat × FRes)) (write : Course → List (Nat × Nat) → Course) : State :=
  noEligible (((s.upd (fun c => c.setXF (allFlags rs))).upd (fun c => write c (rs.map (fun r => (r.1, r.2.bits))))).pass x)

/-- As `floated`, for results written to the destination of `n` registers. -/
def floatedTo (s : State) (x : Ops) (n : Nat) (rs : List (Nat × FRes)) : State :=
  floated s x rs (fun c vs => c.writeLanes x.d n (opdPushes x.d) vs)

/-- No cause of class 0, 1 or 2 applies where the instruction issues (R102): `c1` is its class-1 sub-code, `reads` and `writes` its registers. -/
abbrev Free (s : State) (maj : Nat) (x : Ops) (c1 : Option Nat) (reads writes : List RegRef) : Prop :=
  class0 s maj x = none ∧ c1 = none ∧ class2 s x reads writes = none

/-- The issuing subset has advanced (R158), and live lanes of which none is eligible trap (R162). -/
def passed (s : State) (x : Ops) : State := noEligible (s.pass x)

/-- The participating lanes have gone to their targets, after an action on their return stacks, and the others of the subset have advanced (R158). -/
def moved (s : State) (x : Ops) (dest : Nat → Nat) (stack : Course → Nat → Course) : State :=
  noEligible (s.upd (fun c =>
    (((lanes s x).foldl stack c).advance (s.iss.mask &&& ~~~ partLanes s x) x.len).jump (partLanes s x) dest))

/-- The participating lanes that can have gone to their targets after an action on their return stacks, the lanes that do not participate have advanced, and
those for which `bad` gives a cause and an address fault where they stand (R158, R159, R163). -/
def sent (s : State) (x : Ops) (dest : Nat → Nat) (stack : Course → Nat → Course) (bad : Nat → Option (Nat × Nat)) : State :=
  let fs : List LaneFault := (lanes s x).filterMap (fun i => (bad i).map (fun p => { lane := i, cause := p.1, addr := p.2 }))
  let go := partLanes s x &&& ~~~ faultSet fs
  let s1 := s.upd (fun c => (((LaneSet.toList go).foldl stack c).advance (s.iss.mask &&& ~~~ partLanes s x) x.len).jump go dest)
  noEligible (laneFaults s1 s.cur.holdMode s.iss.pc fs)

/-- The course with the flags counted up and the record set that an operation asks for (R112, R117). -/
def withMarks (s : State) (n : Nat) (o : Op) : Course :=
  if o.lanes = 0 then s.cur else (s.cur.addFlags o.flags).setGuard o.dest n o.all o.flags o.laneFlags

/-- The operations that an instruction adds: those it needs before its own, and its own unless that has no lanes. -/
def added (pre : List Op) (o : Op) : List Op := pre ++ (if o.lanes = 0 then [] else [o])

/-- Nothing holds an operation at issue, with those it needs before it: no flag stands at 255, a harvest course keeps room for it, the access queue has the
entries it takes, and its guard groups fit (R324, R332, R394, R422). -/
abbrev Room (s : State) (n : Nat) (pre : List Op) (o : Op) : Prop :=
  flagsFull s.cur o.flags = false ∧ keptFull s.cur o = false ∧ accessFull s (added pre o) = false ∧ (groupsOf (withMarks s n o)).length ≤ 12

/-- An operation has entered the course's list after those it needs before it, the whole subset has advanced, and `after` has acted on the first
number given. -/
def entered (s : State) (x : Ops) (n : Nat) (pre : List Op) (o : Op) (after : State → Nat → State) : State :=
  let os := numberOps s.cur.nextOp (added pre o)
  let c := { withMarks s n o with ops := (withMarks s n o).ops ++ os, nextOp := s.cur.nextOp + os.length }
  noEligible (after { s with cur := c.advance s.iss.mask x.len } s.cur.nextOp)

/-- As `entered`, where some lanes meet causes of their own: they stay at the instruction, the others advance, and their faults are handled last (R421). -/
def enteredF (s : State) (x : Ops) (n : Nat) (pre : List Op) (o : Op) (fs : List LaneFault) (after : State → Nat → State) : State :=
  let os := numberOps s.cur.nextOp (added pre o)
  let c := { withMarks s n o with ops := (withMarks s n o).ops ++ os, nextOp := s.cur.nextOp + os.length }
  noEligible (laneFaults (after { s with cur := c.advance (s.iss.mask &&& ~~~ faultSet fs) x.len } s.cur.nextOp) s.cur.holdMode s.iss.pc fs)

/-- Nothing more happens at issue. -/
def later (s : State) (_ : Nat) : State := s
/-- The first `k` operations are performed as far as they can go at once. -/
def tried (k : Nat) (s : State) (n : Nat) : State := performSeqs s ((List.range k).map (fun j => n + j))

/-- An operation of an access for lanes with their addresses and data. -/
def laneOp (s : State) (x : Ops) (k : OpKind) (addrs data : List (Nat × Nat)) : Op :=
  { newOp s x k (LaneSet.ofFn (fun i => addrs.any (fun p => p.1 == i))) with addrs := addrs, data := data }

/-- An array command has entered the bond's queue with its marks. -/
def queued (s : State) (x : Ops) (q : ArrCmd) (mark : Course → Course) : State :=
  let f := flagsOf s x
  entered s x 1 [] { newOp s x (.array 0) (if f = 0 then 0 else s.iss.mask) with flags := f } (enterCmd q mark)

/-- The bond of the course can take an array command now. -/
abbrev CmdRoom (s : State) (x : Ops) (b : Bond) : Prop :=
  let f := flagsOf s x
  curBond s = some b ∧ b.queue.length < 16 ∧ (s.cur.harvest = true → s.cur.rgnOpen = true) ∧
    Room s 1 [] { newOp s x (.array 0) (if f = 0 then 0 else s.iss.mask) with flags := f }

/-- What an engine command needs at issue for its block to be read (R335, R336): it is aligned, inside the bond's scratchpad, in rows without an error
(R207) and free of accesses in flight, and reads as `v`. -/
abbrev BlockReady (s : State) (x : Ops) (maj v : Nat) : Prop :=
  let off := addr32 s x 0
  Free s maj x (minSub [statusDst s x, addrSub s x true, uniSub x.a, uniSub x.c]) (addrRefs x true) [] ∧
    off % 16 = 0 ∧ off + 64 ≤ scratchSize s ∧ readRows s s.cur.bond off 64 = s ∧ blockHeld s off 64 = false ∧ blockAt s off 64 = v

/-- The operation of an engine command, as it enters its engine's queue. -/
def engineOp (s : State) (x : Ops) (maj : Nat) (bytes : List Byte) : Op :=
  { newOp s x (.engine (destOf x.d) maj x.minor bytes 0 0 false) s.iss.mask with entered := s.turns }

/-- The engine's queue and the course have room for a command. -/
abbrev EngineRoom (s : State) (x : Ops) (maj : Nat) (bytes : List Byte) : Prop :=
  engineFull s maj = false ∧ Room s 1 (engPre s x) (engineOp s x maj bytes)

/-- An engine command has entered after its release, with what it captured; `after` acts with its number. -/
def commanded (s : State) (x : Ops) (maj : Nat) (bytes : List Byte) (after : State → Nat → State) : State :=
  let k := (engPre s x).length
  entered s x 1 (engPre s x) (engineOp s x maj bytes) (fun s n => after (tried k s n) (n + k))

/-- A packet for this device arrives with the sequence number that its path expects (R456). -/
abbrev Expected (s : State) (p : Packet) : Prop :=
  p.dst = s.devId ∧ p.psn = (Cells.get s.rxPsn (16 * p.src + pathSlot s p.src (pktAddr p))).toNat

/-- The state that has counted it. -/
def counted (s : State) (p : Packet) : State :=
  let k := 16 * p.src + pathSlot s p.src (pktAddr p)
  { s with rxPsn := Cells.set s.rxPsn k (Cells.get s.rxPsn k + 1) }

end Sys2Proof.Claims
end

