-- ==== Sys2Proof/Certificates/Slice0/Obligations.lean ====
section
/-! DEFINITION. The statements for the provers. -/

open Sys2Proof Sys2Proof.Machine Sys2Proof.Claims

/-! ### Reading instructions -/

/-- Decoding and encoding agree both ways (R91, R93, R95, R96, R104, R109): the words of a well-formed row decode to it whatever follows them, and words
that decode to an instruction or a clause header are the encoding of that well-formed row. -/
def Obligations.EncodingsAgree : Prop :=
  (∀ (i : Instr) (rest : List Word), i.wf = true → decodeWords (encode i ++ rest) = .ok (i, (encode i).length)) ∧
  (∀ (ws : List Word) (i : Instr) (n : Nat), decodeWords ws = .ok (i, n) → (∀ b, i ≠ .illegalEncoding b) → i.wf = true ∧ encode i = ws.take n)

/-- Words that the spec writes out decode to the instructions they stand for, in each layout and in most families. -/
def Obligations.WordsDecode : Prop :=
  let l (d a b c : Opd) (sel : BitVec 2) (minor : BitVec 12) : Ops :=
    { form := .l, guard := Guard.always, d := d, a := a, b := b, c := c, sel := sel, minor := minor }
  let short (d a b : Opd) : Ops := { form := .s, guard := Guard.always, d := d, a := a, b := b, c := .zero, sel := 0, minor := 0 }
  decodeWords [0x0EBAE800] = .ok (.nop (short .zero .zero .zero), 1) ∧
  decodeWords [0x0249EC88] = .ok (.add (short (.v 9) (.v 9) .one), 1) ∧
  decodeWords [0x7020054D, 0x0100C00E] = .ok (.ffma (l (.v 4) (.v 1) (.v 2) (.v 3) 0 0x00E), 2) ∧
  decodeWords [0x60242A05, 0x85428001] =
    .ok (.lbal { form := .l, guard := { neg := false, pred := 6 }, d := .v 4, a := .zero, b := .zero, c := .zero, sel := 0, minor := 1 }, 2) ∧
  decodeWords [0x7A442841, 0x85428011] = .ok (.srd (l (.s 8) .zero .zero .zero 0 0x011), 2) ∧
  decodeWords [0x70450A42, 0x854FD400, 0x00000040] =
    .ok (.ld { form := .lx 0x40, guard := Guard.always, d := .v 8, a := .s 2, b := .zero, c := .lit, sel := 1, minor := 0x400 }, 3) ∧
  decodeWords [0x78551245, 0x04C28490] = .ok (.st (l .zero (.s 4) (.v 9) .zero 0 0x490), 2) ∧
  decodeWords [0x78551309, 0xE84293C0] = .ok (.mxm (l .zero (.s 4) (.imm 16) .zero 1 0x3C0), 2) ∧
  decodeWords [0x7A553349, 0x85429600] = .ok (.cpy (l (.s 10) (.s 12) .zero .zero 1 0x600), 2) ∧
  decodeWords [0x00BC4003] = .ok (.clause { stall := 0, yield := false, len := 2, setB := 15, setA := 1, wait := 0 }, 1)

/-- Every encoding whose major opcode is no instruction's takes the illegal-encoding trap at every length and in every ring, with sub-code 0, 1 or 2 by
the opcode's range (R107). -/
def Obligations.UndefinedOpcodes : Prop := ∀ (w a b : Word) (rest : List Word) (s : State), bitsOf w 0 2 ≠ 3 →
  let maj := majorOf w
  let traps (sub : Nat) : Prop := ∃ bad n, decodeWords (w :: a :: b :: rest) = .ok (.illegalEncoding bad, n) ∧
    exec (.illegalEncoding bad) s = .next (raise s sub s.iss.mask s.iss.pc 0 0)
  ((maj = 0x0F ∨ (0x19 ≤ maj ∧ maj ≤ 0x1F) ∨ (0x44 ≤ maj ∧ maj ≤ 0x4F) ∨ (0x69 ≤ maj ∧ maj ≤ 0x7F) ∨ (0x8A ≤ maj ∧ maj ≤ 0x8F) ∨
    (0x9D ≤ maj ∧ maj ≤ 0xAF) ∨ (0xB7 ≤ maj ∧ maj ≤ 0xBF) ∨ (0xCB ≤ maj ∧ maj ≤ 0xCF) ∨ (0xD8 ≤ maj ∧ maj ≤ 0xDF)) → traps 0) ∧
  (0xE0 ≤ maj → maj ≤ 0xEF → traps 1) ∧ (0xF0 ≤ maj → traps 2)

/-- A step runs the decoded instruction: with no input and no event due, where the selected course's subset has a PC whose words decode to `i`, the
step is `exec i` on the prepared state, then the count of the issue and a stepped course's trap; what cannot be fetched stops as the fetch says, and a
course with an instruction set aside issues its remaining passes first (R321). Inputs and due events are executed as they are, an instruction among
the inputs is dropped, courses that all yield are passed over, and when nothing is outstanding what is held at issue is tried again. Which event is
due is the model's choice of order (assumption 2). -/
def Obligations.StepRuns : Prop := ∀ (s : State),
  (∀ i rest, s.inputs = i :: rest → step s = if isIssued i then .next { s with inputs := rest } else exec i { s with inputs := rest }) ∧
  (∀ i, s.inputs = [] → urgentEvent s = some i → step s = exec i s) ∧
  (s.inputs = [] → urgentEvent s = none →
    (∀ i, selectCourse s = none → pendingEvent s = some i → step s = exec i s) ∧
    (selectCourse s = none → pendingEvent s = none → step s = .next (idleStep s)) ∧
    (∀ t, selectCourse s = some (t, false) → step s = .next t) ∧
    (∀ t, selectCourse s = some (t, true) → t.cur.aside ≠ none → step s = .next (restPasses t)) ∧
    ∀ (t u : State) (m : LaneSet) (pc : Nat), selectCourse s = some (t, true) → t.cur.aside = none → t.cur.subset = some (m, pc) →
      (∀ f, fetchInstr { t with iss := issueAt t.cur m pc 1 } pc = (u, .error f) → step s = .next (fetchStop u f)) ∧
      ∀ (ws : List Word) (i : Instr) (n : Nat), fetchInstr { t with iss := issueAt t.cur m pc 1 } pc = (u, .ok ws) → decodeWords ws = .ok (i, n) →
        (∀ v, exec i (prepare u m pc n i) = .next v → step s = .next (afterStep v)) ∧
        (∀ f, exec i (prepare u m pc n i) = .fault f → step s = .fault f) ∧
        (∀ r, exec i (prepare u m pc n i) = .refused r → step s = .refused r))

/-! ### The state -/

/-- Every step keeps the memory in its canonical form. -/
def Obligations.MemoryKept : Prop := ∀ s t : State, s.MemOk → step s = .next t → t.MemOk

/-- The memory is in its canonical form after reset. That HBM reads zero then is the model's choice (assumption 5). -/
def Obligations.MemoryAtReset : Prop := State.reset.MemOk

/-- What reset leaves, where the spec gives it: every die is held (R464), each cache is empty (R378), and each die's vectors, counter page and monitor block
hold the values of their tables (R173, R175, R414, R431, R486). -/
def Obligations.ResetValues : Prop :=
  let s := State.reset
  s.run = .held ∧ s.l1 = [] ∧ s.l2 = [] ∧ s.tlb = [] ∧
  ∀ d, d < 2 → let y := getDie s d
    y.tvec2 = 0 ∧ y.tvec3 = 0 ∧ y.done = 0 ∧ y.hbeat = 0 ∧ y.wdctl = 0 ∧ y.wdlim = 2000 ∧ y.wdcnt = 0 ∧ y.wdexp = 0 ∧ y.prqDone = 0 ∧
      y.prqOverdue = false ∧ prqBusy s d = false ∧ y.df3 = 0 ∧ y.func = 0 ∧ y.arg0 = 0 ∧ y.arg1 = 0 ∧ y.result = 0

/-- At course creation lane i's state is S XOR (0x9E37_79B9 × (i + 1) mod 2³²) for the seed S of the span record, and a result of zero is stored as 1
(R77). -/
def Obligations.SeedsAtCreation : Prop := ∀ (s : State) (sp : Span) (p : Pier) (w : Place) (i : Nat), i < 32 →
  let x : Word := sp.rcd.seed ^^^ BitVec.ofNat 32 (0x9E3779B9 * (i + 1) % 2 ^ 32)
  Cells.get (newCourse s sp p w).srseed i = if x = 0 then 1 else x

/-- What a fixed-latency result leaves as it was (R99, R136, R158): every part of the device but the course, and of the course all but the destination's
file, the last-result file where the destination pushes, the PCs and the clause positions; every lane that does not participate and every register
but the destination keep their values, each participating lane has its result, and the issuing subset's PCs alone move. -/
def Obligations.ResultFrame : Prop := ∀ (x : Ops) (s : State) (n : Nat) (f : Nat → Nat) (g : Nat → Bool), s.cur.eligible ≠ 0 →
  let t := wrote s x n f
  let u := wrotePred s x g
  t = { s with cur := t.cur } ∧ u = { s with cur := u.cur } ∧
  t.cur = { s.cur with v := t.cur.v, o := t.cur.o, l := t.cur.l, s := t.cur.s, pc := t.cur.pc, chead := t.cur.chead, cdist := t.cur.cdist } ∧
  u.cur = { s.cur with p := u.cur.p, pc := u.cur.pc, chead := u.cur.chead, cdist := u.cur.cdist } ∧
  (∀ a, readNum t.mem a 1 = readNum s.mem a 1 ∧ readNum u.mem a 1 = readNum s.mem a 1) ∧
  ((∀ r, x.d ≠ .v r) → t.cur.v = s.cur.v) ∧ ((∀ r, x.d ≠ .o r) → t.cur.o = s.cur.o) ∧ ((∀ r, x.d ≠ .s r) → t.cur.s = s.cur.s) ∧
  (opdPushes x.d = false → t.cur.l = s.cur.l) ∧
  (Cells.wf s.cur.pc = true → ∀ i, i < 32 →
    t.cur.pcOf i = if s.iss.mask.getLsbD i then (s.cur.pcOf i + x.len) % 2 ^ 53 else s.cur.pcOf i) ∧
  (∀ r, x.d = .v r → n = 1 → Cells.wf s.cur.v = true →
    (∀ i ∈ lanes s x, Cells.get t.cur.v (32 * r.toNat + i) = BitVec.ofNat 32 (f i)) ∧
    (∀ k, (∀ i ∈ lanes s x, k ≠ 32 * r.toNat + i) → Cells.get t.cur.v k = Cells.get s.cur.v k)) ∧
  (∀ r, x.d = .v r → n = 1 → Cells.wf s.cur.l = true →
    ∀ i ∈ lanes s x, Cells.get t.cur.l i = BitVec.ofNat 64 (f i) ∧ Cells.get t.cur.l (32 + i) = Cells.get s.cur.l i) ∧
  (∀ r : BitVec 8, x.d = .v r → Cells.wf s.cur.p = true →
    (∀ i ∈ lanes s x, (Cells.get u.cur.p r.toNat).getLsbD i = g i) ∧ (∀ k, k ≠ r.toNat → Cells.get u.cur.p k = Cells.get s.cur.p k))

/-! ### Arithmetic -/

/-- Each integer instruction without a cause writes in every participating lane the value that R142 to R144 give, with one exact result for each
packed element, and advances. -/
def Obligations.IntegerResults : Prop := ∀ (x : Ops) (s : State),
  let t := itType x.it
  let n := itRegs x.it
  let w := itWidth x.it
  let a : Nat → Nat := readOpd s x t x.a
  let b : Nat → Nat := readOpd s x t x.b
  let c : Nat → Nat := readOpd s x t x.c
  let e (g : Int → Int → Int) (i : Nat) : Nat := elems x.it (fun k => fitElem x.it (satOf x) (g (elemOf x.it (a i) k) (elemOf x.it (b i) k)))
  (Clear s 0x20 x [(t, x.a)] n → exec (.mov x) s = .next (wrote s x n a)) ∧
  (Clear s 0x21 x [(t, x.a)] n → uniSub x.a = none → (∀ o ∈ [Opd.cid, .bid, .pier, .imask, .ncourse, .nbond], x.a ≠ o) → (∀ r, x.a ≠ .s r) →
    exec (.movi x) s = .next (wrote s x n a)) ∧
  (Clear s 0x22 x [(t, x.a), (t, x.b)] n → exec (.add x) s = .next (wrote s x n (e (fun p q => p + q)))) ∧
  (Clear s 0x23 x [(t, x.a), (t, x.b)] n → exec (.sub x) s = .next (wrote s x n (e (fun p q => p - q)))) ∧
  (Clear s 0x26 x [(t, x.a), (t, x.b)] n → exec (.mul x) s = .next (wrote s x n (e (fun p q => p * q)))) ∧
  (Clear s 0x27 x [(t, x.a), (t, x.b)] n → exec (.mulhi x) s = .next (wrote s x n (fun i =>
    elems x.it (fun k => fitElem x.it false (elemOf x.it (a i) k * elemOf x.it (b i) k / ((2 ^ w : Nat) : Int)))))) ∧
  (Clear s 0x28 x [(t, x.a), (t, x.b), (t, x.c)] n → x.opx ≠ 1 → exec (.mad x) s = .next (wrote s x n (fun i =>
    elems x.it (fun k => fitElem x.it (satOf x) (elemOf x.it (a i) k * elemOf x.it (b i) k + elemOf x.it (c i) k))))) ∧
  (Clear s 0x28 x [(t, x.a), (t, x.b), (.int true (itSigned x.it), x.c)] 2 → x.opx = 1 → exec (.mad x) s = .next (wrote s x 2 (fun i =>
    ofInt 64 (elemOf x.it (a i) 0 * elemOf x.it (b i) 0 + ((readOpd s x (.int true (itSigned x.it)) x.c i : Nat) : Int))))) ∧
  (Clear s 0x29 x [(t, x.a), (t, x.b)] n → exec (.min x) s = .next (wrote s x n (fun i =>
    elems x.it (fun k => fitElem x.it false (min (elemOf x.it (a i) k) (elemOf x.it (b i) k)))))) ∧
  (Clear s 0x2A x [(t, x.a), (t, x.b)] n → exec (.max x) s = .next (wrote s x n (fun i =>
    elems x.it (fun k => fitElem x.it false (max (elemOf x.it (a i) k) (elemOf x.it (b i) k)))))) ∧
  (Clear s 0x2B x [(t, x.a)] n → exec (.abs x) s = .next (wrote s x n (fun i =>
    elems x.it (fun k => fitElem x.it (satOf x) |elemOf x.it (a i) k|)))) ∧
  (Clear s 0x2C x [(t, x.a)] n → exec (.neg x) s = .next (wrote s x n (fun i =>
    elems x.it (fun k => fitElem x.it (satOf x) (- elemOf x.it (a i) k))))) ∧
  (Clear s 0x2D x [(t, x.a), (t, x.b), (.int false false, x.c)] 1 → exec (.sad x) s = .next (wrote s x 1 (fun i =>
    (readU s x x.c i + ((List.range (itElems x.it)).map (fun k => (elemOf x.it (a i) k - elemOf x.it (b i) k).natAbs)).sum) % 2 ^ 32))) ∧
  (Clear s 0x40 x [(t, x.a), (t, x.b), (t, x.c)] n → exec (.clamp x) s = .next (wrote s x n (fun i =>
    elems x.it (fun k => fitElem x.it false (min (max (elemOf x.it (a i) k) (elemOf x.it (b i) k)) (elemOf x.it (c i) k))))))

/-- Each bitwise, shift and bit-field instruction without a cause writes the value that R142 and R144 give and advances; a shift by the width or
more gives zero, or copies of the top bit for `sar`. -/
def Obligations.BitResults : Prop := ∀ (x : Ops) (s : State),
  let t := itType x.it
  let n := itRegs x.it
  let w := itWidth x.it
  let a : Nat → Nat := readOpd s x t x.a
  let b : Nat → Nat := readOpd s x t x.b
  let c : Nat → Nat := readOpd s x t x.c
  let k : Nat → Nat := readU s x x.b
  let two := [(t, x.a), (t, x.b)]
  let shift := [(t, x.a), (countTy, x.b)]
  (Clear s 0x2F x two n → exec (.and x) s = .next (wrote s x n (fun i => a i &&& b i))) ∧
  (Clear s 0x30 x two n → exec (.or x) s = .next (wrote s x n (fun i => a i ||| b i))) ∧
  (Clear s 0x31 x two n → exec (.xor x) s = .next (wrote s x n (fun i => a i ^^^ b i))) ∧
  (Clear s 0x32 x two n → exec (.andn x) s = .next (wrote s x n (fun i => a i &&& (2 ^ bitWidth x.it - 1 - b i)))) ∧
  (Clear s 0x33 x [(t, x.a)] n → exec (.not x) s = .next (wrote s x n (fun i => 2 ^ bitWidth x.it - 1 - a i))) ∧
  (Clear s 0x34 x shift n → exec (.shl x) s = .next (wrote s x n (fun i => if w ≤ k i then 0 else a i * 2 ^ k i % 2 ^ w))) ∧
  (Clear s 0x35 x shift n → exec (.shr x) s = .next (wrote s x n (fun i => if w ≤ k i then 0 else a i / 2 ^ k i))) ∧
  (Clear s 0x36 x shift n → exec (.sar x) s = .next (wrote s x n (fun i =>
    if w ≤ k i then (if (a i).testBit (w - 1) then 2 ^ w - 1 else 0) else ofInt w (toInt w (a i) / ((2 ^ k i : Nat) : Int))))) ∧
  (Clear s 0x37 x shift n → exec (.rot x) s = .next (wrote s x n (fun i =>
    if k i % w = 0 then a i else (a i * 2 ^ (k i % w) % 2 ^ w) ||| (a i / 2 ^ (w - k i % w))))) ∧
  (Clear s 0x38 x shift n → exec (.bfe x) s = .next (wrote s x n (fun i =>
    let pos := min (k i % 256) w
    let len := min (k i / 256 % 256) (w - pos)
    let f := a i / 2 ^ pos % 2 ^ len
    if itSigned x.it && len ≠ 0 then ofInt w (toInt len f) else f))) ∧
  (Clear s 0x39 x [(t, x.a), (t, x.b), (countTy, x.c)] n → exec (.bfi x) s = .next (wrote s x n (fun i =>
    let pos := min (readU s x x.c i % 256) w
    let len := min (readU s x x.c i / 256 % 256) (w - pos)
    let m := (2 ^ len - 1) * 2 ^ pos
    (b i &&& (2 ^ w - 1 - m)) ||| (a i * 2 ^ pos &&& m)))) ∧
  (Clear s 0x3A x [(t, x.a)] n → exec (.bfrev x) s = .next (wrote s x n (fun i =>
    ((List.range w).map (fun j => if (a i).testBit (w - 1 - j) then 2 ^ j else 0)).sum))) ∧
  (Clear s 0x3B x [(t, x.a)] 1 → exec (.popc x) s = .next (wrote s x 1 (fun i => ((List.range w).filter (fun j => (a i).testBit j)).length))) ∧
  (Clear s 0x3C x [(t, x.a)] 1 → exec (.clz x) s = .next (wrote s x 1 (fun i =>
    ((List.range w).takeWhile (fun j => !(a i).testBit (w - 1 - j))).length))) ∧
  (Clear s 0x3D x [(t, x.a)] 1 → exec (.ctz x) s = .next (wrote s x 1 (fun i => ((List.range w).takeWhile (fun j => !(a i).testBit j)).length))) ∧
  (Clear s 0x42 x shift n → exec (.sext x) s = .next (wrote s x n (fun i => ofInt w (toInt (k i % w + 1) (a i))))) ∧
  (Clear s 0x43 x [(t, x.a), (t, x.b), (t, x.c)] n → exec (.prmt x) s = .next (wrote s x n (fun i =>
    ((List.range 4).map (fun j =>
      let q := c i / 2 ^ (4 * j) % 16
      let y := if q % 8 < 4 then a i / 2 ^ (8 * (q % 8)) % 256 else b i / 2 ^ (8 * (q % 8 - 4)) % 256
      (if q < 8 then y else if 128 ≤ y then 255 else 0) * 2 ^ (8 * j))).sum)))

/-- `lea`, `dp4a`, `sel`, `addc` and `subb` without a cause: the scaled address, the dot product of four bytes, the selected source, and the sum and
difference with the carry or borrow that predicate C gives and takes (R143, R144). `cmp` without a cause writes the predicate that its condition gives
(R144). -/
def Obligations.MixedResults : Prop :=
  (∀ (x : Ops) (s : State),
  let t := itType x.it
  let n := itRegs x.it
  let w := itWidth x.it
  let a : Nat → Nat := readOpd s x t x.a
  let b : Nat → Nat := readOpd s x t x.b
  let u : Nat → Nat := readU s x x.a
  let v : Nat → Nat := readU s x x.b
  let p (i : Nat) : Nat := if s.cur.pred x.opx i then 1 else 0
  let carried (f : Nat → Nat) (g : Nat → Bool) : State :=
    noEligible ((s.upd (fun c => (lanes s x).foldl (fun c i => c.setPred x.opx i (g i))
      (c.writeLanes x.d 1 (opdPushes x.d) ((lanes s x).map (fun i => (i, f i)))))).pass x)
  (Clear s 0x41 x [(t, x.a), (.int false (itSigned x.it), x.b)] n → exec (.lea x) s = .next (wrote s x n (fun i =>
    let y := readOpd s x (.int false (itSigned x.it)) x.b i
    (a i + (if w = 64 && itSigned x.it then ofInt 64 (toInt 32 y) else y) * 2 ^ x.opx) % 2 ^ w))) ∧
  (∀ bit : Nat, bit = (if x.opx = 1 then 7 else x.it) →
    let signed : Bool := itSigned x.it || itSigned bit
    Clear s 0x2E x [(t, x.a), (t, x.b), (.int false signed, x.c)] 1 →
    exec (.dp4a x) s = .next (wrote s x 1 (fun i =>
      let dt := if signed then 0 else 1
      fitElem dt (satOf x) (elemOf dt (readOpd s x (.int false signed) x.c i) 0 +
        (elemOf x.it (a i) 0 * elemOf bit (b i) 0 + elemOf x.it (a i) 1 * elemOf bit (b i) 1 +
          elemOf x.it (a i) 2 * elemOf bit (b i) 2 + elemOf x.it (a i) 3 * elemOf bit (b i) 3))))) ∧
  (class0 s 0x3E x = none → aluSub1 s x [(t, x.a), (t, x.b)] n = none → (opdIsS x.d = true → x.opx = 7) →
    class2 s x (aluReads [(t, x.a), (t, x.b)] ++ predRef (x.opx % 8)) (opdRefs x.d n) = none →
    exec (.sel x) s = .next (wrote s x n (fun i => if xor (s.cur.pred (x.opx % 8) i) (decide (x.opx / 8 % 2 = 1)) then a i else b i))) ∧
  (class0 s 0x24 x = none → aluSub1 s x [(countTy, x.a), (countTy, x.b)] 1 = none → x.opx ≠ 7 → opdIsS x.d = false →
    class2 s x (aluReads [(countTy, x.a), (countTy, x.b)] ++ predRef x.opx) (opdRefs x.d 1 ++ predRef x.opx) = none →
    exec (.addc x) s = .next (carried (fun i => (u i + v i + p i) % 2 ^ 32) (fun i => decide (2 ^ 32 ≤ u i + v i + p i)))) ∧
  (class0 s 0x25 x = none → aluSub1 s x [(countTy, x.a), (countTy, x.b)] 1 = none → x.opx ≠ 7 → opdIsS x.d = false →
    class2 s x (aluReads [(countTy, x.a), (countTy, x.b)] ++ predRef x.opx) (opdRefs x.d 1 ++ predRef x.opx) = none →
    exec (.subb x) s = .next (carried (fun i => ofInt 32 ((u i : Int) - (v i : Int) - (p i : Int))) (fun i => decide (u i < v i + p i))))) ∧
  (∀ (x : Ops) (s : State),
  let t := itType x.it
  let a (i : Nat) : Int := elemOf x.it (readOpd s x t x.a i) 0
  let b (i : Nat) : Int := elemOf x.it (readOpd s x t x.b i) 0
  class0 s 0x3F x = none → srcSub s x t x.a = none → srcSub s x t x.b = none → predSub x x.d = none →
  class2 s x (aluReads [(t, x.a), (t, x.b)]) (predDst x.d) = none →
  (x.cond = 0 → exec (.cmp x) s = .next (wrotePred s x (fun i => decide (a i = b i)))) ∧
  (x.cond = 1 → exec (.cmp x) s = .next (wrotePred s x (fun i => decide (a i ≠ b i)))) ∧
  (x.cond = 2 → exec (.cmp x) s = .next (wrotePred s x (fun i => decide (a i < b i)))) ∧
  (x.cond = 3 → exec (.cmp x) s = .next (wrotePred s x (fun i => decide (a i ≤ b i)))) ∧
  (x.cond = 4 → exec (.cmp x) s = .next (wrotePred s x (fun i => decide (a i > b i)))) ∧
  (x.cond = 5 → exec (.cmp x) s = .next (wrotePred s x (fun i => decide (a i ≥ b i)))))

/-- What packed arithmetic does to each element: a wrapped result agrees with the exact one modulo 2^w, a saturated one is the exact one clamped to the
type's range, and elements do not disturb one another (R141, R143). Two 32-bit additions linked by `addc`'s predicate add 64 bits, and two differences
linked by `subb`'s subtract them (R143). -/
def Obligations.ElementsExact : Prop :=
  (∀ (it : Nat) (g : Nat → Int) (k : Nat), it < 8 → k < itElems it →
  elemOf it (elems it (fun j => fitElem it true (g j))) k = max (itRange it).1 (min (g k) (itRange it).2) ∧
  (elemOf it (elems it (fun j => fitElem it false (g j))) k - g k) % ((2 ^ itWidth it : Nat) : Int) = 0 ∧
  (itRange it).1 ≤ elemOf it (elems it (fun j => fitElem it false (g j))) k ∧
  elemOf it (elems it (fun j => fitElem it false (g j))) k ≤ (itRange it).2) ∧
  (∀ a0 a1 b0 b1 : Nat, a0 < 2 ^ 32 → a1 < 2 ^ 32 → b0 < 2 ^ 32 → b1 < 2 ^ 32 →
  let c : Nat := if 2 ^ 32 ≤ a0 + b0 + 0 then 1 else 0
  let d : Nat := if a0 < b0 + 0 then 1 else 0
  (a0 + b0 + 0) % 2 ^ 32 + 2 ^ 32 * ((a1 + b1 + c) % 2 ^ 32) = (a0 + 2 ^ 32 * a1 + (b0 + 2 ^ 32 * b1)) % 2 ^ 64 ∧
  ofInt 32 ((a0 : Int) - b0 - 0) + 2 ^ 32 * ofInt 32 ((a1 : Int) - b1 - d) =
    ofInt 64 (((a0 + 2 ^ 32 * a1 : Nat) : Int) - ((b0 + 2 ^ 32 * b1 : Nat) : Int)))

/-! ### Floating point and lanes -/

/-- Each floating instruction without a cause of class 0 to 2 and without a trap-enabled exception writes the rounded results that R146 to R148
give in the mode captured at issue, sets the exceptions in XF and advances. -/
def Obligations.FloatResults : Prop := ∀ (x : Ops) (s : State),
  let f := fmtOf x.hi4
  let t : STy := .flt x.hi4
  let n := fmtRegs x.hi4
  let md := arith s x
  let a (i : Nat) : FVal := fval s x md x.a i
  let b (i : Nat) : FVal := fval s x md x.b i
  let c (i : Nat) : FVal := fval s x md x.c i
  let all (g : Nat → FRes) : List (Nat × FRes) := (fltLanes s x).map (fun i => (i, g i))
  let gives (i : Instr) (maj : Nat) (srcs : List (STy × Opd)) (n : Nat) (g : Nat → FRes) : Prop :=
    Clear s maj x srcs n → Quiet s (all g) → exec i s = .next (floatedTo s x n (all g))
  gives (.fadd x) 0x50 [(t, x.a), (t, x.b)] n (fun i => fAdd x.hi4 f md (a i) (b i)) ∧
  gives (.fsub x) 0x51 [(t, x.a), (t, x.b)] n (fun i => fAdd x.hi4 f md (a i) (b i).flip) ∧
  gives (.fmul x) 0x52 [(t, x.a), (t, x.b)] n (fun i => fMul x.hi4 f md (a i) (b i)) ∧
  gives (.ffma x) 0x53 [(t, x.a), (t, x.b), (t, x.c)] n (fun i => fFma x.hi4 f md (a i) (b i) (c i)) ∧
  gives (.fmin x) 0x54 [(t, x.a), (t, x.b)] n (fun i => fMinMax false x.hi4 f md (readOpd s x t x.a i) (readOpd s x t x.b i)) ∧
  gives (.fmax x) 0x55 [(t, x.a), (t, x.b)] n (fun i => fMinMax true x.hi4 f md (readOpd s x t x.a i) (readOpd s x t x.b i)) ∧
  gives (.fclass x) 0x57 [(t, x.a)] 1 (fun i => { bits := fClass f (readOpd s x t x.a i), flags := 0 }) ∧
  gives (.frcp x) 0x58 [(t, x.a)] n (fun i => fRcp x.hi4 f md (a i)) ∧
  gives (.frsq x) 0x59 [(t, x.a)] n (fun i => fRsq x.hi4 f md (a i)) ∧
  gives (.fsqrt x) 0x5A [(t, x.a)] n (fun i => fSqrt x.hi4 f md (a i)) ∧
  gives (.fdiv x) 0x5B [(t, x.a), (t, x.b)] n (fun i => fDiv x.hi4 f md (a i) (b i)) ∧
  gives (.fexp2 x) 0x5C [(t, x.a)] n (fun i => fExp2 x.hi4 f md (a i)) ∧
  gives (.flog2 x) 0x5D [(t, x.a)] n (fun i => fLog2 x.hi4 f md (a i)) ∧
  gives (.fsin x) 0x5E [(t, x.a)] n (fun i => fSin x.hi4 f md (a i)) ∧
  gives (.fcos x) 0x5F [(t, x.a)] n (fun i => fCos x.hi4 f md (a i)) ∧
  gives (.ftanh x) 0x60 [(t, x.a)] n (fun i => fTanh x.hi4 f md (a i)) ∧
  gives (.fsigm x) 0x61 [(t, x.a)] n (fun i => fSigm x.hi4 f md (a i)) ∧
  gives (.fscale x) 0x62 [(t, x.a), (.int false true, x.b)] n
    (fun i => fScale x.hi4 f md (a i) (toInt 32 (readOpd s x (.int false true) x.b i))) ∧
  gives (.ffrac x) 0x63 [(t, x.a)] n (fun i => fFrac x.hi4 f md (a i)) ∧
  gives (.frnd x) 0x64 [(t, x.a)] n (fun i => fRnd f md (a i))

/-- `cvt`, `fpack`, `funpack`, `fdot2` and `fcmp` without a cause and without a trap-enabled exception (R149 to R151): with stochastic rounding
each participating lane's seed advances once and its new value is used (R78, R81); an instruction that is set aside draws for all its lanes as it
issues and keeps what it drew for its remaining passes, which advance no seed (R82, R321). -/
def Obligations.ConversionResults : Prop := ∀ (x : Ops) (s : State),
  let w : STy := .int false false
  let md := arith s x
  let mc := fpMode s.cur.fpm x.rnd (cvtSat s x)
  let all (g : Nat → FRes) : List (Nat × FRes) := (fltLanes s x).map (fun i => (i, g i))
  let v (i : Nat) : Nat := readOpd s x (cvtType x.mid4) x.a i
  let k := if x.mid4 = 5 || x.mid4 = 6 then 4 else 32 / fmtWidth x.mid4
  let pair : STy := .pack x.hi4 2
  let half (o : Opd) (i k : Nat) : FVal := readF x.hi4 (fmtOf x.hi4) md.daz (readOpd s x pair o i / 2 ^ (16 * k) % 2 ^ 16)
  let drawing : LaneSet := LaneSet.ofFn (fun i => s.iss.whole.getLsbD i && guardTrue s.cur x.guard i)
  let stochastic : Prop := x.rnd = 5 ∧ opdIsS x.d = false ∧ Clear s 0x65 x [(cvtType x.mid4, x.a)] (fmtRegs x.hi4)
  (∀ g, g = (fun i => convert x.mid4 x.hi4 mc (v i)) → x.rnd ≠ 5 → Clear s 0x65 x [(cvtType x.mid4, x.a)] (fmtRegs x.hi4) → Quiet s (all g) →
    exec (.cvt x) s = .next (floatedTo s x (fmtRegs x.hi4) (all g))) ∧
  (∀ g, g = (fun i => convertSr x.mid4 x.hi4 mc (xorshift (Cells.get s.cur.srseed i)) (v i)) → stochastic → Quiet s (all g) → s.iss.drawn = none →
    (s.cur.aside = none →
      exec (.cvt x) s = .next (floatedTo (s.upd (fun c => c.advanceSeeds drawing)) x (fmtRegs x.hi4) (all g))) ∧
    (∀ a, s.cur.aside = some a → ∃ d, (∀ i, i < 32 → Cells.get d i = xorshift (Cells.get s.cur.srseed i)) ∧ exec (.cvt x) s =
      .next (floatedTo (s.upd (fun c => { c.advanceSeeds drawing with aside := some { a with drawn := d } })) x (fmtRegs x.hi4) (all g)))) ∧
  (∀ g d, s.iss.drawn = some d → g = (fun i => convertSr x.mid4 x.hi4 mc (Cells.get d i) (v i)) → stochastic → Quiet s (all g) →
    exec (.cvt x) s = .next (floatedTo s x (fmtRegs x.hi4) (all g))) ∧
  (∀ g, g = (fun i => let p := convert x.mid4 x.hi4 mc (readOpd s x (.flt x.mid4) x.a i)
      let q := convert x.mid4 x.hi4 mc (readOpd s x (.flt x.mid4) x.b i)
      ({ bits := p.bits + q.bits * 2 ^ fmtWidth x.hi4, flags := Nat.lor p.flags q.flags } : FRes)) →
    Clear s 0x66 x [(.flt x.mid4, x.a), (.flt x.mid4, x.b)] 1 → Quiet s (all g) → exec (.fpack x) s = .next (floatedTo s x 1 (all g))) ∧
  (∀ g, g = (fun i =>
      let j := readOpd s x w x.b i % k
      convert x.mid4 x.hi4 md (readOpd s x (.pack x.mid4 k) x.a i / 2 ^ (fmtWidth x.mid4 * j) % 2 ^ fmtWidth x.mid4)) →
    Clear s 0x67 x [(.pack x.mid4 k, x.a), (w, x.b)] 1 → Quiet s (all g) → exec (.funpack x) s = .next (floatedTo s x 1 (all g))) ∧
  (∀ g, g = (fun i => fDot2 md (half x.a i 0) (half x.b i 0) (half x.a i 1) (half x.b i 1) (readF 0 fp32 md.daz (readOpd s x (.flt 0) x.c i))) →
    Clear s 0x68 x [(pair, x.a), (pair, x.b), (.flt 0, x.c)] 1 → Quiet s (all g) → exec (.fdot2 x) s = .next (floatedTo s x 1 (all g))) ∧
  (∀ rs : List (Nat × FRes), rs = (lanes s x).map (fun i =>
      let r := fCmp x.mid4 x.hi4 (fmtOf x.hi4) md (readOpd s x (.flt x.hi4) x.a i) (readOpd s x (.flt x.hi4) x.b i)
      (i, { bits := if r.1 then 1 else 0, flags := r.2 })) →
    class0 s 0x56 x = none → srcSub s x (.flt x.hi4) x.a = none → srcSub s x (.flt x.hi4) x.b = none → predSub x x.d = none →
    class2 s x (aluReads [(.flt x.hi4, x.a), (.flt x.hi4, x.b)]) (predDst x.d) = none → Quiet s rs →
    exec (.fcmp x) s = .next (floated s x rs (fun c vs => c.writePred x.d (vs.map (fun v => (v.1, decide (v.2 = 1)))))))

/-- A floating result that is a NaN is the canonical NaN of its format, whatever the inputs and the mode (R63). An exact zero sum of operands with
opposite signs is +0 in every rounding mode except RDN, where it is −0 (R63). -/
def Obligations.NaNsAndZeros : Prop :=
  (∀ (code : Nat) (f : FpFmt) (md : FMode) (a b c : FVal), fpFmt code = some f →
  ∀ r ∈ [fAdd code f md a b, fMul code f md a b, fFma code f md a b c, fDiv code f md a b, fSqrt code f md a],
    (unpackF f r.bits).isNan = true → r.bits = f.nan) ∧
  (∀ (code m : Nat) (e : Int) (f : FpFmt) (md : FMode) (neg : Bool), fpFmt code = some f →
  let r := fAdd code f md (.fin neg m e) (.fin (!neg) m e)
  r.flags = 0 ∧ r.bits = (if md.rm = 2 then f.signBit else 0))

/-- The lane instructions without a cause (R152 to R156): each participating lane takes its source's value, its vote, its match mask (with W64 in a pair
whose upper register is zero) or the fold of the participating lanes, which starts at the operation's identity and goes on by its steps (R156 Table
12); the integer folds raise nothing. -/
def Obligations.LaneResults : Prop := ∀ (x : Ops) (s : State),
  let w64 := x.bit 4
  let n := if w64 then 2 else 1
  let t : STy := .int w64 false
  let u : STy := .int false false
  let ls := lanes s x
  let a (i : Nat) : Nat := readOpd s x t x.a i
  let b (i : Nat) : Nat := readU s x x.b i
  let clear (maj : Nat) (srcs : List (STy × Opd)) (n : Nat) (scl : Bool) (preds : List RegRef) : Prop :=
    class0 s maj x = none ∧ (∀ p ∈ srcs, srcSub s x p.1 p.2 = none) ∧ dstSub s.cur x n x.d = none ∧ (opdIsS x.d = true → scl = true) ∧
      class2 s x (aluReads srcs ++ preds) (opdRefs x.d n) = none
  (clear 0x80 [(t, x.a), (u, x.b)] n false [] → exec (.shfl x) s = .next (wrote s x n (fun i =>
    let w := 32 / 2 ^ (x.field 2 2)
    let base := i / w * w
    let j := match x.field 0 2 with
      | 0 => base + b i % w
      | 1 => if b i < w && b i + base ≤ i then i - b i else i
      | 2 => if b i < w && i + b i < base + w then i + b i else i
      | _ => i ^^^ (b i % w)
    a (if memNat j ls then j else i)))) ∧
  (clear 0x85 [(t, x.a), (u, x.b)] n true [] → opdVaries x.b = false → x.b ≠ .imask →
    exec (.bcast x) s = .next (wrote s x n (fun i => a (if memNat (b i % 32) ls then b i % 32 else i)))) ∧
  (clear 0x84 [(t, x.a)] n true [] → exec (.lfirst x) s = .next (wrote s x n (fun i => a (ls.headD i)))) ∧
  (clear 0x86 [(t, x.a), (u, x.b)] n false [] → exec (.lperm x) s = .next (wrote s x n (fun i =>
    a (((ls.filter (fun j => b j % 32 == i)).getLast?).getD i)))) ∧
  (clear 0x81 [] 1 true (predRef (x.low4 % 8)) → exec (.lbal x) s = .next (wrote s x 1 (fun _ =>
    ((ls.filter (voteOf s x)).map (fun i => 2 ^ i)).sum))) ∧
  (x.bit 4 = false → clear 0x82 [] 1 true (predRef (x.low4 % 8)) →
    exec (.lany x) s = .next (wrote s x 1 (fun _ => if ls.any (voteOf s x) then 1 else 0))) ∧
  (x.bit 4 = false → clear 0x83 [] 1 true (predRef (x.low4 % 8)) →
    exec (.lall x) s = .next (wrote s x 1 (fun _ => if ls.all (voteOf s x) then 1 else 0))) ∧
  (x.bit 4 = true → class0 s 0x82 x = none → predSub x x.d = none → class2 s x (predRef (x.low4 % 8)) (predDst x.d) = none →
    exec (.lany x) s = .next (wrotePred s x (fun _ => ls.any (voteOf s x)))) ∧
  (x.bit 4 = true → class0 s 0x83 x = none → predSub x x.d = none → class2 s x (predRef (x.low4 % 8)) (predDst x.d) = none →
    exec (.lall x) s = .next (wrotePred s x (fun _ => ls.all (voteOf s x)))) ∧
  (clear 0x89 [(t, x.a)] n false [] → exec (.lmatch x) s = .next (wrote s x n (fun i =>
    ((ls.filter (fun j => a j = a i)).map (fun j => 2 ^ j)).sum))) ∧
  (∀ (sel : List Nat → Nat → List Nat) (i : Instr) (maj : Nat),
    (i = .lred x ∧ maj = 0x87 ∧ sel = (fun ls _ => ls)) ∨
      (i = .lscan x ∧ maj = 0x88 ∧ opdIsS x.d = false ∧ sel = (fun ls i => ls.filter (fun j => if x.bit 4 then j < i else j ≤ i))) →
    let ty : STy := if 8 ≤ x.low4 then .flt 0 else .int false false
    let rs := ls.map (fun i => (i, redFold x.low4 (foldMode s) ((sel ls i).map (fun j => readOpd s x ty x.a j))))
    class0 s maj x = none → srcSub s x ty x.a = none → dstSub s.cur x 1 x.d = none → class2 s x (opdRefs x.a 1) (opdRefs x.d 1) = none → Quiet s rs →
    exec i s = .next (floatedTo s x 1 rs)) ∧
  (∀ (op : Nat) (md : FMode) (vs : List Nat) (p q : Nat), op < 11 →
    redFold op md [] = { bits := [0, 0x7FFFFFFF, 0x80000000, 0xFFFFFFFF, 0, 0xFFFFFFFF, 0, 0, 0x80000000, 0x7F800000, 0xFF800000].getD op 0, flags := 0 } ∧
    (redFold op md (vs ++ [q])).bits = (redStep op md (redFold op md vs).bits q).bits ∧
    (redFold op md (vs ++ [q])).flags = Nat.lor (redFold op md vs).flags (redStep op md (redFold op md vs).bits q).flags ∧
    (op < 8 → redStep op md p q = { flags := 0, bits := match op with
      | 0 => (p + q) % 2 ^ 32
      | 1 => if toInt 32 q < toInt 32 p then q else p
      | 2 => if toInt 32 p < toInt 32 q then q else p
      | 3 => min p q
      | 4 => max p q
      | 5 => p &&& q
      | 6 => p ||| q
      | _ => p ^^^ q }) ∧
    (op = 8 → redStep op md p q = fAdd 0 fp32 md (readF 0 fp32 md.daz p) (readF 0 fp32 md.daz q)) ∧
    (op = 9 → redStep op md p q = fMinMax false 0 fp32 md p q) ∧ (op = 10 → redStep op md p q = fMinMax true 0 fp32 md p q))

/-! ### Control -/

/-- Each transfer without a cause of class 0 to 2 sends its participating lanes to their targets and lets the rest of the subset advance; a call pushes
the address after it in each, and `ret` pops (R158, R159, R179 to R181). A lane whose transfer cannot be made faults and stays at the instruction: a
target beyond the address space with (4, 12), one that is not aligned with (3, 15), a call at depth 8 with (11, 3) and a `ret` at depth 0 with (11, 4),
of several causes the lowest class. A lane that faults alone in its subset records the cause with its address, and under MODE 0 the course traps with
it. `nop` advances alone. -/
def Obligations.TransferResults : Prop :=
  (∀ (x : Ops) (s : State),
  let after : Nat := s.iss.pc + x.len
  let near : Int := s.iss.pc + 4 * jumpOff x
  let top (i : Nat) : Nat := (Cells.get s.cur.rstack (8 * i + (Cells.get s.cur.depth i).toNat - 1)).toNat
  let beyond : Option (Nat × Nat) := if near < 0 ∨ (Config.vaLimit : Int) ≤ near then some (0x4C, ofInt 53 near) else none
  let bad (i : Nat) : Option (Nat × Nat) :=
    if readBase s x x.a i % 4 ≠ 0 then some (0x3F, readBase s x x.a i % 2 ^ 53)
    else if Config.vaLimit ≤ readBase s x x.a i then some (0x4C, readBase s x x.a i % 2 ^ 53) else none
  let deep (i : Nat) : Option (Nat × Nat) := if (Cells.get s.cur.depth i).toNat = 8 then some (0xB3, 0) else none
  let bare (i : Nat) : Option (Nat × Nat) := if (Cells.get s.cur.depth i).toNat = 0 then some (0xB4, 0) else none
  (Free s 0x00 x none [] [] → exec (.nop x) s = .next (passed s x)) ∧
  (Free s 0x01 x none [] [] → exec (.bra x) s = .next (sent s x (fun _ => near.toNat) (fun c _ => c) (fun _ => beyond))) ∧
  (Free s 0x03 x none [] [] →
    exec (.call x) s = .next (sent s x (fun _ => near.toNat) (fun c i => c.pushRet i after) (fun i => beyond.or (deep i)))) ∧
  (Free s 0x02 x (targetSub s x) (opdRefs x.a 2) [] → exec (.brx x) s = .next (sent s x (readBase s x x.a) (fun c _ => c) bad)) ∧
  (Free s 0x04 x (targetSub s x) (opdRefs x.a 2) [] →
    exec (.calli x) s = .next (sent s x (readBase s x x.a) (fun c i => c.pushRet i after) (fun i => (bad i).or (deep i)))) ∧
  (Free s 0x05 x none [] [] → exec (.ret x) s = .next (sent s x top (fun c i => c.popRet i) bare))) ∧
  (∀ (x : Ops) (s : State) (dest : Nat → Nat) (stack : Course → Nat → Course) (bad : Nat → Option (Nat × Nat)),
  ((∀ i ∈ lanes s x, bad i = none) → sent s x dest stack bad = moved s x dest stack) ∧
  (∀ i cause addr, lanes s x = [i] → s.iss.mask = partLanes s x → s.cur.holdMode = false → bad i = some (cause, addr) → sent s x dest stack bad =
    noEligible (raise (s.upd (fun c => { c with faults := Cells.set c.faults i (BitVec.ofNat 64 (2 ^ 63 + cause * 2 ^ 53 + addr % 2 ^ 53)) }))
      cause (LaneSet.only i) s.iss.pc 0 (LaneSet.only i))))

/-- Where transferred lanes stand: at their targets, outside any clause body; every other lane's PC is as before (R113, R158). A return address pushed at
a depth below 8 is what the next pop leaves at: the depth and the other lanes' stacks come back as they were (R159). -/
def Obligations.TransfersAndReturns : Prop :=
  (∀ (c : Course) (m : LaneSet) (f : Nat → Nat) (i : Nat),
  Cells.wf c.pc = true → Cells.wf c.chead = true → Cells.wf c.cdist = true → i < 32 →
  (m.getLsbD i = true → (c.jump m f).pcOf i = f i % 2 ^ 53 ∧ Cells.get (c.jump m f).chead i = 0 ∧ Cells.get (c.jump m f).cdist i = 0) ∧
  (m.getLsbD i = false → (c.jump m f).pcOf i = c.pcOf i ∧ Cells.get (c.jump m f).chead i = Cells.get c.chead i ∧
    Cells.get (c.jump m f).cdist i = Cells.get c.cdist i)) ∧
  (∀ (c : Course) (i a : Nat), Cells.wf c.depth = true → Cells.wf c.rstack = true →
  i < 32 → a < 2 ^ 53 → (Cells.get c.depth i).toNat < 8 →
  let d := (Cells.get c.depth i).toNat
  let c1 := c.pushRet i a
  (Cells.get c1.depth i).toNat = d + 1 ∧ (Cells.get c1.rstack (8 * i + d)).toNat = a ∧
  (c1.popRet i).depth = c.depth ∧ ∀ k, k ≠ 8 * i + d → Cells.get (c1.popRet i).rstack k = Cells.get c.rstack k)

/-- The mask instructions without a cause, unless lanes participate on an m11 that hold mode keeps: `join` enrols the participating lanes, `leave` takes
them out and releases the mask, `waitm` lets enrolled ones wait where they stand and the others pass, `mget` reads a mask and `mput` writes one, of an
m11 in hold mode only clearing bits (R161, R163, R184). On that m11 the first three take (11, 1), and `mput` on a mask with waiting lanes takes
(11, 2); without participating lanes `mput` only passes. A mask releases when all its enrolled live lanes wait: both sets are then empty and each lane
has passed its `waitm`; otherwise its waiting lanes stay and its enrolled ones lose those that are not live (R161). -/
def Obligations.MaskResults : Prop :=
  (∀ (x : Ops) (s : State),
  let k := x.low4
  let m := partLanes s x
  let w : LaneSet := m &&& Cells.get s.cur.enr k
  let v : Word := if x.bit 4 then Cells.get s.cur.waitm k else Cells.get s.cur.enr k
  let y : Word := BitVec.ofNat 32 (readU s x x.a 0)
  let enrol (e : Word) : State := s.upd (fun c => { c with enr := Cells.set c.enr k e })
  let trap (n : Nat) : State := raise s n s.iss.mask s.iss.pc 0 0
  let freely : Prop := m = 0 ∨ heldMask s k = false
  let putFree : Prop := Free s 0x0A x (minSub [srcSub s x (.int false false) x.a, uniSub x.a]) (opdRefs x.a 1) []
  (freely → Free s 0x06 x none [] [] → exec (.join x) s = .next (passed (enrol (Cells.get s.cur.enr k ||| m)) x)) ∧
  (freely → Free s 0x07 x none [] [] → exec (.leave x) s =
    .next (noEligible (((enrol (Cells.get s.cur.enr k &&& ~~~ m)).pass x).upd (fun c => c.releaseMask k)))) ∧
  (freely → Free s 0x08 x none [] [] → exec (.waitm x) s = .next (noEligible (s.upd (fun c =>
    let c := c.advance (s.iss.mask &&& ~~~ w) x.len
    ({ c with waitm := Cells.set c.waitm k (Cells.get c.waitm k ||| w)
              waitLen := (LaneSet.toList w).foldl (fun y i => Cells.set y i (BitVec.ofNat 4 x.len)) c.waitLen }).releaseMask k)))) ∧
  (∀ i maj, (i = .join x ∧ maj = 0x06) ∨ (i = .leave x ∧ maj = 0x07) ∨ (i = .waitm x ∧ maj = 0x08) → Free s maj x none [] [] → m ≠ 0 →
    heldMask s k = true → exec i s = .next (trap 0xB1)) ∧
  (Free s 0x09 x (minSub [dstSub s.cur x 1 x.d, scalarSub x []]) [] (opdRefs x.d 1) → exec (.mget x) s =
    .next (passed (s.upd (fun c => c.writeLanes x.d 1 false ((lanes s x).map (fun i => (i, v.toNat))))) x)) ∧
  (putFree → m ≠ 0 → heldMask s k = false → Cells.get s.cur.waitm k = 0 → exec (.mput x) s =
    .next (passed ((enrol y).upd (fun c => { c with caught := if k = 11 then c.caught &&& y else c.caught })) x)) ∧
  (putFree → m ≠ 0 → heldMask s k = false → Cells.get s.cur.waitm k ≠ 0 → exec (.mput x) s = .next (trap 0xB2)) ∧
  (putFree → m ≠ 0 → heldMask s k = true → exec (.mput x) s =
    .next (passed (s.upd (fun c => { c with enr := Cells.set c.enr 11 (Cells.get c.enr 11 &&& y), caught := c.caught &&& y })) x)) ∧
  (putFree → m = 0 → exec (.mput x) s = .next (passed s x))) ∧
  (∀ (c : Course) (k : Nat), Cells.wf c.enr = true → Cells.wf c.waitm = true →
  let e : LaneSet := Cells.get c.enr k &&& c.live
  let w : LaneSet := Cells.get c.waitm k
  let d := c.releaseMask k
  (w ≠ 0 → w = e → Cells.get d.enr k = 0 ∧ Cells.get d.waitm k = 0 ∧ (Cells.wf c.pc = true → ∀ i, i < 32 →
    d.pcOf i = if w.getLsbD i then (c.pcOf i + (Cells.get c.waitLen i).toNat) % 2 ^ 53 else c.pcOf i)) ∧
  (w = 0 ∨ w ≠ e → Cells.get d.enr k = e ∧ Cells.get d.waitm k = w ∧ d.pc = c.pc) ∧
  ∀ j, j ≠ k → Cells.get d.enr j = Cells.get c.enr j ∧ Cells.get d.waitm j = Cells.get c.waitm j)

/-- Ends, waits and headers without a cause (R109 to R113, R182, R185 to R187): `exit` takes the participating lanes out of LIVE and ends the course with
the last of them, and in an open region traps; `yield` and `sleep` advance and leave the course yielding or asleep, for at least one clk, until
SLEEP_EXPIRY; `brk` takes its trap with its code, and a word that is no instruction its class-0 cause; without participating lanes `exit`, `sleep` and
`brk` only pass. A clause header whose flags are clear enters its body with its waited records cleared, and one whose flags are not is held; an empty or
broken body takes (0, 4), a header inside a body (0, 5) and a reserved slot (0, 10), the lowest that applies. -/
def Obligations.EndsAndWaits : Prop := ∀ (x : Ops) (s : State),
  let m := partLanes s x
  let left : State := s.upd (fun c =>
    let c := (c.advance (s.iss.mask &&& ~~~ m) x.len).leaveBody m
    ({ c with live := c.live &&& ~~~ m }).releaseMasks 12)
  let trap (k : Nat) : State := raise s k s.iss.mask s.iss.pc 0 0
  let sleepFree : Prop := Free s 0x0D x (minSub [srcSub s x (.int false false) x.a, uniSub x.a]) (opdRefs x.a 1) []
  (Free s 0x0B x none [] [] → m ≠ 0 → s.cur.rgnOpen = false → left.cur.live ≠ 0 → exec (.exit x) s = .next (noEligible left)) ∧
  (Free s 0x0B x none [] [] → m ≠ 0 → s.cur.rgnOpen = false → left.cur.live = 0 → exec (.exit x) s = .next (courseExited left)) ∧
  (Free s 0x0B x none [] [] → m = 0 → exec (.exit x) s = .next (passed s x)) ∧
  (Free s 0x0B x none [] [] → m ≠ 0 → s.cur.rgnOpen = true → exec (.exit x) s = .next (trap 0x103)) ∧
  (Free s 0x0C x none [] [] → exec (.yield x) s = .next (passed (s.upd (fun c => { c with yielding := true })) x)) ∧
  (sleepFree → m ≠ 0 → exec (.sleep x) s =
    .next (passed (s.upd (fun c => { c with wait := some (.sleep (Nat.max (readU s x x.a 0) 1)) })) x)) ∧
  (sleepFree → m = 0 → exec (.sleep x) s = .next (passed s x)) ∧
  (∀ n, s.cur.wait = some (.sleep n) → s.cur.waitBelow = none →
    exec (.sleepExpiry s.cur.id) s = .next (s.upd (fun c => { c with wait := none }))) ∧
  (Free s 0x0E x none [] [] → m ≠ 0 → exec (.brk x) s = .next (raise s 0x110 s.iss.mask s.iss.pc (x.field 0 8) 0)) ∧
  (Free s 0x0E x none [] [] → m = 0 → exec (.brk x) s = .next (passed s x)) ∧
  (∀ w : BadWord, clauseSub s w.ctl (w.fs ≠ 0) (w.fs.getLsbD 0) (w.fs.getLsbD 1) = none →
    exec (.illegalEncoding w) s = .next (trap w.sub.toNat)) ∧
  (∀ h : Header, let n := h.len.toNat
    let whole : Bool := n ≠ 0 && bodyWhole s s.cur (s.iss.pc + 4) n n
    let slots : Bool := slotBad h.setA || slotBad h.setB
    (whole = false → exec (.clause h) s = .next (trap 4)) ∧
    (whole = true → s.iss.bodies ≠ 0 → exec (.clause h) s = .next (trap 5)) ∧
    (whole = true → s.iss.bodies = 0 → slots = true → exec (.clause h) s = .next (trap 10)) ∧
    (whole = true → s.iss.bodies = 0 → slots = false → flagsClear s.cur h.wait = false → exec (.clause h) s = holdIssue s) ∧
    (whole = true → s.iss.bodies = 0 → slots = false → flagsClear s.cur h.wait = true →
      ∃ t, exec (.clause h) s = .next t ∧ t = { s with cur := t.cur } ∧
        t.cur = { (s.cur.clearRecords s.iss.mask h.wait).setPcs s.iss.mask (fun i => s.cur.pcOf i + 4) with chead := t.cur.chead, cdist := t.cur.cdist } ∧
        ∀ i, i < 32 → Cells.wf s.cur.chead = true → Cells.wf s.cur.cdist = true →
          Cells.get t.cur.chead i = (if s.iss.mask.getLsbD i then h.word else Cells.get s.cur.chead i) ∧
          Cells.get t.cur.cdist i = (if s.iss.mask.getLsbD i then 1 else Cells.get s.cur.cdist i)))

/-! ### Special registers, traps and regions -/

/-- `srd` without a cause writes the register's value in every participating lane; from a ring below the register's, where a lane participates, it
takes cause (19, 1), with a Zero destination or no participating lane it reads nothing, and a number that Table 1 does not give takes (0, 3) (R94,
R136, R166, R167, R190). What every special register reads as, by the layout of its table (R166 to R175): modes, live lanes, the region's word and the
frame's base for the course, the seed of the lane, the place it runs at with its good lanes g and ⌈32 / g⌉ passes, the partition's enabled cores and
quoins, the device's and the domain's numbers, the vectors, and MINE and DONE of the commits. A quoin's core and die are those of R10. -/
def Obligations.SpecialRead : Prop :=
  (∀ (x : Ops) (s : State),
  let n := x.field 0 8
  let w := if srWide n then 2 else 1
  let table := [0x00, 0x01, 0x02, 0x03, 0x04, 0x05, 0x06, 0x07, 0x08, 0x09, 0x0A, 0x10, 0x11, 0x12, 0x18, 0x19, 0x1A, 0x1B, 0x1C, 0x1D, 0x20, 0x21, 0x22, 0x28]
  let free : Prop := Free s 0x10 x (minSub [dstSub s.cur x w x.d, scalarSub x [], subIf (n = 1 && opdIsS x.d) 14]) [] (opdRefs x.d w)
  (free → x.d = .zero ∨ partLanes s x = 0 → exec (.srd x) s = .next (passed s x)) ∧
  (free → x.d ≠ .zero → partLanes s x ≠ 0 → s.cur.ring < srRing n → exec (.srd x) s = .next (raise s 0x131 s.iss.mask s.iss.pc 0 0)) ∧
  (free → x.d ≠ .zero → partLanes s x ≠ 0 → srRing n ≤ s.cur.ring → exec (.srd x) s =
    .next (passed (s.upd (fun c => c.writeLanes x.d w false ((lanes s x).map (fun i => (i, srValue s n i))))) x)) ∧
  (formOk 0x10 x = true → x.field 8 4 ≠ 0 ∨ n ∉ table → exec (.srd x) s = .next (raise s 3 s.iss.mask s.iss.pc 0 0))) ∧
  (∀ (s : State) (i : Nat), let c := s.cur
  let map := laneMap s c.qid
  let g := Nat.min (popCount 18 map.toNat) 16
  srValue s 0x00 i = c.fpm.toNat ∧ srValue s 0x01 i = (Cells.get c.srseed i).toNat ∧ srValue s 0x02 i = c.lfmode.toNat ∧ srValue s 0x03 i = c.live.toNat ∧
  srValue s 0x04 i = c.restarts * 2 ^ 53 + c.rgnPc / 4 * 4 + (if c.rgnOpen then 1 else 0) ∧
  srValue s 0x05 i = c.cid ∧ srValue s 0x06 i = c.bid ∧ srValue s 0x07 i = c.pierIx.toNat ∧ srValue s 0x08 i = c.spanId.toNat ∧ srValue s 0x09 i = c.ring ∧
  srValue s 0x0A i = c.frameBase + (if c.frameBusy then 1 else 0) ∧ srValue s 0x10 i = map.toNat ∧ srValue s 0x11 i = g * 256 + (31 + g) / g ∧
  srValue s 0x12 i = c.qid ∧ (c.qid < 768 → srValue s 0x18 i = c.qid / 4 ∧ srValue s 0x19 i = c.qid / 384) ∧
  srValue s 0x1A i = ((List.range 192).filter (fun k => (partQuoins s c.tenant).any (fun q => coreOfQid q == k))).length ∧
  srValue s 0x1B i = (partQuoins s c.tenant).length ∧ srValue s 0x1C i = s.devId ∧ srValue s 0x1D i = s.nDev ∧
  srValue s 0x20 i = (Cells.get s.tvec1 c.tenant).toNat ∧ srValue s 0x21 i = (getDie s c.die).tvec2.toNat ∧ srValue s 0x22 i = (getDie s c.die).tvec3.toNat ∧
  srValue s 0x28 i = c.mine.toNat * 2 ^ 32 + (getDie s c.die).done.toNat * 2 ^ 16) ∧
  (∀ (s : State) (t q : Nat), q ∈ partQuoins s t ↔ ∃ e ∈ s.quoins, e.qid = q ∧ e.owned = true ∧ e.owner = t ∧ e.en = true ∧ e.fenced = false ∧
    quoinWhole s q = true)

/-- `swr` without a cause, from a ring that may write: FPM takes its defined bits when RM is at most 4, a seed of zero is stored as 1, LFMODE changes
unless m11 conflicts, the frame base and the vectors take their defined bits, and TCOMMIT starts its commit or is held (R68, R76, R167 to R175, R190).
An RM of 5 to 7 takes (1, 8) whichever lanes participate; where a lane participates, a ring below the register's takes (19, 1), a register or a field that
no ring writes (19, 0), the lower where both apply, and a conflict with m11 (11, 8); without participating lanes nothing else happens. A number that
Table 1 does not give takes (0, 3). That `sr.TVEC1` at rings 2 and 3 is the entry of tag 64 is the model's choice (assumption 95), and so is that RM
is judged on the source as it stands (assumption 92). -/
def Obligations.SpecialWrite : Prop := ∀ (x : Ops) (s : State),
  let n := x.field 0 8
  let table := [0x00, 0x01, 0x02, 0x03, 0x04, 0x05, 0x06, 0x07, 0x08, 0x09, 0x0A, 0x10, 0x11, 0x12, 0x18, 0x19, 0x1A, 0x1B, 0x1C, 0x1D, 0x20, 0x21, 0x22, 0x28]
  let ty : STy := .int (srWide n) false
  let v := readOpd s x ty x.a 0
  let m := partLanes s x
  let trap (k : Nat) : State := raise s k s.iss.mask s.iss.pc 0 0
  let vec : Double := BitVec.ofNat 64 (bits v 2 51 * 4 + v % 2)
  let source : Option Nat := minSub [srcSub s x ty x.a, if n = 1 then none else uniSub x.a]
  let free : Prop := (n = 0 → v % 8 ≤ 4) ∧ Free s 0x11 x source (opdRefs x.a ty.regs) []
  (formOk 0x11 x = true → x.field 8 4 ≠ 0 ∨ n ∉ table → exec (.swr x) s = .next (trap 3)) ∧
  (class0 s 0x11 x = none → source = none → n = 0x00 → 5 ≤ v % 8 → exec (.swr x) s = .next (trap 0x18)) ∧
  (free → m = 0 → exec (.swr x) s = .next (passed s x)) ∧
  (free → m ≠ 0 → srWritable n = false ∨ (n = 0x0A ∧ v % 2 = 1) → exec (.swr x) s = .next (trap 0x130)) ∧
  (free → m ≠ 0 → srWritable n = true → ¬(n = 0x0A ∧ v % 2 = 1) → s.cur.ring < srRing n → exec (.swr x) s = .next (trap 0x131)) ∧
  (free → m ≠ 0 → n = 0x00 → exec (.swr x) s = .next (passed (s.upd (fun c => { c with fpm := BitVec.ofNat 32 (Nat.land v 0x001F1F3F) })) x)) ∧
  (free → m ≠ 0 → n = 0x01 → exec (.swr x) s =
    .next (passed (s.upd (fun c => (lanes s x).foldl (fun c i => c.setSeed i (readU s x x.a i)) c)) x)) ∧
  (free → m ≠ 0 → n = 0x02 → (s.cur.holdMode = decide (v % 2 = 1) ∨ Cells.get s.cur.enr 11 = 0) →
    exec (.swr x) s = .next (passed (s.upd (fun c => { c with lfmode := BitVec.ofNat 32 (v % 2) })) x)) ∧
  (free → m ≠ 0 → n = 0x02 → s.cur.holdMode ≠ decide (v % 2 = 1) → Cells.get s.cur.enr 11 ≠ 0 → exec (.swr x) s = .next (trap 0xB8)) ∧
  (free → m ≠ 0 → n = 0x0A → 1 ≤ s.cur.ring → v % 2 = 0 →
    exec (.swr x) s = .next (passed (s.upd (fun c => { c with frameBase := bits v 12 41 * 4096 })) x)) ∧
  (free → m ≠ 0 → n = 0x20 → 1 ≤ s.cur.ring → exec (.swr x) s = .next (passed { s with tvec1 := Cells.set s.tvec1 s.cur.tenant vec } x)) ∧
  (free → m ≠ 0 → n = 0x21 → 2 ≤ s.cur.ring → exec (.swr x) s = .next (passed (updDie s s.cur.die (fun d => { d with tvec2 := vec })) x)) ∧
  (free → m ≠ 0 → n = 0x22 → 3 ≤ s.cur.ring → exec (.swr x) s = .next (passed (updDie s s.cur.die (fun d => { d with tvec3 := vec })) x)) ∧
  (free → m ≠ 0 → n = 0x28 → 2 ≤ s.cur.ring → v % 256 = 0 → exec (.swr x) s = .next (passed s x)) ∧
  (∀ t, free → m ≠ 0 → n = 0x28 → 2 ≤ s.cur.ring → writeTcommit s v = (t, true) → exec (.swr x) s = .next (passed t x)) ∧
  (∀ t, free → m ≠ 0 → n = 0x28 → 2 ≤ s.cur.ring → writeTcommit s v = (t, false) → exec (.swr x) s = stallIssue t)

/-- `trap` to a ring above the course's own takes its cause with the PCs after it, and one to a lower ring takes (19, 4); an open region and an
instruction without lanes have no such effect (R188). `rett` where it may return has the effect of the return; without reconvergence, in ring 0, or in
ring 1 with no frame busy it traps (R189). -/
def Obligations.TrapAndReturn : Prop :=
  (∀ (x : Ops) (s : State),
  let n := x.low4
  let ring := if n < 8 then 1 else if n < 12 then 2 else 3
  let m := partLanes s x
  Free s 0x12 x none [] [] →
  (m ≠ 0 → s.cur.rgnOpen = false → s.cur.ring < ring → exec (.trap x) s = .next (raise (s.pass x) (0x120 + n) m s.iss.pc 0 0)) ∧
  (m ≠ 0 → s.cur.rgnOpen = false → ring ≤ s.cur.ring → exec (.trap x) s = .next (raise (s.pass x) 0x134 m s.iss.pc 0 0)) ∧
  (m ≠ 0 → s.cur.rgnOpen = true → exec (.trap x) s = .next (raise s 0x103 s.iss.mask s.iss.pc 0 0)) ∧
  (m = 0 → exec (.trap x) s = .next (passed s x))) ∧
  (∀ (x : Ops) (s : State),
  let trap (k : Nat) : State := raise s k s.iss.mask s.iss.pc 0 0
  Free s 0x13 x none [] [] →
  (s.cur.reconverged = true → s.cur.ring ≠ 0 → (s.cur.ring = 1 → s.cur.frameBusy = true) →
    s.cur.ops.any (fun o => o.ring == s.cur.ring && o.holdsLater) = false → exec (.rett x) s = .next (returnTrap s)) ∧
  (s.cur.reconverged = true → s.cur.ring ≠ 0 → (s.cur.ring = 1 → s.cur.frameBusy = true) →
    s.cur.ops.any (fun o => o.ring == s.cur.ring && o.holdsLater) = true → exec (.rett x) s = stallIssue s) ∧
  (s.cur.reconverged = false → exec (.rett x) s = .next (trap 0xB5)) ∧
  (s.cur.reconverged = true → s.cur.ring = 0 → exec (.rett x) s = .next (trap 0x132)) ∧
  (s.cur.reconverged = true → s.cur.ring = 1 → s.cur.frameBusy = false → exec (.rett x) s = .next (trap 0x137)))

/-- Taking a trap to ring 1 at once: the frame of R419 is written at `sr.FRAME.BASE` and nothing else of the device changes, the course continues at the
vector's entry in ring 1 with every live lane, FRAME.BUSY is set, and masks, clauses, flags, records and depths are cleared while registers, LIVE and
the special registers keep their values (R424, R427). The frame holds the cause, the trapped PC, the lanes, the live lanes, INFO, and each lane's PC,
mask and predicate bits (R419). The clk that a `sleep` still has to run are a free value (R186). -/
def Obligations.TrapEntry : Prop := ∀ (s : State) (cause : Nat) (ls recs : LaneSet) (tpc info : Nat),
  cause / 16 ≠ 5 → s.cur.life = .live → s.cur.pend = [] → s.cur.stopRing = none → s.cur.aside = none → (assignEntries s.cur.ops s.cur.ring 0 0).2 = true →
  targetRing cause s.cur.ring = 1 → s.cur.ring = 0 → (vectorOf s s.cur 1).getLsbD 0 = true → inHaltPage s s.cur.tenant s.cur.frameBase = false →
  (∃ a b, translate s { s.cur.acc with ring := 1 } s.cur.frameBase .write = .loc a b) →
  let t := raise s cause ls tpc info recs
  (∃ (u : State) (c : Course) (raw : Nat), { t with cur := s.cur } = { writeFrame u c s.cur.frameBase raw with cur := s.cur } ∧
    { u with cur := s.cur, fresh := s.fresh } = s ∧ fieldAt raw 0 2 = 1 ∧ fieldAt raw 2 1 = 0 ∧ fieldAt raw 4 2 = cause % 2 ^ 16 ∧
    fieldAt raw 8 8 = tpc % 2 ^ 64 ∧ fieldAt raw 0x10 4 = s.cur.live.toNat ∧ fieldAt raw 0x14 4 = ls.toNat ∧ fieldAt raw 0x28 8 = info % 2 ^ 64 ∧
    fieldAt raw 0x1C 4 = s.cur.fpm.toNat ∧ (∀ i, i < 32 → fieldAt raw (0x40 + 8 * i) 8 = s.cur.pcOf i) ∧
    (∀ k, k < 12 → fieldAt raw (0x140 + 4 * k) 4 = (Cells.get s.cur.enr k).toNat) ∧ (∀ k, k < 7 → fieldAt raw (0x1A0 + 4 * k) 4 = (Cells.get s.cur.p k).toNat)) ∧
  ((∀ n, s.cur.wait ≠ some (.sleep n)) → t.cur.waitBelow = s.cur.wait) ∧ (∀ n, s.cur.wait = some (.sleep n) → ∃ k, t.cur.waitBelow = some (.sleep k)) ∧
  t.cur.ring = 1 ∧ t.cur.frameBusy = true ∧ t.cur.wait = none ∧ t.cur.enr = [] ∧ t.cur.waitm = [] ∧
  t.cur.chead = [] ∧ t.cur.depth = [] ∧ t.cur.flags = [] ∧ t.cur.vguard = [] ∧ t.cur.pguard = [] ∧ t.cur.sguard = [] ∧
  t.cur.live = s.cur.live ∧ t.cur.v = s.cur.v ∧ t.cur.s = s.cur.s ∧ t.cur.p = s.cur.p ∧ t.cur.l = s.cur.l ∧ t.cur.o = s.cur.o ∧
  t.cur.fpm = s.cur.fpm ∧ t.cur.srseed = s.cur.srseed ∧ t.cur.frameBase = s.cur.frameBase ∧
  (Cells.wf s.cur.pc = true → ∀ i, i < 32 → s.cur.live.getLsbD i = true → t.cur.pcOf i = vectorEntry (vectorOf s s.cur 1))

/-- What a return from ring 1 restores from a frame that passes the checks, does not ask to end the course and leaves a live lane eligible (R189, R429):
ring, PCs, masks, predicates, depths and return addresses as the frame's bytes give them, the lane-fault mode, the wait of the program below; registers
are as the handler left them when no entry had data. A frame that leaves every live lane of a live course ineligible has the course trap with (11, 0)
at once (R162). -/
def Obligations.ReturnRestores : Prop := ∀ (s : State) (u : State) (raw : Nat), s.cur.ring = 1 → s.cur.ops = [] →
  readBlock s { s.cur.acc with ring := 2 } s.cur.frameBase 32 = (u, raw) → frameOkay u s.cur raw s.cur.live.toNat [] = true → fieldAt raw 6 1 ≠ 1 →
  let t := returnTrap s
  let enr (k : Nat) : Nat := fieldAt raw (0x140 + 4 * k) 4
  let waitm (k : Nat) : Nat := fieldAt raw (0x170 + 4 * k) 4
  ((∃ i, i < 32 ∧ s.cur.live.getLsbD i = true ∧ (enr 11).testBit i = false ∧ ∀ k, k < 12 → (waitm k).testBit i = false) →
    t.cur.ring = fieldAt raw 3 1 % 4 ∧ t.cur.frameBusy = false ∧ t.cur.wait = s.cur.waitBelow ∧ t.cur.waitBelow = none ∧ t.cur.v = s.cur.v ∧
    t.cur.s = s.cur.s ∧ t.cur.o = s.cur.o ∧ t.cur.l = s.cur.l ∧ t.cur.live = s.cur.live ∧ t.cur.fpm = s.cur.fpm ∧ t.cur.srseed = s.cur.srseed ∧
    t.cur.holdMode = bitAt (fieldAt raw 7 1) 3 ∧
    (∀ i, i < 32 → t.cur.pcOf i = fieldAt raw (0x40 + 8 * i) 8 % 2 ^ 53 ∧
      (Cells.get t.cur.depth i).toNat = bits (fieldAt raw (0x1E0 + i / 2) 1) (4 * (i % 2)) 4 ∧
      ∀ j, j < 8 → (Cells.get t.cur.rstack (8 * i + j)).toNat = fieldAt raw (0x800 + 64 * i + 8 * j) 8 % 2 ^ 53) ∧
    (∀ k, k < 12 → (Cells.get t.cur.enr k).toNat = enr k ∧ (Cells.get t.cur.waitm k).toNat = waitm k) ∧
    (∀ k, k < 7 → (Cells.get t.cur.p k).toNat = fieldAt raw (0x1A0 + 4 * k) 4)) ∧
  ((∀ i, s.cur.live.getLsbD i = true → ∃ k, k < 12 ∧ (waitm k).testBit i = true) → s.cur.live ≠ 0 → s.cur.life = .live → s.cur.pend = [] →
    ∃ v, v.cur.live = s.cur.live ∧ t = raise v 0xB0 s.cur.live v.iss.pc 0 0)

/-- `rgn` opens a region where the course is reconverged and quiet and no region is open: it notes seeds, masks, depths and return stacks, the PC, and
RESTARTS 0 unless it is the re-execution of a restart; otherwise it takes its class-16 cause: (16, 0) without reconvergence, (16, 1) with a region open
and (16, 6) while not quiet, the lowest that applies. `rgend` closes an open region where the course is reconverged, and takes (16, 2) without one and
(16, 7) without reconvergence, with no other effect (R48, R119, R191, R491). -/
def Obligations.Regions : Prop := ∀ (x : Ops) (s : State),
  let c := s.cur
  let trap (k : Nat) : State := raise s k s.iss.mask s.iss.pc 0 0
  let opened (c : Course) : Course :=
    { c with
        shadow := { srseed := c.srseed, enr := c.enr, depth := c.depth, rstack := c.rstack }, rgnPc := s.iss.pc, rgnOpen := true,
        restarts := if c.restarted then c.restarts else 0, restarted := false, markTiles := 0, markActive := false, markShadow := false }
  (Free s 0x14 x none [] [] → c.reconverged = true → c.rgnOpen = false → c.quiet = true → exec (.rgn x) s = .next (passed (s.upd opened) x)) ∧
  (Free s 0x14 x none [] [] → c.reconverged = false → exec (.rgn x) s = .next (trap 0x100)) ∧
  (Free s 0x14 x none [] [] → c.reconverged = true → c.rgnOpen = true → exec (.rgn x) s = .next (trap 0x101)) ∧
  (Free s 0x14 x none [] [] → c.reconverged = true → c.rgnOpen = false → c.quiet = false → exec (.rgn x) s = .next (trap 0x106)) ∧
  (Free s 0x15 x none [] [] → c.reconverged = true → c.rgnOpen = true →
    exec (.rgend x) s = .next (passed (s.upd (fun c => { c with rgnOpen := false })) x)) ∧
  (Free s 0x15 x none [] [] → c.rgnOpen = false → exec (.rgend x) s = .next (trap 0x102)) ∧
  (Free s 0x15 x none [] [] → c.reconverged = false → c.rgnOpen = true → exec (.rgend x) s = .next (trap 0x107))

/-- `ctxsv` stores the control block of R192 and `ctxld` loads one that passes the checks of R194, where every line of the block can be accessed at
once; a block that fails them is refused with (11, 7), and one that is poisoned with (21, 0). Of the causes of issue the lowest traps every live lane:
an address that is not aligned (3, 14), a block beyond the address space (4, 0), no reconvergence or unfinished flags (11, 6), an open region (16, 3)
and ring 0 (19, 3) (R192, R195). While accesses of the course are unfinished it is held. A base that is no scalar pair takes (1, 12). -/
def Obligations.ControlTransfer : Prop := ∀ (x : Ops) (s t u : State),
  let c1 := minSub [scalarBaseSub s x x.a, srcSub s x (.int false true) x.c, uniSub x.c]
  let refs := opdRefs x.a 2 ++ opdRefs x.c 1
  let va := addr64 s x 0
  let cause : Option Nat := minSub [subIf (va % 256 ≠ 0) 0x3E, subIf (Config.vaLimit < va + 2560) 0x40, subIf (!(s.cur.reconverged && s.cur.quiet)) 0xB6,
    subIf s.cur.rgnOpen 0x103, subIf (s.cur.ring = 0) 0x133]
  let busy : Bool := s.cur.ops.any (fun o => o.isAccess)
  let ready : Prop := cause = none ∧ busy = false
  (Free s 0x16 x c1 refs [] → ready → checkBlock s .write va 20 = (t, .ok) →
    storeLines t va (controlBlock t.cur (t.iss.pc + x.len)) 20 = (u, none) → exec (.ctxsv x) s = .next (passed u x)) ∧
  (∀ b, Free s 0x17 x c1 refs [] → ready → checkBlock s .read va 20 = (t, .ok) → loadLines t va 20 = (u, .data b) → controlOk u.cur b = true →
    exec (.ctxld x) s = .next (noEligible (u.upd (fun c => loadControl c b)))) ∧
  (∀ b, Free s 0x17 x c1 refs [] → ready → checkBlock s .read va 20 = (t, .ok) → loadLines t va 20 = (u, .data b) → controlOk u.cur b = false →
    exec (.ctxld x) s = .next (raise u 0xB7 u.iss.mask u.iss.pc 0 0)) ∧
  (Free s 0x17 x c1 refs [] → ready → checkBlock s .read va 20 = (t, .ok) → loadLines t va 20 = (u, .poison) →
    exec (.ctxld x) s = .next (raise u 0x150 u.cur.live u.iss.pc 0 0)) ∧
  (∀ i maj, (i = .ctxsv x ∧ maj = 0x16) ∨ (i = .ctxld x ∧ maj = 0x17) → 
    (Free s maj x c1 refs [] → ∀ k, cause = some k → exec i s = .next (raise s k s.cur.live s.iss.pc (if k < 0x50 then va else 0) 0)) ∧
    (Free s maj x c1 refs [] → cause = none → busy = true → exec i s = stallIssue s) ∧
    (class0 s maj x = none → specSub x x.a = none → groupSub s.cur x.a 2 = none → opdIsS x.a = false → srcSub s x (.int false true) x.c = none →
      uniSub x.c = none → exec i s = .next (raise s 0x1C s.iss.mask s.iss.pc 0 0)))

/-- What `ctxsv` stores, `ctxld` accepts and restores: masks, predicates, modes, depths, return stacks and the resume address come back (R192 to
R194). -/
def Obligations.ControlRoundTrip : Prop := ∀ (c : Course) (resume : Nat), c.rgnOpen = false → c.fpm.toNat % 8 ≤ 4 → c.restarts < 2 ^ 11 →
  c.rgnPc < 2 ^ 53 → resume < 2 ^ 53 → resume % 4 = 0 →
  (∀ i, (Cells.get c.depth i).toNat ≤ 8) → (∀ k, (Cells.get c.rstack k).toNat % 4 = 0) →
  let b := controlBlock c resume
  let d := loadControl c b
  controlOk c b = true ∧ (∀ k, k < 12 → Cells.get d.enr k = Cells.get c.enr k) ∧ (∀ k, k < 7 → Cells.get d.p k = Cells.get c.p k) ∧
  (∀ i, i < 32 → Cells.get d.depth i = Cells.get c.depth i) ∧
  (∀ i j, i < 32 → j < (Cells.get c.depth i).toNat → Cells.get d.rstack (8 * i + j) = Cells.get c.rstack (8 * i + j)) ∧
  (∀ i, i < 32 → c.live.getLsbD i = true → Cells.wf c.pc = true → d.pcOf i = resume) ∧ d.fpm = BitVec.ofNat 32 (Nat.land c.fpm.toNat 0x001F1F3F)

/-- Register writes as events, for the course in the issue unit (R68, R76, R167 to R175, R414, R488): they take effect as `swr` would, and words of the
counter page as a store would; HBEAT_WRITE counts the heartbeat and clears the watchdog's count. A write of TCOMMIT.TABLES that is not held starts the
commit, with the next number of its die, and that number is the course's own (R175, R389). -/
def Obligations.RegisterEvents : Prop :=
  (∀ (s : State) (m : LaneSet) (v : Word) (d : Double) (b : Byte) (die off : Nat),
  let vec : Double := BitVec.ofNat 64 (bits d.toNat 2 51 * 4 + d.toNat % 2)
  let id := s.cur.id
  (v.toNat % 8 ≤ 4 → exec (.fpmWrite id v) s = .next (s.upd (fun c => { c with fpm := BitVec.ofNat 32 (Nat.land v.toNat 0x001F1F3F) }))) ∧
  (exec (.srseedWrite id m v) s = .next (s.upd (fun c => (LaneSet.toList m).foldl (fun c i => c.setSeed i v.toNat) c))) ∧
  (Cells.get s.cur.enr 11 = 0 → exec (.lfmodeWrite id v) s = .next (s.upd (fun c => { c with lfmode := BitVec.ofNat 32 (v.toNat % 2) }))) ∧
  (∀ t, writeTcommit s b.toNat = (t, true) → exec (.tcommitWrite id b) s = .next t) ∧
  (1 ≤ s.cur.ring → exec (.registerWrite id .tvec1 d) s = .next { s with tvec1 := Cells.set s.tvec1 s.cur.tenant vec }) ∧
  (2 ≤ s.cur.ring → exec (.registerWrite id .tvec2 d) s = .next (updDie s s.cur.die (fun y => { y with tvec2 := vec }))) ∧
  (exec (.registerWrite id (.counterPage die off) d) s = .next (dieWrite s s.cur.ring die off (if off = 0xC08 then 8 else 4) d.toNat)) ∧
  (exec (.hbeatWrite die) s = .next (updDie s die (fun y => { y with hbeat := y.hbeat + 1, wdcnt := 0 }))) ∧
  (v.toNat < 4 → ∃ t, exec (.wdctlWrite die v) s = .next t ∧ (getDie t die).wdctl = v)) ∧
  (∀ (s t : State) (v : Nat), v % 256 ≠ 0 → writeTcommit s v = (t, true) →
  ∃ r, t.commit = some r ∧ r.course = s.cur.id ∧ r.die = s.cur.die ∧ r.tables = BitVec.ofNat 8 v ∧ t.cur.mine = r.number ∧ s.commit = none)

/-! ### Memory -/

/-- `ld`, `st` and `atom` enter one operation for the participating lanes that meet no cause, with their addresses and data, after the release that ORD
asks for; a store and a release are performed at once when nothing holds them, and the lanes that meet a cause of their own fault (R241 to R249). A
class-5 cause ends the span, and an `atom` in an open region traps. What one lane's address meets: a cause of its own as ScratchAccesses says, else the
lease window, else translation and protection (R241, R371). -/
def Obligations.GlobalAccesses : Prop :=
  (∀ (x : Ops) (s t : State) (fs : List LaneFault) (as : List (Nat × Nat)),
  let z := widthBytes x.hi4
  let n := sizeRegs z
  let za := if x.hint = 5 then 8 else 4
  let m := partLanes s x
  let checked (z : Nat) (u : Use) : Prop := checkLanes s false z u (laneAddrs s x false m) = (t, .ok (fs, as))
  let ended (z : Nat) (u : Use) (k : Nat) : Prop := checkLanes s false z u (laneAddrs s x false m) = (t, .error k)
  let guarded : Option Nat := subIf (opdIsS x.d && true && x.guard ≠ Guard.always) 10
  let ldFree : Prop := Free s 0x90 x (minSub [addrSub s x false, longDst s.cur x n true false x.d]) (addrRefs x false) []
  let stFree : Prop := Free s 0x91 x (minSub [addrSub s x false, dataSub s x z]) (addrRefs x false ++ opdRefs x.b n) []
  let atFree : Prop := Free s 0x95 x (minSub [addrSub s x false, atomSub s x za, longDst s.cur x (za / 4) true true x.d, guarded])
      (addrRefs x false ++ opdRefs x.b (if x.hi4 = 9 then za / 2 else za / 4)) []
  let pre := relOps t x
  let k := pre.length
  (∀ o, o = laneOp t x (.load (destOf x.d) x.hi4 x.hint (acqOf x)) as [] → ldFree → checked z .read → Room t n pre o →
    exec (.ld x) s = .next (enteredF t x n pre o fs (tried k))) ∧
  (∀ o, o = laneOp t x (.store x.hi4 (x.ord = 2 && decide (3 ≤ x.scope))) as (as.map (fun p => (p.1, dataOf s x z p.1))) →
    stFree → checked z .write → Room t 1 pre o → exec (.st x) s = .next (enteredF t x 1 pre o fs (tried (k + 1)))) ∧
  (∀ o, o = laneOp t x (.atomic (destOf x.d) x.hi4 za (acqOf x)) as (as.map (fun p => (p.1, atomOpd s x za p.1))) →
    atFree → s.cur.rgnOpen = false ∨ m = 0 → checked za .write → Room t (za / 4) pre o →
    exec (.atom x) s = .next (enteredF t x (za / 4) pre o fs (tried k))) ∧
  (atFree → s.cur.rgnOpen = true → m ≠ 0 → exec (.atom x) s = .next (raise s 0x103 s.iss.mask s.iss.pc 0 0)) ∧
  (∀ e, (ldFree → ended z .read e → exec (.ld x) s = .next (raise t e t.iss.mask t.iss.pc 0 0)) ∧
    (stFree → ended z .write e → exec (.st x) s = .next (raise t e t.iss.mask t.iss.pc 0 0)) ∧
    (atFree → s.cur.rgnOpen = false → ended za .write e → exec (.atom x) s = .next (raise t e t.iss.mask t.iss.pc 0 0))) ∧
  (∀ o after, enteredF t x n pre o [] after = entered t x n pre o after)) ∧
  (∀ (s t : State) (z i a : Nat) (u : Use) (r : HRes),
  let at1 := checkLanes s false z u [(i, a)]
  (∀ k, laneCause (scratchSize s) false z a = some k → at1 = (s, .ok ([{ lane := i, cause := k, addr := a }], []))) ∧
  (laneCause (scratchSize s) false z a = none →
    (∀ k, leaseCause s s.cur a u = some k → at1 = (s, .error k)) ∧
    (leaseCause s s.cur a u = none → probe s s.cur.acc s.cur.site a u = (t, r) →
      (∀ k, r = .cause k → at1 = (t, .ok ([{ lane := i, cause := 0x70 + k, addr := a }], []))) ∧
      ((∀ k, r ≠ .cause k) → at1 = (t, .ok ([], [(i, a)]))))))

/-- `lds`, `sts` and `atoms` enter one operation for the participating lanes whose offsets are aligned and inside the bond's scratchpad, and the others
fault; a store is performed at once when nothing holds it (R211, R241 to R249). The causes of one lane's address: misaligned, outside the scratchpad,
beyond the address space, each alone, and the lower class when several apply (R102, R241). -/
def Obligations.ScratchAccesses : Prop :=
  (∀ (x : Ops) (s : State),
  let z := widthBytes x.hi4
  let n := sizeRegs z
  let za := if x.hint = 5 then 8 else 4
  let all := laneAddrs s x true (partLanes s x)
  let bad (z : Nat) : List LaneFault :=
    all.filterMap (fun p => if p.2 % z ≠ 0 then some { lane := p.1, cause := 0x31, addr := p.2 }
      else if scratchSize s < p.2 + z then some { lane := p.1, cause := 0x41, addr := p.2 } else none)
  let as (z : Nat) : List (Nat × Nat) := all.filter (fun p => p.2 % z = 0 && p.2 + z ≤ scratchSize s)
  let guarded : Option Nat := subIf (opdIsS x.d && false && x.guard ≠ Guard.always) 10
  let atFree : Prop := Free s 0x96 x (minSub [addrSub s x true, atomSub s x za, longDst s.cur x (za / 4) true false x.d, guarded])
      (addrRefs x true ++ opdRefs x.b (if x.hi4 = 9 then za / 2 else za / 4)) []
  (∀ o, o = laneOp s x (.loadS (destOf x.d) x.hi4) (as z) [] →
    Free s 0x92 x (minSub [addrSub s x true, longDst s.cur x n true false x.d]) (addrRefs x true) [] → Room s n [] o →
    exec (.lds x) s = .next (enteredF s x n [] o (bad z) (tried 0))) ∧
  (∀ o, o = laneOp s x (.storeS x.hi4) (as z) ((as z).map (fun p => (p.1, dataOf s x z p.1))) →
    Free s 0x93 x (minSub [addrSub s x true, dataSub s x z]) (addrRefs x true ++ opdRefs x.b n) [] → Room s 1 [] o →
    exec (.sts x) s = .next (enteredF s x 1 [] o (bad z) (tried 1))) ∧
  (∀ o, o = laneOp s x (.atomicS (destOf x.d) x.hi4 za) (as za) ((as za).map (fun p => (p.1, atomOpd s x za p.1))) →
    atFree → s.cur.rgnOpen = false ∨ partLanes s x = 0 → Room s (za / 4) [] o →
    exec (.atoms x) s = .next (enteredF s x (za / 4) [] o (bad za) (tried 0))) ∧
  (atFree → s.cur.rgnOpen = true → partLanes s x ≠ 0 → exec (.atoms x) s = .next (raise s 0x103 s.iss.mask s.iss.pc 0 0))) ∧
  (∀ (size z a : Nat),
  (a % z ≠ 0 → laneCause size true z a = some 0x31 ∧ laneCause size false z a = some 0x30) ∧
  (a % z = 0 → size < a + z → laneCause size true z a = some 0x41) ∧ (a % z = 0 → a + z ≤ size → laneCause size true z a = none) ∧
  (a % z = 0 → Config.vaLimit ≤ a → laneCause size false z a = some 0x40) ∧ (a % z = 0 → a < Config.vaLimit → laneCause size false z a = none))

/-- `ldc` with one checked address, `put` with a checked descriptor, `pref` in the lanes that find an entry of the access queue, and the ordering
instructions enter and begin their operation (R243, R252, R253, R256 to R260, R333). The causes of `ldc` trap its whole subset with the address as
INFO, and without participating lanes it only passes; `put` takes the lowest cause of its descriptor (R253); `afence` of no bytes does nothing, and one
beyond the address space or a `pflush` of no device traps. -/
def Obligations.OtherAccesses : Prop := ∀ (x : Ops) (s t : State),
  let z := widthBytes x.hi4
  let n := sizeRegs z
  let va := addr64 s x 0
  let d (k : Nat) : Nat := s.cur.regAt x.a 0 k
  let coff := readU s x x.c 0
  let guarded : Option Nat := subIf (opdIsS x.d && x.guard ≠ Guard.always) 10
  let trap (k : Nat) : State := raise s k s.iss.mask s.iss.pc 0 0
  let ordered (k : OpKind) : State := entered s x 1 [] (newOp s x k s.iss.mask) performOp
  let ldcFree : Prop := Free s 0x94 x (minSub [addrSub s x false, uniSub x.a, uniSub x.c, longDst s.cur x n true true x.d, guarded]) (addrRefs x false) []
  let putFree : Prop := Free s 0x97 x (minSub [quadSub s x x.a, srcSub s x (.int false false) x.b, uniSub x.b, srcSub s x (.int false false) x.c, uniSub x.c])
      (opdRefs x.a 4 ++ opdRefs x.b 1 ++ opdRefs x.c 1) []
  let putBad : Option Nat := minSub [subIf ((bondShape s s.cur).2 ≤ d 0 % 8) 0x92, subIf (d 0 / 8 ≠ 0) 0x93,
    subIf (d 1 % 16 ≠ 0 || d 2 % 16 ≠ 0 || d 3 % 16 ≠ 0) 0x32, subIf (coff % 4 ≠ 0) 0x33, subIf (scratchSize s < d 1 + d 3) 0x42,
    subIf (scratchSize s < d 2 + d 3) 0x43, subIf (scratchSize s < coff + 4) 0x44, subIf s.cur.rgnOpen 0x103]
  let fenceFree : Prop := Free s 0x9A x (minSub [addrSub s x false, uniSub x.a, uniSub x.c, srcSub s x (.int false false) x.b, uniSub x.b])
    (addrRefs x false ++ opdRefs x.b 1) []
  let flushFree : Prop := Free s 0x9C x (minSub [srcSub s x (.int false false) x.a, uniSub x.a]) (opdRefs x.a 1) []
  (∀ (o : Op) (r : HRes), o = { newOp t x (.loadC (destOf x.d) x.hi4 x.hint (acqOf x)) (partLanes s x) with lanes := 1, addrs := [(0, va)] } →
    ldcFree → partLanes s x ≠ 0 → va % z = 0 → va < Config.vaLimit → leaseCause s s.cur va .read = none → probe s s.cur.acc s.cur.site va .read = (t, r) →
    ((∀ k, r ≠ .cause k) → Room t n [] o → exec (.ldc x) s = .next (entered t x n [] o later)) ∧
    (∀ k, r = .cause k → exec (.ldc x) s = .next (raise t (0x70 + k) t.iss.mask t.iss.pc va 0))) ∧
  (ldcFree → partLanes s x = 0 → exec (.ldc x) s = .next (passed s x)) ∧
  (ldcFree → partLanes s x ≠ 0 → va % z ≠ 0 → exec (.ldc x) s = .next (raise s 0x30 s.iss.mask s.iss.pc va 0)) ∧
  (ldcFree → partLanes s x ≠ 0 → va % z = 0 → Config.vaLimit ≤ va → exec (.ldc x) s = .next (raise s 0x40 s.iss.mask s.iss.pc va 0)) ∧
  (∀ k, ldcFree → partLanes s x ≠ 0 → va % z = 0 → va < Config.vaLimit → leaseCause s s.cur va .read = some k → exec (.ldc x) s = .next (trap k)) ∧
  (∀ o, o = newOp s x (.put (d 0 % 8) (d 1) (d 2) (d 3) coff (BitVec.ofNat 32 (readU s x x.b 0))) s.iss.mask →
    putFree → putBad = none → Room s 1 [] o → exec (.put x) s = .next (entered s x 1 [] o performOp)) ∧
  (∀ k, putFree → putBad = some k → exec (.put x) s = .next (trap k)) ∧
  (Free s 0x98 x none [] [] → Room s 1 [] (newOp s x (.order (if 2 ≤ x.ord then some x.scope else none) (acqOf x)) s.iss.mask) →
    exec (.phase x) s = .next (ordered (.order (if 2 ≤ x.ord then some x.scope else none) (acqOf x)))) ∧
  (Free s 0x99 x none [] [] → Room s 1 [] (newOp s x (.order none none) s.iss.mask) → exec (.fence x) s = .next (ordered (.order none none))) ∧
  (fenceFree → readU s x x.b 0 ≠ 0 → va + readU s x x.b 0 ≤ Config.vaLimit → Room s 1 [] (newOp s x (.afence va (readU s x x.b 0)) s.iss.mask) →
    exec (.afence x) s = .next (ordered (.afence va (readU s x x.b 0)))) ∧
  (fenceFree → readU s x x.b 0 = 0 → exec (.afence x) s = .next (passed s x)) ∧
  (fenceFree → readU s x x.b 0 ≠ 0 → Config.vaLimit < va + readU s x x.b 0 → exec (.afence x) s = .next (trap 0x45)) ∧
  (flushFree → readU s x x.a 0 < s.nDev → Room s 1 [] (newOp s x (.pflush (readU s x x.a 0)) s.iss.mask) →
    exec (.pflush x) s = .next (ordered (.pflush (readU s x x.a 0)))) ∧
  (flushFree → s.nDev ≤ readU s x x.a 0 → exec (.pflush x) s = .next (trap 0x162)) ∧
  (Free s 0x9B x (addrSub s x false) (addrRefs x false) [] → let as := laneAddrs s x false (partLanes s x)
    exec (.pref x) s = .next (passed ((prefLanes s as).foldl (fun s p => prefLane s x p.2) s) x) ∧ (∀ p ∈ prefLanes s as, p ∈ as) ∧
      (quoinEntries s s.cur.qid false Op.entryBound + as.length ≤ 1536 → prefLanes s as = as))

/-- The events in which an operation of the course in the issue unit goes on (R246, R249, R254, R371, R425, R481): the operation with the number named, of
the kinds that the event is for, is performed as far as it can go; a `put` that was accepted lands. A pin that has refused a request is ended by the
home, with event code 1 to the partition whose course pinned it; one that has not stays (R229). -/
def Obligations.AccessEvents : Prop :=
  (∀ (s : State) (o : Op), s.cur.ops.find? (fun y => y.seq == o.seq) = some o → o.entry ≠ 1 → o.entry ≠ 3 → o.etype ≠ 4 →
  (o.isLoad = true → o.isAtomic = false → o.entry ≠ 2 → exec (.loadDataReturn s.cur.id o.seq) s = .next (performOp s o.seq)) ∧
  (o.entry = 2 → exec (.replayDataArrival s.cur.id o.seq) s = .next (performOp s o.seq)) ∧
  (o.isAccess = true → o.isLoad = false → o.isAtomic = false → exec (.storeOrderingPoint s.cur.id o.seq) s = .next (performOp s o.seq)) ∧
  (o.isAtomic = true → exec (.atomicPerformedAtHome s.cur.id o.seq) s = .next (performOp s o.seq)) ∧
  (o.isAccess = true → exec (.park s.cur.id o.seq) s = .next (performOp s o.seq)) ∧
  (exec (.pageWalkComplete s.cur.id o.seq) s = .next (o.addrs.foldl (fun s p => fillTlb s s.cur.acc p.2) s)) ∧
  (∀ b doff soff len coff inc, o.kind = .put b doff soff len coff inc → o.stage = 1 → opReady s s.cur o = true →
    exec (.putLanding s.cur.id o.seq) s = .next (landPut s o b doff soff len coff inc))) ∧
  (∀ (s : State) (asid la : Nat) (l : Line), l2Find s asid la = some l →
  (l.pin.isSome = true → l.refusedOnce = true → exec (.pinForcedWriteback asid la) s =
    .next (postEvent (endPin s asid la) (.event l.pinT) { code := 1, addr := la, asid := asid, detail := l.pin.getD 0 })) ∧
  (l.refusedOnce = false → exec (.pinForcedWriteback asid la) s = .next s))

/-- A load from scratchpad whose data returns writes its destination in its lane and leaves the course's list (R211, R243, R246). -/
def Obligations.ScratchLoadReturns : Prop := ∀ (s : State) (o : Op) (b : Bond) (r i off : Nat), s.cur.ops = [o] → o.kind = .loadS (.vec r) 4 →
  o.entry = 4 → o.etype = 0 → o.stage = 0 → o.peerWait = false → o.parked = none → o.lanes = LaneSet.only i → o.all = LaneSet.only i → o.got = [] → o.addrs = [(i, off)] →
  i < 32 → o.ring = s.cur.ring → s.cur.life = .live → s.cur.stopRing = none → s.cur.pend = [] → s.cur.live.getLsbD i = true → Cells.wf s.cur.v = true →
  curBond s = some b → opReady s s.cur o = true → readRows s s.cur.bond off 4 = s → scratchPoisoned b off 4 = false →
  ∃ t, exec (.loadDataReturn s.cur.id o.seq) s = .next t ∧ t.cur.ops = [] ∧ (Cells.get t.cur.v (32 * r + i)).toNat = scratchRead b off 4 ∧
    (∀ k, k ≠ 32 * r + i → Cells.get t.cur.v k = Cells.get s.cur.v k) ∧ t.mem = s.mem ∧ t.bonds = s.bonds

/-- A number written to memory reads back, and a write changes no byte outside its own: for memory and for scratchpad alike (R2, R211). What an atomic
leaves in its location (R247): the wrapping sum, the bitwise results, the least and greatest as the type says, the exchange, and the new value of a
`.cas` that finds its comparand; a `.cas` that does not find it writes nothing (R249). -/
def Obligations.MemoryValues : Prop :=
  (∀ (m : Cells 8) (a n v b k : Nat), Cells.wf m = true →
  Cells.wf (writeNum m a n v) = true ∧ readNum (writeNum m a n v) a n = v % 2 ^ (8 * n) ∧
  (b + k ≤ a ∨ a + n ≤ b → readNum (writeNum m a n v) b k = readNum m b k)) ∧
  (∀ (z old b cmp new : Nat), (z = 4 ∨ z = 8) → old < 2 ^ (8 * z) → cmp < 2 ^ (8 * z) → new < 2 ^ (8 * z) →
  let w := 8 * z
  atomNew 0 z old b = (old + b) % 2 ^ w ∧ atomNew 1 z old b = old &&& b ∧ atomNew 2 z old b = old ||| b ∧ atomNew 3 z old b = old ^^^ b ∧
  (b < 2 ^ w → toInt w (atomNew 4 z old b) = min (toInt w old) (toInt w b) ∧ toInt w (atomNew 5 z old b) = max (toInt w old) (toInt w b)) ∧
  atomNew 6 z old b = min old b ∧ atomNew 7 z old b = max old b ∧ atomNew 8 z old b = b ∧
  atomNew 9 z old (cmp + new * 2 ^ w) = (if old = cmp then new else old) ∧ (atomWrites 9 z old (cmp + new * 2 ^ w) = true ↔ old = cmp))

/-! ### Barriers, counter words and flags -/

/-- The barrier instructions without a cause (R397 to R401): `arrive` gives its token and `barr` begins its wait, each with its release before it and
its arrival noted; `waitb` waits in the phase of its token, acquires when that phase has passed, and refuses a token of another barrier (10, 2) or one of
a later phase (10, 3). An arrival that differs from the phase's descriptor takes (10, 0), a second one (10, 1), an N of 0 or above the bond's courses
(10, 4), and one in an open region (16, 3), the lowest that applies (R400). -/
def Obligations.BarrierResults : Prop := ∀ (x : Ops) (s : State) (b : Bond), curBond s = some b →
  let k := barK x
  let rel := if barScope x = 0 then [] else [{ newOp s x (.order (some (barScope x)) none) s.iss.mask with flags := 0 }]
  let o : Op := { newOp s x (.order none none) 0 with flags := 0 }
  let noted (d : BarDesc) (v : Word) (f : Course → Course) (u : State) (n : Nat) : State :=
    let u := u.upd f
    let a : Arrival := { course := s.cur.id, cid := s.cur.cid, k := k, desc := d, val := v, scope := barScope x, seq := n + rel.length }
    let u := match curBond u with | some b => putBond u { b with arrivals := b.arrivals ++ [a] } | none => u
    arrivalPoint (tried rel.length u n) s.cur.bond s.cur.id
  let nRefs := if x.bit 4 then [] else opdRefs x.b 1
  let tok := readU s x x.a 0
  let phase := (getBar b k).phase
  let trap (k : Nat) : State := raise s k s.iss.mask s.iss.pc 0 0
  let differs (d : BarDesc) : Bool := match (getBar b k).desc with | some y => y ≠ d | none => false
  let cause (d : BarDesc) : Option Nat := minSub [subIf (differs d) 0xA0, subIf ((getBar b k).arrived.getLsbD s.cur.cid) 0xA1,
    subIf (d.n = 0 || (bondShape s s.cur).1 < d.n) 0xA4, subIf s.cur.rgnOpen 0x103]
  let arrFree : Prop := Free s 0xB0 x (minSub [nSub s x, dstSub s.cur x 1 x.d, subIf (opdPushes x.d) 12]) nRefs (opdRefs x.d 1)
  let barFree : Prop := Free s 0xB2 x (minSub [nSub s x, srcSub s x (.int false false) x.a, uniSub x.a, dstSub s.cur x 1 x.d]) (opdRefs x.a 1 ++ nRefs) []
  let waitFree : Prop := Free s 0xB1 x (minSub [srcSub s x (.int false false) x.a, subIf (!opdIsS x.a) 12]) (opdRefs x.a 1) []
  (∀ d : BarDesc, d = { n := barN s x, all := x.bit 4, barr := false, op := 0 } → arrFree →
    (cause d = none → Room s 1 rel o →
      exec (.arrive x) s = .next (entered s x 1 rel o (noted d 0 (fun c => c.writeLanes x.d 1 false [(0, phase * 256 + 0xA0 + k)])))) ∧
    (∀ e, cause d = some e → exec (.arrive x) s = .next (trap e))) ∧
  (∀ d : BarDesc, d = { n := barN s x, all := x.bit 4, barr := true, op := x.low4 } → barFree →
    (cause d = none → Room s 1 rel o → exec (.barr x) s = .next (entered s x 1 rel o (noted d (BitVec.ofNat 32 (readU s x x.a 0))
      (fun c => { c with wait := some (.barr k (barScope x) x.d (partLanes s x)) })))) ∧
    (∀ e, cause d = some e → exec (.barr x) s = .next (trap e))) ∧
  (waitFree → tok % 256 = 0xA0 + k → tok / 256 = phase → phase < 2 ^ 24 →
    exec (.waitb x) s = .next (passed (s.upd (fun c => { c with wait := some (.waitb k phase (barScope x)) })) x)) ∧
  (∀ q, q = { newOp s x (.order none (some (barScope x))) s.iss.mask with flags := 0 } → waitFree → tok % 256 = 0xA0 + k →
    0 < (phase + 2 ^ 24 - tok / 256) % 2 ^ 24 → (phase + 2 ^ 24 - tok / 256) % 2 ^ 24 < 2 ^ 23 → Room s 1 [] q →
    exec (.waitb x) s = .next (entered s x 1 [] q performOp)) ∧
  (waitFree → tok % 256 ≠ 0xA0 + k → exec (.waitb x) s = .next (trap 0xA2)) ∧
  (waitFree → tok % 256 = 0xA0 + k → 2 ^ 23 ≤ (phase + 2 ^ 24 - tok / 256) % 2 ^ 24 → exec (.waitb x) s = .next (trap 0xA3))

/-- A phase of a barrier completes exactly when its arrivals and its exit credit reach N: the phase number counts modulo 2^24 and the barrier is
without descriptor and arrivals; until then nothing changes (R396, R399, R402). -/
def Obligations.PhaseCompletes : Prop := ∀ (s : State) (bond k : Nat) (b : Bond) (d : BarDesc), findBond s bond = some b → (getBar b k).desc = some d →
  ((getBar b k).cnt + exitCredit b (getBar b k) = d.n → ∃ y, findBond (tryComplete s bond k) bond = some y ∧
    getBar y k = { phase := ((getBar b k).phase + 1) % 2 ^ 24, cnt := 0, desc := none, arrived := 0, vals := [] } ∧
    ∀ j, j ≠ k → getBar y j = getBar b j) ∧
  ((getBar b k).cnt + exitCredit b (getBar b k) ≠ d.n → tryComplete s bond k = s)

/-- `waitc` on a word that meets no cause begins its wait and reads the word, and the causes of `ld` or `lds` trap its whole subset; `waitf` on clear
flags clears the records that name them, and on others it is held (R395, R403). The events of waits, for the course in the issue unit (R220, R305, R399,
R403): a counter word in scratchpad that meets its target ends the wait, and the course acquires once its earlier loads have returned, one that does
not leaves it, and a poisoned one traps the course with (21, 0), its subset back at the instruction (R436); a word of memory is read again; an arrival at its arrival point is counted. A counter meets its target when it has reached or passed it
on the circle of 32 bits (R305). -/
def Obligations.WaitsOnCountersAndFlags : Prop :=
  (∀ (x : Ops) (s t : State),
  let sp := x.bit 11
  let scope := x.field 8 3
  let a := if sp then addr32 s x 0 else addr64 s x 0
  let waitFree : Prop := Free s 0xB3 x (minSub [addrSub s x sp, uniSub x.a, uniSub x.c, srcSub s x (.int false false) x.b, uniSub x.b])
    (addrRefs x sp ++ opdRefs x.b 1) []
  let waiting (s : State) (a : Nat) : State :=
    noEligible (rereadWait ((s.upd (fun c =>
      { c with wait := some (.waitc sp a (BitVec.ofNat 32 (readU s x x.b 0)) scope s.iss.pc s.iss.mask) })).pass x))
  (waitFree → sp = true → a % 4 = 0 → a + 4 ≤ scratchSize s → exec (.waitc x) s = .next (waiting s a)) ∧
  (waitFree → sp = false → a % 4 = 0 → a < Config.vaLimit →
    (∀ k, leaseCause s s.cur a .read = some k → exec (.waitc x) s = .next (raise s k s.iss.mask s.iss.pc 0 0)) ∧
    ∀ r, leaseCause s s.cur a .read = none → probe s s.cur.acc s.cur.site a .read = (t, r) →
      ((∀ k, r ≠ .cause k) → exec (.waitc x) s = .next (waiting t a)) ∧
      (∀ k, r = .cause k → exec (.waitc x) s = .next (raise t (0x70 + k) t.iss.mask t.iss.pc a 0))) ∧
  (∀ k, waitFree → laneCause (scratchSize s) sp 4 a = some k → exec (.waitc x) s = .next (raise s k s.iss.mask s.iss.pc a 0)) ∧
  (Free s 0xB4 x none [] [] → flagsClear s.cur x.minor = true →
    exec (.waitf x) s = .next (passed (s.upd (fun c => c.clearRecords (partLanes s x) x.minor)) x)) ∧
  (Free s 0xB4 x none [] [] → flagsClear s.cur x.minor = false → exec (.waitf x) s = holdIssue s)) ∧
  (∀ (s : State) (b : Bond) (off scope pc : Nat) (m : LaneSet) (tgt : Word), curBond s = some b → s.cur.waitBelow = none →
  (s.cur.wait = some (.waitc true off tgt scope pc m) → readRows s s.cur.bond off 4 = s → scratchPoisoned b off 4 = false → counterMet (scratchRead b off 4) tgt = true →
    exec (.waitcReread s.cur.id) s = .next (s.upd (fun c => ({ c with wait := none }).acquires scope))) ∧
  (s.cur.wait = some (.waitc true off tgt scope pc m) → readRows s s.cur.bond off 4 = s → scratchPoisoned b off 4 = false → counterMet (scratchRead b off 4) tgt = false →
    exec (.waitcReread s.cur.id) s = .next s) ∧
  (s.cur.wait = some (.waitc true off tgt scope pc m) → readRows s s.cur.bond off 4 = s → scratchPoisoned b off 4 = true → s.cur.stopRing = none →
    exec (.waitcReread s.cur.id) s = .next (raise (s.upd (fun c =>
      { c with wait := none }.backTo (watchOp s.cur s.cur.ring off pc m) m)) 0x150 s.cur.live pc 0 0)) ∧
  (s.cur.wait = some (.waitc false off tgt scope pc m) → exec (.peerWaitcPoll s.cur.id) s = .next (rereadGlobal s s.cur.ring off pc m)) ∧
  (∀ a, b.arrivals.find? (fun a => a.course == s.cur.id && arrivalReady s a) = some a →
    exec (.arrivalPoint s.cur.id) s = .next (countArrival s s.cur.bond a))) ∧
  (∀ (v k : Nat) (tgt : Word), k < 2 ^ 31 →
  counterMet ((tgt.toNat + k) % 2 ^ 32) tgt = true ∧ counterMet ((tgt.toNat + 2 ^ 31 + k) % 2 ^ 32) tgt = false ∧
  counterMet v tgt = counterMet (v % 2 ^ 32) tgt)

/-- `fcnt` without a cause writes the count of its flag as read at issue, and `bstat` its barrier's completed phases in bits [31:8], whether its phase is
open in bit 7 and its arrivals in bits [6:0]; neither pushes the last-result file or changes anything else but the PCs (R99, R404). -/
def Obligations.FlagAndBarrierReads : Prop := ∀ (x : Ops) (s : State),
  let wrote1 (v : Nat) : State := passed (s.upd (fun c => c.writeLanes x.d 1 false ((lanes s x).map (fun i => (i, v))))) x
  (Free s 0xB5 x (dstSub s.cur x 1 x.d) [] (opdRefs x.d 1) → exec (.fcnt x) s = .next (wrote1 (Cells.get s.cur.flags x.low4).toNat)) ∧
  (∀ b, curBond s = some b → Free s 0xB6 x (dstSub s.cur x 1 x.d) [] (opdRefs x.d 1) → exec (.bstat x) s =
    .next (wrote1 ((getBar b x.low4).phase * 256 + (if (getBar b x.low4).desc.isSome then 128 else 0) + (getBar b x.low4).cnt % 128)))

/-! ### Matrix -/

/-- Each array command enters its bond's queue with the marks that R279 gives it: `mxld` marks the shadow plane, `mxsw` exchanges the marks, `mxm` that
overwrites and `mxz` mark their tiles, and the others mark nothing (R278 to R296). Its causes after those of class 2 trap its whole subset, the lowest
first (R102): offsets (3, 4) and ranges (4, 6) where what the range needs is known, records and pairs (12, 0) and (12, 1), scales (12, 2), rows (12, 3),
selections (12, 5), MXFP outputs (12, 6), ranges of `qnt` that meet (12, 7), marks that a region lacks (16, 4) and (16, 5), and a harvest course outside
a region (16, 8). It is held while sixteen commands are queued, and `mxm` while an `mxrs` that would set the active record has not started. -/
def Obligations.ArrayCommands : Prop := ∀ (x : Ops) (s : State) (b : Bond), curBond s = some b →
  let at1 : Nat := addr32 s x 0
  let m := readU s x x.b 0
  let fa := x.hi4
  let t : BitVec 4 := BitVec.ofNat 4 (2 ^ x.field 2 2)
  let addr := matAddr s x
  let refs := matRefs x
  let trap (k : Nat) : State := raise s k s.iss.mask s.iss.pc 0 0
  let ruled (i : Instr) (cause : Option Nat) (good : State) : Prop :=
    let all := minSub [subIf (s.cur.harvest && !s.cur.rgnOpen) 0x108, cause]
    (all = none → CmdRoom s x b → exec i s = .next good) ∧ (∀ k, all = some k → exec i s = .next (trap k)) ∧
    (all = none → 16 ≤ b.queue.length → exec i s = stallIssue s)
  let plain (maj : Nat) (base arg : Nat) : ArrCmd := { newCmd s x maj with base := base, arg := arg }
  let free1 (maj : Nat) : Prop := Free s maj x addr refs []
  let free2 (maj : Nat) : Prop := Free s maj x (minSub [addr, uniOpd s x x.b]) (refs ++ opdRefs x.b 1) []
  let mark (v : BitVec 4) (c : Course) : Course := { c with markTiles := c.markTiles ||| v }
  let rows : Bool := 1 ≤ m && m ≤ 64
  let off := subIf (at1 % 16 ≠ 0) 0x34
  let past (q : ArrCmd) : Option Nat := subIf ((cmdRanges b q).any (fun r => decide (b.size < r.1 + r.2.1))) 0x46
  (∀ q, q = { newCmd s x 0xC0 with base := at1, rcd := { valid := true, fb := x.hi4, fa := x.mid4, sb := x.bit 3 } } → free1 0xC0 →
    ruled (.mxld x) (minSub [off, if pairOk x.mid4 x.hi4 then past q else none, subIf (!pairOk x.mid4 x.hi4) 0xC1,
        subIf (x.bit 3 && !takesScale x.hi4) 0xC2])
      (queued s x q (fun c => { c with markShadow := true }))) ∧
  (Free s 0xC1 x none [] [] →
    ruled (.mxsw x) none (queued s x (newCmd s x 0xC1) (fun c => { c with markActive := c.markShadow, markShadow := c.markActive }))) ∧
  (free2 0xC2 →
    (∀ r q, (recordsAfter b.queue (some b.active.rcd) (some b.shadow.rcd)).1 = some r → q = { newCmd s x 0xC2 with base := at1, arg := m, rcd := r } →
      ruled (.mxm x) (minSub [off, if r.valid && r.fa == fa then past q else none, subIf (!(r.valid && r.fa == fa)) 0xC0,
          subIf (x.bit 7 && !takesScale fa) 0xC2, subIf (!rows) 0xC3,
          subIf (x.field 4 2 ≠ 0 && (!(pairClass fa = 4 || pairClass fa = 5) || x.bit 7 || r.sb)) 0xC5,
          subIf (s.cur.rgnOpen && !x.bit 6 && (s.cur.markTiles &&& t) = 0) 0x104, subIf (s.cur.rgnOpen && !s.cur.markActive) 0x105])
        (queued s x q (fun c => if x.bit 6 then mark t c else c))) ∧
    ((recordsAfter b.queue (some b.active.rcd) (some b.shadow.rcd)).1 = none →
      exec (.mxm x) s = if s.cur.harvest && !s.cur.rgnOpen then .next (trap 0x108) else stallIssue s)) ∧
  (Free s 0xC3 x none [] [] → ruled (.mxz x) none (queued s x (newCmd s x 0xC3) (mark (if x.bit 4 then 0xF else t)))) ∧
  (free2 0xC6 → ruled (.had x) (minSub [off, past (plain 0xC6 at1 m)]) (queued s x (plain 0xC6 at1 m) id)) ∧
  (∀ q, q = { newCmd s x 0xC7 with base := readU s x x.a 0, dest := readU s x x.b 0, arg := readU s x x.c 0 } →
    Free s 0xC7 x (minSub [uniOpd s x x.a, uniOpd s x x.b, uniOpd s x x.c]) (opdRefs x.a 1 ++ opdRefs x.b 1 ++ opdRefs x.c 1) [] →
    ruled (.qnt x) (minSub [subIf (q.base % 16 ≠ 0 || q.dest % 16 ≠ 0) 0x34, past q,
        subIf (match cmdRanges b q with | [r, w] => meets r.1 r.2.1 w.1 w.2.1 | _ => false) 0xC7])
      (queued s x q id)) ∧
  (free2 0xC8 → ruled (.mxst x) (minSub [off, past (plain 0xC8 at1 m), subIf (!rows) 0xC3, subIf (x.bit 7 && (x.hi4 = 3 || x.hi4 = 4)) 0xC6])
    (queued s x (plain 0xC8 at1 m) id)) ∧
  (∀ q, q = { newCmd s x 0xC9 with base := at1 } → free1 0xC9 → ruled (.mxsv x) (minSub [off, past q]) (queued s x q id)) ∧
  (∀ q, q = { newCmd s x 0xCA with base := at1 } → free1 0xCA → ruled (.mxrs x) (minSub [off, past q]) (queued s x q id))

/-- `mxrd` writes each participating lane the tile's word of its row and column, and `mxwr` writes it and marks the tile, where no queued command touches
the tile and no word read is poisoned (R285, R292); what one writes the other reads. With a participating lane, a row above 63 or the second half of a
bond of one quoin takes (12, 4), and a harvest course outside a region (16, 8); a queued command that touches the tile holds either, and a poisoned word
takes (21, 0). -/
def Obligations.TileAccess : Prop := ∀ (x : Ops) (s : State) (b : Bond), curBond s = some b →
  let t := x.field 2 2
  let row := readU s x x.b 0
  let key (i : Nat) : Nat := tileKey t row ((if x.bit 4 then 32 else 0) + i)
  let trap (k : Nat) : State := raise s k s.iss.mask s.iss.pc 0 0
  let cause : Option Nat := if partLanes s x = 0 then none
    else minSub [subIf (63 < row || (x.bit 4 && b.dn = 1)) 0xC4, subIf (s.cur.harvest && !s.cur.rgnOpen) 0x108]
  let turned (i : Instr) : Prop := (∀ k, cause = some k → exec i s = .next (trap k)) ∧ (cause = none → tileBusy b t = true → exec i s = stallIssue s)
  (Free s 0xC4 x (minSub [uniOpd s x x.b, dstSub s.cur x 1 x.d, subIf (opdIsS x.d) 14]) (opdRefs x.b 1) (opdRefs x.d 1) →
    turned (.mxrd x) ∧
    (cause = none → tileBusy b t = false →
      ((∀ i ∈ lanes s x, Cells.get b.tpoison (key i) = 0) →
        exec (.mxrd x) s = .next (passed (s.upd (fun c => c.writeLanes x.d 1 false ((lanes s x).map (fun i => (i, (Cells.get b.tiles (key i)).toNat))))) x)) ∧
      ((∃ i ∈ lanes s x, Cells.get b.tpoison (key i) ≠ 0) → exec (.mxrd x) s = .next (raise s 0x150 s.cur.live s.iss.pc 0 0)))) ∧
  (Free s 0xC5 x (minSub [uniOpd s x x.b, srcSub s x (.int false false) x.a]) (opdRefs x.b 1 ++ opdRefs x.a 1) [] →
    turned (.mxwr x) ∧
    ∀ ws, ws = (lanes s x).map (fun i => (key i, BitVec.ofNat 32 (readU s x x.a i))) → cause = none → tileBusy b t = false →
    exec (.mxwr x) s = .next (passed ((putBond s { b with tiles := Cells.setAll b.tiles ws, tpoison := Cells.setAll b.tpoison (ws.map (fun p => (p.1, 0))) }).upd
      (fun c => { c with markTiles := if partLanes s x = 0 then c.markTiles else c.markTiles ||| BitVec.ofNat 4 (2 ^ t) })) x)) ∧
  (Cells.wf b.tiles = true → ∀ i ∈ lanes s x,
    Cells.get (Cells.setAll b.tiles ((lanes s x).map (fun i => (key i, BitVec.ofNat 32 (readU s x x.a i))))) (key i) = BitVec.ofNat 32 (readU s x x.a i))

/-- A queued array command that can start starts, and one that has started completes: it leaves the queue (R281, R283). `mxz` zeroes its tile, or all
four, and no other; `mxsw` exchanges the planes (R289, R291). -/
def Obligations.ArrayEvents : Prop :=
  (∀ (s : State) (b : Bond) (q : ArrCmd), findBond s b.id = some b → b.queue.find? (fun y => y.id == q.id) = some q →
  (cmdCanStart s b q = true → exec (.arrayCommandStart b.id q.id) s = .next (startCmd s b q)) ∧
  (q.started = true → exec (.arrayCommandCompletion b.id q.id) s = .next (completeCmd s b q)) ∧
  (cmdCanStart s b q = false → exec (.arrayCommandStart b.id q.id) s = .next s)) ∧
  (∀ (b : Bond) (q : ArrCmd) (k : Nat), Cells.wf b.tiles = true →
  (q.maj = 0xC3 → q.f 4 1 = 1 → k < 16384 → Cells.get (runCmd b q).1.tiles k = 0) ∧
  (q.maj = 0xC3 → q.f 4 1 = 0 → Cells.get (runCmd b q).1.tiles k = if k / 4096 = q.tile then 0 else Cells.get b.tiles k) ∧
  (q.maj = 0xC1 → (runCmd b q).1.active = b.shadow ∧ (runCmd b q).1.shadow = b.active ∧ (runCmd b q).1.tiles = b.tiles))

/-! ### Spans, leases and engines -/

/-- `enq` and `lease` without a cause enter their operation, `enq` after its release (R309, R310, R376, R377). Their causes after those of class 2 trap the
whole subset, the lowest class first: a queue that does not exist or is not enabled, an address beyond 2^53 or misaligned, the lease and the page of
the record (R310); a request block out of place, its zeros, limits and overlaps, and poison (R377); and each of them in an open region (16, 3). A block
that accesses or writers in flight still touch holds `lease.req` (R336). -/
def Obligations.DispatchCommands : Prop := ∀ (x : Ops) (s t : State),
  let va := addr64 s x 0
  let q := readU s x x.b 0
  let off := addr32 s x 0
  let n := bits (blockAt s off 4) 0 4
  let st := statusDst s x
  let handle : Option Nat := minSub [srcSub s x (.int false false) x.b, uniSub x.b]
  let trap (k a : Nat) : State := raise s k s.iss.mask s.iss.pc a 0
  let leased (form h : Nat) (rs : List (Nat × Nat)) : Op := { newOp s x (.lease (destOf x.d) form h rs) s.iss.mask with lanes := 1 }
  let enqFree : Prop := Free s 0xD0 x (minSub [st, addrSub s x false, uniSub x.a, uniSub x.c, srcSub s x (.int false false) x.b, uniSub x.b])
    (addrRefs x false ++ opdRefs x.b 1) []
  let enqSub := minSub [subIf s.cur.rgnOpen 0x103, subIf (15 < q || !queueOn s s.cur.tenant q) 0xF0, subIf (decide (Config.vaLimit ≤ va)) 0x40,
    subIf (va % 128 ≠ 0) 0xF1]
  let reqFree : Prop := Free s 0xD1 x (minSub [st, minSub [addrSub s x true, uniSub x.a, uniSub x.c]]) (addrRefs x true) []
  let reqSub := if requestOut s off then some 0xE0
    else minSub [requestSub s off, subIf s.cur.rgnOpen 0x103, subIf (blockBad s off (requestBytes s off)) 0x150]
  let form (i : Instr) (k : Nat) : Prop := Free s 0xD1 x (minSub [st, handle]) (opdRefs x.b 1) [] →
    (∀ o, o = leased k q [] → s.cur.rgnOpen = false → Room s 1 [] o → exec i s = .next (entered s x 1 [] o later)) ∧
    (s.cur.rgnOpen = true → exec i s = .next (trap 0x103 0))
  (enqFree → enqSub = none → ∀ k, leaseCause s s.cur va .read = some k → exec (.enq x) s = .next (trap k 0)) ∧
  (∀ k, enqFree → enqSub = some k → exec (.enq x) s = .next (trap k (if k = 0x40 ∨ k = 0xF1 then va else 0))) ∧
  (∀ r, enqFree → enqSub = none → leaseCause s s.cur va .read = none → probe s s.cur.acc s.cur.site va .read = (t, r) →
    (∀ (o rel : Op), o = { newOp t x (.enq (destOf x.d) va q) t.iss.mask with lanes := 1, addrs := [(0, va)] } →
      rel = { newOp t x (.order (some 5) none) t.iss.mask with flags := 0 } → (∀ k, r ≠ .cause k) → Room t 1 [rel] o →
      exec (.enq x) s = .next (entered t x 1 [rel] o performOp)) ∧
    (∀ k, r = .cause k → exec (.enq x) s = .next (raise t (0x70 + k) t.iss.mask t.iss.pc va 0))) ∧
  (∀ o, o = leased 0 0 (requestRanges (blockAt s off (16 + 16 * n)) n) → reqFree → blockHeld s off 144 = false → readRows s s.cur.bond off 144 = s →
    (reqSub = none → Room s 1 [] o → exec (.leaseReq x) s = .next (entered s x 1 [] o later)) ∧
    (∀ k, reqSub = some k → k ≠ 0x150 → exec (.leaseReq x) s = .next (trap k 0)) ∧
    (reqSub = some 0x150 → exec (.leaseReq x) s = .next (raise s 0x150 s.cur.live s.iss.pc 0 0))) ∧
  (reqFree → blockHeld s off 144 = true → exec (.leaseReq x) s = stallIssue s) ∧
  form (.leaseRel x) 1 ∧ form (.leaseQry x) 2

/-- The steps of `enq` and `lease` after issue, for an operation of the course in the issue unit that is ready (R310, R377): the record is read and taken;
a request fills the lowest free entry of the tenant's table and answers its handle, 0 where none is free; a lease query answers the entry's state, or all
ones for a handle of another generation; a release frees a lease and answers 0, of a lease in use 1 and of an unknown one 2. A queue takes a record that passes the checks of R311: STATUS 2 while it is suspended, 1 when it is full, and 0 with the record appended; a record that
fails takes its class-15 cause (R310, R311). -/
def Obligations.DispatchEvents : Prop :=
  (∀ (s : State) (o : Op) (d : Dest), s.cur.ops.find? (fun y => y.seq == o.seq) = some o → o.entry ≠ 1 →
  o.entry ≠ 3 → o.etype ≠ 4 → opReady s s.cur o = true →
  (∀ va q, o.kind = .enq d va q → o.peerWait = false → o.parked = none →
    exec (.enqAppend s.cur.id o.seq) s = .next (performEnq s { o with refused := false } va q)) ∧
  (∀ rs, o.kind = .lease d 0 0 rs → o.stage ≠ 1 → (∀ k, k < 256 → (leaseAt s s.cur.tenant k).state ≠ 0) →
    exec (.leaseStep s.cur.id o.seq) s = .next (finishOp s { o with refused := false } [(0, 0)])) ∧
  (∀ rs k, o.kind = .lease d 0 0 rs → o.stage ≠ 1 → k < 256 → (leaseAt s s.cur.tenant k).state = 0 →
    (∀ j, j < k → (leaseAt s s.cur.tenant j).state ≠ 0) → ∃ t, t = leaseFill s s.cur.tenant k rs ∧
    (leaseAt t s.cur.tenant k).ranges = rs ∧ (leaseAt t s.cur.tenant k).state = 1 ∧ (leaseAt t s.cur.tenant k).asid = s.cur.asid ∧
    0 < (leaseAt t s.cur.tenant k).gen ∧
    exec (.leaseStep s.cur.id o.seq) s = .next (lrqAdd t { o with refused := false } ((leaseAt t s.cur.tenant k).gen * 256 + k))) ∧
  (∀ h l, o.kind = .lease d 1 h [] → o.stage ≠ 1 → l = leaseAt s s.cur.tenant (h % 256) → leaseNamed s s.cur.tenant h = true → l.spans = 0 →
    exec (.leaseStep s.cur.id o.seq) s = .next (lrqAdd (physWrite (leasePut s { l with state := 3 }) (leasePa s s.cur.tenant (h % 256)) 1 3)
      { o with refused := false } 0)) ∧
  (∀ h, o.kind = .lease d 2 h [] → o.stage ≠ 1 → exec (.leaseStep s.cur.id o.seq) s = .next (finishOp s { o with refused := false }
    [(0, if (leaseAt s s.cur.tenant (h % 256)).gen = h / 256 then (leaseAt s s.cur.tenant (h % 256)).state else 0xFFFFFFFF)])) ∧
  (∀ h, o.kind = .lease d 1 h [] → o.stage ≠ 1 → leaseNamed s s.cur.tenant h = false →
    exec (.leaseStep s.cur.id o.seq) s = .next (finishOp s { o with refused := false } [(0, 2)])) ∧
  (∀ h, o.kind = .lease d 1 h [] → o.stage ≠ 1 → leaseNamed s s.cur.tenant h = true → (leaseAt s s.cur.tenant (h % 256)).spans ≠ 0 →
    exec (.leaseStep s.cur.id o.seq) s = .next (finishOp s { o with refused := false } [(0, 1)]))) ∧
  (∀ (s : State) (o : Op) (q v : Nat) (x : Queue), findQueue s s.cur.tenant q = some x → x.en = true →
  (∀ k, recordSub s s.cur.tenant x v = some k → enqRecord s o q v = lateSubset s o (0xF0 + k) 0) ∧
  (recordSub s s.cur.tenant x v = none → x.susp = true → enqRecord s o q v = finishOp s o [(0, 2)]) ∧
  (recordSub s s.cur.tenant x v = none → x.susp = false → (x.tail - x.head).toNat = 2 ^ x.logDepth → enqRecord s o q v = finishOp s o [(0, 1)]) ∧
  (recordSub s s.cur.tenant x v = none → x.susp = false → (x.tail - x.head).toNat ≠ 2 ^ x.logDepth →
    enqRecord s o q v = finishOp (appendSpan s x v) o [(0, 0)]))

/-- Each engine command whose block passes its checks enters its engine's queue with what it captures: `cpy` its scoreboard entries, `xch` its maps and
`xred` its tag slot (R334 to R355). A block out of place takes (14, 0), one that accesses in flight touch holds the command, and the causes of its
content trap, the lowest class first (R102): its fields (14, 1) to (14, 6), an open region (16, 3), `scrub` below ring 2 (19, 6) and poison (21, 0). A full
queue, scoreboard or set of tag slots holds it. -/
def Obligations.EngineCommands : Prop := ∀ (x : Ops) (s : State) (v : Nat),
  let off := addr32 s x 0
  let blk := bytesOf 64 v
  let f (at1 n : Nat) : Nat := fieldAt v at1 n
  let vf := vfOfAsid s s.cur.asid
  let none2 (s : State) (_ : Nat) : State := s
  let bad3 (a n : Nat) : Bool := a % 16 ≠ 0 || decide (Config.vaLimit < a + n)
  let header : Option Nat := subIf (headerBad s v) 0xE1
  let poison : Option Nat := subIf (blockBad s off 64) 0x150
  let counts : Option Nat := subIf (s.cur.rgnOpen && blockCounts v) 0x103
  let trap (k : Nat) : State := raise s k (if k = 0x150 then s.cur.live else s.iss.mask) s.iss.pc 0 0
  let placed (i : Instr) (maj : Nat) : Prop :=
    Free s maj x (minSub [statusDst s x, addrSub s x true, uniSub x.a, uniSub x.c]) (addrRefs x true) [] →
    (off % 16 ≠ 0 ∨ scratchSize s < off + 64 → exec i s = .next (trap 0xE0)) ∧
    (off % 16 = 0 → off + 64 ≤ scratchSize s → blockHeld s off 64 = true → exec i s = stallIssue s)
  let ruled (i : Instr) (maj : Nat) (cause : Option Nat) (full : Bool) (after : State → Nat → State) : Prop := placed i maj ∧ (BlockReady s x maj v →
    (∀ k, cause = some k → exec i s = .next (trap k)) ∧
    (cause = none → (full = true ∨ engineFull s maj = true) → exec i s = stallIssue s) ∧
    (cause = none → full = false → EngineRoom s x maj blk → exec i s = .next (commanded s x maj blk after)))
  ruled (.cpy x) 0xD2 (minSub (header :: copySubs (scratchSize s) v ++ [counts, poison]))
    ((copyRanges (copyOf v)).any (fun r => behindCopy s s.cur.id s.cur.nextOp { space := .scr s.cur.bond, lo := r.1, len := r.2.1, write := r.2.2 }) ||
      (match curBond s with | some b => rangesFull s b (copyOf v) | none => false))
    (fun s seq => takeRanges s (copyOf v) seq) ∧
  ruled (.xred x) 0xD4 (minSub (header :: redSubs s v ++ [subIf (tagHeld s vf (f 0x24 2)) 0xE6, subIf s.cur.rgnOpen 0x103, poison])) (tagsFull s vf)
    (fun s seq => claimTag s vf (f 0x24 2) 0 seq) ∧
  ruled (.hash x) 0xD5 (minSub [header, subIf (tailBad v 0x29) 0xE1,
    subIf (decide (2 ^ 40 < f 0x18 8) || Config.vaLimit ≤ f 0x10 8 || decide (Config.vaLimit < f 0x10 8 + f 0x18 8) || f 0x20 8 % 16 ≠ 0 ||
      decide (Config.vaLimit < f 0x20 8 + (if f 0x28 1 = 1 then 32 else 48)) || 1 < f 0x28 1) 0xE2, counts, poison]) false none2 ∧
  ruled (.sigv x) 0xD6 (minSub [header, subIf (tailBad v 0x28) 0xE1, subIf (bad3 (f 0x10 8) 48 || bad3 (f 0x18 8) 96 || bad3 (f 0x20 8) 96) 0xE2,
    counts, poison]) false none2 ∧
  ruled (.scrub x) 0xD7 (minSub [header, subIf (tailBad v 0x1C) 0xE1,
    subIf (524288 ≤ f 0x10 8 || f 0x18 4 = 0 || 4096 < f 0x18 4 || decide (524288 < f 0x10 8 + f 0x18 4) ||
      (List.range (Nat.min (f 0x18 4) 4096)).any (fun j => !((frameEntry s (f 0x10 8 + j)).state == 0 && (frameEntry s (f 0x10 8 + j)).inv))) 0xE2,
    subIf s.cur.rgnOpen 0x103, subIf (s.cur.ring < 2) 0x136, poison]) false none2 ∧
  placed (.xch x) 0xD3 ∧ (BlockReady s x 0xD3 v →
    let held := tagHeld s vf (f 0x30 2)
    let far (a : Nat) : Bool := a % 64 ≠ 0 || decide (Config.vaLimit < a + 64)
    let early := minSub [subIf (headerBad s v || tailBad v 0x32) 0xE1,
      subIf (far (f 0x20 8) || far (f 0x28 8) || Config.vaLimit ≤ f 0x10 8 || Config.vaLimit ≤ f 0x18 8) 0xE2,
      subIf (held && (s.cur.rgnOpen || poison.isSome)) 0xE6, subIf s.cur.rgnOpen 0x103, poison]
    (∀ k, early = some k → exec (.xch x) s = .next (trap k)) ∧
    (∀ t u : State, early = none → readMap s (f 0x20 8) held = (t, .error u) → exec (.xch x) s = .next u) ∧
    (∀ (t : State) (a : Nat), early = none → readMap s (f 0x20 8) held = (t, .ok a) →
      (∀ u w : State, readMap t (f 0x28 8) held = (u, .error w) → exec (.xch x) s = .next w) ∧
      (∀ (u : State) (b : Nat), readMap t (f 0x28 8) held = (u, .ok b) →
        let late := minSub (xchSubs u v a b ++ [subIf held 0xE6])
        let bytes := blk ++ bytesOf 64 a ++ bytesOf 64 b
        (∀ k, late = some k → exec (.xch x) s = .next (raise u k u.iss.mask u.iss.pc 0 0)) ∧
        (late = none → (tagsFull u vf = true ∨ engineFull u 0xD3 = true) → exec (.xch x) s = stallIssue u) ∧
        (late = none → tagsFull u vf = false → EngineRoom u x 0xD3 bytes →
          exec (.xch x) s = .next (commanded u x 0xD3 bytes (fun s seq => claimTag s vf (f 0x30 2) (mapCheck a b) seq))))))

/-- The events of engine commands, for a command of the course in the issue unit (R228, R337, R369): it starts or goes on, it completes, and a refused
request is sent again, by a retry of a pin or of a miss slot alike. A `scrub` of one frame leaves every byte of it zero and every byte outside it and its
entry of the frame-state table as it was, and sets its SCRUB bit there (R355); only the sector of the entry may be mended by the write (R209). -/
def Obligations.EngineEvents : Prop :=
  (∀ (s : State) (o : Op) (i : Instr), s.cur.ops.find? (fun y => y.seq == o.seq) = some o → o.entry ≠ 1 → o.entry ≠ 3 →
  o.etype ≠ 4 → s.cur.id ≠ 0 → (i = .pinRetry s.cur.id o.seq ∨ i = .missSlotRetry s.cur.id o.seq) →
  let o1 : Op := { o with refused := false }
  let t := putOp s o1
  (o.isEngine = true → exec (.engineCommandStart s.cur.id o.seq) s = .next (engineGo s o)) ∧
  (o.isEngine = true → exec (.engineCommandCompletion s.cur.id o.seq) s = .next (engineComplete s o)) ∧
  (o.isEngine = true → o.refused = true → exec i s = .next (if o.stage = 0 then engineGo t o1 else engineComplete t o1)) ∧
  (o.isFetch = true → o.refused = true → exec i s = .next t) ∧
  (o.isEngine = false → o.isFetch = false → o.refused = true → (∀ d va q, o.kind ≠ .enq d va q) → (∀ d form h rs, o.kind ≠ .lease d form h rs) →
    exec i s = .next (performOp t o.seq)) ∧
  (∀ d va q, o.kind = .enq d va q → o.refused = true → exec i s = .next (if opReady t t.cur o1 then performEnq t o1 va q else t)) ∧
  (∀ d form h rs, o.kind = .lease d form h rs → o.refused = true →
    exec i s = .next (if o.stage = 1 then lrqAdd t o1 ((assoc o.got 0).getD 0) else leaseStep t o1 form h rs)) ∧
  (o.refused = false → exec i s = .next s)) ∧
  (∀ (s : State) (o : Op) (v u : Nat), Cells.wf s.mem = true →
  let f := fieldAt v 0x10 8 + u
  let zeroed : State := { s with mem := Cells.drop s.mem (2097152 * f) (2097152 * (f + 1)), hpoison := Cells.drop s.hpoison (32768 * f) (32768 * (f + 1)),
                                 hmeta := Cells.drop s.hmeta (32768 * f) (32768 * (f + 1)) }
  let entry := physRead zeroed (s.boot.troot + 0x10) 8 + 8 * f
  let t := (scrubUnit v s o u).1
  (∃ e ∈ t.frames, e.frame = f ∧ e.scrub = true) ∧ (entry < Config.hbmBytes → bitAt (readNum t.mem entry 1) 2 = true) ∧
  (∀ a, a / 64 ≠ entry / 64 ∨ (s.hmeta = [] ∧ (a < entry ∨ entry + 8 ≤ a)) →
    readNum t.mem a 1 = if a / 2097152 = f then 0 else readNum s.mem a 1) ∧ t.cur = s.cur)

/-! ### Links -/

/-- Each request of a peer that is expected is counted and served at home (R453, R454, R457, R458): a read of a line sets its sharer bit and is
answered with the line after its CRCs are checked, a write is counted when it is performed or dropped, an invalidation drops the copies, an atomic
answers the old value where asked, a flushing read waits for its count and for the copies that writes invalidate; a request for a VF that is not active is
answered with STATUS 1. The replies of atomics wait until the copies of their line at peers are invalidated (R457); a request that a pin refuses
is kept, and tried again in its turn (R228), and a later one of its source to its line waits behind it. A packet of an unknown kind is dropped with
event 15 (R453). The STATUS of a refused access is the model's
(assumption 24). -/
def Obligations.PeerRequests : Prop := ∀ (s t : State) (p : Packet) (a : Acc) (l : Line) (held : Bool), Expected s p →
  let u := counted s p
  let la := 128 * p.laddr
  let off := p.mask.toNat % 128
  let op := bits p.mask.toNat 7 4
  let z := atmSize p.mask
  let ret := bitAt p.mask.toNat 12
  let b := numOf (p.data.take 16) % 2 ^ (if op = 9 then 16 * z else 8 * z)
  let asid := effAsid u a.tenant a.asid la
  let behind : Bool := u.refusedRx.any (fun q => q.laddr == p.laddr && q.vf == p.vf && q.src == p.src)
  let served : Prop := behind = false ∧ serveAs u p.vf p.cls = .ok a
  (served → p.opc = 1 → homeGet u a la .read = (t, .line l held) →
    let l1 := { l with sharers := l.sharers ||| BitVec.ofNat 16 (2 ^ p.src) }
    let out := checkOut (if held then l2Put t l1 else t) l1 held 0 128
    exec (.rd p) s = .next (replyTo out.1 p 2 0 (bytesOf 128 out.2.data.toNat) out.2.poison)) ∧
  (served → p.opc = 1 → homeGet u a la .read = (t, .pinned) → exec (.rd p) s = .next (keepRx t p)) ∧
  (∀ st, serveAs u p.vf p.cls = .error st → exec (.frd p) s = .next (replyTo u p 9 st [] 0)) ∧
  (∀ st, behind = false → serveAs u p.vf p.cls = .error st → (p.opc = 1 → exec (.rd p) s = .next (replyTo u p 2 st [] 0)) ∧
    (p.opc = 6 → exec (.atm p) s = .next (replyTo u p 7 st [] 0)) ∧ (p.opc = 3 → exec (.wr p) s = .next (countDone u p)) ∧ (p.opc = 10 → exec (.xwr p) s = .next (xack u p st))) ∧
  (served → p.opc = 3 → leaseRefuses u p.vf a la = false →
    (performWr u a la p = (t, .performed) → exec (.wr p) s = .next (countDone t p)) ∧
    (performWr u a la p = (t, .refused) → exec (.wr p) s = .next (countDone (writeRefused t la p.vf p.src) p)) ∧
    (performWr u a la p = (t, .pinned) → exec (.wr p) s = .next (keepRx t p))) ∧
  (served → leaseRefuses u p.vf a la = true →
    (p.opc = 3 → exec (.wr p) s = .next (countDone (writeRefused u la p.vf p.src) p)) ∧ (p.opc = 6 → exec (.atm p) s = .next (replyTo u p 7 2 [] 0))) ∧
  (exec (.inv p) s = .next (replyTo { u with l2 := u.l2.filter (fun l => !(l.peer == some p.src && l.addr == la)) } p 5 0 [] 0)) ∧
  (exec (.inva p) s = .next (answerFlushes (releaseAcks { u with invWait := clearWait u.invWait la p.src }))) ∧
  (served → p.opc = 6 → leaseRefuses u p.vf a la = false →
    (∀ old, homeLoad u a (la + off) z .write = (t, .line l held, old) →
      let done (w : State) : State := replyWritten w asid la (replyPacket w p 7 0 (if ret then bytesOf 16 old else []) 0)
      let bad := poisonOf l.poison off z && (ret || op ≠ 8)
      (bad = false → atomWrites op z old b = true →
        exec (.atm p) s = .next (done (homeWrite t a la (byteMask off z) (dataWrite 0 off z (atomNew op z old b)) 0 (some p.src)).1)) ∧
      (bad = false → atomWrites op z old b = false → exec (.atm p) s = .next (done t)) ∧
      (bad = true → exec (.atm p) s = .next (replyTo t p 7 0 (if ret then bytesOf 16 0 else []) 3))) ∧
    (∀ old, homeLoad u a (la + off) z .write = (t, .pinned, old) → exec (.atm p) s = .next (keepRx t p))) ∧
  (∀ (c : Nat) (q : Packet), replyWritten u c la q = if invBusy u c la then { u with acks := u.acks ++ [(c, la, q)] } else sendPkt u q) ∧
  (behind = true → exec (.rd p) s = .next (keepRx u p) ∧ exec (.wr p) s = .next (keepRx u p) ∧ exec (.atm p) s = .next (keepRx u p) ∧ exec (.xwr p) s = .next (keepRx u p)) ∧
  (serveAs u p.vf p.cls = .ok a → exec (.frd p) s = .next (answerFlushes { u with flushes := u.flushes ++ [p] })) ∧
  (exec (.unknownPacket p) s = .next (postDie u 0 { code := 15, detail := p.opc.toNat }))

/-- A reply that answers an outstanding request takes it off the list, and one that answers none does nothing more (R453, R458); one for a draining VF is
dropped (R459). A line fills the local peer line and goes to its operation, with its poison; an atomic's old value goes to its lane, and one that no lane
asked for tells that a store through has been performed; the answer of a command's counter add or of the last awaited flushing read lets its operation go
on. A STATUS fails the operation: the lanes of the line, the lane of the atomic, or the subset (R266, R454). -/
def Obligations.PeerReplies : Prop := ∀ (s : State) (p : Packet) (r : PeerReq) (o : Op) (seq lane : Nat), Expected s p → r.who = .op s.cur.id seq lane →
  o.seq = seq → s.cur.ops.find? (fun y => y.seq == seq) = some o →
  let u := counted s p
  let w := dropReq u r
  let la := 128 * p.laddr
  let d := numOf (p.data.take 128)
  let more (t : State) : Bool := awaits t s.cur.id seq
  let filled := fillPeer w (opAcc w.cur o) la d p.poison
  (findReq u p 1 = none → exec (.rdr p) s = .next u) ∧ (findReq u p 6 = none → exec (.atmr p) s = .next u) ∧
  (findReq u p 8 = none → exec (.frr p) s = .next u) ∧
  (replyDropped w p.vf = true → (findReq u p 1 = some r → exec (.rdr p) s = .next w) ∧ (findReq u p 6 = some r → exec (.atmr p) s = .next w) ∧
    (findReq u p 8 = some r → exec (.frr p) s = .next w)) ∧
  (findReq u p 1 = some r → replyDropped w p.vf = false →
    (p.status = 0 → exec (.rdr p) s = .next (goOn (putOp filled { o with peerWait := more filled, data := o.data ++ [(la, d)] ++ (if p.poison = 0 then [] else [(la + 1, 1)]) }) seq)) ∧
    (p.status ≠ 0 → exec (.rdr p) s =
      .next (replyFails w o p.status (fun i => o.isFetch || lineOf ((assoc o.addrs i).getD 0) == la)))) ∧
  (findReq u p 6 = some r → replyDropped w p.vf = false →
    (p.status = 0 → o.isEngine = true → exec (.atmr p) s = .next (goOn (putOp w { o with peerWait := false }) seq)) ∧
    (p.status = 0 → o.isEngine = false → ∀ t, t = (if o.dest ≠ .none then w else w.upd (fun c => c.addPeer p.src)) →
      exec (.atmr p) s = .next (settleOp o
        { s := t, got := [(lane, numOf p.data % 2 ^ (8 * o.accBytes))], fs := [], absent := [], refused := false, wait := more t,
          poison := decide (o.dest ≠ .none) && p.poison ≠ 0 })) ∧
    (p.status ≠ 0 → o.isEngine = true → exec (.atmr p) s = .next (goOn (replyFails w o p.status (fun _ => false)) seq)) ∧
    (p.status ≠ 0 → o.isEngine = false → exec (.atmr p) s = .next (replyFails w o p.status (fun i => i == lane)))) ∧
  (findReq u p 8 = some r → replyDropped w p.vf = false →
    (p.status = 0 → more w = true → exec (.frr p) s = .next w) ∧
    (p.status = 0 → more w = false → exec (.frr p) s = .next (goOn (putOp w { o with peerWait := false }) seq)) ∧
    (p.status ≠ 0 → exec (.frr p) s = .next (replyFails w o p.status (fun _ => false))))

/-- `gangsync` makes its course wait, and a course whose member has been released continues (R55, R196); lanes that stand apart take (11, 9), an open region
(16, 3), and a span that is no gang (22, 0), the lowest first. The gang packets (R55, R56, R460): the coordinator holds each member's ready message and
decides release once it has all; a member acts on the release, if it has sent ready, or on the abort, which ends its spans with (22, 1); a query is answered
with the decision, which is never made twice. When the gang timeout runs out after a first arrival, the coordinator decides to abort; a member without a
decision resets its direct ports to the coordinator and queries by relay, or ends alone with (22, 7). -/
def Obligations.Gangs : Prop :=
  (∀ (x : Ops) (s : State), Free s 0x18 x none [] [] →
  let gang : Bool := match findSpan s s.cur.span with | some y => y.rcd.gang | none => false
  let cause := minSub [subIf (!s.cur.reconverged) 0xB9, subIf s.cur.rgnOpen 0x103, subIf (!gang) 0x160]
  (∀ k, cause = some k → exec (.gangsync x) s = .next (raise s k s.iss.mask s.iss.pc 0 0)) ∧
  (cause = none → (getGang s s.cur.gangKey).freed = true → exec (.gangsync x) s = .next (passed s x)) ∧
  (cause = none → (getGang s s.cur.gangKey).freed = false →
    exec (.gangsync x) s = .next (gangArrive (s.upd (fun c => { c with wait := some .gang })) s.cur.span))) ∧
  (∀ (s : State) (p : Packet) (key : Nat), Expected s p →
  let u := counted s p
  let g := getGang u p.tag
  let heard (t : State) (key decision : Nat) : State := (((List.range t.nDev).filter (fun d => d ≠ 0)).foldl (fun t d =>
    sendPkt t (gangPacket t d key decision)) (putGang t { getGang t key with decision := decision }))
  (s.devId = 0 → exec (.gngReady p) s = .next (gangReadyFrom u p.tag p.src)) ∧
  (s.devId = 0 → g.decision = 0 → (List.range s.nDev).all (fun d => (g.ready ||| BitVec.ofNat 16 (2 ^ p.src)).getLsbD d) = true →
    ∃ t, t = putGang u { g with ready := g.ready ||| BitVec.ofNat 16 (2 ^ p.src) } ∧
      exec (.gngReady p) s = .next (gangAct (heard t p.tag 1) p.tag 1)) ∧
  (s.devId = 0 → g.decision = 0 → (List.range s.nDev).all (fun d => (g.ready ||| BitVec.ofNat 16 (2 ^ p.src)).getLsbD d) = false →
    exec (.gngReady p) s = .next (putGang u { g with ready := g.ready ||| BitVec.ofNat 16 (2 ^ p.src) })) ∧
  (s.devId ≠ 0 → exec (.gngReady p) s = .next u) ∧
  (exec (.gngRelease p) s = .next (gangAct u p.tag 1)) ∧ (exec (.gngAbort p) s = .next (gangAct u p.tag 2)) ∧
  (g.freed = true → exec (.gngRelease p) s = .next u ∧ exec (.gngAbort p) s = .next u) ∧
  (g.freed = false → g.arrived = false → exec (.gngRelease p) s = .next u) ∧
  (g.freed = false → exec (.gngAbort p) s = .next ((gangSpans u p.tag).foldl (fun t y => endSpan t y.id 2 0x161) u)) ∧
  (s.devId = 0 → g.decision ≠ 0 → exec (.gngQuery p) s = .next (sendPkt u (gangPacket u p.src p.tag g.decision))) ∧
  (s.devId = 0 → g.decision = 0 → exec (.gngQuery p) s = .next u) ∧
  (s.devId = 0 → gangBegun s key = true → (getGang s key).decision = 0 → exec (.gangTimeout key) s = .next (gangAct (heard s key 2) key 2)) ∧
  (s.devId ≠ 0 ∨ gangBegun s key = false ∨ (getGang s key).decision ≠ 0 → exec (.gangTimeout key) s = .next s) ∧
  (s.devId ≠ 0 → (getGang s key).freed = false → (gangSpans s key).isEmpty = false →
    ∀ t, t = ((s.ports.filter (fun p => p.peer == 0)).map (fun p => p.port)).foldl resetPort s →
    exec (.gangDecisionTimeout key) s = .next (if pathTo t 0 then sendPkt t (gangPacket t 0 key 3) else
      (gangSpans t key).foldl (fun t y => endSpan t y.id 2 0x167) t)))

/-- Exchange packets for a local tag (R347): one for a closed tag is answered with STATUS 5, a direct element whose check differs is dropped and answered with
STATUS 4, whatever its address, and the command takes status 7; one that a lease refuses is answered with STATUS 2; one whose check agrees, or that comes
before its command, is written, counted and acknowledged once copies of its line at peers are gone (R457), one that a pin refuses is kept (R228); a
contribution is kept with its slot. An acknowledgement is counted, and its STATUS may end the command. The check and the kinds that XWR's STATUS field
names are the model's (assumption 23). Flits, ports and draining (R455, R456, R459): an accepted flit counts the sequence on, a bad one is replayed and
the sixteenth replay takes the port down with event 11, as does a loss of lock; what waits for devices that no path reaches is then answered here; a port
that retrains is up with event 12 and sends what was kept; a function-level reset starts draining with event 16, and a drained VF is told once with event
13; the oldest exchange that waits for partners and times out closes its tag and goes on to its end with status 4 (R348). -/
def Obligations.ExchangesAndPorts : Prop :=
  (∀ (s t : State) (p : Packet) (a : Acc), Expected s p → p.opc = 10 →
  let u := counted s p
  let la := 128 * p.laddr
  let check := numOf (p.data.drop 128)
  let slot := (findTag u p.vf p.tag).getD (newTag p.vf p.tag)
  let asid := effAsid u a.tenant a.asid la
  let served : Prop := u.refusedRx.any (fun q => q.laddr == p.laddr && q.vf == p.vf && q.src == p.src) = false ∧ serveAs u p.vf p.cls = .ok a
  let one (x : TagSlot) : TagSlot := x.acked p.src 1
  (served → slot.closed = true → exec (.xwr p) s = .next (xack u p 5)) ∧
  (served → slot.closed = false → p.status = 0 →
    (slot.owner.isSome = true → check ≠ slot.check → exec (.xwr p) s = .next (xack (tagStatus u p.vf p.tag 7) p 4)) ∧
    (slot.owner = none ∨ check = slot.check → leaseRefuses u p.vf a la = true → exec (.xwr p) s = .next (xack u p 2)) ∧
    (slot.owner = none ∨ check = slot.check → leaseRefuses u p.vf a la = false →
      (performWr u a la p = (t, .performed) → exec (.xwr p) s = .next (xackWritten (putTag t
          { slot with
              arrived := slot.arrived + (maskBytes p.mask).length
              early := if slot.owner.isSome then slot.early else slot.early ++ [(check, la, p.mask.toNat)] }) p asid la)) ∧
      (performWr u a la p = (t, .refused) → exec (.xwr p) s = .next (xack t p refusedStatus)) ∧
      (performWr u a la p = (t, .pinned) → exec (.xwr p) s = .next (keepRx t p)))) ∧
  (served → slot.closed = false → p.status = 1 → exec (.xwr p) s = .next (xack (putTag u { slot with parts := slot.parts ++ (maskBytes p.mask).map (fun j => (p.src, la + j, dataRead (BitVec.ofNat 1024 (numOf (p.data.take 128))) j 1)) }) p 0)) ∧
  (served → slot.closed = false → p.status = 2 → slotBlock u slot = none → exec (.xwr p) s = .next (xack u p 5)) ∧
  (∀ v, served → slot.closed = false → p.status = 2 → slotBlock u slot = some v →
    let at1 := (redOf v).dst + la
    (leaseRefuses u p.vf a at1 = true → exec (.xwr p) s = .next (xack u p 2)) ∧
    (leaseRefuses u p.vf a at1 = false → resultPinned u a at1 = false → exec (.xwr p) s =
      .next (xackWritten (putTag (writeResult u a (redOf v).dst p) { slot with arrived := slot.arrived + (maskBytes p.mask).length }) p asid (lineOf at1)))) ∧
  (p.status = 0 → exec (.xack p) s = .next (updTag u p.vf p.tag one)) ∧
  (p.status ≠ 0 → exec (.xack p) s = .next (tagStatus (updTag u p.vf p.tag one) p.vf p.tag (engStatus p.status)))) ∧
  (∀ (s : State) (x : Port) (v : Vf) (seq vf : Nat),
  let down (s : State) (n : Nat) : State :=
    answerCut (postDie { s with ports := updWhere (fun y => y.port == n) (fun y => { y with up := false, replays := 0 }) s.ports } (portDie n)
      { code := 11, detail := n })
  let flit (ok : Bool) : Instr := .flitReceived x.port seq ok
  let set (f : Port → Port) : State := { s with ports := updWhere (fun y => y.port == x.port) f s.ports }
  (s.ports.find? (fun y => y.port == x.port && y.up) = some x → s.ports.find? (fun y => y.port == x.port) = some x →
    exec (flit true) s = .next (set (fun y => if seq = y.seq then { y with seq := (y.seq + 1) % 4096, replays := 0 } else y)) ∧
    (x.replays < 15 → exec (flit false) s = .next (set (fun y => { y with replays := y.replays + 1 }))) ∧
    (15 ≤ x.replays → exec (flit false) s = .next (down s x.port)) ∧
    exec (.lossOfLock x.port) s = .next (down s x.port)) ∧
  (s.ports.find? (fun y => y.port == x.port && y.en && !y.up) = some x →
    exec (.portRetrain x.port false) s = .next s ∧ exec (.portRetrain x.port true) s = .next (sendUnsent
      (postDie (set (fun y => { y with up := true, seq := 0, replays := 0 })) (portDie x.port) { code := 12, detail := x.port }))) ∧
  (s.vfs.find? (fun y => y.vf == vf && y.state == 1) = some v →
    exec (.flr vf) s = .next (postDie (drainVf { s with vfs := updWhere (fun y => y.vf == vf) (fun y => { y with state := 2 }) s.vfs } vf) 0
      { code := 16, detail := vf })) ∧
  ((s.vfs.filter (fun y => y.state == 2 && !y.drained && vfIdle s y)).head? = some v → exec .vfDrained s = .next
    (postDie { s with vfs := updWhere (fun y => y.vf == v.vf) (fun y => { y with drained := true }) s.vfs } 0 { code := 13, detail := v.vf }))) ∧
  (∀ (s : State) (t : TagSlot) (o : Op) (d : Dest) (maj st u : Nat) (mi : BitVec 12) (b : List Byte) (go : Bool) (pre post : List TagSlot),
  s.tags = pre ++ t :: post → (∀ y ∈ pre, ∀ w c q, y.owner = some w → courseById s w.1 = some c → c.ops.find? (fun z => z.seq == w.2) = some q →
    partnersAwaited s c q = false) → t.owner = some (s.cur.id, o.seq) →
  s.cur.ops.find? (fun y => y.seq == o.seq) = some o → o.kind = .engine d maj mi b st u go → partnersAwaited s s.cur o = true →
    let o1 : Op := { o with stage := 1, refused := false, kind := .engine d maj mi b (if st ≠ 0 then st else if t.status ≠ 0 then t.status else 4) u go }
    exec .xchTimeout s = .next (engineComplete (putOp (putTag s { newTag t.vf t.tag with closed := true }) o1) o1))

/-! ### Halts, eviction and placement -/

/-- Pre-emption requests on a die that has none (R431, R432): one whose block breaks its limits completes at once with OVERDUE; a release lets its spans'
piers be placed again; the others are held until acknowledged, and every live course of the piers that a halting request names is asked to halt, whose
images go to the request's save area, or the course that a debug stop names to stop. A request on a busy die is ignored. A request whose acknowledgements
are all in completes: PRQDONE counts it and the die is free for the next; one that is overdue is marked so, and each of its courses whose command has not
reached its unit, and which has not trapped, takes (20, 1) with the command's OP and its agent's position (R432). -/
def Obligations.Preemption : Prop :=
  (∀ (s : State) (die : Nat) (q : Prq) (i : Instr) (kind : Nat),
  (i = .preemptSpan die q ∧ kind = 1) ∨ (i = .preemptPier die q ∧ kind = 2) ∨ (i = .preemptTenant die q ∧ kind = 3) ∨ (i = .preemptRelease die q ∧ kind = 4) ∨
    (i = .debugStop die q ∧ kind = 5) →
  (prqBusy s die = true → exec i s = .next s) ∧
  (prqBusy s die = false → q.bad = true → ∃ t, exec i s = .next t ∧ (getDie t die).prqDone = (getDie s die).prqDone + 1 ∧ (getDie t die).prqOverdue = true ∧
    t.cur = s.cur ∧ t.piers = s.piers) ∧
  (prqBusy s die = false → q.bad = false → kind = 4 → ∃ t, exec i s = .next t ∧ (getDie t die).prqDone = (getDie s die).prqDone + 1 ∧
    (getDie t die).prqOverdue = false ∧ (∀ p ∈ t.piers, memNat p.span (prqSpans s 4 q) = true → p.held = false)) ∧
  (prqBusy s die = false → q.bad = false → kind ≤ 3 → ∃ t, exec i s = .next t ∧ prqBusy t die = true ∧ (getDie t die).prqDone = (getDie s die).prqDone ∧
    (∀ p ∈ t.piers, memNat p.id (prqPiers s die kind q) = true → p.held = q.hold ∧ p.save = some q.save) ∧
    (s.cur.life = .live → memNat s.cur.pier (prqPiers s die kind q) = true → t.cur.haltReq = true ∧ t.cur.held = q.hold) ∧
    (∀ c ∈ t.courses, c.life = .live → memNat c.pier (prqPiers s die kind q) = true → c.haltReq = true ∧ c.held = q.hold)) ∧
  (prqBusy s die = false → q.bad = false → kind = 5 →
    let named (c : Course) : Prop := c.exists = true ∧ c.qid = q.qid ∧ c.slot = q.slot ∧ c.tenant = q.tenant ∧ c.die = die
    ∃ t, exec i s = .next t ∧ prqBusy t die = true ∧ (named s.cur → t.cur.debugReq = true) ∧ (∀ c ∈ t.courses, named c → c.debugReq = true))) ∧
  (∀ (s : State) (r : PrqRun),
  (firstPrq (settlePiers s) (prqAcked (settlePiers s)) = some r → ∃ t, exec .preemptRequestDone s = .next t ∧ prqBusy t r.die = false ∧
    (getDie t r.die).prqDone = (getDie (settlePiers s) r.die).prqDone + 1) ∧
  (firstPrq (settlePiers s) (prqAcked (settlePiers s)) = none → exec .preemptRequestDone s = .next (settlePiers s)) ∧
  (firstPrq s (fun r => !r.overdue && !prqAcked s r) = some r →
    let t : State := updDie { s with prqs := updWhere (fun x => x.die == r.die) (fun x => { x with overdue := true }) s.prqs } r.die
      (fun d => { d with prqOverdue := true })
    (r.kind = 5 → exec .preemptOverdue s = .next t) ∧
    (r.kind ≠ 5 → exec .preemptOverdue s = .next (r.courses.foldl (fun t id => atCourse t id (fun t =>
      match runningCommand t.cur with
      | some o => (match o.kind with
        | .engine _ maj _ _ _ _ _ =>
          if t.cur.life = .live && t.cur.stopRing.isNone then raise t 0x141 t.cur.live o.pc (maj + 65536 * (t.cur.core % 96)) 0 else t
        | _ => t)
      | none => t)) t))) ∧
  (firstPrq s (fun r => !r.overdue && !prqAcked s r) = none → exec .preemptOverdue s = .next s))

/-- Late frames, debug stops and halts of the course in the issue unit (R59, R225, R424, R430, R432): the oldest pending trap takes its frame, or the debug
stop is taken with (17, 2), at a reconvergence point or, when its time has run out, from wherever the lanes stand; a course that can halt is saved, and
its pier settles with it; after 20 us it is saved from where it stands; a saved course that owes write-backs tries them again. An idle handler course of a
ring on a die starts at its vector on the oldest listed trap, which it serves from then on, with the frame's address, the cause and the course in s0 to s3
(R428); no other starts. A trap to ring 2 or 3 is listed last, with 32 × QID + the slot of its course. -/
def Obligations.StopsAndHandlers : Prop :=
  (∀ (s : State), let id := s.cur.id
  (debugDue s.cur = false → exec (.frameTaken id) s = .next (takePending s)) ∧ (debugDue s.cur = true → exec (.frameTaken id) s = .next (takeDebugStop s)) ∧
  (s.cur.debugReq = true → s.cur.life = .live → s.cur.ring = 0 → s.cur.stopRing = none → exec (.debugStopTimeout id) s = .next (takeDebugStop s)) ∧
  (s.cur.debugReq = false → exec (.debugStopTimeout id) s = .next s) ∧
  (s.cur.owing = [] → canHalt s.cur = true → exec (.courseHalt id) s = .next (settlePiers (saveCourse (s.upd (fun c => { c with ops := (haltOps c.ops c.ring 0 0).1 }))
    (if s.cur.reconverged then 1 else 2) (if s.cur.reconverged then 0 else 0x140)))) ∧
  (s.cur.owing = [] → canHalt s.cur = false → exec (.courseHalt id) s = .next (settlePiers s)) ∧
  (s.cur.owing ≠ [] → exec (.courseHalt id) s = .next (settlePiers (haltFlush (s.upd (fun c => { c with owing := [] })) s.cur.owing))) ∧
  (s.cur.haltReq = true → exec (.forcedFullSave id) s = .next (settlePiers (haltCourse (s.upd (fun c => { c with forced := true }))))) ∧
  (s.cur.haltReq = false → exec (.forcedFullSave id) s = .next (settlePiers s))) ∧
  (∀ (s : State) (die ring : Nat) (t : TrapRec) (rest : List TrapRec), ring = 2 ∨ ring = 3 →
  let listed (d : Die) : List TrapRec := if ring = 2 then d.list2 else d.list3
  (listed (getDie s die) = [] → exec (.handlerCourseStart die ring) s = .next s) ∧
  (listed (getDie s die) = t :: rest → handlerOf s die ring = some s.cur → (s.cur.life ≠ .idle ∨ (getDie s die).dead = true) →
    exec (.handlerCourseStart die ring) s = .next s) ∧
  (listed (getDie s die) = t :: rest → handlerOf s die ring = some s.cur → s.cur.life = .idle → (getDie s die).dead = false →
  ∃ u, exec (.handlerCourseStart die ring) s = .next u ∧ listed (getDie u die) = rest ∧
    (if ring = 2 then (getDie u die).serve2 else (getDie u die).serve3) = some t ∧ u.cur.life = .live ∧
    (Cells.wf s.cur.pc = true → ∀ i, i < 32 → s.cur.live.getLsbD i = true →
      u.cur.pcOf i = vectorEntry (if ring = 2 then (getDie s die).tvec2 else (getDie s die).tvec3)) ∧
    (Cells.wf s.cur.s = true → Cells.get u.cur.s 0 = BitVec.ofNat 32 (t.frame % 2 ^ 32) ∧ Cells.get u.cur.s 1 = BitVec.ofNat 32 (t.frame / 2 ^ 32) ∧
      Cells.get u.cur.s 2 = BitVec.ofNat 32 t.cause ∧ Cells.get u.cur.s 3 = BitVec.ofNat 32 t.who))) ∧
  (∀ (s : State) (n : Nat) (t : Trap), n = 2 ∨ n = 3 →
  let listed (d : Die) : List TrapRec := if n = 2 then d.list2 else d.list3
  (listed (getDie s s.cur.die)).length < 4096 → ∃ va, (listed (getDie (trapListed s n t) s.cur.die)).getLast? =
    some { course := s.cur.id, frame := va, cause := t.cause, who := 32 * s.cur.qid + s.cur.slot })

/-- The steps of eviction and restoration (R323 to R328, R331, R434): while what stays on a quoin does not fit, the harvest pier placed there most recently
is chosen, an unfinished restoration being abandoned and a placement that is being made being evicted once it has finished; victims are drained as a whole
and spilled; a halted pier whose placement is free and whose background is done is restored, and no other; a pier whose courses have all exited retires.
A spilled pier holds nothing on the device, is marked no victim any more, and its image lies in the slots of its quoins; other piers stay (R325, R330). A
harvest course stopped at ring 2 or 3 is spilled alone and returns once its handler has released it and what it needs is free (R428). -/
def Obligations.EvictionSteps : Prop :=
  (∀ (s : State) (q n : Nat) (p : Pier),
  (exec (.evictionDemand q) s = .next (markVictims s q (s.piers.length + 1))) ∧
  (overfull s q = true → nextVictim s q = none → exec (.evictionDemand q) s = .next s) ∧
  (overfull s q = true → nextVictim s q = some p → pierHarvest s p = true ∧ p.evicting = false ∧ p ∈ s.piers ∧
    (p.pending = false → markVictims s q (n + 1) = markVictims (evictPier s p.id) q n) ∧
    (p.pending = true → p.halted = false → markVictims s q (n + 1) = markVictims (updPier s p.id (fun p => { p with evicting := true })) q n) ∧
    (p.pending = true → p.halted = true →
      markVictims s q (n + 1) = markVictims (freePier (updPier s p.id (fun p => { p with pending := false })) p.id) q n)) ∧
  (exec (.evictionDrainComplete q) s = .next ((victimsOn s q false).foldl drainPier s)) ∧
  (∀ t, t = (victimsOn s q true).foldl spillPier s →
    exec (.spillComplete q) s = .next ((coursesWhere t (fun c => c.qid == q && c.stillHeld)).foldl spillStopped t)) ∧
  (findPier s p.id = some p → p.pending = true → p.halted = true → placementFree s p.id = true → pierQuiet s p.id = true →
    exec (.restoreComplete p.id) s = .next (restorePier s p)) ∧
  (findPier s p.id = some p → p.pending = true → p.halted = true → (placementFree s p.id = false ∨ pierQuiet s p.id = false) →
    exec (.restoreComplete p.id) s = .next s) ∧
  (findPier s p.id = some p → (p.pending = false ∨ p.halted = false) → exec (.restoreComplete p.id) s = .next
    (((pierCourses s p.id).map (fun c => c.id)).foldl (fun t i => match courseById t i with | some c => returnCourse t c | none => t) s)) ∧
  (s.piers.find? (canRetire s) = some p → exec .pierRetirement s = .next (retirePier s p)) ∧
  (s.piers.find? (canRetire s) = none → exec .pierRetirement s = .next s) ∧
  (overfull s q = false → exec (.evictionDemand q) s = .next s)) ∧
  (∀ (s : State) (id : Nat), (findPier s id).isSome = true → let t := spillPier s id
  (∀ p ∈ t.piers, p.id = id → p.resident = false ∧ p.evicting = false ∧ p.image = pierQuoins s id) ∧
  (∀ b ∈ t.bonds, b.pier = id → b.placed = false) ∧ (∀ p ∈ s.piers, p.id ≠ id → p ∈ t.piers)) ∧
  (∀ (s : State) (c : Course),
  (released s c = false → returnCourse s c = s) ∧
  (released s c = true → fitsBack (filesBack s c) c = false → returnCourse s c = filesBack s c) ∧
  (released s c = true → fitsBack (filesBack s c) c = true → returnCourse s c = atCourse (segsBack (filesBack s c) c) c.id goOnHere) ∧
  (c.stopRing.isSome = true → released s c = false) ∧
  ((findPier s c.pier).isSome = true → ∀ x, (x = (spillStopped s c).cur ∨ x ∈ (spillStopped s c).courses) → x.id = c.id → x.segs = []))

/-- An instruction set aside issues the rest of its passes when its course is selected, before any other instruction of it; a harvest course can be asked to
set its next one aside, and no other; a result in flight lands in the lanes it is for (R114, R140, R321). The dispatcher's steps (R21, R314, R316, R318):
a decision of a live die, the creation of a pier whose resources are free, and a window, in which the courses that wait on an announced word read it
again, station by station, and the dispatchers look at their heads; a window clears the announcements and counts on. A head span becomes Eligible exactly
when every dependence is met and its lease is active, and an Eligible one goes back when one is not (R305, R313, R315). The order of announcements of one
station is the model's (assumption 88). -/
def Obligations.ScheduleSteps : Prop :=
  (∀ (s : State) (r : Landing) (rest : List Landing) (n : Nat), let id := s.cur.id
  (s.cur.aside.isSome = true → issueStep s = .next (restPasses s)) ∧
  (s.cur.harvest = true → s.cur.life = .live → s.cur.aside = none →
    exec (.setAside id n) s = .next (s.upd (fun c => { c with asideAt := some n }))) ∧
  (s.cur.harvest = false ∨ s.cur.life ≠ .live ∨ s.cur.aside.isSome = true → exec (.setAside id n) s = .next s) ∧
  (s.cur.life = .live → exec (.setAsidePassesIssue id) s = .next (restPasses s)) ∧
  (s.cur.landing = [] → exec (.fixedLatencyResult id) s = .next s) ∧
  (s.cur.landing = r :: rest → s.cur.imageAt = 0 → exec (.fixedLatencyResult id) s = .next (takePending (s.upd (fun c =>
    { (c.writeLanes r.dst (if r.wide then 2 else 1) r.push (r.vals.filter (fun p => r.lanes.getLsbD p.1))) with landing := rest }))))) ∧
  (∀ (s : State) (die : Nat) (p : Pier),
  ((getDie s die).dead = false → exec (.dispatcherDecision die) s = .next (decide1 s die)) ∧
  ((getDie s die).dead = true → exec (.dispatcherDecision die) s = .next s) ∧
  (findPier s p.id = some p → p.pending = true → p.halted = false → placementFree s p.id = true → exec (.pierPlacement p.id) s = .next (createPier s p)) ∧
  (findPier s p.id = some p → placementFree s p.id = false → exec (.pierPlacement p.id) s = .next s) ∧
  (exec .broadcastWindow s = .next (updateHeads (updateHeads ((s.announced.foldr insertStation []).foldl (fun t a =>
    ((coursesWhere t (fun c => watches t c a)).map (fun c => c.id)).foldl (fun t i => atCourse t i rereadWait) t)
    { s with announced := [], window := s.window + 1 }) 0) 1)) ∧
  (∀ a, (a ∈ s.announced.foldr insertStation [] ↔ a ∈ s.announced)) ∧
  (s.announced.foldr insertStation []).Pairwise (fun a b => 2 * sliceOf a.2 + homeDie a.2 ≤ 2 * sliceOf b.2 + homeDie b.2)) ∧
  (∀ (s : State) (sp : Span),
  (sp.state = .head → (headState s sp = .eligible ↔ depsMet s sp = true ∧ leaseActive s sp = true)) ∧
  (sp.state = .eligible → (headState s sp = .eligible ↔ depsMet s sp = true)) ∧
  (sp.state ≠ .head → sp.state ≠ .eligible → headState s sp = sp.state))

/-! ### Tables, meters and the device -/

/-- What commits leave and do (R384, R389, R438): the running commit of a die ends with DONE at its number and none running, and another die's goes on; a
sweep of a tenant ends when no line lies outside its ways; a vacated quoin posts event 10. The meters (R208, R408 to R411): a token charge takes one token
for every quoin of resident piers when nobody must borrow; at the end of a period a balance is its class's budget when nothing is owed, and a debt to
nobody is repaid from at most half of it; buckets and allowances fill to their depth; correction counts are cleared and retirements stay. One refill event
stands for 64 clk (assumption 28). -/
def Obligations.CommitsAndMeters : Prop :=
  (∀ (s : State) (t q : Nat) (r : CommitRun),
  (s.commit = some r → ∃ u, exec (.commitComplete r.die) s = .next u ∧ u.commit = none ∧ (getDie u r.die).done = r.number) ∧
  (s.commit = none → exec (.commitComplete t) s = .next s) ∧ (s.commit = some r → r.die ≠ t → exec (.commitComplete t) s = .next s) ∧
  (memNat t s.sweeps = false → exec (.wayMaskSweep t) s = .next s) ∧
  (memNat t s.sweeps = true → (∀ l ∈ s.l2, l.tenant = t → (wayMask s t l.cls (homeDie l.addr)).getLsbD l.way = true) →
    exec (.wayMaskSweep t) s = .next { s with sweeps := s.sweeps.filter (fun y => y ≠ t) }) ∧
  (listMin ((s.quoins.filter (vacated s)).map (fun e => e.qid)) = none → exec .quoinVacated s = .next s) ∧
  (listMin ((s.quoins.filter (vacated s)).map (fun e => e.qid)) = some q → exec .quoinVacated s = .next (postDie
    { s with quoins := updWhere (fun e => e.qid == q) (fun e => { e with vacating := none }) s.quoins } (dieOfQid q) { code := 10, unit := q, detail := q }))) ∧
  (∀ (s : State) (b : Budget) (ctrl n : Nat),
  let charged (b : Budget) : Budget := { b with bal := b.bal - (((residentQuoins s b.tenant b.harvest).length : Nat) : Int) }
  let budget (b : Budget) : Nat := periodBudget s b.tenant b.harvest
  ((∀ b ∈ s.budgets, 0 < (charged b).bal) → exec .tokenCharge s = .next { s with budgets := s.budgets.map charged }) ∧
  ((∀ b ∈ s.budgets, b.owed = [] ∧ 0 ≤ b.bal) →
    exec .budgetPeriodBoundary s = .next { s with budgets := s.budgets.map (fun b => { b with bal := (budget b : Nat), borrowed := 0 }) }) ∧
  (s.budgets = [b] → b.tenant < 64 → (0 ≤ b.bal ∧ b.owed = [(64, n)] ∨ b.bal < 0 ∧ b.owed = [] ∧ n = b.bal.natAbs) →
    let r := Nat.min n (budget b / 2)
    let paid : Budget := { b with bal := ((budget b : Nat) : Int) - r, borrowed := 0, owed := if n - r = 0 then [] else [(64, n - r)] }
    exec .budgetPeriodBoundary s = .next { s with budgets := [paid] }) ∧
  (exec (.hbmBucketRefill ctrl) s = .next { s with buckets := s.buckets.map (fun y => match partition s y.tenant with
    | some p => if y.ctrl == ctrl then
        { y with bytes := Nat.min (y.bytes + 2 * (if y.harvest then p.hhbm else p.ghbm)) (1024 * (if y.harvest then p.hhdep else p.ghdep)) } else y
    | none => y) }) ∧
  (∃ t, exec .allowanceRefill s = .next t ∧ t.allowances.length = s.allowances.length ∧ ∀ y ∈ t.allowances, ∀ v p, s.vfs.find? (fun v => v.vf == y.vf) = some v →
    partition s v.tenant = some p → y.bytes = 32 * (if y.harvest then p.hfab else p.gfab)) ∧
  (∃ t, exec .correctionWindowClear s = .next t ∧ (∀ y ∈ t.banks, y.count = 0) ∧ t.banks.map (fun y => (y.unit, y.bank, y.retired)) =
    s.banks.map (fun y => (y.unit, y.bank, y.retired))) ∧
  (∀ t, partition s t = none → exec (.perfCounterSnapshot t) s = .next s) ∧
  (∀ t p, partition s t = some p → p.pcnt = 0 → exec (.perfCounterSnapshot t) s = .next s) ∧
  (∀ t p, partition s t = some p → p.pcnt ≠ 0 → ∃ u, exec (.perfCounterSnapshot t) s = .next u))

/-- Reset, power and temperature (R464, R466, R469): PERST# holds the device with HBM kept, its release or the return of main power boots it, which loses
what HBM held, a reset request over a link that is up boots it again, above 95 °C a die is marked hot with event 17, below 90 °C not any more, and above
105 °C the device is held with HBM kept until a new boot. What a boot finds in its flash is the model's (assumption 8).
Containment (R436, R437): the failure of a die's L2 marks the die dead, ends the spans with piers on it with (21, 4), and stops its courses, of which
none stays live; the containment of a core completes, and the core's quoins are fenced. -/
def Obligations.PowerAndFailures : Prop :=
  (∀ (s : State) (codes : List Word) (die : Nat),
  (∃ t, exec .perstAssert s = .next t ∧ t.run = .held ∧ t.mem = s.mem ∧ t.boot = s.boot ∧ t.courses = [] ∧ t.cur = State.reset.cur ∧ t.l2 = []) ∧
  (s.run = .held → exec (.perstRelease codes) s = .next (boot s codes)) ∧
  (s.run = .held → exec (.mainPowerReturn codes) s = .next (boot { s with mem := [], hpoison := [], hmeta := [], die0 := Reset.die 0, die1 := Reset.die 1 } codes)) ∧
  (s.run ≠ .held → exec (.perstRelease codes) s = .next s ∧ exec (.mainPowerReturn codes) s = .next s) ∧
  (linkDown s = false → exec (.requestReset codes) s = .next (boot s codes)) ∧ (linkDown s = true → exec (.requestReset codes) s = .next s) ∧
  (s.run ≠ .held → ∃ t, exec (.thermalAbove105 die) s = .next t ∧ t.run = .thermal ∧ t.mem = s.mem ∧ t.courses = []) ∧
  (s.run = .held → exec (.thermalAbove105 die) s = .next s) ∧
  (∃ t, exec (.thermalBelow90 die) s = .next t ∧ (getDie t die).hot = false) ∧
  (s.run ≠ .running ∨ (getDie s die).hot = true → exec (.thermalAbove95 die) s = .next s) ∧
  (s.run = .running → (getDie s die).hot = false →
    exec (.thermalAbove95 die) s = .next (postDie (updDie s die (fun d => { d with hot := true })) die { code := 17 }))) ∧
  (∀ (s : State) (u : State) (die : Nat),
  (u = ((s.piers.filter (fun p => p.die == die)).map (fun p => p.span)).foldl (fun s i => endSpan s i 1 0x154) (updDie s die (fun d => { d with dead := true })) →
    ∃ t, exec (.dieL2Failure die) s = .next t ∧ t.die0 = u.die0 ∧ t.die1 = u.die1 ∧ t.spans = u.spans ∧ t.mem = u.mem ∧
      (u.cur.exists = true → u.cur.die = die → t.cur.life ≠ .live)) ∧
  (∀ core bad, ∃ t, exec (.coreContainment core bad) s = .next t) ∧
  (∀ core q, q / 4 = core → ∃ e ∈ (fenceQuoins s core).quoins, e.qid = q ∧ e.fenced = true))

/-- The watchdog (R415, R468): when it is enabled its expiry is counted; without a live update in progress the host is told, and with one whose active
slot is whole UPD is cleared and the hand-over block restored; disabled, it has no effect. The monitor's calls (R486), for a caller of ring 2 whose
`trap 12` it serves and whose accesses are performed: each that is done leaves RESULT 0 and each that is refused RESULT 1, and nothing happens without
such a caller or under another function code. Management messages of a
running device (R465, R471): ACTIVE takes a slot while PENDING names none and is refused otherwise; nineteen sensor values and the 1,024 bytes of the
boot record are read. -/
def Obligations.FirmwareServices : Prop :=
  (∀ (s : State) (die : Nat),
  let d := getDie s die
  let s1 := postDie (updDie s die (fun d => { d with wdcnt := d.wdlim, wdexp := d.wdexp + 1 })) die { code := 9 }
  (d.wdctl.getLsbD 0 = false ∨ s.run ≠ .running → exec (.watchdogExpiry die) s = .next s) ∧
  (s.run = .running → d.wdctl.getLsbD 0 = true → d.wdctl.getLsbD 1 = false →
    exec (.watchdogExpiry die) s = .next (tellHost (restartControl s1 die) (.watchdog die))) ∧
  (s.run = .running → d.wdctl.getLsbD 0 = true → d.wdctl.getLsbD 1 = true → ∃ t, exec (.watchdogExpiry die) s = .next t ∧
    (slotOk s1.boot (s1.boot.active.toNat % 2) = false → t = { deviceReset s1 with run := .recovery 24 }) ∧
    (slotOk s1.boot (s1.boot.active.toNat % 2) = true →
      (getDie t die).wdctl.getLsbD 1 = false ∧ (getDie t die).shadow = none ∧ t.boot.pending = 0xFF))) ∧
  (∀ (s : State) (die : Nat) (c : Course), monitorCaller s die = some c →
  let d := getDie s die
  let n := d.arg0.toNat
  let result (t : State) (r : Word) : State := updDie t die (fun d => { d with result := r })
  let bytes := (slotBytes s.boot n).take (4096 + slotField s.boot n 8 8)
  (d.func = 1 → n < 2 → n ≠ s.boot.active.toNat → exec (.loadslot die) s = .next (result
    (dropPhys (physWrite s d.arg1.toNat bytes.length (numOf bytes)) c.asid d.arg1.toNat bytes.length) 0)) ∧
  (d.func = 1 → 2 ≤ n ∨ n = s.boot.active.toNat → exec (.loadslot die) s = .next (result s 1)) ∧
  (d.func = 2 → n < 2 ∨ n = 255 → n ≠ s.boot.active.toNat →
    exec (.setpending die) s = .next (result { s with boot := { s.boot with pending := BitVec.ofNat 8 n } } 0)) ∧
  (d.func = 2 → (2 ≤ n ∧ n ≠ 255) ∨ n = s.boot.active.toNat → exec (.setpending die) s = .next (result s 1)) ∧
  (d.func = 3 → exec (.measure die) s = .next (result
    { s with measure := Cells.set s.measure 3 (BitVec.ofNat 384 (beNum (bytesOf 48 (tableRead s d.arg1.toNat 48 2)))) } 0)) ∧
  (d.func = 4 → s.boot.pending ≠ 0xFF →
    exec (.commitCall die) s = .next (result { s with boot := { s.boot with active := s.boot.pending, pending := 0xFF } } 0)) ∧
  (d.func = 4 → s.boot.pending = 0xFF → exec (.commitCall die) s = .next (result s 1)) ∧
  (d.func ≠ 1 → exec (.loadslot die) s = .next s) ∧ (d.func ≠ 2 → exec (.setpending die) s = .next s) ∧ (d.func ≠ 3 → exec (.measure die) s = .next s) ∧
  (d.func ≠ 4 → exec (.commitCall die) s = .next s)) ∧
  (∀ (s : State) (die : Nat), monitorCaller s die = none →
    exec (.loadslot die) s = .next s ∧ exec (.setpending die) s = .next s ∧ exec (.measure die) s = .next s ∧ exec (.commitCall die) s = .next s) ∧
  (∀ (s : State) (slot : Byte), s.run = .running →
  (s.boot.pending = 0xFF → slot.toNat < 2 → exec (.selectActive slot) s = .next { s with boot := { s.boot with active := slot } }) ∧
  (s.boot.pending ≠ 0xFF ∨ 2 ≤ slot.toNat → exec (.selectActive slot) s = .next (tellHost s .mctpRefused)) ∧
  (∃ vs, exec .readSensors s = .next { s with fresh := s.fresh + 19, toHost := s.toHost ++ [.sensors vs] } ∧ vs.length = 19) ∧
  (exec .readBootRecord s = .next (tellHost s (.bootRecord (bootRecord s.boot)))) ∧ (s.boot.steps.length = 32 → (bootRecord s.boot).length = 1024))

/-! ### The host link -/

/-- Host accesses to an active VF that the IDE checks take (R308, R443, R444): they go on line by line, and one beyond the window is refused, a write with
event 14; a write, and a write of a counter word, waits behind those of its VF that wait for a part or a pin, and is otherwise performed at once as far
as it can be; a mask bit of MSI-X is set or cleared. With the link down, or for a VF that is not active, nothing is taken, and a read is answered as
unsupported. Of the PF's BAR0 a read gives the bytes, and writes go to its mailbox and counter page (R443; where these lie is the model's, assumption 117).
A wait on an absent part that times out is aborted or dropped, and the oldest such goes first. Where the BARs lie is the model's
(assumption 26). The IDE checks (R447): a TLP that fails its integrity check makes its stream Insecure and is dropped, and so is every later one of that
stream, one of another stream's range, and one without a stream into a stream's range; an interface that runs or demands IDE answers one outside its
stream as unsupported (R448). -/
def Obligations.HostAccesses : Prop :=
  (∀ (s t : State) (a : HostAccess) (v : Vf) (data : List Byte) (len : Nat) (w : Word), linkDown s = false → a.vf ≠ 0 → hostVf s a.vf = some v →
  let size := if a.off < 2 ^ 36 then 2097152 * v.winPages else 2 ^ 36 + 65536
  let behind (x : HostWait) : Bool := t.hostWaits.any (fun y => !y.read && y.acc.vf == x.acc.vf)
  let written (i : Instr) (x : HostWait) : Prop :=
    (behind x = true → exec i s = .next { t with hostWaits := t.hostWaits ++ [{ x with held := true }] }) ∧
    (∀ u, behind x = false → hostWriteGo (x.data.length + 1) t x = (u, none) → exec i s = .next u) ∧
    (∀ u y, behind x = false → hostWriteGo (x.data.length + 1) t x = (u, some y) → exec i s = .next { u with hostWaits := u.hostWaits ++ [y] })
  (takeTlp s a v (hostBus a.vf a.off) = (t, .ok) → a.off + len ≤ size →
    exec (.hostRead a len) s = .next (hostReadGo (len + 1) t { acc := { a with ep := false }, read := true, len := len, data := [] })) ∧
  (takeTlp s a v (hostBus a.vf a.off) = (t, .ok) → size < a.off + len → exec (.hostRead a len) s = .next (tellHost t (.unsupported a.tag))) ∧
  (takeTlp s a v (hostBus a.vf a.off) = (t, .dropped) → exec (.hostRead a len) s = .next t) ∧
  (takeTlp s a v (hostBus a.vf a.off) = (t, .unsupported) → exec (.hostRead a len) s = .next (tellHost t (.unsupported a.tag))) ∧
  (takeTlp s a v (bar2 a.vf a.off) = (t, .ok) → a.off + data.length ≤ 2097152 * v.winPages →
    written (.hostWrite a data) { acc := a, read := false, len := data.length, data := data }) ∧
  (takeTlp s a v (bar2 a.vf a.off) = (t, .ok) → 2097152 * v.winPages < a.off + data.length →
    exec (.hostWrite a data) s = .next (postDie t 0 { code := 14, detail := v.vf })) ∧
  (takeTlp s a v (bar2 a.vf a.off) = (t, .dropped) ∨ takeTlp s a v (bar2 a.vf a.off) = (t, .unsupported) → exec (.hostWrite a data) s = .next t) ∧
  (takeTlp s a v (bar0 a.vf a.off) = (t, .ok) → a.off < 4096 →
    written (.hostCounterWrite a w) { acc := { a with off := 2 ^ 36 + a.off }, read := false, len := 4, data := bytesOf 4 w.toNat }) ∧
  (takeTlp s a v (bar0 a.vf a.off) = (t, .ok) → 4096 ≤ a.off → a.off < 4352 → a.off % 16 = 12 →
    exec (.hostCounterWrite a w) s = .next (msixMaskWrite t a.vf ((a.off - 4096) / 16) (w.getLsbD 0))) ∧
  (takeTlp s a v (bar0 a.vf a.off) = (t, .dropped) ∨ takeTlp s a v (bar0 a.vf a.off) = (t, .unsupported) → exec (.hostCounterWrite a w) s = .next t)) ∧
  (∀ (s : State) (a : HostAccess) (data : List Byte) (len : Nat) (w : Word),
  (linkDown s = true → exec (.hostRead a len) s = .next s ∧ exec (.hostWrite a data) s = .next s ∧ exec (.hostCounterWrite a w) s = .next s) ∧
  (linkDown s = false → a.vf ≠ 0 → hostVf s a.vf = none →
    exec (.hostRead a len) s = .next (tellHost s (.unsupported a.tag)) ∧ exec (.hostWrite a data) s = .next s ∧ exec (.hostCounterWrite a w) s = .next s) ∧
  (linkDown s = false → a.vf = 0 → exec (.hostWrite a data) s = .next (pfWrite s a data) ∧ exec (.hostCounterWrite a w) s = .next (pfWord s a w) ∧
    (s.streams = [] → a.stream = none → 2 ^ 36 ≤ a.off → a.off + len ≤ 2 ^ 36 + 2 ^ 20 → exec (.hostRead a len) s =
      .next (tellHost s (.readData a.tag ((List.range len).map (fun j => pfByte s (a.off - 2 ^ 36 + j))) false))) ∧
    (s.streams = [] → a.stream = none → (a.off < 2 ^ 36 ∨ 2 ^ 36 + 2 ^ 20 < a.off + len) →
      exec (.hostRead a len) s = .next (tellHost s (.unsupported a.tag))))) ∧
  (∀ (s : State) (y : HostWait), s.hostWaits.find? (fun w => !w.held && !(w.read && s.reqs.any (fun r => r.who == .host w.acc.tag))) = some y →
  let t : State := { s with hostWaits := s.hostWaits.erase y }
  exec .hostAccessTimeout s = .next (if y.read then tellHost t (.abort y.acc.tag) else t)) ∧
  (∀ (s : State) (a : HostAccess) (v : Vf) (addr n : Nat) (x : IdeStream),
  (a.stream = some n → a.intact = false → findStream s n = some x →
    (takeTlp s a v addr).2 = .dropped ∧ ∀ y, findStream (takeTlp s a v addr).1 n = some y → y.insecure = true) ∧
  (a.stream = some n → a.intact = true → findStream s n = some x → x.insecure = true → takeTlp s a v addr = (s, .dropped)) ∧
  (a.stream = some n → a.intact = true → findStream s n = some x → x.insecure = false → s.streams.any (fun y => y.stream ≠ n && y.holds addr) = true →
    takeTlp s a v addr = (s, .dropped)) ∧
  (a.stream = some n → a.intact = true → findStream s n = some x → x.insecure = false → s.streams.any (fun y => y.stream ≠ n && y.holds addr) = false →
    takeTlp s a v addr = (s, if (v.ideReq || v.tdi = 2) && n ≠ v.ide then .unsupported else .ok)) ∧
  (a.stream = none → x ∈ s.streams → x.holds addr = true → takeTlp s a v addr = (s, .dropped)) ∧
  (a.stream = none → s.streams.any (fun x => x.holds addr) = false →
    takeTlp s a v addr = (s, if v.ideReq || v.tdi = 2 then .unsupported else .ok)))

/-- The security protocol's requests (R446): a running device answers each on the endpoint it came from, one in recovery on its MCTP endpoint (R466), and one
above 105 °C there with its thermal state (R469); at most four sessions are open, and a request for an unknown session or an unknown request is answered
with ERROR. The answers that the spec gives whole are SPDM 1.3, the algorithms and the measurements. The response codes are the model's numbers
(assumption 29). Device interfaces (R447, R448): a stream is programmed within a finished session; an interface is locked when its stream covers its BARs
and started once it is locked, a report names its BARs and window, and nothing else changes an interface's state. -/
def Obligations.SecurityInterfaces : Prop :=
  (∀ (s : State) (e : Endpoint) (a b : Nat),
  let attended : Prop := s.run = .running ∨ ∃ n, s.run = .recovery n ∧ n ≠ 30 ∧ e = .mctp
  let known : Bool := s.sessions.any (fun x => x.id == a)
  let replies (i : Instr) (code : Nat) : Prop := ∃ t body, exec i s = .next t ∧ t.toHost = s.toHost ++ [.spdm e code body] ∧ t.cur = s.cur ∧ t.mem = s.mem
  let requests : List Instr := [.getVersion e, .getCapabilities e, .negotiateAlgorithms e, .getDigests e, .getCertificate e a, .challenge e a b,
    .getMeasurements e a, .keyExchange e a, .finish e a, .endSession e a, .spdmUnsupportedRequest e a]
  (attended → exec (.getVersion e) s = .next (tellHost s (.spdm e 0 [0x13])) ∧ replies (.getCapabilities e) 1 ∧
    exec (.negotiateAlgorithms e) s = .next (tellHost s (.spdm e 2 [0, 1, 2])) ∧ replies (.getDigests e) 3 ∧
    replies (.getCertificate e a) 4 ∧ replies (.challenge e a b) 5 ∧
    exec (.getMeasurements e a) s = .next (tellHost s (.spdm e 6 ((if a = 0 then [1, 2, 3, 4] else [a]).map (fun k => (Cells.get s.measure k).toNat)))) ∧
    (s.sessions.length < 4 → replies (.keyExchange e a) 7 ∧ ∃ t, exec (.keyExchange e a) s = .next t ∧ t.sessions = s.sessions ++ [{ id := a, finished := false }]) ∧
    (4 ≤ s.sessions.length → exec (.keyExchange e a) s = .next (tellHost s (.spdmError e true))) ∧
    (known = true → exec (.finish e a) s = .next (tellHost { s with sessions := updWhere (fun x => x.id == a) (fun x => { x with finished := true }) s.sessions }
      (.spdm e 8 [a]))) ∧
    (known = true → exec (.endSession e a) s = .next (tellHost { s with sessions := s.sessions.filter (fun x => x.id ≠ a) } (.spdm e 9 [a]))) ∧
    (known = false → exec (.finish e a) s = .next (tellHost s (.spdmError e false)) ∧ exec (.endSession e a) s = .next (tellHost s (.spdmError e false))) ∧
    exec (.spdmUnsupportedRequest e a) s = .next (tellHost s (.spdmError e false))) ∧
  (∀ i ∈ requests, (s.run = .thermal → exec i s = .next (if e = .mctp then tellHost s .thermal else s)) ∧
    (s.run = .held ∨ s.run = .stopped ∨ (∃ n, s.run = .recovery n ∧ (n = 30 ∨ e ≠ .mctp)) → exec i s = .next s))) ∧
  (∀ (s : State) (vf session stream : Nat) (ranges : List (Nat × Nat)) (v : Vf),
  let allowed : Prop := s.sessions.any (fun x => x.id == session && x.finished) = true ∧ stream < 4 ∧ ranges.length ≤ 4
  (allowed → exec (.ideKm session stream ranges) s =
    .next { s with streams := putWhere (fun x => x.stream == stream) { stream := stream, ranges := ranges, insecure := false } s.streams }) ∧
  (¬ allowed → exec (.ideKm session stream ranges) s = .next s) ∧
  (hostVf s vf = some v → v.tdi = 0 → vfCovered s v = true → exec (.lockInterface vf) s = .next (setTdi s vf 1)) ∧
  (hostVf s vf = some v → (v.tdi ≠ 0 ∨ vfCovered s v = false) → exec (.lockInterface vf) s = .next s) ∧
  (hostVf s vf = some v → v.tdi = 1 → exec (.startInterface vf) s = .next (setTdi s vf 2)) ∧
  (hostVf s vf = some v → v.tdi ≠ 1 → exec (.startInterface vf) s = .next s) ∧
  (hostVf s vf = none → exec (.lockInterface vf) s = .next s ∧ exec (.startInterface vf) s = .next s) ∧
  (s.vfs.find? (fun v => v.vf == vf && v.state ≠ 0) = some v → exec (.getDeviceInterfaceReport vf) s = .next (tellHost s
    (.report vf [bar0 vf 0, bar2 vf 0, 2097152 * v.winPages, beNum (sha true (bytesOf 32 (vfBytes v)))]))) ∧
  (s.vfs.find? (fun v => v.vf == vf && v.state ≠ 0) = none → exec (.getDeviceInterfaceReport vf) s = .next s))
end

