-- ==== Sys2Proof/Laws/Cells.lean ====
section
/-! SUPPORT. The laws of cells: what a read gives after a write, and that every operation on cells keeps the canonical form. -/

namespace Sys2Proof.Machine

/-- No key up to the bound is listed. -/
theorem Cells.get_of_wfAbove {w : Nat} (cs : Cells w) (b k : Nat) (h : Cells.wfAbove (some b) cs = true) (hk : k ≤ b) : Cells.get cs k = 0 := by
  cases cs with
  | nil => rfl
  | cons p rest =>
    obtain ⟨a, x⟩ := p
    simp only [Cells.wfAbove, Bool.and_eq_true, decide_eq_true_eq] at h
    have h1 : ¬ a = k := by omega
    have h2 : k < a := by omega
    simp [Cells.get, h1, h2]

/-- A weaker bound. -/
theorem Cells.wfAbove_mono {w : Nat} (cs : Cells w) (lo : Option Nat) (b : Nat) (h : Cells.wfAbove (some b) cs = true)
    (hb : ∀ a, lo = some a → a ≤ b) : Cells.wfAbove lo cs = true := by
  cases cs with
  | nil => rfl
  | cons p rest =>
    obtain ⟨a, x⟩ := p
    simp only [Cells.wfAbove, Bool.and_eq_true, decide_eq_true_eq] at h ⊢
    refine ⟨⟨?_, h.1.2⟩, h.2⟩
    cases lo with
    | none => rfl
    | some c => have := hb c rfl; simp; omega

/-- What the canonical form of a list with a head says. -/
theorem Cells.wfAbove_cons {w : Nat} (lo : Option Nat) (a : Nat) (x : BitVec w) (rest : Cells w) :
    Cells.wfAbove lo ((a, x) :: rest) = true ↔ (∀ b, lo = some b → b < a) ∧ x ≠ 0 ∧ Cells.wfAbove (some a) rest = true := by
  cases lo <;> simp [Cells.wfAbove, and_assoc]

/-- A write keeps the canonical form above a bound below its key. -/
theorem Cells.wfAbove_set {w : Nat} (cs : Cells w) (lo : Option Nat) (k : Nat) (v : BitVec w) (h : Cells.wfAbove lo cs = true)
    (hk : ∀ a, lo = some a → a < k) : Cells.wfAbove lo (Cells.set cs k v) = true := by
  induction cs generalizing lo with
  | nil =>
    unfold Cells.set
    by_cases hv : v = 0
    · rw [if_pos hv]; rfl
    · rw [if_neg hv, Cells.wfAbove_cons]; exact ⟨hk, hv, rfl⟩
  | cons p rest ih =>
    obtain ⟨a, x⟩ := p
    have h0 := h
    rw [Cells.wfAbove_cons] at h
    obtain ⟨h1, h2, h3⟩ := h
    unfold Cells.set
    by_cases hka : k < a
    · rw [if_pos hka]
      by_cases hv : v = 0
      · rw [if_pos hv]; exact h0
      · rw [if_neg hv, Cells.wfAbove_cons, Cells.wfAbove_cons]
        exact ⟨hk, hv, fun b hb => by cases hb; exact hka, h2, h3⟩
    · rw [if_neg hka]
      by_cases hkb : k = a
      · rw [if_pos hkb]
        subst hkb
        by_cases hv : v = 0
        · rw [if_pos hv]
          exact Cells.wfAbove_mono rest lo k h3 fun c hc => Nat.le_of_lt (hk c hc)
        · rw [if_neg hv, Cells.wfAbove_cons]; exact ⟨hk, hv, h3⟩
      · rw [if_neg hkb, Cells.wfAbove_cons]
        exact ⟨h1, h2, ih (some a) h3 fun c hc => by cases hc; omega⟩

/-- A write keeps the canonical form. -/
theorem Cells.wf_set {w : Nat} (cs : Cells w) (k : Nat) (v : BitVec w) (h : Cells.wf cs = true) : Cells.wf (Cells.set cs k v) = true :=
  Cells.wfAbove_set cs none k v h (by simp)

/-- What a read of a list with a head gives. -/
theorem Cells.get_cons {w : Nat} (a : Nat) (x : BitVec w) (rest : Cells w) (k : Nat) :
    Cells.get ((a, x) :: rest) k = if a = k then x else if k < a then 0 else Cells.get rest k := rfl

/-- What a read gives after a write, above a bound. -/
theorem Cells.get_set_above {w : Nat} (cs : Cells w) (lo : Option Nat) (k j : Nat) (v : BitVec w) (h : Cells.wfAbove lo cs = true) :
    Cells.get (Cells.set cs k v) j = if j = k then v else Cells.get cs j := by
  induction cs generalizing lo with
  | nil =>
    unfold Cells.set
    by_cases hv : v = 0
    · rw [if_pos hv]; subst hv; simp [Cells.get]
    · rw [if_neg hv, Cells.get_cons]
      simp only [eq_comm (a := j)]
      split
      · rfl
      · split <;> rfl
  | cons p rest ih =>
    obtain ⟨a, x⟩ := p
    rw [Cells.wfAbove_cons] at h
    have h3 := h.2.2
    unfold Cells.set
    by_cases hka : k < a
    · rw [if_pos hka]
      by_cases hv : v = 0
      · rw [if_pos hv]
        by_cases hj : j = k
        · subst hj; rw [if_pos rfl, Cells.get_cons, if_neg (by omega), if_pos hka, hv]
        · rw [if_neg hj]
      · rw [if_neg hv]
        by_cases hj : j = k
        · subst hj; rw [if_pos rfl, Cells.get_cons, if_pos rfl]
        · rw [if_neg hj, Cells.get_cons, if_neg (Ne.symm hj)]
          by_cases hl : j < k
          · rw [if_pos hl, Cells.get_cons, if_neg (by omega), if_pos (by omega)]
          · rw [if_neg hl]
    · rw [if_neg hka]
      by_cases hkb : k = a
      · rw [if_pos hkb]
        subst hkb
        by_cases hv : v = 0
        · rw [if_pos hv]
          by_cases hj : j = k
          · subst hj; rw [if_pos rfl, hv]; exact Cells.get_of_wfAbove rest j j h3 (le_refl _)
          · rw [if_neg hj, Cells.get_cons, if_neg (Ne.symm hj)]
            by_cases hl : j < k
            · rw [if_pos hl]; exact Cells.get_of_wfAbove rest k j h3 (by omega)
            · rw [if_neg hl]
        · rw [if_neg hv]
          by_cases hj : j = k
          · subst hj; rw [if_pos rfl, Cells.get_cons, if_pos rfl]
          · rw [if_neg hj, Cells.get_cons, Cells.get_cons, if_neg (Ne.symm hj), if_neg (Ne.symm hj)]
      · rw [if_neg hkb, Cells.get_cons, Cells.get_cons, ih (some a) h3]
        by_cases hj : j = k
        · subst hj; rw [if_pos rfl, if_neg (by omega), if_neg hka, if_pos rfl]
        · simp only [if_neg hj]

/-- What a read gives after a write. -/
theorem Cells.get_set {w : Nat} (cs : Cells w) (k j : Nat) (v : BitVec w) (h : Cells.wf cs = true) :
    Cells.get (Cells.set cs k v) j = if j = k then v else Cells.get cs j :=
  Cells.get_set_above cs none k j v h

/-- Dropping keys keeps the canonical form above a bound. -/
theorem Cells.wfAbove_filter {w : Nat} (cs : Cells w) (lo : Option Nat) (p : Nat × BitVec w → Bool) (h : Cells.wfAbove lo cs = true) :
    Cells.wfAbove lo (cs.filter p) = true := by
  induction cs generalizing lo with
  | nil => simpa using h
  | cons q rest ih =>
    obtain ⟨a, x⟩ := q
    simp only [Cells.wfAbove, Bool.and_eq_true, decide_eq_true_eq] at h
    obtain ⟨⟨h1, h2⟩, h3⟩ := h
    by_cases hp : p (a, x) = true
    · simp only [List.filter_cons, hp, if_true, Cells.wfAbove, Bool.and_eq_true, decide_eq_true_eq]
      exact ⟨⟨h1, h2⟩, ih (some a) h3⟩
    · simp only [List.filter_cons, hp]
      refine ih lo (Cells.wfAbove_mono rest lo a h3 ?_)
      intro c hc; subst hc; simp at h1; omega

/-- Dropping keys keeps the canonical form. -/
theorem Cells.wf_filter {w : Nat} (cs : Cells w) (p : Nat × BitVec w → Bool) (h : Cells.wf cs = true) : Cells.wf (cs.filter p) = true :=
  Cells.wfAbove_filter cs none p h

/-- Dropping a stretch keeps the canonical form. -/
theorem Cells.wf_drop {w : Nat} (cs : Cells w) (lo hi : Nat) (h : Cells.wf cs = true) : Cells.wf (Cells.drop cs lo hi) = true :=
  Cells.wf_filter cs _ h

/-- Writing several keys keeps the canonical form. -/
theorem Cells.wf_setAll {w : Nat} (kvs : List (Nat × BitVec w)) (cs : Cells w) (h : Cells.wf cs = true) : Cells.wf (Cells.setAll cs kvs) = true := by
  induction kvs generalizing cs with
  | nil => exact h
  | cons p rest ih => exact ih _ (Cells.wf_set cs p.1 p.2 h)

/-- Writing one key for each member of a list keeps the canonical form. -/
theorem Cells.wf_foldl {w : Nat} {α : Type} (ls : List α) (key : α → Nat) (f : Cells w → α → BitVec w) (cs : Cells w) (h : Cells.wf cs = true) :
    Cells.wf (ls.foldl (fun y a => Cells.set y (key a) (f y a)) cs) = true := by
  induction ls generalizing cs with
  | nil => exact h
  | cons p rest ih => exact ih _ (Cells.wf_set cs _ _ h)

/-- What a read gives after one write for each member of a list of keys. -/
theorem Cells.get_foldl {w : Nat} (ls : List Nat) (f : Nat → BitVec w) (cs : Cells w) (j : Nat) (h : Cells.wf cs = true) :
    Cells.get (ls.foldl (fun y i => Cells.set y i (f i)) cs) j = if j ∈ ls then f j else Cells.get cs j := by
  induction ls generalizing cs with
  | nil => simp
  | cons a rest ih =>
    simp only [List.foldl_cons, ih _ (Cells.wf_set cs a (f a) h), Cells.get_set cs a j (f a) h, List.mem_cons]
    by_cases hj : j = a
    · subst hj; simp
    · simp [hj]

/-- Two canonical lists that read alike are one. -/
theorem Cells.ext_above {w : Nat} (x y : Cells w) (lo : Option Nat) (hx : Cells.wfAbove lo x = true) (hy : Cells.wfAbove lo y = true)
    (h : ∀ k, Cells.get x k = Cells.get y k) : x = y := by
  induction x generalizing y lo with
  | nil =>
    cases y with
    | nil => rfl
    | cons q rest =>
      obtain ⟨b, v⟩ := q
      simp only [Cells.wfAbove, Bool.and_eq_true, decide_eq_true_eq] at hy
      have := h b; simp [Cells.get] at this; exact absurd this.symm hy.1.2
  | cons p rest ih =>
    obtain ⟨a, u⟩ := p
    simp only [Cells.wfAbove, Bool.and_eq_true, decide_eq_true_eq] at hx
    cases y with
    | nil => have := h a; simp [Cells.get] at this; exact absurd this hx.1.2
    | cons q rest' =>
      obtain ⟨b, v⟩ := q
      simp only [Cells.wfAbove, Bool.and_eq_true, decide_eq_true_eq] at hy
      have hab : a = b := by
        rcases Nat.lt_trichotomy a b with hl | he | hg
        · have := h a
          have h1 : ¬ b = a := by omega
          simp [Cells.get, h1, hl] at this
          exact absurd this hx.1.2
        · exact he
        · have := h b
          have h1 : ¬ a = b := by omega
          simp [Cells.get, h1, hg] at this
          exact absurd this.symm hy.1.2
      subst hab
      have huv : u = v := by have := h a; simpa [Cells.get] using this
      subst huv
      congr 1
      refine ih rest' (some a) hx.2 hy.2 ?_
      intro k
      by_cases hk : k ≤ a
      · rw [Cells.get_of_wfAbove rest a k hx.2 hk, Cells.get_of_wfAbove rest' a k hy.2 hk]
      · have := h k
        have h1 : ¬ a = k := by omega
        have h2 : ¬ k < a := by omega
        simpa [Cells.get, h1, h2] using this

/-- Two canonical lists that read alike are one. -/
theorem Cells.ext {w : Nat} (x y : Cells w) (hx : Cells.wf x = true) (hy : Cells.wf y = true) (h : ∀ k, Cells.get x k = Cells.get y k) : x = y :=
  Cells.ext_above x y none hx hy h

end Sys2Proof.Machine
end

