-- ==== Sys2Proof/Laws/State.lean ====
section
/-! SUPPORT. What each field of a state reads after each of the small updates that meanings are made of. -/

namespace Sys2Proof.Machine

/-! ### A change of the course in the issue unit -/

@[simp] theorem State.upd_cur (s : State) (f : Course → Course) : (s.upd f).cur = f s.cur := rfl
@[simp] theorem State.upd_upd (s : State) (f g : Course → Course) : (s.upd f).upd g = s.upd (fun c => g (f c)) := rfl
@[simp] theorem State.upd_courses (s : State) (f : Course → Course) : (s.upd f).courses = s.courses := rfl
@[simp] theorem State.upd_iss (s : State) (f : Course → Course) : (s.upd f).iss = s.iss := rfl
@[simp] theorem State.upd_bonds (s : State) (f : Course → Course) : (s.upd f).bonds = s.bonds := rfl
@[simp] theorem State.upd_piers (s : State) (f : Course → Course) : (s.upd f).piers = s.piers := rfl
@[simp] theorem State.upd_spans (s : State) (f : Course → Course) : (s.upd f).spans = s.spans := rfl
@[simp] theorem State.upd_queues (s : State) (f : Course → Course) : (s.upd f).queues = s.queues := rfl
@[simp] theorem State.upd_nextId (s : State) (f : Course → Course) : (s.upd f).nextId = s.nextId := rfl
@[simp] theorem State.upd_mem (s : State) (f : Course → Course) : (s.upd f).mem = s.mem := rfl
@[simp] theorem State.upd_hpoison (s : State) (f : Course → Course) : (s.upd f).hpoison = s.hpoison := rfl
@[simp] theorem State.upd_l1 (s : State) (f : Course → Course) : (s.upd f).l1 = s.l1 := rfl
@[simp] theorem State.upd_l2 (s : State) (f : Course → Course) : (s.upd f).l2 = s.l2 := rfl
@[simp] theorem State.upd_tlb (s : State) (f : Course → Course) : (s.upd f).tlb = s.tlb := rfl
@[simp] theorem State.upd_banks (s : State) (f : Course → Course) : (s.upd f).banks = s.banks := rfl
@[simp] theorem State.upd_asids (s : State) (f : Course → Course) : (s.upd f).asids = s.asids := rfl
@[simp] theorem State.upd_shares (s : State) (f : Course → Course) : (s.upd f).shares = s.shares := rfl
@[simp] theorem State.upd_frames (s : State) (f : Course → Course) : (s.upd f).frames = s.frames := rfl
@[simp] theorem State.upd_quoins (s : State) (f : Course → Course) : (s.upd f).quoins = s.quoins := rfl
@[simp] theorem State.upd_parts (s : State) (f : Course → Course) : (s.upd f).parts = s.parts := rfl
@[simp] theorem State.upd_leases (s : State) (f : Course → Course) : (s.upd f).leases = s.leases := rfl
@[simp] theorem State.upd_rings (s : State) (f : Course → Course) : (s.upd f).rings = s.rings := rfl
@[simp] theorem State.upd_parks (s : State) (f : Course → Course) : (s.upd f).parks = s.parks := rfl
@[simp] theorem State.upd_tvec1 (s : State) (f : Course → Course) : (s.upd f).tvec1 = s.tvec1 := rfl
@[simp] theorem State.upd_lbad (s : State) (f : Course → Course) : (s.upd f).lbad = s.lbad := rfl
@[simp] theorem State.upd_commit (s : State) (f : Course → Course) : (s.upd f).commit = s.commit := rfl
@[simp] theorem State.upd_sweeps (s : State) (f : Course → Course) : (s.upd f).sweeps = s.sweeps := rfl
@[simp] theorem State.upd_budgets (s : State) (f : Course → Course) : (s.upd f).budgets = s.budgets := rfl
@[simp] theorem State.upd_lastServed (s : State) (f : Course → Course) : (s.upd f).lastServed = s.lastServed := rfl
@[simp] theorem State.upd_gangOnly (s : State) (f : Course → Course) : (s.upd f).gangOnly = s.gangOnly := rfl
@[simp] theorem State.upd_buckets (s : State) (f : Course → Course) : (s.upd f).buckets = s.buckets := rfl
@[simp] theorem State.upd_allowances (s : State) (f : Course → Course) : (s.upd f).allowances = s.allowances := rfl
@[simp] theorem State.upd_perf (s : State) (f : Course → Course) : (s.upd f).perf = s.perf := rfl
@[simp] theorem State.upd_window (s : State) (f : Course → Course) : (s.upd f).window = s.window := rfl
@[simp] theorem State.upd_announced (s : State) (f : Course → Course) : (s.upd f).announced = s.announced := rfl
@[simp] theorem State.upd_prqs (s : State) (f : Course → Course) : (s.upd f).prqs = s.prqs := rfl
@[simp] theorem State.upd_domId (s : State) (f : Course → Course) : (s.upd f).domId = s.domId := rfl
@[simp] theorem State.upd_devId (s : State) (f : Course → Course) : (s.upd f).devId = s.devId := rfl
@[simp] theorem State.upd_nDev (s : State) (f : Course → Course) : (s.upd f).nDev = s.nDev := rfl
@[simp] theorem State.upd_gangTo (s : State) (f : Course → Course) : (s.upd f).gangTo = s.gangTo := rfl
@[simp] theorem State.upd_kasid (s : State) (f : Course → Course) : (s.upd f).kasid = s.kasid := rfl
@[simp] theorem State.upd_ken (s : State) (f : Course → Course) : (s.upd f).ken = s.ken := rfl
@[simp] theorem State.upd_ports (s : State) (f : Course → Course) : (s.upd f).ports = s.ports := rfl
@[simp] theorem State.upd_vfs (s : State) (f : Course → Course) : (s.upd f).vfs = s.vfs := rfl
@[simp] theorem State.upd_sent (s : State) (f : Course → Course) : (s.upd f).sent = s.sent := rfl
@[simp] theorem State.upd_donePosted (s : State) (f : Course → Course) : (s.upd f).donePosted = s.donePosted := rfl
@[simp] theorem State.upd_psn (s : State) (f : Course → Course) : (s.upd f).psn = s.psn := rfl
@[simp] theorem State.upd_rxPsn (s : State) (f : Course → Course) : (s.upd f).rxPsn = s.rxPsn := rfl
@[simp] theorem State.upd_tags (s : State) (f : Course → Course) : (s.upd f).tags = s.tags := rfl
@[simp] theorem State.upd_gangs (s : State) (f : Course → Course) : (s.upd f).gangs = s.gangs := rfl
@[simp] theorem State.upd_tx (s : State) (f : Course → Course) : (s.upd f).tx = s.tx := rfl
@[simp] theorem State.upd_reqs (s : State) (f : Course → Course) : (s.upd f).reqs = s.reqs := rfl
@[simp] theorem State.upd_nextTag (s : State) (f : Course → Course) : (s.upd f).nextTag = s.nextTag := rfl
@[simp] theorem State.upd_invWait (s : State) (f : Course → Course) : (s.upd f).invWait = s.invWait := rfl
@[simp] theorem State.upd_unsent (s : State) (f : Course → Course) : (s.upd f).unsent = s.unsent := rfl
@[simp] theorem State.upd_flushes (s : State) (f : Course → Course) : (s.upd f).flushes = s.flushes := rfl
@[simp] theorem State.upd_hostWaits (s : State) (f : Course → Course) : (s.upd f).hostWaits = s.hostWaits := rfl
@[simp] theorem State.upd_toHost (s : State) (f : Course → Course) : (s.upd f).toHost = s.toHost := rfl
@[simp] theorem State.upd_msixMask (s : State) (f : Course → Course) : (s.upd f).msixMask = s.msixMask := rfl
@[simp] theorem State.upd_msixPend (s : State) (f : Course → Course) : (s.upd f).msixPend = s.msixPend := rfl
@[simp] theorem State.upd_sessions (s : State) (f : Course → Course) : (s.upd f).sessions = s.sessions := rfl
@[simp] theorem State.upd_streams (s : State) (f : Course → Course) : (s.upd f).streams = s.streams := rfl
@[simp] theorem State.upd_measure (s : State) (f : Course → Course) : (s.upd f).measure = s.measure := rfl
@[simp] theorem State.upd_die0 (s : State) (f : Course → Course) : (s.upd f).die0 = s.die0 := rfl
@[simp] theorem State.upd_die1 (s : State) (f : Course → Course) : (s.upd f).die1 = s.die1 := rfl
@[simp] theorem State.upd_boot (s : State) (f : Course → Course) : (s.upd f).boot = s.boot := rfl
@[simp] theorem State.upd_run (s : State) (f : Course → Course) : (s.upd f).run = s.run := rfl
@[simp] theorem State.upd_inputs (s : State) (f : Course → Course) : (s.upd f).inputs = s.inputs := rfl
@[simp] theorem State.upd_fresh (s : State) (f : Course → Course) : (s.upd f).fresh = s.fresh := rfl
@[simp] theorem State.upd_hmeta (s : State) (f : Course → Course) : (s.upd f).hmeta = s.hmeta := rfl
@[simp] theorem State.upd_walkCache (s : State) (f : Course → Course) : (s.upd f).walkCache = s.walkCache := rfl
@[simp] theorem State.upd_parkOrder (s : State) (f : Course → Course) : (s.upd f).parkOrder = s.parkOrder := rfl
@[simp] theorem State.upd_acks (s : State) (f : Course → Course) : (s.upd f).acks = s.acks := rfl
@[simp] theorem State.upd_refusedRx (s : State) (f : Course → Course) : (s.upd f).refusedRx = s.refusedRx := rfl
@[simp] theorem State.upd_turns (s : State) (f : Course → Course) : (s.upd f).turns = s.turns := rfl

/-! ### The issuing subset advances -/

@[simp] theorem State.pass_cur (s : State) (x : Ops) : (s.pass x).cur = s.cur.advance s.iss.mask x.len := rfl
@[simp] theorem State.pass_iss (s : State) (x : Ops) : (s.pass x).iss = s.iss := rfl
@[simp] theorem State.pass_courses (s : State) (x : Ops) : (s.pass x).courses = s.courses := rfl
@[simp] theorem State.pass_mem (s : State) (x : Ops) : (s.pass x).mem = s.mem := rfl
@[simp] theorem State.pass_l1 (s : State) (x : Ops) : (s.pass x).l1 = s.l1 := rfl
@[simp] theorem State.pass_l2 (s : State) (x : Ops) : (s.pass x).l2 = s.l2 := rfl
@[simp] theorem State.pass_tlb (s : State) (x : Ops) : (s.pass x).tlb = s.tlb := rfl
@[simp] theorem State.pass_bonds (s : State) (x : Ops) : (s.pass x).bonds = s.bonds := rfl
@[simp] theorem State.pass_piers (s : State) (x : Ops) : (s.pass x).piers = s.piers := rfl
@[simp] theorem State.pass_spans (s : State) (x : Ops) : (s.pass x).spans = s.spans := rfl
@[simp] theorem State.pass_die0 (s : State) (x : Ops) : (s.pass x).die0 = s.die0 := rfl
@[simp] theorem State.pass_die1 (s : State) (x : Ops) : (s.pass x).die1 = s.die1 := rfl
@[simp] theorem State.pass_tvec1 (s : State) (x : Ops) : (s.pass x).tvec1 = s.tvec1 := rfl
@[simp] theorem State.pass_run (s : State) (x : Ops) : (s.pass x).run = s.run := rfl
@[simp] theorem State.pass_inputs (s : State) (x : Ops) : (s.pass x).inputs = s.inputs := rfl
@[simp] theorem State.pass_queues (s : State) (x : Ops) : (s.pass x).queues = s.queues := rfl
@[simp] theorem State.pass_nextId (s : State) (x : Ops) : (s.pass x).nextId = s.nextId := rfl
@[simp] theorem State.pass_hpoison (s : State) (x : Ops) : (s.pass x).hpoison = s.hpoison := rfl
@[simp] theorem State.pass_hmeta (s : State) (x : Ops) : (s.pass x).hmeta = s.hmeta := rfl
@[simp] theorem State.pass_banks (s : State) (x : Ops) : (s.pass x).banks = s.banks := rfl
@[simp] theorem State.pass_walkCache (s : State) (x : Ops) : (s.pass x).walkCache = s.walkCache := rfl
@[simp] theorem State.pass_asids (s : State) (x : Ops) : (s.pass x).asids = s.asids := rfl
@[simp] theorem State.pass_shares (s : State) (x : Ops) : (s.pass x).shares = s.shares := rfl
@[simp] theorem State.pass_frames (s : State) (x : Ops) : (s.pass x).frames = s.frames := rfl
@[simp] theorem State.pass_quoins (s : State) (x : Ops) : (s.pass x).quoins = s.quoins := rfl
@[simp] theorem State.pass_parts (s : State) (x : Ops) : (s.pass x).parts = s.parts := rfl
@[simp] theorem State.pass_leases (s : State) (x : Ops) : (s.pass x).leases = s.leases := rfl
@[simp] theorem State.pass_rings (s : State) (x : Ops) : (s.pass x).rings = s.rings := rfl
@[simp] theorem State.pass_parks (s : State) (x : Ops) : (s.pass x).parks = s.parks := rfl
@[simp] theorem State.pass_parkOrder (s : State) (x : Ops) : (s.pass x).parkOrder = s.parkOrder := rfl
@[simp] theorem State.pass_lbad (s : State) (x : Ops) : (s.pass x).lbad = s.lbad := rfl
@[simp] theorem State.pass_commit (s : State) (x : Ops) : (s.pass x).commit = s.commit := rfl
@[simp] theorem State.pass_sweeps (s : State) (x : Ops) : (s.pass x).sweeps = s.sweeps := rfl
@[simp] theorem State.pass_budgets (s : State) (x : Ops) : (s.pass x).budgets = s.budgets := rfl
@[simp] theorem State.pass_lastServed (s : State) (x : Ops) : (s.pass x).lastServed = s.lastServed := rfl
@[simp] theorem State.pass_gangOnly (s : State) (x : Ops) : (s.pass x).gangOnly = s.gangOnly := rfl
@[simp] theorem State.pass_buckets (s : State) (x : Ops) : (s.pass x).buckets = s.buckets := rfl
@[simp] theorem State.pass_allowances (s : State) (x : Ops) : (s.pass x).allowances = s.allowances := rfl
@[simp] theorem State.pass_perf (s : State) (x : Ops) : (s.pass x).perf = s.perf := rfl
@[simp] theorem State.pass_window (s : State) (x : Ops) : (s.pass x).window = s.window := rfl
@[simp] theorem State.pass_announced (s : State) (x : Ops) : (s.pass x).announced = s.announced := rfl
@[simp] theorem State.pass_prqs (s : State) (x : Ops) : (s.pass x).prqs = s.prqs := rfl
@[simp] theorem State.pass_domId (s : State) (x : Ops) : (s.pass x).domId = s.domId := rfl
@[simp] theorem State.pass_devId (s : State) (x : Ops) : (s.pass x).devId = s.devId := rfl
@[simp] theorem State.pass_nDev (s : State) (x : Ops) : (s.pass x).nDev = s.nDev := rfl
@[simp] theorem State.pass_gangTo (s : State) (x : Ops) : (s.pass x).gangTo = s.gangTo := rfl
@[simp] theorem State.pass_kasid (s : State) (x : Ops) : (s.pass x).kasid = s.kasid := rfl
@[simp] theorem State.pass_ken (s : State) (x : Ops) : (s.pass x).ken = s.ken := rfl
@[simp] theorem State.pass_ports (s : State) (x : Ops) : (s.pass x).ports = s.ports := rfl
@[simp] theorem State.pass_vfs (s : State) (x : Ops) : (s.pass x).vfs = s.vfs := rfl
@[simp] theorem State.pass_sent (s : State) (x : Ops) : (s.pass x).sent = s.sent := rfl
@[simp] theorem State.pass_donePosted (s : State) (x : Ops) : (s.pass x).donePosted = s.donePosted := rfl
@[simp] theorem State.pass_psn (s : State) (x : Ops) : (s.pass x).psn = s.psn := rfl
@[simp] theorem State.pass_rxPsn (s : State) (x : Ops) : (s.pass x).rxPsn = s.rxPsn := rfl
@[simp] theorem State.pass_tags (s : State) (x : Ops) : (s.pass x).tags = s.tags := rfl
@[simp] theorem State.pass_gangs (s : State) (x : Ops) : (s.pass x).gangs = s.gangs := rfl
@[simp] theorem State.pass_tx (s : State) (x : Ops) : (s.pass x).tx = s.tx := rfl
@[simp] theorem State.pass_reqs (s : State) (x : Ops) : (s.pass x).reqs = s.reqs := rfl
@[simp] theorem State.pass_nextTag (s : State) (x : Ops) : (s.pass x).nextTag = s.nextTag := rfl
@[simp] theorem State.pass_invWait (s : State) (x : Ops) : (s.pass x).invWait = s.invWait := rfl
@[simp] theorem State.pass_acks (s : State) (x : Ops) : (s.pass x).acks = s.acks := rfl
@[simp] theorem State.pass_refusedRx (s : State) (x : Ops) : (s.pass x).refusedRx = s.refusedRx := rfl
@[simp] theorem State.pass_unsent (s : State) (x : Ops) : (s.pass x).unsent = s.unsent := rfl
@[simp] theorem State.pass_flushes (s : State) (x : Ops) : (s.pass x).flushes = s.flushes := rfl
@[simp] theorem State.pass_hostWaits (s : State) (x : Ops) : (s.pass x).hostWaits = s.hostWaits := rfl
@[simp] theorem State.pass_toHost (s : State) (x : Ops) : (s.pass x).toHost = s.toHost := rfl
@[simp] theorem State.pass_msixMask (s : State) (x : Ops) : (s.pass x).msixMask = s.msixMask := rfl
@[simp] theorem State.pass_msixPend (s : State) (x : Ops) : (s.pass x).msixPend = s.msixPend := rfl
@[simp] theorem State.pass_sessions (s : State) (x : Ops) : (s.pass x).sessions = s.sessions := rfl
@[simp] theorem State.pass_streams (s : State) (x : Ops) : (s.pass x).streams = s.streams := rfl
@[simp] theorem State.pass_measure (s : State) (x : Ops) : (s.pass x).measure = s.measure := rfl
@[simp] theorem State.pass_boot (s : State) (x : Ops) : (s.pass x).boot = s.boot := rfl
@[simp] theorem State.pass_turns (s : State) (x : Ops) : (s.pass x).turns = s.turns := rfl
@[simp] theorem State.pass_fresh (s : State) (x : Ops) : (s.pass x).fresh = s.fresh := rfl

/-! ### Transfers, masks and predicates of a course -/

@[simp] theorem Course.setPcs_id (c : Course) (m : LaneSet) (g : Nat → Nat) : (c.setPcs m g).id = c.id := rfl
@[simp] theorem Course.setPcs_life (c : Course) (m : LaneSet) (g : Nat → Nat) : (c.setPcs m g).life = c.life := rfl
@[simp] theorem Course.setPcs_wait (c : Course) (m : LaneSet) (g : Nat → Nat) : (c.setPcs m g).wait = c.wait := rfl
@[simp] theorem Course.setPcs_waitBelow (c : Course) (m : LaneSet) (g : Nat → Nat) : (c.setPcs m g).waitBelow = c.waitBelow := rfl
@[simp] theorem Course.setPcs_stopRing (c : Course) (m : LaneSet) (g : Nat → Nat) : (c.setPcs m g).stopRing = c.stopRing := rfl
@[simp] theorem Course.setPcs_pend (c : Course) (m : LaneSet) (g : Nat → Nat) : (c.setPcs m g).pend = c.pend := rfl
@[simp] theorem Course.setPcs_live (c : Course) (m : LaneSet) (g : Nat → Nat) : (c.setPcs m g).live = c.live := rfl
@[simp] theorem Course.setPcs_last (c : Course) (m : LaneSet) (g : Nat → Nat) : (c.setPcs m g).last = c.last := rfl
@[simp] theorem Course.setPcs_issueNo (c : Course) (m : LaneSet) (g : Nat → Nat) : (c.setPcs m g).issueNo = c.issueNo := rfl
@[simp] theorem Course.setPcs_v (c : Course) (m : LaneSet) (g : Nat → Nat) : (c.setPcs m g).v = c.v := rfl
@[simp] theorem Course.setPcs_o (c : Course) (m : LaneSet) (g : Nat → Nat) : (c.setPcs m g).o = c.o := rfl
@[simp] theorem Course.setPcs_l (c : Course) (m : LaneSet) (g : Nat → Nat) : (c.setPcs m g).l = c.l := rfl
@[simp] theorem Course.setPcs_s (c : Course) (m : LaneSet) (g : Nat → Nat) : (c.setPcs m g).s = c.s := rfl
@[simp] theorem Course.setPcs_p (c : Course) (m : LaneSet) (g : Nat → Nat) : (c.setPcs m g).p = c.p := rfl
@[simp] theorem Course.setPcs_enr (c : Course) (m : LaneSet) (g : Nat → Nat) : (c.setPcs m g).enr = c.enr := rfl
@[simp] theorem Course.setPcs_waitm (c : Course) (m : LaneSet) (g : Nat → Nat) : (c.setPcs m g).waitm = c.waitm := rfl
@[simp] theorem Course.setPcs_waitLen (c : Course) (m : LaneSet) (g : Nat → Nat) : (c.setPcs m g).waitLen = c.waitLen := rfl
@[simp] theorem Course.setPcs_depth (c : Course) (m : LaneSet) (g : Nat → Nat) : (c.setPcs m g).depth = c.depth := rfl
@[simp] theorem Course.setPcs_rstack (c : Course) (m : LaneSet) (g : Nat → Nat) : (c.setPcs m g).rstack = c.rstack := rfl
@[simp] theorem Course.setPcs_chead (c : Course) (m : LaneSet) (g : Nat → Nat) : (c.setPcs m g).chead = c.chead := rfl
@[simp] theorem Course.setPcs_cdist (c : Course) (m : LaneSet) (g : Nat → Nat) : (c.setPcs m g).cdist = c.cdist := rfl
@[simp] theorem Course.setPcs_flags (c : Course) (m : LaneSet) (g : Nat → Nat) : (c.setPcs m g).flags = c.flags := rfl
@[simp] theorem Course.setPcs_vguard (c : Course) (m : LaneSet) (g : Nat → Nat) : (c.setPcs m g).vguard = c.vguard := rfl
@[simp] theorem Course.setPcs_pguard (c : Course) (m : LaneSet) (g : Nat → Nat) : (c.setPcs m g).pguard = c.pguard := rfl
@[simp] theorem Course.setPcs_sguard (c : Course) (m : LaneSet) (g : Nat → Nat) : (c.setPcs m g).sguard = c.sguard := rfl
@[simp] theorem Course.setPcs_fpm (c : Course) (m : LaneSet) (g : Nat → Nat) : (c.setPcs m g).fpm = c.fpm := rfl
@[simp] theorem Course.setPcs_srseed (c : Course) (m : LaneSet) (g : Nat → Nat) : (c.setPcs m g).srseed = c.srseed := rfl
@[simp] theorem Course.setPcs_lfmode (c : Course) (m : LaneSet) (g : Nat → Nat) : (c.setPcs m g).lfmode = c.lfmode := rfl
@[simp] theorem Course.setPcs_rgnPc (c : Course) (m : LaneSet) (g : Nat → Nat) : (c.setPcs m g).rgnPc = c.rgnPc := rfl
@[simp] theorem Course.setPcs_rgnOpen (c : Course) (m : LaneSet) (g : Nat → Nat) : (c.setPcs m g).rgnOpen = c.rgnOpen := rfl
@[simp] theorem Course.setPcs_restarts (c : Course) (m : LaneSet) (g : Nat → Nat) : (c.setPcs m g).restarts = c.restarts := rfl
@[simp] theorem Course.setPcs_restarted (c : Course) (m : LaneSet) (g : Nat → Nat) : (c.setPcs m g).restarted = c.restarted := rfl
@[simp] theorem Course.setPcs_shadow (c : Course) (m : LaneSet) (g : Nat → Nat) : (c.setPcs m g).shadow = c.shadow := rfl
@[simp] theorem Course.setPcs_markTiles (c : Course) (m : LaneSet) (g : Nat → Nat) : (c.setPcs m g).markTiles = c.markTiles := rfl
@[simp] theorem Course.setPcs_markActive (c : Course) (m : LaneSet) (g : Nat → Nat) : (c.setPcs m g).markActive = c.markActive := rfl
@[simp] theorem Course.setPcs_markShadow (c : Course) (m : LaneSet) (g : Nat → Nat) : (c.setPcs m g).markShadow = c.markShadow := rfl
@[simp] theorem Course.setPcs_ring (c : Course) (m : LaneSet) (g : Nat → Nat) : (c.setPcs m g).ring = c.ring := rfl
@[simp] theorem Course.setPcs_frameBase (c : Course) (m : LaneSet) (g : Nat → Nat) : (c.setPcs m g).frameBase = c.frameBase := rfl
@[simp] theorem Course.setPcs_frameBusy (c : Course) (m : LaneSet) (g : Nat → Nat) : (c.setPcs m g).frameBusy = c.frameBusy := rfl
@[simp] theorem Course.setPcs_mine (c : Course) (m : LaneSet) (g : Nat → Nat) : (c.setPcs m g).mine = c.mine := rfl
@[simp] theorem Course.setPcs_peers (c : Course) (m : LaneSet) (g : Nat → Nat) : (c.setPcs m g).peers = c.peers := rfl
@[simp] theorem Course.setPcs_faults (c : Course) (m : LaneSet) (g : Nat → Nat) : (c.setPcs m g).faults = c.faults := rfl
@[simp] theorem Course.setPcs_cid (c : Course) (m : LaneSet) (g : Nat → Nat) : (c.setPcs m g).cid = c.cid := rfl
@[simp] theorem Course.setPcs_bid (c : Course) (m : LaneSet) (g : Nat → Nat) : (c.setPcs m g).bid = c.bid := rfl
@[simp] theorem Course.setPcs_pierIx (c : Course) (m : LaneSet) (g : Nat → Nat) : (c.setPcs m g).pierIx = c.pierIx := rfl
@[simp] theorem Course.setPcs_spanId (c : Course) (m : LaneSet) (g : Nat → Nat) : (c.setPcs m g).spanId = c.spanId := rfl
@[simp] theorem Course.setPcs_qid (c : Course) (m : LaneSet) (g : Nat → Nat) : (c.setPcs m g).qid = c.qid := rfl
@[simp] theorem Course.setPcs_slot (c : Course) (m : LaneSet) (g : Nat → Nat) : (c.setPcs m g).slot = c.slot := rfl
@[simp] theorem Course.setPcs_bond (c : Course) (m : LaneSet) (g : Nat → Nat) : (c.setPcs m g).bond = c.bond := rfl
@[simp] theorem Course.setPcs_pier (c : Course) (m : LaneSet) (g : Nat → Nat) : (c.setPcs m g).pier = c.pier := rfl
@[simp] theorem Course.setPcs_span (c : Course) (m : LaneSet) (g : Nat → Nat) : (c.setPcs m g).span = c.span := rfl
@[simp] theorem Course.setPcs_tenant (c : Course) (m : LaneSet) (g : Nat → Nat) : (c.setPcs m g).tenant = c.tenant := rfl
@[simp] theorem Course.setPcs_asid (c : Course) (m : LaneSet) (g : Nat → Nat) : (c.setPcs m g).asid = c.asid := rfl
@[simp] theorem Course.setPcs_regs (c : Course) (m : LaneSet) (g : Nat → Nat) : (c.setPcs m g).regs = c.regs := rfl
@[simp] theorem Course.setPcs_harvest (c : Course) (m : LaneSet) (g : Nat → Nat) : (c.setPcs m g).harvest = c.harvest := rfl
@[simp] theorem Course.setPcs_prio (c : Course) (m : LaneSet) (g : Nat → Nat) : (c.setPcs m g).prio = c.prio := rfl
@[simp] theorem Course.setPcs_frameSlot (c : Course) (m : LaneSet) (g : Nat → Nat) : (c.setPcs m g).frameSlot = c.frameSlot := rfl
@[simp] theorem Course.setPcs_ops (c : Course) (m : LaneSet) (g : Nat → Nat) : (c.setPcs m g).ops = c.ops := rfl
@[simp] theorem Course.setPcs_nextOp (c : Course) (m : LaneSet) (g : Nat → Nat) : (c.setPcs m g).nextOp = c.nextOp := rfl
@[simp] theorem Course.setPcs_landing (c : Course) (m : LaneSet) (g : Nat → Nat) : (c.setPcs m g).landing = c.landing := rfl
@[simp] theorem Course.setPcs_asideAt (c : Course) (m : LaneSet) (g : Nat → Nat) : (c.setPcs m g).asideAt = c.asideAt := rfl
@[simp] theorem Course.setPcs_aside (c : Course) (m : LaneSet) (g : Nat → Nat) : (c.setPcs m g).aside = c.aside := rfl
@[simp] theorem Course.setPcs_yielding (c : Course) (m : LaneSet) (g : Nat → Nat) : (c.setPcs m g).yielding = c.yielding := rfl
@[simp] theorem Course.setPcs_stepping (c : Course) (m : LaneSet) (g : Nat → Nat) : (c.setPcs m g).stepping = c.stepping := rfl
@[simp] theorem Course.setPcs_stepped (c : Course) (m : LaneSet) (g : Nat → Nat) : (c.setPcs m g).stepped = c.stepped := rfl
@[simp] theorem Course.setPcs_debugReq (c : Course) (m : LaneSet) (g : Nat → Nat) : (c.setPcs m g).debugReq = c.debugReq := rfl
@[simp] theorem Course.setPcs_haltReq (c : Course) (m : LaneSet) (g : Nat → Nat) : (c.setPcs m g).haltReq = c.haltReq := rfl
@[simp] theorem Course.setPcs_forced (c : Course) (m : LaneSet) (g : Nat → Nat) : (c.setPcs m g).forced = c.forced := rfl
@[simp] theorem Course.setPcs_evicting (c : Course) (m : LaneSet) (g : Nat → Nat) : (c.setPcs m g).evicting = c.evicting := rfl
@[simp] theorem Course.setPcs_held (c : Course) (m : LaneSet) (g : Nat → Nat) : (c.setPcs m g).held = c.held := rfl
@[simp] theorem Course.setPcs_heldLanes (c : Course) (m : LaneSet) (g : Nat → Nat) : (c.setPcs m g).heldLanes = c.heldLanes := rfl
@[simp] theorem Course.setPcs_caught (c : Course) (m : LaneSet) (g : Nat → Nat) : (c.setPcs m g).caught = c.caught := rfl
@[simp] theorem Course.setPcs_caughtBelow (c : Course) (m : LaneSet) (g : Nat → Nat) : (c.setPcs m g).caughtBelow = c.caughtBelow := rfl
@[simp] theorem Course.setPcs_owing (c : Course) (m : LaneSet) (g : Nat → Nat) : (c.setPcs m g).owing = c.owing := rfl
@[simp] theorem Course.setPcs_imageAt (c : Course) (m : LaneSet) (g : Nat → Nat) : (c.setPcs m g).imageAt = c.imageAt := rfl
@[simp] theorem Course.setPcs_segs (c : Course) (m : LaneSet) (g : Nat → Nat) : (c.setPcs m g).segs = c.segs := rfl
@[simp] theorem Course.setPcs_stamp (c : Course) (m : LaneSet) (g : Nat → Nat) : (c.setPcs m g).stamp = c.stamp := rfl
@[simp] theorem Course.setPcs_away (c : Course) (m : LaneSet) (g : Nat → Nat) : (c.setPcs m g).away = c.away := rfl
@[simp] theorem Course.leaveBody_id (c : Course) (m : LaneSet) : (c.leaveBody m).id = c.id := rfl
@[simp] theorem Course.leaveBody_life (c : Course) (m : LaneSet) : (c.leaveBody m).life = c.life := rfl
@[simp] theorem Course.leaveBody_wait (c : Course) (m : LaneSet) : (c.leaveBody m).wait = c.wait := rfl
@[simp] theorem Course.leaveBody_waitBelow (c : Course) (m : LaneSet) : (c.leaveBody m).waitBelow = c.waitBelow := rfl
@[simp] theorem Course.leaveBody_stopRing (c : Course) (m : LaneSet) : (c.leaveBody m).stopRing = c.stopRing := rfl
@[simp] theorem Course.leaveBody_pend (c : Course) (m : LaneSet) : (c.leaveBody m).pend = c.pend := rfl
@[simp] theorem Course.leaveBody_live (c : Course) (m : LaneSet) : (c.leaveBody m).live = c.live := rfl
@[simp] theorem Course.leaveBody_pc (c : Course) (m : LaneSet) : (c.leaveBody m).pc = c.pc := rfl
@[simp] theorem Course.leaveBody_last (c : Course) (m : LaneSet) : (c.leaveBody m).last = c.last := rfl
@[simp] theorem Course.leaveBody_issueNo (c : Course) (m : LaneSet) : (c.leaveBody m).issueNo = c.issueNo := rfl
@[simp] theorem Course.leaveBody_v (c : Course) (m : LaneSet) : (c.leaveBody m).v = c.v := rfl
@[simp] theorem Course.leaveBody_o (c : Course) (m : LaneSet) : (c.leaveBody m).o = c.o := rfl
@[simp] theorem Course.leaveBody_l (c : Course) (m : LaneSet) : (c.leaveBody m).l = c.l := rfl
@[simp] theorem Course.leaveBody_s (c : Course) (m : LaneSet) : (c.leaveBody m).s = c.s := rfl
@[simp] theorem Course.leaveBody_p (c : Course) (m : LaneSet) : (c.leaveBody m).p = c.p := rfl
@[simp] theorem Course.leaveBody_enr (c : Course) (m : LaneSet) : (c.leaveBody m).enr = c.enr := rfl
@[simp] theorem Course.leaveBody_waitm (c : Course) (m : LaneSet) : (c.leaveBody m).waitm = c.waitm := rfl
@[simp] theorem Course.leaveBody_waitLen (c : Course) (m : LaneSet) : (c.leaveBody m).waitLen = c.waitLen := rfl
@[simp] theorem Course.leaveBody_depth (c : Course) (m : LaneSet) : (c.leaveBody m).depth = c.depth := rfl
@[simp] theorem Course.leaveBody_rstack (c : Course) (m : LaneSet) : (c.leaveBody m).rstack = c.rstack := rfl
@[simp] theorem Course.leaveBody_flags (c : Course) (m : LaneSet) : (c.leaveBody m).flags = c.flags := rfl
@[simp] theorem Course.leaveBody_vguard (c : Course) (m : LaneSet) : (c.leaveBody m).vguard = c.vguard := rfl
@[simp] theorem Course.leaveBody_pguard (c : Course) (m : LaneSet) : (c.leaveBody m).pguard = c.pguard := rfl
@[simp] theorem Course.leaveBody_sguard (c : Course) (m : LaneSet) : (c.leaveBody m).sguard = c.sguard := rfl
@[simp] theorem Course.leaveBody_fpm (c : Course) (m : LaneSet) : (c.leaveBody m).fpm = c.fpm := rfl
@[simp] theorem Course.leaveBody_srseed (c : Course) (m : LaneSet) : (c.leaveBody m).srseed = c.srseed := rfl
@[simp] theorem Course.leaveBody_lfmode (c : Course) (m : LaneSet) : (c.leaveBody m).lfmode = c.lfmode := rfl
@[simp] theorem Course.leaveBody_rgnPc (c : Course) (m : LaneSet) : (c.leaveBody m).rgnPc = c.rgnPc := rfl
@[simp] theorem Course.leaveBody_rgnOpen (c : Course) (m : LaneSet) : (c.leaveBody m).rgnOpen = c.rgnOpen := rfl
@[simp] theorem Course.leaveBody_restarts (c : Course) (m : LaneSet) : (c.leaveBody m).restarts = c.restarts := rfl
@[simp] theorem Course.leaveBody_restarted (c : Course) (m : LaneSet) : (c.leaveBody m).restarted = c.restarted := rfl
@[simp] theorem Course.leaveBody_shadow (c : Course) (m : LaneSet) : (c.leaveBody m).shadow = c.shadow := rfl
@[simp] theorem Course.leaveBody_markTiles (c : Course) (m : LaneSet) : (c.leaveBody m).markTiles = c.markTiles := rfl
@[simp] theorem Course.leaveBody_markActive (c : Course) (m : LaneSet) : (c.leaveBody m).markActive = c.markActive := rfl
@[simp] theorem Course.leaveBody_markShadow (c : Course) (m : LaneSet) : (c.leaveBody m).markShadow = c.markShadow := rfl
@[simp] theorem Course.leaveBody_ring (c : Course) (m : LaneSet) : (c.leaveBody m).ring = c.ring := rfl
@[simp] theorem Course.leaveBody_frameBase (c : Course) (m : LaneSet) : (c.leaveBody m).frameBase = c.frameBase := rfl
@[simp] theorem Course.leaveBody_frameBusy (c : Course) (m : LaneSet) : (c.leaveBody m).frameBusy = c.frameBusy := rfl
@[simp] theorem Course.leaveBody_mine (c : Course) (m : LaneSet) : (c.leaveBody m).mine = c.mine := rfl
@[simp] theorem Course.leaveBody_peers (c : Course) (m : LaneSet) : (c.leaveBody m).peers = c.peers := rfl
@[simp] theorem Course.leaveBody_faults (c : Course) (m : LaneSet) : (c.leaveBody m).faults = c.faults := rfl
@[simp] theorem Course.leaveBody_cid (c : Course) (m : LaneSet) : (c.leaveBody m).cid = c.cid := rfl
@[simp] theorem Course.leaveBody_bid (c : Course) (m : LaneSet) : (c.leaveBody m).bid = c.bid := rfl
@[simp] theorem Course.leaveBody_pierIx (c : Course) (m : LaneSet) : (c.leaveBody m).pierIx = c.pierIx := rfl
@[simp] theorem Course.leaveBody_spanId (c : Course) (m : LaneSet) : (c.leaveBody m).spanId = c.spanId := rfl
@[simp] theorem Course.leaveBody_qid (c : Course) (m : LaneSet) : (c.leaveBody m).qid = c.qid := rfl
@[simp] theorem Course.leaveBody_slot (c : Course) (m : LaneSet) : (c.leaveBody m).slot = c.slot := rfl
@[simp] theorem Course.leaveBody_bond (c : Course) (m : LaneSet) : (c.leaveBody m).bond = c.bond := rfl
@[simp] theorem Course.leaveBody_pier (c : Course) (m : LaneSet) : (c.leaveBody m).pier = c.pier := rfl
@[simp] theorem Course.leaveBody_span (c : Course) (m : LaneSet) : (c.leaveBody m).span = c.span := rfl
@[simp] theorem Course.leaveBody_tenant (c : Course) (m : LaneSet) : (c.leaveBody m).tenant = c.tenant := rfl
@[simp] theorem Course.leaveBody_asid (c : Course) (m : LaneSet) : (c.leaveBody m).asid = c.asid := rfl
@[simp] theorem Course.leaveBody_regs (c : Course) (m : LaneSet) : (c.leaveBody m).regs = c.regs := rfl
@[simp] theorem Course.leaveBody_harvest (c : Course) (m : LaneSet) : (c.leaveBody m).harvest = c.harvest := rfl
@[simp] theorem Course.leaveBody_prio (c : Course) (m : LaneSet) : (c.leaveBody m).prio = c.prio := rfl
@[simp] theorem Course.leaveBody_frameSlot (c : Course) (m : LaneSet) : (c.leaveBody m).frameSlot = c.frameSlot := rfl
@[simp] theorem Course.leaveBody_ops (c : Course) (m : LaneSet) : (c.leaveBody m).ops = c.ops := rfl
@[simp] theorem Course.leaveBody_nextOp (c : Course) (m : LaneSet) : (c.leaveBody m).nextOp = c.nextOp := rfl
@[simp] theorem Course.leaveBody_landing (c : Course) (m : LaneSet) : (c.leaveBody m).landing = c.landing := rfl
@[simp] theorem Course.leaveBody_asideAt (c : Course) (m : LaneSet) : (c.leaveBody m).asideAt = c.asideAt := rfl
@[simp] theorem Course.leaveBody_aside (c : Course) (m : LaneSet) : (c.leaveBody m).aside = c.aside := rfl
@[simp] theorem Course.leaveBody_yielding (c : Course) (m : LaneSet) : (c.leaveBody m).yielding = c.yielding := rfl
@[simp] theorem Course.leaveBody_stepping (c : Course) (m : LaneSet) : (c.leaveBody m).stepping = c.stepping := rfl
@[simp] theorem Course.leaveBody_stepped (c : Course) (m : LaneSet) : (c.leaveBody m).stepped = c.stepped := rfl
@[simp] theorem Course.leaveBody_debugReq (c : Course) (m : LaneSet) : (c.leaveBody m).debugReq = c.debugReq := rfl
@[simp] theorem Course.leaveBody_haltReq (c : Course) (m : LaneSet) : (c.leaveBody m).haltReq = c.haltReq := rfl
@[simp] theorem Course.leaveBody_forced (c : Course) (m : LaneSet) : (c.leaveBody m).forced = c.forced := rfl
@[simp] theorem Course.leaveBody_evicting (c : Course) (m : LaneSet) : (c.leaveBody m).evicting = c.evicting := rfl
@[simp] theorem Course.leaveBody_held (c : Course) (m : LaneSet) : (c.leaveBody m).held = c.held := rfl
@[simp] theorem Course.leaveBody_heldLanes (c : Course) (m : LaneSet) : (c.leaveBody m).heldLanes = c.heldLanes := rfl
@[simp] theorem Course.leaveBody_caught (c : Course) (m : LaneSet) : (c.leaveBody m).caught = c.caught := rfl
@[simp] theorem Course.leaveBody_caughtBelow (c : Course) (m : LaneSet) : (c.leaveBody m).caughtBelow = c.caughtBelow := rfl
@[simp] theorem Course.leaveBody_owing (c : Course) (m : LaneSet) : (c.leaveBody m).owing = c.owing := rfl
@[simp] theorem Course.leaveBody_imageAt (c : Course) (m : LaneSet) : (c.leaveBody m).imageAt = c.imageAt := rfl
@[simp] theorem Course.leaveBody_segs (c : Course) (m : LaneSet) : (c.leaveBody m).segs = c.segs := rfl
@[simp] theorem Course.leaveBody_stamp (c : Course) (m : LaneSet) : (c.leaveBody m).stamp = c.stamp := rfl
@[simp] theorem Course.leaveBody_away (c : Course) (m : LaneSet) : (c.leaveBody m).away = c.away := rfl
@[simp] theorem Course.setPred_id (c : Course) (r i : Nat) (b : Bool) : (c.setPred r i b).id = c.id := rfl
@[simp] theorem Course.setPred_life (c : Course) (r i : Nat) (b : Bool) : (c.setPred r i b).life = c.life := rfl
@[simp] theorem Course.setPred_wait (c : Course) (r i : Nat) (b : Bool) : (c.setPred r i b).wait = c.wait := rfl
@[simp] theorem Course.setPred_waitBelow (c : Course) (r i : Nat) (b : Bool) : (c.setPred r i b).waitBelow = c.waitBelow := rfl
@[simp] theorem Course.setPred_stopRing (c : Course) (r i : Nat) (b : Bool) : (c.setPred r i b).stopRing = c.stopRing := rfl
@[simp] theorem Course.setPred_pend (c : Course) (r i : Nat) (b : Bool) : (c.setPred r i b).pend = c.pend := rfl
@[simp] theorem Course.setPred_live (c : Course) (r i : Nat) (b : Bool) : (c.setPred r i b).live = c.live := rfl
@[simp] theorem Course.setPred_pc (c : Course) (r i : Nat) (b : Bool) : (c.setPred r i b).pc = c.pc := rfl
@[simp] theorem Course.setPred_last (c : Course) (r i : Nat) (b : Bool) : (c.setPred r i b).last = c.last := rfl
@[simp] theorem Course.setPred_issueNo (c : Course) (r i : Nat) (b : Bool) : (c.setPred r i b).issueNo = c.issueNo := rfl
@[simp] theorem Course.setPred_v (c : Course) (r i : Nat) (b : Bool) : (c.setPred r i b).v = c.v := rfl
@[simp] theorem Course.setPred_o (c : Course) (r i : Nat) (b : Bool) : (c.setPred r i b).o = c.o := rfl
@[simp] theorem Course.setPred_l (c : Course) (r i : Nat) (b : Bool) : (c.setPred r i b).l = c.l := rfl
@[simp] theorem Course.setPred_s (c : Course) (r i : Nat) (b : Bool) : (c.setPred r i b).s = c.s := rfl
@[simp] theorem Course.setPred_enr (c : Course) (r i : Nat) (b : Bool) : (c.setPred r i b).enr = c.enr := rfl
@[simp] theorem Course.setPred_waitm (c : Course) (r i : Nat) (b : Bool) : (c.setPred r i b).waitm = c.waitm := rfl
@[simp] theorem Course.setPred_waitLen (c : Course) (r i : Nat) (b : Bool) : (c.setPred r i b).waitLen = c.waitLen := rfl
@[simp] theorem Course.setPred_depth (c : Course) (r i : Nat) (b : Bool) : (c.setPred r i b).depth = c.depth := rfl
@[simp] theorem Course.setPred_rstack (c : Course) (r i : Nat) (b : Bool) : (c.setPred r i b).rstack = c.rstack := rfl
@[simp] theorem Course.setPred_chead (c : Course) (r i : Nat) (b : Bool) : (c.setPred r i b).chead = c.chead := rfl
@[simp] theorem Course.setPred_cdist (c : Course) (r i : Nat) (b : Bool) : (c.setPred r i b).cdist = c.cdist := rfl
@[simp] theorem Course.setPred_flags (c : Course) (r i : Nat) (b : Bool) : (c.setPred r i b).flags = c.flags := rfl
@[simp] theorem Course.setPred_vguard (c : Course) (r i : Nat) (b : Bool) : (c.setPred r i b).vguard = c.vguard := rfl
@[simp] theorem Course.setPred_pguard (c : Course) (r i : Nat) (b : Bool) : (c.setPred r i b).pguard = c.pguard := rfl
@[simp] theorem Course.setPred_sguard (c : Course) (r i : Nat) (b : Bool) : (c.setPred r i b).sguard = c.sguard := rfl
@[simp] theorem Course.setPred_fpm (c : Course) (r i : Nat) (b : Bool) : (c.setPred r i b).fpm = c.fpm := rfl
@[simp] theorem Course.setPred_srseed (c : Course) (r i : Nat) (b : Bool) : (c.setPred r i b).srseed = c.srseed := rfl
@[simp] theorem Course.setPred_lfmode (c : Course) (r i : Nat) (b : Bool) : (c.setPred r i b).lfmode = c.lfmode := rfl
@[simp] theorem Course.setPred_rgnPc (c : Course) (r i : Nat) (b : Bool) : (c.setPred r i b).rgnPc = c.rgnPc := rfl
@[simp] theorem Course.setPred_rgnOpen (c : Course) (r i : Nat) (b : Bool) : (c.setPred r i b).rgnOpen = c.rgnOpen := rfl
@[simp] theorem Course.setPred_restarts (c : Course) (r i : Nat) (b : Bool) : (c.setPred r i b).restarts = c.restarts := rfl
@[simp] theorem Course.setPred_restarted (c : Course) (r i : Nat) (b : Bool) : (c.setPred r i b).restarted = c.restarted := rfl
@[simp] theorem Course.setPred_shadow (c : Course) (r i : Nat) (b : Bool) : (c.setPred r i b).shadow = c.shadow := rfl
@[simp] theorem Course.setPred_markTiles (c : Course) (r i : Nat) (b : Bool) : (c.setPred r i b).markTiles = c.markTiles := rfl
@[simp] theorem Course.setPred_markActive (c : Course) (r i : Nat) (b : Bool) : (c.setPred r i b).markActive = c.markActive := rfl
@[simp] theorem Course.setPred_markShadow (c : Course) (r i : Nat) (b : Bool) : (c.setPred r i b).markShadow = c.markShadow := rfl
@[simp] theorem Course.setPred_ring (c : Course) (r i : Nat) (b : Bool) : (c.setPred r i b).ring = c.ring := rfl
@[simp] theorem Course.setPred_frameBase (c : Course) (r i : Nat) (b : Bool) : (c.setPred r i b).frameBase = c.frameBase := rfl
@[simp] theorem Course.setPred_frameBusy (c : Course) (r i : Nat) (b : Bool) : (c.setPred r i b).frameBusy = c.frameBusy := rfl
@[simp] theorem Course.setPred_mine (c : Course) (r i : Nat) (b : Bool) : (c.setPred r i b).mine = c.mine := rfl
@[simp] theorem Course.setPred_peers (c : Course) (r i : Nat) (b : Bool) : (c.setPred r i b).peers = c.peers := rfl
@[simp] theorem Course.setPred_faults (c : Course) (r i : Nat) (b : Bool) : (c.setPred r i b).faults = c.faults := rfl
@[simp] theorem Course.setPred_cid (c : Course) (r i : Nat) (b : Bool) : (c.setPred r i b).cid = c.cid := rfl
@[simp] theorem Course.setPred_bid (c : Course) (r i : Nat) (b : Bool) : (c.setPred r i b).bid = c.bid := rfl
@[simp] theorem Course.setPred_pierIx (c : Course) (r i : Nat) (b : Bool) : (c.setPred r i b).pierIx = c.pierIx := rfl
@[simp] theorem Course.setPred_spanId (c : Course) (r i : Nat) (b : Bool) : (c.setPred r i b).spanId = c.spanId := rfl
@[simp] theorem Course.setPred_qid (c : Course) (r i : Nat) (b : Bool) : (c.setPred r i b).qid = c.qid := rfl
@[simp] theorem Course.setPred_slot (c : Course) (r i : Nat) (b : Bool) : (c.setPred r i b).slot = c.slot := rfl
@[simp] theorem Course.setPred_bond (c : Course) (r i : Nat) (b : Bool) : (c.setPred r i b).bond = c.bond := rfl
@[simp] theorem Course.setPred_pier (c : Course) (r i : Nat) (b : Bool) : (c.setPred r i b).pier = c.pier := rfl
@[simp] theorem Course.setPred_span (c : Course) (r i : Nat) (b : Bool) : (c.setPred r i b).span = c.span := rfl
@[simp] theorem Course.setPred_tenant (c : Course) (r i : Nat) (b : Bool) : (c.setPred r i b).tenant = c.tenant := rfl
@[simp] theorem Course.setPred_asid (c : Course) (r i : Nat) (b : Bool) : (c.setPred r i b).asid = c.asid := rfl
@[simp] theorem Course.setPred_regs (c : Course) (r i : Nat) (b : Bool) : (c.setPred r i b).regs = c.regs := rfl
@[simp] theorem Course.setPred_harvest (c : Course) (r i : Nat) (b : Bool) : (c.setPred r i b).harvest = c.harvest := rfl
@[simp] theorem Course.setPred_prio (c : Course) (r i : Nat) (b : Bool) : (c.setPred r i b).prio = c.prio := rfl
@[simp] theorem Course.setPred_frameSlot (c : Course) (r i : Nat) (b : Bool) : (c.setPred r i b).frameSlot = c.frameSlot := rfl
@[simp] theorem Course.setPred_ops (c : Course) (r i : Nat) (b : Bool) : (c.setPred r i b).ops = c.ops := rfl
@[simp] theorem Course.setPred_nextOp (c : Course) (r i : Nat) (b : Bool) : (c.setPred r i b).nextOp = c.nextOp := rfl
@[simp] theorem Course.setPred_landing (c : Course) (r i : Nat) (b : Bool) : (c.setPred r i b).landing = c.landing := rfl
@[simp] theorem Course.setPred_asideAt (c : Course) (r i : Nat) (b : Bool) : (c.setPred r i b).asideAt = c.asideAt := rfl
@[simp] theorem Course.setPred_aside (c : Course) (r i : Nat) (b : Bool) : (c.setPred r i b).aside = c.aside := rfl
@[simp] theorem Course.setPred_yielding (c : Course) (r i : Nat) (b : Bool) : (c.setPred r i b).yielding = c.yielding := rfl
@[simp] theorem Course.setPred_stepping (c : Course) (r i : Nat) (b : Bool) : (c.setPred r i b).stepping = c.stepping := rfl
@[simp] theorem Course.setPred_stepped (c : Course) (r i : Nat) (b : Bool) : (c.setPred r i b).stepped = c.stepped := rfl
@[simp] theorem Course.setPred_debugReq (c : Course) (r i : Nat) (b : Bool) : (c.setPred r i b).debugReq = c.debugReq := rfl
@[simp] theorem Course.setPred_haltReq (c : Course) (r i : Nat) (b : Bool) : (c.setPred r i b).haltReq = c.haltReq := rfl
@[simp] theorem Course.setPred_forced (c : Course) (r i : Nat) (b : Bool) : (c.setPred r i b).forced = c.forced := rfl
@[simp] theorem Course.setPred_evicting (c : Course) (r i : Nat) (b : Bool) : (c.setPred r i b).evicting = c.evicting := rfl
@[simp] theorem Course.setPred_held (c : Course) (r i : Nat) (b : Bool) : (c.setPred r i b).held = c.held := rfl
@[simp] theorem Course.setPred_heldLanes (c : Course) (r i : Nat) (b : Bool) : (c.setPred r i b).heldLanes = c.heldLanes := rfl
@[simp] theorem Course.setPred_caught (c : Course) (r i : Nat) (b : Bool) : (c.setPred r i b).caught = c.caught := rfl
@[simp] theorem Course.setPred_caughtBelow (c : Course) (r i : Nat) (b : Bool) : (c.setPred r i b).caughtBelow = c.caughtBelow := rfl
@[simp] theorem Course.setPred_owing (c : Course) (r i : Nat) (b : Bool) : (c.setPred r i b).owing = c.owing := rfl
@[simp] theorem Course.setPred_imageAt (c : Course) (r i : Nat) (b : Bool) : (c.setPred r i b).imageAt = c.imageAt := rfl
@[simp] theorem Course.setPred_segs (c : Course) (r i : Nat) (b : Bool) : (c.setPred r i b).segs = c.segs := rfl
@[simp] theorem Course.setPred_stamp (c : Course) (r i : Nat) (b : Bool) : (c.setPred r i b).stamp = c.stamp := rfl
@[simp] theorem Course.setPred_away (c : Course) (r i : Nat) (b : Bool) : (c.setPred r i b).away = c.away := rfl
@[simp] theorem Course.push_id (c : Course) (i v : Nat) : (c.push i v).id = c.id := rfl
@[simp] theorem Course.push_life (c : Course) (i v : Nat) : (c.push i v).life = c.life := rfl
@[simp] theorem Course.push_wait (c : Course) (i v : Nat) : (c.push i v).wait = c.wait := rfl
@[simp] theorem Course.push_waitBelow (c : Course) (i v : Nat) : (c.push i v).waitBelow = c.waitBelow := rfl
@[simp] theorem Course.push_stopRing (c : Course) (i v : Nat) : (c.push i v).stopRing = c.stopRing := rfl
@[simp] theorem Course.push_pend (c : Course) (i v : Nat) : (c.push i v).pend = c.pend := rfl
@[simp] theorem Course.push_live (c : Course) (i v : Nat) : (c.push i v).live = c.live := rfl
@[simp] theorem Course.push_pc (c : Course) (i v : Nat) : (c.push i v).pc = c.pc := rfl
@[simp] theorem Course.push_last (c : Course) (i v : Nat) : (c.push i v).last = c.last := rfl
@[simp] theorem Course.push_issueNo (c : Course) (i v : Nat) : (c.push i v).issueNo = c.issueNo := rfl
@[simp] theorem Course.push_v (c : Course) (i v : Nat) : (c.push i v).v = c.v := rfl
@[simp] theorem Course.push_o (c : Course) (i v : Nat) : (c.push i v).o = c.o := rfl
@[simp] theorem Course.push_s (c : Course) (i v : Nat) : (c.push i v).s = c.s := rfl
@[simp] theorem Course.push_p (c : Course) (i v : Nat) : (c.push i v).p = c.p := rfl
@[simp] theorem Course.push_enr (c : Course) (i v : Nat) : (c.push i v).enr = c.enr := rfl
@[simp] theorem Course.push_waitm (c : Course) (i v : Nat) : (c.push i v).waitm = c.waitm := rfl
@[simp] theorem Course.push_waitLen (c : Course) (i v : Nat) : (c.push i v).waitLen = c.waitLen := rfl
@[simp] theorem Course.push_depth (c : Course) (i v : Nat) : (c.push i v).depth = c.depth := rfl
@[simp] theorem Course.push_rstack (c : Course) (i v : Nat) : (c.push i v).rstack = c.rstack := rfl
@[simp] theorem Course.push_chead (c : Course) (i v : Nat) : (c.push i v).chead = c.chead := rfl
@[simp] theorem Course.push_cdist (c : Course) (i v : Nat) : (c.push i v).cdist = c.cdist := rfl
@[simp] theorem Course.push_flags (c : Course) (i v : Nat) : (c.push i v).flags = c.flags := rfl
@[simp] theorem Course.push_vguard (c : Course) (i v : Nat) : (c.push i v).vguard = c.vguard := rfl
@[simp] theorem Course.push_pguard (c : Course) (i v : Nat) : (c.push i v).pguard = c.pguard := rfl
@[simp] theorem Course.push_sguard (c : Course) (i v : Nat) : (c.push i v).sguard = c.sguard := rfl
@[simp] theorem Course.push_fpm (c : Course) (i v : Nat) : (c.push i v).fpm = c.fpm := rfl
@[simp] theorem Course.push_srseed (c : Course) (i v : Nat) : (c.push i v).srseed = c.srseed := rfl
@[simp] theorem Course.push_lfmode (c : Course) (i v : Nat) : (c.push i v).lfmode = c.lfmode := rfl
@[simp] theorem Course.push_rgnPc (c : Course) (i v : Nat) : (c.push i v).rgnPc = c.rgnPc := rfl
@[simp] theorem Course.push_rgnOpen (c : Course) (i v : Nat) : (c.push i v).rgnOpen = c.rgnOpen := rfl
@[simp] theorem Course.push_restarts (c : Course) (i v : Nat) : (c.push i v).restarts = c.restarts := rfl
@[simp] theorem Course.push_restarted (c : Course) (i v : Nat) : (c.push i v).restarted = c.restarted := rfl
@[simp] theorem Course.push_shadow (c : Course) (i v : Nat) : (c.push i v).shadow = c.shadow := rfl
@[simp] theorem Course.push_markTiles (c : Course) (i v : Nat) : (c.push i v).markTiles = c.markTiles := rfl
@[simp] theorem Course.push_markActive (c : Course) (i v : Nat) : (c.push i v).markActive = c.markActive := rfl
@[simp] theorem Course.push_markShadow (c : Course) (i v : Nat) : (c.push i v).markShadow = c.markShadow := rfl
@[simp] theorem Course.push_ring (c : Course) (i v : Nat) : (c.push i v).ring = c.ring := rfl
@[simp] theorem Course.push_frameBase (c : Course) (i v : Nat) : (c.push i v).frameBase = c.frameBase := rfl
@[simp] theorem Course.push_frameBusy (c : Course) (i v : Nat) : (c.push i v).frameBusy = c.frameBusy := rfl
@[simp] theorem Course.push_mine (c : Course) (i v : Nat) : (c.push i v).mine = c.mine := rfl
@[simp] theorem Course.push_peers (c : Course) (i v : Nat) : (c.push i v).peers = c.peers := rfl
@[simp] theorem Course.push_faults (c : Course) (i v : Nat) : (c.push i v).faults = c.faults := rfl
@[simp] theorem Course.push_cid (c : Course) (i v : Nat) : (c.push i v).cid = c.cid := rfl
@[simp] theorem Course.push_bid (c : Course) (i v : Nat) : (c.push i v).bid = c.bid := rfl
@[simp] theorem Course.push_pierIx (c : Course) (i v : Nat) : (c.push i v).pierIx = c.pierIx := rfl
@[simp] theorem Course.push_spanId (c : Course) (i v : Nat) : (c.push i v).spanId = c.spanId := rfl
@[simp] theorem Course.push_qid (c : Course) (i v : Nat) : (c.push i v).qid = c.qid := rfl
@[simp] theorem Course.push_slot (c : Course) (i v : Nat) : (c.push i v).slot = c.slot := rfl
@[simp] theorem Course.push_bond (c : Course) (i v : Nat) : (c.push i v).bond = c.bond := rfl
@[simp] theorem Course.push_pier (c : Course) (i v : Nat) : (c.push i v).pier = c.pier := rfl
@[simp] theorem Course.push_span (c : Course) (i v : Nat) : (c.push i v).span = c.span := rfl
@[simp] theorem Course.push_tenant (c : Course) (i v : Nat) : (c.push i v).tenant = c.tenant := rfl
@[simp] theorem Course.push_asid (c : Course) (i v : Nat) : (c.push i v).asid = c.asid := rfl
@[simp] theorem Course.push_regs (c : Course) (i v : Nat) : (c.push i v).regs = c.regs := rfl
@[simp] theorem Course.push_harvest (c : Course) (i v : Nat) : (c.push i v).harvest = c.harvest := rfl
@[simp] theorem Course.push_prio (c : Course) (i v : Nat) : (c.push i v).prio = c.prio := rfl
@[simp] theorem Course.push_frameSlot (c : Course) (i v : Nat) : (c.push i v).frameSlot = c.frameSlot := rfl
@[simp] theorem Course.push_ops (c : Course) (i v : Nat) : (c.push i v).ops = c.ops := rfl
@[simp] theorem Course.push_nextOp (c : Course) (i v : Nat) : (c.push i v).nextOp = c.nextOp := rfl
@[simp] theorem Course.push_landing (c : Course) (i v : Nat) : (c.push i v).landing = c.landing := rfl
@[simp] theorem Course.push_asideAt (c : Course) (i v : Nat) : (c.push i v).asideAt = c.asideAt := rfl
@[simp] theorem Course.push_aside (c : Course) (i v : Nat) : (c.push i v).aside = c.aside := rfl
@[simp] theorem Course.push_yielding (c : Course) (i v : Nat) : (c.push i v).yielding = c.yielding := rfl
@[simp] theorem Course.push_stepping (c : Course) (i v : Nat) : (c.push i v).stepping = c.stepping := rfl
@[simp] theorem Course.push_stepped (c : Course) (i v : Nat) : (c.push i v).stepped = c.stepped := rfl
@[simp] theorem Course.push_debugReq (c : Course) (i v : Nat) : (c.push i v).debugReq = c.debugReq := rfl
@[simp] theorem Course.push_haltReq (c : Course) (i v : Nat) : (c.push i v).haltReq = c.haltReq := rfl
@[simp] theorem Course.push_forced (c : Course) (i v : Nat) : (c.push i v).forced = c.forced := rfl
@[simp] theorem Course.push_evicting (c : Course) (i v : Nat) : (c.push i v).evicting = c.evicting := rfl
@[simp] theorem Course.push_held (c : Course) (i v : Nat) : (c.push i v).held = c.held := rfl
@[simp] theorem Course.push_heldLanes (c : Course) (i v : Nat) : (c.push i v).heldLanes = c.heldLanes := rfl
@[simp] theorem Course.push_caught (c : Course) (i v : Nat) : (c.push i v).caught = c.caught := rfl
@[simp] theorem Course.push_caughtBelow (c : Course) (i v : Nat) : (c.push i v).caughtBelow = c.caughtBelow := rfl
@[simp] theorem Course.push_owing (c : Course) (i v : Nat) : (c.push i v).owing = c.owing := rfl
@[simp] theorem Course.push_imageAt (c : Course) (i v : Nat) : (c.push i v).imageAt = c.imageAt := rfl
@[simp] theorem Course.push_segs (c : Course) (i v : Nat) : (c.push i v).segs = c.segs := rfl
@[simp] theorem Course.push_stamp (c : Course) (i v : Nat) : (c.push i v).stamp = c.stamp := rfl
@[simp] theorem Course.push_away (c : Course) (i v : Nat) : (c.push i v).away = c.away := rfl
@[simp] theorem Course.setVec_id (c : Course) (r i z v : Nat) : (c.setVec r i z v).id = c.id := rfl
@[simp] theorem Course.setVec_life (c : Course) (r i z v : Nat) : (c.setVec r i z v).life = c.life := rfl
@[simp] theorem Course.setVec_wait (c : Course) (r i z v : Nat) : (c.setVec r i z v).wait = c.wait := rfl
@[simp] theorem Course.setVec_waitBelow (c : Course) (r i z v : Nat) : (c.setVec r i z v).waitBelow = c.waitBelow := rfl
@[simp] theorem Course.setVec_stopRing (c : Course) (r i z v : Nat) : (c.setVec r i z v).stopRing = c.stopRing := rfl
@[simp] theorem Course.setVec_pend (c : Course) (r i z v : Nat) : (c.setVec r i z v).pend = c.pend := rfl
@[simp] theorem Course.setVec_live (c : Course) (r i z v : Nat) : (c.setVec r i z v).live = c.live := rfl
@[simp] theorem Course.setVec_pc (c : Course) (r i z v : Nat) : (c.setVec r i z v).pc = c.pc := rfl
@[simp] theorem Course.setVec_last (c : Course) (r i z v : Nat) : (c.setVec r i z v).last = c.last := rfl
@[simp] theorem Course.setVec_issueNo (c : Course) (r i z v : Nat) : (c.setVec r i z v).issueNo = c.issueNo := rfl
@[simp] theorem Course.setVec_o (c : Course) (r i z v : Nat) : (c.setVec r i z v).o = c.o := rfl
@[simp] theorem Course.setVec_l (c : Course) (r i z v : Nat) : (c.setVec r i z v).l = c.l := rfl
@[simp] theorem Course.setVec_s (c : Course) (r i z v : Nat) : (c.setVec r i z v).s = c.s := rfl
@[simp] theorem Course.setVec_p (c : Course) (r i z v : Nat) : (c.setVec r i z v).p = c.p := rfl
@[simp] theorem Course.setVec_enr (c : Course) (r i z v : Nat) : (c.setVec r i z v).enr = c.enr := rfl
@[simp] theorem Course.setVec_waitm (c : Course) (r i z v : Nat) : (c.setVec r i z v).waitm = c.waitm := rfl
@[simp] theorem Course.setVec_waitLen (c : Course) (r i z v : Nat) : (c.setVec r i z v).waitLen = c.waitLen := rfl
@[simp] theorem Course.setVec_depth (c : Course) (r i z v : Nat) : (c.setVec r i z v).depth = c.depth := rfl
@[simp] theorem Course.setVec_rstack (c : Course) (r i z v : Nat) : (c.setVec r i z v).rstack = c.rstack := rfl
@[simp] theorem Course.setVec_chead (c : Course) (r i z v : Nat) : (c.setVec r i z v).chead = c.chead := rfl
@[simp] theorem Course.setVec_cdist (c : Course) (r i z v : Nat) : (c.setVec r i z v).cdist = c.cdist := rfl
@[simp] theorem Course.setVec_flags (c : Course) (r i z v : Nat) : (c.setVec r i z v).flags = c.flags := rfl
@[simp] theorem Course.setVec_vguard (c : Course) (r i z v : Nat) : (c.setVec r i z v).vguard = c.vguard := rfl
@[simp] theorem Course.setVec_pguard (c : Course) (r i z v : Nat) : (c.setVec r i z v).pguard = c.pguard := rfl
@[simp] theorem Course.setVec_sguard (c : Course) (r i z v : Nat) : (c.setVec r i z v).sguard = c.sguard := rfl
@[simp] theorem Course.setVec_fpm (c : Course) (r i z v : Nat) : (c.setVec r i z v).fpm = c.fpm := rfl
@[simp] theorem Course.setVec_srseed (c : Course) (r i z v : Nat) : (c.setVec r i z v).srseed = c.srseed := rfl
@[simp] theorem Course.setVec_lfmode (c : Course) (r i z v : Nat) : (c.setVec r i z v).lfmode = c.lfmode := rfl
@[simp] theorem Course.setVec_rgnPc (c : Course) (r i z v : Nat) : (c.setVec r i z v).rgnPc = c.rgnPc := rfl
@[simp] theorem Course.setVec_rgnOpen (c : Course) (r i z v : Nat) : (c.setVec r i z v).rgnOpen = c.rgnOpen := rfl
@[simp] theorem Course.setVec_restarts (c : Course) (r i z v : Nat) : (c.setVec r i z v).restarts = c.restarts := rfl
@[simp] theorem Course.setVec_restarted (c : Course) (r i z v : Nat) : (c.setVec r i z v).restarted = c.restarted := rfl
@[simp] theorem Course.setVec_shadow (c : Course) (r i z v : Nat) : (c.setVec r i z v).shadow = c.shadow := rfl
@[simp] theorem Course.setVec_markTiles (c : Course) (r i z v : Nat) : (c.setVec r i z v).markTiles = c.markTiles := rfl
@[simp] theorem Course.setVec_markActive (c : Course) (r i z v : Nat) : (c.setVec r i z v).markActive = c.markActive := rfl
@[simp] theorem Course.setVec_markShadow (c : Course) (r i z v : Nat) : (c.setVec r i z v).markShadow = c.markShadow := rfl
@[simp] theorem Course.setVec_ring (c : Course) (r i z v : Nat) : (c.setVec r i z v).ring = c.ring := rfl
@[simp] theorem Course.setVec_frameBase (c : Course) (r i z v : Nat) : (c.setVec r i z v).frameBase = c.frameBase := rfl
@[simp] theorem Course.setVec_frameBusy (c : Course) (r i z v : Nat) : (c.setVec r i z v).frameBusy = c.frameBusy := rfl
@[simp] theorem Course.setVec_mine (c : Course) (r i z v : Nat) : (c.setVec r i z v).mine = c.mine := rfl
@[simp] theorem Course.setVec_peers (c : Course) (r i z v : Nat) : (c.setVec r i z v).peers = c.peers := rfl
@[simp] theorem Course.setVec_faults (c : Course) (r i z v : Nat) : (c.setVec r i z v).faults = c.faults := rfl
@[simp] theorem Course.setVec_cid (c : Course) (r i z v : Nat) : (c.setVec r i z v).cid = c.cid := rfl
@[simp] theorem Course.setVec_bid (c : Course) (r i z v : Nat) : (c.setVec r i z v).bid = c.bid := rfl
@[simp] theorem Course.setVec_pierIx (c : Course) (r i z v : Nat) : (c.setVec r i z v).pierIx = c.pierIx := rfl
@[simp] theorem Course.setVec_spanId (c : Course) (r i z v : Nat) : (c.setVec r i z v).spanId = c.spanId := rfl
@[simp] theorem Course.setVec_qid (c : Course) (r i z v : Nat) : (c.setVec r i z v).qid = c.qid := rfl
@[simp] theorem Course.setVec_slot (c : Course) (r i z v : Nat) : (c.setVec r i z v).slot = c.slot := rfl
@[simp] theorem Course.setVec_bond (c : Course) (r i z v : Nat) : (c.setVec r i z v).bond = c.bond := rfl
@[simp] theorem Course.setVec_pier (c : Course) (r i z v : Nat) : (c.setVec r i z v).pier = c.pier := rfl
@[simp] theorem Course.setVec_span (c : Course) (r i z v : Nat) : (c.setVec r i z v).span = c.span := rfl
@[simp] theorem Course.setVec_tenant (c : Course) (r i z v : Nat) : (c.setVec r i z v).tenant = c.tenant := rfl
@[simp] theorem Course.setVec_asid (c : Course) (r i z v : Nat) : (c.setVec r i z v).asid = c.asid := rfl
@[simp] theorem Course.setVec_regs (c : Course) (r i z v : Nat) : (c.setVec r i z v).regs = c.regs := rfl
@[simp] theorem Course.setVec_harvest (c : Course) (r i z v : Nat) : (c.setVec r i z v).harvest = c.harvest := rfl
@[simp] theorem Course.setVec_prio (c : Course) (r i z v : Nat) : (c.setVec r i z v).prio = c.prio := rfl
@[simp] theorem Course.setVec_frameSlot (c : Course) (r i z v : Nat) : (c.setVec r i z v).frameSlot = c.frameSlot := rfl
@[simp] theorem Course.setVec_ops (c : Course) (r i z v : Nat) : (c.setVec r i z v).ops = c.ops := rfl
@[simp] theorem Course.setVec_nextOp (c : Course) (r i z v : Nat) : (c.setVec r i z v).nextOp = c.nextOp := rfl
@[simp] theorem Course.setVec_landing (c : Course) (r i z v : Nat) : (c.setVec r i z v).landing = c.landing := rfl
@[simp] theorem Course.setVec_asideAt (c : Course) (r i z v : Nat) : (c.setVec r i z v).asideAt = c.asideAt := rfl
@[simp] theorem Course.setVec_aside (c : Course) (r i z v : Nat) : (c.setVec r i z v).aside = c.aside := rfl
@[simp] theorem Course.setVec_yielding (c : Course) (r i z v : Nat) : (c.setVec r i z v).yielding = c.yielding := rfl
@[simp] theorem Course.setVec_stepping (c : Course) (r i z v : Nat) : (c.setVec r i z v).stepping = c.stepping := rfl
@[simp] theorem Course.setVec_stepped (c : Course) (r i z v : Nat) : (c.setVec r i z v).stepped = c.stepped := rfl
@[simp] theorem Course.setVec_debugReq (c : Course) (r i z v : Nat) : (c.setVec r i z v).debugReq = c.debugReq := rfl
@[simp] theorem Course.setVec_haltReq (c : Course) (r i z v : Nat) : (c.setVec r i z v).haltReq = c.haltReq := rfl
@[simp] theorem Course.setVec_forced (c : Course) (r i z v : Nat) : (c.setVec r i z v).forced = c.forced := rfl
@[simp] theorem Course.setVec_evicting (c : Course) (r i z v : Nat) : (c.setVec r i z v).evicting = c.evicting := rfl
@[simp] theorem Course.setVec_held (c : Course) (r i z v : Nat) : (c.setVec r i z v).held = c.held := rfl
@[simp] theorem Course.setVec_heldLanes (c : Course) (r i z v : Nat) : (c.setVec r i z v).heldLanes = c.heldLanes := rfl
@[simp] theorem Course.setVec_caught (c : Course) (r i z v : Nat) : (c.setVec r i z v).caught = c.caught := rfl
@[simp] theorem Course.setVec_caughtBelow (c : Course) (r i z v : Nat) : (c.setVec r i z v).caughtBelow = c.caughtBelow := rfl
@[simp] theorem Course.setVec_owing (c : Course) (r i z v : Nat) : (c.setVec r i z v).owing = c.owing := rfl
@[simp] theorem Course.setVec_imageAt (c : Course) (r i z v : Nat) : (c.setVec r i z v).imageAt = c.imageAt := rfl
@[simp] theorem Course.setVec_segs (c : Course) (r i z v : Nat) : (c.setVec r i z v).segs = c.segs := rfl
@[simp] theorem Course.setVec_stamp (c : Course) (r i z v : Nat) : (c.setVec r i z v).stamp = c.stamp := rfl
@[simp] theorem Course.setVec_away (c : Course) (r i z v : Nat) : (c.setVec r i z v).away = c.away := rfl
@[simp] theorem Course.setScl_id (c : Course) (r z v : Nat) : (c.setScl r z v).id = c.id := rfl
@[simp] theorem Course.setScl_life (c : Course) (r z v : Nat) : (c.setScl r z v).life = c.life := rfl
@[simp] theorem Course.setScl_wait (c : Course) (r z v : Nat) : (c.setScl r z v).wait = c.wait := rfl
@[simp] theorem Course.setScl_waitBelow (c : Course) (r z v : Nat) : (c.setScl r z v).waitBelow = c.waitBelow := rfl
@[simp] theorem Course.setScl_stopRing (c : Course) (r z v : Nat) : (c.setScl r z v).stopRing = c.stopRing := rfl
@[simp] theorem Course.setScl_pend (c : Course) (r z v : Nat) : (c.setScl r z v).pend = c.pend := rfl
@[simp] theorem Course.setScl_live (c : Course) (r z v : Nat) : (c.setScl r z v).live = c.live := rfl
@[simp] theorem Course.setScl_pc (c : Course) (r z v : Nat) : (c.setScl r z v).pc = c.pc := rfl
@[simp] theorem Course.setScl_last (c : Course) (r z v : Nat) : (c.setScl r z v).last = c.last := rfl
@[simp] theorem Course.setScl_issueNo (c : Course) (r z v : Nat) : (c.setScl r z v).issueNo = c.issueNo := rfl
@[simp] theorem Course.setScl_v (c : Course) (r z v : Nat) : (c.setScl r z v).v = c.v := rfl
@[simp] theorem Course.setScl_o (c : Course) (r z v : Nat) : (c.setScl r z v).o = c.o := rfl
@[simp] theorem Course.setScl_l (c : Course) (r z v : Nat) : (c.setScl r z v).l = c.l := rfl
@[simp] theorem Course.setScl_p (c : Course) (r z v : Nat) : (c.setScl r z v).p = c.p := rfl
@[simp] theorem Course.setScl_enr (c : Course) (r z v : Nat) : (c.setScl r z v).enr = c.enr := rfl
@[simp] theorem Course.setScl_waitm (c : Course) (r z v : Nat) : (c.setScl r z v).waitm = c.waitm := rfl
@[simp] theorem Course.setScl_waitLen (c : Course) (r z v : Nat) : (c.setScl r z v).waitLen = c.waitLen := rfl
@[simp] theorem Course.setScl_depth (c : Course) (r z v : Nat) : (c.setScl r z v).depth = c.depth := rfl
@[simp] theorem Course.setScl_rstack (c : Course) (r z v : Nat) : (c.setScl r z v).rstack = c.rstack := rfl
@[simp] theorem Course.setScl_chead (c : Course) (r z v : Nat) : (c.setScl r z v).chead = c.chead := rfl
@[simp] theorem Course.setScl_cdist (c : Course) (r z v : Nat) : (c.setScl r z v).cdist = c.cdist := rfl
@[simp] theorem Course.setScl_flags (c : Course) (r z v : Nat) : (c.setScl r z v).flags = c.flags := rfl
@[simp] theorem Course.setScl_vguard (c : Course) (r z v : Nat) : (c.setScl r z v).vguard = c.vguard := rfl
@[simp] theorem Course.setScl_pguard (c : Course) (r z v : Nat) : (c.setScl r z v).pguard = c.pguard := rfl
@[simp] theorem Course.setScl_sguard (c : Course) (r z v : Nat) : (c.setScl r z v).sguard = c.sguard := rfl
@[simp] theorem Course.setScl_fpm (c : Course) (r z v : Nat) : (c.setScl r z v).fpm = c.fpm := rfl
@[simp] theorem Course.setScl_srseed (c : Course) (r z v : Nat) : (c.setScl r z v).srseed = c.srseed := rfl
@[simp] theorem Course.setScl_lfmode (c : Course) (r z v : Nat) : (c.setScl r z v).lfmode = c.lfmode := rfl
@[simp] theorem Course.setScl_rgnPc (c : Course) (r z v : Nat) : (c.setScl r z v).rgnPc = c.rgnPc := rfl
@[simp] theorem Course.setScl_rgnOpen (c : Course) (r z v : Nat) : (c.setScl r z v).rgnOpen = c.rgnOpen := rfl
@[simp] theorem Course.setScl_restarts (c : Course) (r z v : Nat) : (c.setScl r z v).restarts = c.restarts := rfl
@[simp] theorem Course.setScl_restarted (c : Course) (r z v : Nat) : (c.setScl r z v).restarted = c.restarted := rfl
@[simp] theorem Course.setScl_shadow (c : Course) (r z v : Nat) : (c.setScl r z v).shadow = c.shadow := rfl
@[simp] theorem Course.setScl_markTiles (c : Course) (r z v : Nat) : (c.setScl r z v).markTiles = c.markTiles := rfl
@[simp] theorem Course.setScl_markActive (c : Course) (r z v : Nat) : (c.setScl r z v).markActive = c.markActive := rfl
@[simp] theorem Course.setScl_markShadow (c : Course) (r z v : Nat) : (c.setScl r z v).markShadow = c.markShadow := rfl
@[simp] theorem Course.setScl_ring (c : Course) (r z v : Nat) : (c.setScl r z v).ring = c.ring := rfl
@[simp] theorem Course.setScl_frameBase (c : Course) (r z v : Nat) : (c.setScl r z v).frameBase = c.frameBase := rfl
@[simp] theorem Course.setScl_frameBusy (c : Course) (r z v : Nat) : (c.setScl r z v).frameBusy = c.frameBusy := rfl
@[simp] theorem Course.setScl_mine (c : Course) (r z v : Nat) : (c.setScl r z v).mine = c.mine := rfl
@[simp] theorem Course.setScl_peers (c : Course) (r z v : Nat) : (c.setScl r z v).peers = c.peers := rfl
@[simp] theorem Course.setScl_faults (c : Course) (r z v : Nat) : (c.setScl r z v).faults = c.faults := rfl
@[simp] theorem Course.setScl_cid (c : Course) (r z v : Nat) : (c.setScl r z v).cid = c.cid := rfl
@[simp] theorem Course.setScl_bid (c : Course) (r z v : Nat) : (c.setScl r z v).bid = c.bid := rfl
@[simp] theorem Course.setScl_pierIx (c : Course) (r z v : Nat) : (c.setScl r z v).pierIx = c.pierIx := rfl
@[simp] theorem Course.setScl_spanId (c : Course) (r z v : Nat) : (c.setScl r z v).spanId = c.spanId := rfl
@[simp] theorem Course.setScl_qid (c : Course) (r z v : Nat) : (c.setScl r z v).qid = c.qid := rfl
@[simp] theorem Course.setScl_slot (c : Course) (r z v : Nat) : (c.setScl r z v).slot = c.slot := rfl
@[simp] theorem Course.setScl_bond (c : Course) (r z v : Nat) : (c.setScl r z v).bond = c.bond := rfl
@[simp] theorem Course.setScl_pier (c : Course) (r z v : Nat) : (c.setScl r z v).pier = c.pier := rfl
@[simp] theorem Course.setScl_span (c : Course) (r z v : Nat) : (c.setScl r z v).span = c.span := rfl
@[simp] theorem Course.setScl_tenant (c : Course) (r z v : Nat) : (c.setScl r z v).tenant = c.tenant := rfl
@[simp] theorem Course.setScl_asid (c : Course) (r z v : Nat) : (c.setScl r z v).asid = c.asid := rfl
@[simp] theorem Course.setScl_regs (c : Course) (r z v : Nat) : (c.setScl r z v).regs = c.regs := rfl
@[simp] theorem Course.setScl_harvest (c : Course) (r z v : Nat) : (c.setScl r z v).harvest = c.harvest := rfl
@[simp] theorem Course.setScl_prio (c : Course) (r z v : Nat) : (c.setScl r z v).prio = c.prio := rfl
@[simp] theorem Course.setScl_frameSlot (c : Course) (r z v : Nat) : (c.setScl r z v).frameSlot = c.frameSlot := rfl
@[simp] theorem Course.setScl_ops (c : Course) (r z v : Nat) : (c.setScl r z v).ops = c.ops := rfl
@[simp] theorem Course.setScl_nextOp (c : Course) (r z v : Nat) : (c.setScl r z v).nextOp = c.nextOp := rfl
@[simp] theorem Course.setScl_landing (c : Course) (r z v : Nat) : (c.setScl r z v).landing = c.landing := rfl
@[simp] theorem Course.setScl_asideAt (c : Course) (r z v : Nat) : (c.setScl r z v).asideAt = c.asideAt := rfl
@[simp] theorem Course.setScl_aside (c : Course) (r z v : Nat) : (c.setScl r z v).aside = c.aside := rfl
@[simp] theorem Course.setScl_yielding (c : Course) (r z v : Nat) : (c.setScl r z v).yielding = c.yielding := rfl
@[simp] theorem Course.setScl_stepping (c : Course) (r z v : Nat) : (c.setScl r z v).stepping = c.stepping := rfl
@[simp] theorem Course.setScl_stepped (c : Course) (r z v : Nat) : (c.setScl r z v).stepped = c.stepped := rfl
@[simp] theorem Course.setScl_debugReq (c : Course) (r z v : Nat) : (c.setScl r z v).debugReq = c.debugReq := rfl
@[simp] theorem Course.setScl_haltReq (c : Course) (r z v : Nat) : (c.setScl r z v).haltReq = c.haltReq := rfl
@[simp] theorem Course.setScl_forced (c : Course) (r z v : Nat) : (c.setScl r z v).forced = c.forced := rfl
@[simp] theorem Course.setScl_evicting (c : Course) (r z v : Nat) : (c.setScl r z v).evicting = c.evicting := rfl
@[simp] theorem Course.setScl_held (c : Course) (r z v : Nat) : (c.setScl r z v).held = c.held := rfl
@[simp] theorem Course.setScl_heldLanes (c : Course) (r z v : Nat) : (c.setScl r z v).heldLanes = c.heldLanes := rfl
@[simp] theorem Course.setScl_caught (c : Course) (r z v : Nat) : (c.setScl r z v).caught = c.caught := rfl
@[simp] theorem Course.setScl_caughtBelow (c : Course) (r z v : Nat) : (c.setScl r z v).caughtBelow = c.caughtBelow := rfl
@[simp] theorem Course.setScl_owing (c : Course) (r z v : Nat) : (c.setScl r z v).owing = c.owing := rfl
@[simp] theorem Course.setScl_imageAt (c : Course) (r z v : Nat) : (c.setScl r z v).imageAt = c.imageAt := rfl
@[simp] theorem Course.setScl_segs (c : Course) (r z v : Nat) : (c.setScl r z v).segs = c.segs := rfl
@[simp] theorem Course.setScl_stamp (c : Course) (r z v : Nat) : (c.setScl r z v).stamp = c.stamp := rfl
@[simp] theorem Course.setScl_away (c : Course) (r z v : Nat) : (c.setScl r z v).away = c.away := rfl

end Sys2Proof.Machine
end

