-- ==== Sys2Proof/Laws/Issue.lean ====
section
/-! SUPPORT. What the shared operations of the meanings answer when no cause applies, one lemma each: the causes of issue, results, lane results,
control transfers, and the entry of operations. -/

namespace Sys2Proof.Machine

open Sys2Proof.Claims

/-! ### Sets of lanes -/

theorem toList_mem (m : LaneSet) (i : Nat) : i ∈ LaneSet.toList m ↔ i < 32 ∧ m.getLsbD i = true := by
  simp [LaneSet.toList, allLanes]

theorem and_notNone (m : LaneSet) : m &&& ~~~(0 : LaneSet) = m := by
  rw [show ~~~(0 : LaneSet) = BitVec.allOnes 32 by decide, BitVec.and_allOnes]

theorem faultSet_nil : faultSet [] = 0 := by decide

theorem faultSet_one (i k a : Nat) (hi : i < 32) : faultSet [{ lane := i, cause := k, addr := a }] = LaneSet.only i := by
  have h : ∀ i < 32, LaneSet.ofFn (fun j => i == j) = LaneSet.only i := by decide
  unfold faultSet
  simp only [List.any_cons, List.any_nil, Bool.or_false]
  exact h i hi

/-- A set whose list has one lane is that lane's. -/
theorem laneSet_single (m : LaneSet) (i : Nat) (h : LaneSet.toList m = [i]) : m = LaneSet.only i := by
  have hi : i < 32 := ((toList_mem m i).mp (by rw [h]; simp)).1
  apply BitVec.eq_of_getLsbD_eq
  intro j hj
  have h2 : m.getLsbD j = true ↔ j = i := by
    rw [← List.mem_singleton (a := j) (b := i), ← h, toList_mem]; simp [hj]
  have h3 : (LaneSet.only i).getLsbD j = true ↔ j = i := by
    unfold LaneSet.only
    rw [BitVec.getLsbD_ofNat]
    simp [Nat.testBit_two_pow, hj, Nat.mod_eq_of_lt hi, eq_comm]
  rw [Bool.eq_iff_iff, h2, h3]

theorem foldl_congr_mem {α : Type} (ls : List Nat) (g h : α → Nat → α) (hl : ∀ i ∈ ls, ∀ p, g p i = h p i) (p : α) : ls.foldl g p = ls.foldl h p := by
  induction ls generalizing p with
  | nil => rfl
  | cons a r ih => rw [List.foldl_cons, List.foldl_cons, hl a (by simp)]; exact ih (fun i hi => hl i (by simp [hi])) _

theorem foldl_add_sum (l : List Nat) (g : Nat → Nat) : ∀ z : Nat, l.foldl (fun acc k => acc + g k) z = z + (l.map g).sum := by
  induction l with
  | nil => intro z; simp
  | cons y r ih => intro z; rw [List.foldl_cons, ih, List.map_cons, List.sum_cons]; omega

/-! ### Causes of issue (R102) -/

/-- The lowest sub-code of a list without one. -/
theorem minSub_none (l : List (Option Nat)) (h : ∀ o ∈ l, o = none) : minSub l = none := by
  rw [List.eq_replicate_of_mem h]
  unfold minSub
  induction l.length with
  | zero => rfl
  | succ n ih => simpa [List.replicate_succ] using ih

/-- What issue answers: the lowest class of cause, else the body on the participating lanes. -/
theorem issue_cases (s : State) (maj : Nat) (x : Ops) (c1 c2 : Option Nat) (body : LaneSet → Out) :
    (∃ k, class0 s maj x = some k ∧ issue s maj x c1 c2 body = .next (raiseSubset s k 0)) ∨
    (∃ k, class0 s maj x = none ∧ c1 = some k ∧ issue s maj x c1 c2 body = .next (raiseSubset s (16 + k) 0)) ∨
    (∃ k, class0 s maj x = none ∧ c1 = none ∧ c2 = some k ∧ issue s maj x c1 c2 body = .next (raiseSubset s (32 + k) 0)) ∨
    (class0 s maj x = none ∧ c1 = none ∧ c2 = none ∧ issue s maj x c1 c2 body = body (partLanes s x)) := by
  unfold issue
  cases h0 : class0 s maj x with
  | some k => exact .inl ⟨k, rfl, rfl⟩
  | none =>
    cases c1 with
    | some k => exact .inr (.inl ⟨k, rfl, rfl, rfl⟩)
    | none =>
      cases c2 with
      | some k => exact .inr (.inr (.inl ⟨k, rfl, rfl, rfl, rfl⟩))
      | none => exact .inr (.inr (.inr ⟨rfl, rfl, rfl, rfl⟩))

theorem issue_clear {s : State} {maj : Nat} {x : Ops} {c1 c2 : Option Nat} (body : LaneSet → Out) (h0 : class0 s maj x = none) (h1 : c1 = none)
    (h2 : c2 = none) : issue s maj x c1 c2 body = body (partLanes s x) := by
  unfold issue; rw [h0, h1, h2]

theorem issue_free {s : State} {maj : Nat} {x : Ops} {c1 : Option Nat} {r w : List RegRef} (body : LaneSet → Out) (h : Free s maj x c1 r w) :
    issue s maj x c1 (class2 s x r w) body = body (partLanes s x) := issue_clear body h.1 h.2.1 h.2.2

theorem issue_class0 {s : State} {maj : Nat} {x : Ops} {k : Nat} (c1 c2 : Option Nat) (body : LaneSet → Out) (h : class0 s maj x = some k) :
    issue s maj x c1 c2 body = .next (raiseSubset s k 0) := by unfold issue; rw [h]

theorem issue_class1 {s : State} {maj : Nat} {x : Ops} {k : Nat} (c2 : Option Nat) (body : LaneSet → Out) (h : class0 s maj x = none) :
    issue s maj x (some k) c2 body = .next (raiseSubset s (16 + k) 0) := by unfold issue; rw [h]

/-! ### Advancing -/

theorem done_passed (s : State) (x : Ops) : done s x = .next (passed s x) := rfl

/-- Live lanes of which one is eligible stay as they are (R162). -/
theorem noEligible_of (s : State) (h : s.cur.eligible ≠ 0) : noEligible s = s := by
  unfold noEligible noEligibleAt
  simp only
  rw [if_neg]
  simp only [Bool.and_eq_true, decide_eq_true_eq]
  exact fun hc => h hc.1.1.2

theorem laneFaults_nil (s : State) (hold : Bool) (tpc : Nat) : laneFaults s hold tpc [] = s := rfl

/-! ### Results -/

theorem alu_clear {s : State} {x : Ops} {maj n : Nat} {srcs : List (STy × Opd)} {f : Nat → Nat} (h : Clear s maj x srcs n) :
    alu s x maj srcs n f = .next (wrote s x n f) := by
  obtain ⟨h0, h1, h2⟩ := h
  unfold alu issue
  rw [h0, h1, h2]
  rfl

theorem aluPred_clear {s : State} {x : Ops} {maj : Nat} {srcs : List (STy × Opd)} {f : Nat → Bool} (h0 : class0 s maj x = none)
    (hs : ∀ p ∈ srcs, srcSub s x p.1 p.2 = none) (hd : predSub x x.d = none) (h2 : class2 s x (aluReads srcs) (predDst x.d) = none) :
    aluPred s x maj srcs f = .next (wrotePred s x f) := by
  have h1 : minSub (srcs.map (fun p => srcSub s x p.1 p.2) ++ [predSub x x.d]) = none := by
    refine minSub_none _ (fun o ho => ?_)
    rw [List.mem_append, List.mem_map, List.mem_singleton] at ho
    rcases ho with ⟨p, hp, h⟩ | h
    · rw [← h]; exact hs p hp
    · rw [h]; exact hd
  unfold aluPred
  rw [issue_clear _ h0 h1 h2]
  rfl

theorem doneFaults_nil (s : State) (x : Ops) : doneFaults s x [] = done s x := by
  simp only [doneFaults, faultSet_nil, and_notNone, laneFaults, done, State.pass]

/-- Quiet results are all kept, and none of them is a lane fault. -/
theorem quiet_keeps {s : State} {rs : List (Nat × FRes)} (h : Quiet s rs) :
    rs.filter (fun r => (teCause s.cur.fpm r.2.flags).isNone) = rs ∧
    rs.filterMap (fun r => (teCause s.cur.fpm r.2.flags).map (fun k => ({ lane := r.1, cause := k, addr := 0 } : LaneFault))) = [] := by
  obtain ⟨_, h⟩ := h
  rw [List.all_eq_true] at h
  refine ⟨List.filter_eq_self.mpr h, List.filterMap_eq_nil_iff.mpr (fun r hr => ?_)⟩
  have := h r hr
  rw [Option.isNone_iff_eq_none] at this
  simp [this]

theorem fltDone_quiet {s0 s : State} {x : Ops} {rs : List (Nat × FRes)} {sc : Bool} {w : Course → List (Nat × Nat) → Course}
    (e : s0.cur.fpm = s.cur.fpm) (h : Quiet s rs) : fltDone s0 x rs sc w = .next (floated s0 x rs w) := by
  have hf := quiet_keeps h
  unfold fltDone
  simp only [e, h.1, hf.1, hf.2]
  cases sc <;> simp only [doneFaults, faultSet_nil, and_notNone, laneFaults, floated, State.pass, State.upd]

theorem flt_clear {s : State} {x : Ops} {maj n : Nat} {srcs : List (STy × Opd)} {f : Nat → FRes} (h : Clear s maj x srcs n)
    (hq : Quiet s ((fltLanes s x).map (fun i => (i, f i)))) :
    flt s x maj srcs n f = .next (floatedTo s x n ((fltLanes s x).map (fun i => (i, f i)))) := by
  obtain ⟨h0, h1, h2⟩ := h
  simp only [flt, issue, h0, h1, h2]
  exact fltDone_quiet rfl hq

theorem lane_clear {s : State} {x : Ops} {maj n : Nat} {srcs : List (STy × Opd)} {scl : Bool} {ex : Option Nat} {preds : List RegRef}
    {f : List Nat → Nat → Nat} (h0 : class0 s maj x = none) (hs : ∀ p ∈ srcs, srcSub s x p.1 p.2 = none) (hd : dstSub s.cur x n x.d = none)
    (hc : opdIsS x.d = true → scl = true) (h2 : class2 s x (aluReads srcs ++ preds) (opdRefs x.d n) = none) (he : ex = none) :
    lane s x maj srcs n scl ex preds f = .next (wrote s x n (f (lanes s x))) := by
  subst he
  have h1 : minSub (none :: srcs.map (fun p => srcSub s x p.1 p.2) ++ [dstSub s.cur x n x.d, subIf (opdIsS x.d && !scl) 14]) = none := by
    refine minSub_none _ (fun o ho => ?_)
    simp only [List.cons_append, List.mem_cons, List.mem_append, List.mem_map] at ho
    rcases ho with h | ⟨p, hp, h⟩ | h | h | h
    · exact h
    · rw [← h]; exact hs p hp
    · rw [h]; exact hd
    · rw [h]; cases hx : opdIsS x.d
      · rfl
      · simp [subIf, hc hx]
    · cases h
  unfold lane issue
  simp only [h0, h1, h2]
  rfl

/-! ### Control transfers -/

theorem transfer_goto (s : State) (x : Ops) (f : Nat → Xfer) (dest : Nat → Nat) (stack : Course → Nat → Course)
    (h : ∀ i ∈ lanes s x, f i = .goto (dest i)) : transfer s x (partLanes s x) f stack = .next (moved s x dest stack) := by
  have h0 : (LaneSet.toList (partLanes s x)).filterMap (fun i => xferFault i (f i)) = [] :=
    List.filterMap_eq_nil_iff.mpr (fun i hi => by rw [h i hi]; rfl)
  unfold transfer moved
  simp only [h0, faultSet_nil, laneFaults, and_notNone]
  congr 2
  unfold State.upd Course.jump Course.setPcs
  simp only
  congr 3
  rw [foldl_congr_mem _ _ (fun p i => Cells.set p i (BitVec.ofNat 53 (dest i))) (fun i hi p => by rw [h i hi]; rfl)]
  rfl

/-- One lane alone, outside hold mode, that may not go where it would: its record is written and the course traps (R163, R421). -/
theorem transfer_fault (s : State) (x : Ops) (f : Nat → Xfer) (stack : Course → Nat → Course) (i k a : Nat) (h1 : lanes s x = [i])
    (h2 : s.iss.mask = partLanes s x) (h3 : s.cur.holdMode = false) (h : f i = .fault k a) :
    transfer s x (partLanes s x) f stack = .next (noEligible (raise
      (s.upd (fun c => { c with faults := Cells.set c.faults i (BitVec.ofNat 64 (2 ^ 63 + k * 2 ^ 53 + a % 2 ^ 53)) }))
      k (LaneSet.only i) s.iss.pc 0 (LaneSet.only i))) := by
  have e : LaneSet.toList (partLanes s x) = [i] := h1
  have hi : i < 32 := ((toList_mem (partLanes s x) i).mp (by rw [e]; simp)).1
  have h0 : (LaneSet.toList (partLanes s x)).filterMap (fun i => xferFault i (f i)) = [{ lane := i, cause := k, addr := a }] := by
    rw [e]; simp [h, xferFault]
  have hm : LaneSet.only i &&& ~~~ LaneSet.only i = 0 := by simp
  have hp : partLanes s x = LaneSet.only i := laneSet_single _ _ h1
  unfold transfer
  dsimp only
  rw [h0]
  simp only [faultSet_one _ _ _ hi, laneFaults, h3, h2, hp, hm, Bool.false_eq_true, if_false]
  rfl

theorem jumpTo_goto {s : State} {x : Ops} {t : Nat} (h : (t : Int) = s.iss.pc + 4 * jumpOff x) (h2 : t < Config.vaLimit) : jumpTo s x = .goto t := by
  unfold jumpTo
  simp only [← h]
  rw [if_neg]
  · simp
  · simp; omega

theorem jumpTarget_goto {s : State} {x : Ops} {i : Nat} (h : readBase s x x.a i % 4 = 0 ∧ readBase s x x.a i < Config.vaLimit) :
    jumpTarget s x i = .goto (readBase s x x.a i) := by
  unfold jumpTarget
  simp [h.1, Nat.not_le.mpr h.2]

/-! ### Masks and courses -/

theorem maskOp_free {s : State} {x : Ops} {maj : Nat} (body : LaneSet → Out) (h : Free s maj x none [] []) (h0 : heldMask s x.low4 = false) :
    maskOp s x maj body = body (partLanes s x) := by
  unfold maskOp
  rw [issue_free _ h, h0]
  simp

/-- `join`, `leave` and `waitm` on m11 in hold mode trap when a lane participates (R163). -/
theorem maskOp_held {s : State} {x : Ops} {maj : Nat} (body : LaneSet → Out) (h : Free s maj x none [] []) (h0 : heldMask s x.low4 = true)
    (hm : partLanes s x ≠ 0) : maskOp s x maj body = trapOut s 0xB1 := by
  unfold maskOp
  rw [issue_free _ h, h0]
  simp only [hm, ne_eq, not_false_eq_true, decide_true, Bool.and_self, if_true]

/-- The course in the issue unit is acted on where it stands. -/
theorem atCourse_here (s : State) (f : State → State) : atCourse s s.cur.id f = f s := by
  unfold atCourse
  rw [if_pos (beq_self_eq_true _)]

/-- A course that does not exist is not acted on. -/
theorem atCourse_absent (s : State) (id : Nat) (f : State → State) (h : s.cur.id ≠ id) (h2 : s.courses.find? (fun c => c.id == id) = none) :
    atCourse s id f = s := by
  unfold atCourse
  rw [if_neg (by simpa using h), h2]

/-! ### Operations -/

/-- Offsets that are aligned and inside the scratchpad meet no cause (R211, R241). -/
theorem checkLanes_scratch (s : State) (z : Nat) (u : Use) (as : List (Nat × Nat)) (h : ∀ p ∈ as, laneCause (scratchSize s) true z p.2 = none) :
    checkLanes s true z u as = (s, .ok ([], as)) := by
  have h1 : as.filterMap (fun p => (laneCause (scratchSize s) true z p.2).map (fun k => ({ lane := p.1, cause := k, addr := p.2 } : LaneFault))) = [] :=
    List.filterMap_eq_nil_iff.mpr (fun p hp => by rw [h p hp]; rfl)
  have h2 : as.filter (fun p => (laneCause (scratchSize s) true z p.2).isNone) = as :=
    List.filter_eq_self.mpr (fun p hp => by rw [h p hp]; rfl)
  unfold checkLanes
  simp only [h1, h2, if_true]

theorem issueOpF_room (s : State) (x : Ops) (n : Nat) (pre : List Op) (o : Op) (after : State → Nat → State) (h : Room s n pre o) :
    issueOpF s x n pre o [] after = .next (entered s x n pre o after) := by
  obtain ⟨h1, h2, h3, h4⟩ := h
  unfold added at h3
  unfold issueOpF entered
  simp only [h1, h2, h3, Bool.or_false, Bool.false_eq_true, if_false]
  rw [if_neg (by simpa [withMarks] using h4)]
  simp only [faultSet_nil, and_notNone, laneFaults]
  rfl

/-- A full flag, a kept operation too many or too few entries of the access queue hold the course at issue (R324, R332, R394). -/
theorem issueOpF_full (s : State) (x : Ops) (n : Nat) (pre : List Op) (o : Op) (fs : List LaneFault) (after : State → Nat → State)
    (h : (flagsFull s.cur o.flags || keptFull s.cur o || accessFull s (added pre o)) = true) : issueOpF s x n pre o fs after = stallIssue s := by
  unfold added at h
  unfold issueOpF
  simp only
  rw [if_pos h]

/-- A cause is added to the course's pending ones and taken when it can be; one of class 5 ends the span (R47, R391, R424). -/
theorem raise_eq (s : State) (cause : Nat) (ls : LaneSet) (tpc info : Nat) (recs : LaneSet) (h : cause / 16 ≠ 5) :
    raise s cause ls tpc info recs = takePending (s.upd (fun c =>
      { c with
          stepping := false, stepped := false,
          pend := c.pend ++ [{ cause := cause, lanes := ls, tpc := tpc, info := info, ring := c.ring, recs := recs }] })) := by
  unfold raise
  rw [if_neg h]

/-- A pending cause stays while the course is not live, not in the ring that raised it, stopped, set aside, or with operations that have no entry. -/
theorem takePending_waits (s : State) (t : Trap) (rest : List Trap) (h : s.cur.pend = t :: rest)
    (h2 : t.ring ≠ s.cur.ring ∨ s.cur.life ≠ .live ∨ s.cur.stopRing.isSome = true ∨ s.cur.aside.isSome = true) : takePending s = s := by
  unfold takePending
  rw [h]
  simp only
  rw [if_pos]
  rcases h2 with h2 | h2 | h2 | h2 <;> simp [h2]

end Sys2Proof.Machine
end

