-- ==== Sys2Proof/Laws/Memory.lean ====
section
/-! SUPPORT. The byte memory: reading after writing, and the canonical form, which every operation that writes memory keeps. -/

namespace Sys2Proof.Machine

/-! ### Numbers in memory -/

theorem wf_writeNum (n : Nat) : ∀ (cs : Cells 8) (lo v : Nat), Cells.wf cs = true → Cells.wf (writeNum cs lo n v) = true := by
  induction n with
  | zero => intro cs lo v h; exact h
  | succ k ih => intro cs lo v h; exact ih _ _ _ (Cells.wf_set _ _ _ h)

/-- A byte after a write: the byte of the number written there, else the byte before. -/
theorem get_writeNum (n : Nat) : ∀ (cs : Cells 8) (lo v a : Nat), Cells.wf cs = true →
    Cells.get (writeNum cs lo n v) a = if lo ≤ a ∧ a < lo + n then BitVec.ofNat 8 (v / 256 ^ (a - lo)) else Cells.get cs a := by
  induction n with
  | zero => intro cs lo v a _; simp [writeNum]
  | succ k ih =>
    intro cs lo v a h
    rw [writeNum, ih _ _ _ _ (Cells.wf_set _ _ _ h), Cells.get_set _ _ _ _ h]
    by_cases h1 : a = lo
    · subst h1; simp
    · by_cases h2 : lo + 1 ≤ a ∧ a < lo + 1 + k
      · rw [if_pos h2, if_pos (by omega), Nat.div_div_eq_div_mul, ← Nat.pow_succ', show (a - (lo + 1)).succ = a - lo by omega]
      · rw [if_neg h2, if_neg (by omega), if_neg (by omega)]

/-- Two memories that agree on a range hold the same number there. -/
theorem readNum_congr (n : Nat) : ∀ (x y : Cells 8) (lo : Nat), (∀ a, lo ≤ a → a < lo + n → Cells.get x a = Cells.get y a) →
    readNum x lo n = readNum y lo n := by
  induction n with
  | zero => intro x y lo _; rfl
  | succ k ih =>
    intro x y lo h
    rw [readNum, readNum, h lo (by omega) (by omega), ih x y (lo + 1) (fun a h1 h2 => h a (by omega) (by omega))]

/-- A write changes no byte outside its range. -/
theorem readNum_writeNum_outside (cs : Cells 8) (lo n v a m : Nat) (h : Cells.wf cs = true) (hd : a + m ≤ lo ∨ lo + n ≤ a) :
    readNum (writeNum cs lo n v) a m = readNum cs a m := by
  refine readNum_congr _ _ _ _ (fun b h1 h2 => ?_)
  rw [get_writeNum _ _ _ _ _ h, if_neg (by omega)]

/-- A range reads back what was written to it. -/
theorem readNum_writeNum (n : Nat) : ∀ (cs : Cells 8) (lo v : Nat), Cells.wf cs = true → readNum (writeNum cs lo n v) lo n = v % 256 ^ n := by
  induction n with
  | zero => intro cs lo v _; simp [readNum, Nat.mod_one]
  | succ k ih =>
    intro cs lo v h
    have hw := Cells.wf_set cs lo (BitVec.ofNat 8 v) h
    have e : v % 256 ^ (k + 1) = v % 256 + 256 * (v / 256 % 256 ^ k) := by rw [Nat.pow_succ', Nat.mod_mul]
    rw [writeNum, readNum, ih _ _ _ hw, get_writeNum _ _ _ _ _ hw, if_neg (by omega), Cells.get_set _ _ _ _ h, if_pos rfl, e]
    rfl

theorem readNum_lt (cs : Cells 8) (n : Nat) : ∀ lo, readNum cs lo n < 256 ^ n := by
  induction n with
  | zero => intro lo; simp [readNum]
  | succ k ih =>
    intro lo
    have h1 := (Cells.get cs lo).isLt
    have h2 := ih (lo + 1)
    rw [readNum, Nat.pow_succ']
    omega

/-! ### The canonical form -/

theorem memOk_reset : State.reset.MemOk := rfl

theorem memOk_upd (s : State) (f : Course → Course) (h : s.MemOk) : (s.upd f).MemOk := h

/-- A fold over states keeps the form when each of its steps does. -/
theorem memOk_foldl {α : Type} (xs : List α) (f : State → α → State) (hf : ∀ s x, s.MemOk → (f s x).MemOk) : ∀ s : State, s.MemOk → (xs.foldl f s).MemOk := by
  induction xs with
  | nil => intro s h; exact h
  | cons x rest ih => intro s h; exact ih _ (hf _ _ h)

theorem memOk_ite {p : Prop} [Decidable p] (s t : State) (hs : s.MemOk) (ht : t.MemOk) : (if p then s else t).MemOk := by
  split
  · exact hs
  · exact ht

theorem memOk_sectorSettle (s : State) (k : Nat) (w : Bool) (h : s.MemOk) : (sectorSettle s k w).MemOk := by
  unfold sectorSettle
  refine memOk_ite _ _ h ?_
  unfold State.MemOk at *
  dsimp only
  exact wf_writeNum 64 _ _ _ h

theorem memOk_settleFor (s : State) (pa n : Nat) (h : s.MemOk) : (settleFor s pa n).MemOk := by
  unfold settleFor
  refine memOk_ite _ _ h ?_
  exact memOk_foldl _ _ (fun s k hs => memOk_sectorSettle s k _ hs) s h

theorem memOk_physWrite (s : State) (pa n v : Nat) (h : s.MemOk) : (physWrite s pa n v).MemOk := by
  unfold physWrite
  refine memOk_ite _ _ ?_ h
  have h1 := memOk_settleFor s pa n h
  unfold State.MemOk at *
  dsimp only
  exact wf_writeNum n _ _ _ h1

theorem memOk_putCrc (s : State) (pa : Nat) (crc : BitVec 32) (k : Nat) (h : s.MemOk) : (putCrc s pa crc k).MemOk := by
  unfold State.MemOk putCrc at *
  exact h

theorem memOk_hbmPutLine (s : State) (pa : Nat) (m : BitVec 128) (d : BitVec 1024) (p : BitVec 2) (crc : BitVec 32) (h : s.MemOk) :
    (hbmPutLine s pa m d p crc).MemOk := by
  have h1 : (if s.hmeta.isEmpty then s else [0, 1].foldl (fun s k => if m &&& byteMask (64 * k) 64 = 0 then s
      else sectorSettle s (pa / 64 + k) (covers m (byteMask (64 * k) 64))) s : State).MemOk :=
    memOk_ite _ _ h (memOk_foldl _ _ (fun u k hu => memOk_ite _ _ hu (memOk_sectorSettle _ _ _ hu)) s h)
  unfold hbmPutLine
  refine memOk_ite _ _ h ?_
  dsimp only
  revert h1
  generalize (if s.hmeta.isEmpty then s else _ : State) = u
  intro hu
  have hv : ({ u with
      mem := if m = 0 then u.mem else writeNum u.mem pa 128 (dataMerge m d (BitVec.ofNat 1024 (readNum u.mem pa 128))).toNat
      hpoison := Cells.set (Cells.set u.hpoison (pa / 64) (p.extractLsb' 0 1)) (pa / 64 + 1) (p.extractLsb' 1 1) } : State).MemOk := by
    unfold State.MemOk at *
    dsimp only
    split
    · exact hu
    · exact wf_writeNum _ _ _ _ hu
  exact memOk_ite _ _ hv (memOk_foldl _ _ (fun v k h => memOk_ite _ _ h (memOk_putCrc _ _ _ _ h)) _ hv)

/-- Dropping the bytes of a frame, as a scrub does, keeps the form (R355). -/
theorem memOk_drop (s : State) (lo hi : Nat) (h : s.MemOk) : ({ s with mem := Cells.drop s.mem lo hi } : State).MemOk := Cells.wf_drop _ _ _ h

/-- Appending cells that lie above everything kept keeps the form. -/
theorem wfAbove_append {w : Nat} (ys : Cells w) : ∀ (xs : Cells w) (lo : Option Nat) (b : Nat), Cells.wfAbove lo xs = true →
    (∀ c ∈ xs, c.1 < b) → (∀ k, lo = some k → k < b) → (∀ o : Option Nat, (∀ k, o = some k → k < b) → Cells.wfAbove o ys = true) →
    Cells.wfAbove lo (xs ++ ys) = true := by
  intro xs
  induction xs with
  | nil => intro lo b _ _ hb hy; exact hy lo hb
  | cons c rest ih =>
    intro lo b h hx hb hy
    obtain ⟨a, x⟩ := c
    rw [List.cons_append]
    rw [Cells.wfAbove_cons] at h ⊢
    refine ⟨h.1, h.2.1, ih (some a) b h.2.2 (fun c hc => hx c (List.mem_cons_of_mem _ hc)) (fun k hk => ?_) hy⟩
    cases hk
    exact hx (a, x) (List.mem_cons_self)

/-- Cells at rising places that entries 8 bytes apart take, each with the same first byte. -/
theorem wfAbove_entries (v base : Nat) (hv : BitVec.ofNat 8 v ≠ 0) (rest : Cells 8) (is : List Nat) : ∀ (o : Option Nat) (top : Nat),
    is.Pairwise (· < ·) → (∀ k, o = some k → k < base + 8 * top ∧ ∀ i ∈ is, k < base + 8 * i) → (∀ i ∈ is, i < top) →
    (∀ q : Option Nat, (∀ k, q = some k → k < base + 8 * top) → Cells.wfAbove q rest = true) →
    Cells.wfAbove o (is.map (fun i => (base + 8 * i, BitVec.ofNat 8 v)) ++ rest) = true := by
  induction is with
  | nil => intro o top _ ho _ hr; exact hr o (fun k hk => (ho k hk).1)
  | cons i is ih =>
    intro o top hp ho ht hr
    rw [List.pairwise_cons] at hp
    rw [List.map_cons, List.cons_append, Cells.wfAbove_cons]
    refine ⟨fun b hb => (ho b hb).2 i (List.mem_cons_self), hv, ih (some (base + 8 * i)) top hp.2 (fun k hk => ?_) (fun j hj => ht j (List.mem_cons_of_mem _ hj)) hr⟩
    cases hk
    have := ht i (List.mem_cons_self)
    exact ⟨by omega, fun j hj => by have := hp.1 j hj; omega⟩

theorem wf_tableCells (base n v : Nat) (f : Nat → Bool) (cs : Cells 8) (hv : v % 256 ≠ 0) (h : Cells.wf cs = true) :
    Cells.wf (tableCells base n v f cs) = true := by
  have hv' : BitVec.ofNat 8 v ≠ 0 := by
    intro h0; apply hv; simpa using congrArg BitVec.toNat h0
  unfold tableCells Cells.wf
  rw [List.append_assoc]
  refine wfAbove_append _ _ none base (Cells.wf_filter _ _ h) (fun c hc => by simpa using (List.mem_filter.mp hc).2) (fun k hk => by cases hk) (fun o ho => ?_)
  refine wfAbove_entries v base hv' _ _ o n (List.Pairwise.filter _ List.pairwise_lt_range)
    (fun k hk => ⟨by have := ho k hk; omega, fun i _ => by have := ho k hk; omega⟩)
    (fun i hi => List.mem_range.mp (List.mem_filter.mp hi).1) (fun q hq => ?_)
  -- the cells kept above the table
  have hw : Cells.wfAbove none (cs.filter (fun c => decide (base + 8 * n ≤ c.1))) = true := Cells.wf_filter _ _ h
  have hb : ∀ c ∈ cs.filter (fun c => decide (base + 8 * n ≤ c.1)), base + 8 * n ≤ c.1 := fun c hc => by simpa using (List.mem_filter.mp hc).2
  revert hw hb
  generalize cs.filter (fun c => decide (base + 8 * n ≤ c.1)) = zs
  intro hw hb
  cases zs with
  | nil => rfl
  | cons c rest =>
    obtain ⟨a, x⟩ := c
    rw [Cells.wfAbove_cons] at hw ⊢
    refine ⟨fun k hk => ?_, hw.2⟩
    have := hq k hk
    have := hb (a, x) (List.mem_cons_self)
    omega

theorem memOk_bootTable (s : State) (k n v : Nat) (f : Nat → Bool) (hv : v % 256 ≠ 0) (h : s.MemOk) : (bootTable s k n v f).MemOk := by
  unfold bootTable
  dsimp only
  split
  · exact h
  · exact wf_tableCells _ _ _ _ _ hv h

/-- The world of a placed program keeps the form. -/
theorem memOk_placed (s : State) (code n : Nat) (h : s.MemOk) : (placed s code n).MemOk := wf_writeNum _ _ _ _ h

end Sys2Proof.Machine
end

