-- ==== Sys2Proof/Laws/PerInstr.lean ====
section
/-! SUPPORT. The family Encoding, stated of every row as syntax: an instruction has a major opcode exactly when it has a payload, and its
encoding is at most three words long; a row that is no instruction has no encoding. One lemma per constructor. -/

namespace Sys2Proof.Laws.Encoding

/-- A payload's encoding is at most three words. -/
theorem encodeOps_length (maj : Nat) (x : Ops) : (encodeOps maj x).length ≤ 3 := by
  unfold encodeOps; split <;> simp

/-- What the family says of a row. -/
def Statement (i : Instr) : Prop := i.major?.isSome = i.ops?.isSome ∧ (encode i).length ≤ 3

theorem nop (x : Ops) : Statement (.nop x) := ⟨rfl, encodeOps_length _ x⟩
theorem bra (x : Ops) : Statement (.bra x) := ⟨rfl, encodeOps_length _ x⟩
theorem brx (x : Ops) : Statement (.brx x) := ⟨rfl, encodeOps_length _ x⟩
theorem call (x : Ops) : Statement (.call x) := ⟨rfl, encodeOps_length _ x⟩
theorem calli (x : Ops) : Statement (.calli x) := ⟨rfl, encodeOps_length _ x⟩
theorem ret (x : Ops) : Statement (.ret x) := ⟨rfl, encodeOps_length _ x⟩
theorem join (x : Ops) : Statement (.join x) := ⟨rfl, encodeOps_length _ x⟩
theorem leave (x : Ops) : Statement (.leave x) := ⟨rfl, encodeOps_length _ x⟩
theorem waitm (x : Ops) : Statement (.waitm x) := ⟨rfl, encodeOps_length _ x⟩
theorem mget (x : Ops) : Statement (.mget x) := ⟨rfl, encodeOps_length _ x⟩
theorem mput (x : Ops) : Statement (.mput x) := ⟨rfl, encodeOps_length _ x⟩
theorem exit (x : Ops) : Statement (.exit x) := ⟨rfl, encodeOps_length _ x⟩
theorem yield (x : Ops) : Statement (.yield x) := ⟨rfl, encodeOps_length _ x⟩
theorem sleep (x : Ops) : Statement (.sleep x) := ⟨rfl, encodeOps_length _ x⟩
theorem brk (x : Ops) : Statement (.brk x) := ⟨rfl, encodeOps_length _ x⟩
theorem srd (x : Ops) : Statement (.srd x) := ⟨rfl, encodeOps_length _ x⟩
theorem swr (x : Ops) : Statement (.swr x) := ⟨rfl, encodeOps_length _ x⟩
theorem trap (x : Ops) : Statement (.trap x) := ⟨rfl, encodeOps_length _ x⟩
theorem rett (x : Ops) : Statement (.rett x) := ⟨rfl, encodeOps_length _ x⟩
theorem rgn (x : Ops) : Statement (.rgn x) := ⟨rfl, encodeOps_length _ x⟩
theorem rgend (x : Ops) : Statement (.rgend x) := ⟨rfl, encodeOps_length _ x⟩
theorem ctxsv (x : Ops) : Statement (.ctxsv x) := ⟨rfl, encodeOps_length _ x⟩
theorem ctxld (x : Ops) : Statement (.ctxld x) := ⟨rfl, encodeOps_length _ x⟩
theorem gangsync (x : Ops) : Statement (.gangsync x) := ⟨rfl, encodeOps_length _ x⟩
theorem mov (x : Ops) : Statement (.mov x) := ⟨rfl, encodeOps_length _ x⟩
theorem movi (x : Ops) : Statement (.movi x) := ⟨rfl, encodeOps_length _ x⟩
theorem add (x : Ops) : Statement (.add x) := ⟨rfl, encodeOps_length _ x⟩
theorem sub (x : Ops) : Statement (.sub x) := ⟨rfl, encodeOps_length _ x⟩
theorem addc (x : Ops) : Statement (.addc x) := ⟨rfl, encodeOps_length _ x⟩
theorem subb (x : Ops) : Statement (.subb x) := ⟨rfl, encodeOps_length _ x⟩
theorem mul (x : Ops) : Statement (.mul x) := ⟨rfl, encodeOps_length _ x⟩
theorem mulhi (x : Ops) : Statement (.mulhi x) := ⟨rfl, encodeOps_length _ x⟩
theorem mad (x : Ops) : Statement (.mad x) := ⟨rfl, encodeOps_length _ x⟩
theorem min (x : Ops) : Statement (.min x) := ⟨rfl, encodeOps_length _ x⟩
theorem max (x : Ops) : Statement (.max x) := ⟨rfl, encodeOps_length _ x⟩
theorem abs (x : Ops) : Statement (.abs x) := ⟨rfl, encodeOps_length _ x⟩
theorem neg (x : Ops) : Statement (.neg x) := ⟨rfl, encodeOps_length _ x⟩
theorem sad (x : Ops) : Statement (.sad x) := ⟨rfl, encodeOps_length _ x⟩
theorem dp4a (x : Ops) : Statement (.dp4a x) := ⟨rfl, encodeOps_length _ x⟩
theorem and (x : Ops) : Statement (.and x) := ⟨rfl, encodeOps_length _ x⟩
theorem or (x : Ops) : Statement (.or x) := ⟨rfl, encodeOps_length _ x⟩
theorem xor (x : Ops) : Statement (.xor x) := ⟨rfl, encodeOps_length _ x⟩
theorem andn (x : Ops) : Statement (.andn x) := ⟨rfl, encodeOps_length _ x⟩
theorem not (x : Ops) : Statement (.not x) := ⟨rfl, encodeOps_length _ x⟩
theorem shl (x : Ops) : Statement (.shl x) := ⟨rfl, encodeOps_length _ x⟩
theorem shr (x : Ops) : Statement (.shr x) := ⟨rfl, encodeOps_length _ x⟩
theorem sar (x : Ops) : Statement (.sar x) := ⟨rfl, encodeOps_length _ x⟩
theorem rot (x : Ops) : Statement (.rot x) := ⟨rfl, encodeOps_length _ x⟩
theorem bfe (x : Ops) : Statement (.bfe x) := ⟨rfl, encodeOps_length _ x⟩
theorem bfi (x : Ops) : Statement (.bfi x) := ⟨rfl, encodeOps_length _ x⟩
theorem bfrev (x : Ops) : Statement (.bfrev x) := ⟨rfl, encodeOps_length _ x⟩
theorem popc (x : Ops) : Statement (.popc x) := ⟨rfl, encodeOps_length _ x⟩
theorem clz (x : Ops) : Statement (.clz x) := ⟨rfl, encodeOps_length _ x⟩
theorem ctz (x : Ops) : Statement (.ctz x) := ⟨rfl, encodeOps_length _ x⟩
theorem sel (x : Ops) : Statement (.sel x) := ⟨rfl, encodeOps_length _ x⟩
theorem cmp (x : Ops) : Statement (.cmp x) := ⟨rfl, encodeOps_length _ x⟩
theorem clamp (x : Ops) : Statement (.clamp x) := ⟨rfl, encodeOps_length _ x⟩
theorem lea (x : Ops) : Statement (.lea x) := ⟨rfl, encodeOps_length _ x⟩
theorem sext (x : Ops) : Statement (.sext x) := ⟨rfl, encodeOps_length _ x⟩
theorem prmt (x : Ops) : Statement (.prmt x) := ⟨rfl, encodeOps_length _ x⟩
theorem fadd (x : Ops) : Statement (.fadd x) := ⟨rfl, encodeOps_length _ x⟩
theorem fsub (x : Ops) : Statement (.fsub x) := ⟨rfl, encodeOps_length _ x⟩
theorem fmul (x : Ops) : Statement (.fmul x) := ⟨rfl, encodeOps_length _ x⟩
theorem ffma (x : Ops) : Statement (.ffma x) := ⟨rfl, encodeOps_length _ x⟩
theorem fmin (x : Ops) : Statement (.fmin x) := ⟨rfl, encodeOps_length _ x⟩
theorem fmax (x : Ops) : Statement (.fmax x) := ⟨rfl, encodeOps_length _ x⟩
theorem fcmp (x : Ops) : Statement (.fcmp x) := ⟨rfl, encodeOps_length _ x⟩
theorem fclass (x : Ops) : Statement (.fclass x) := ⟨rfl, encodeOps_length _ x⟩
theorem frcp (x : Ops) : Statement (.frcp x) := ⟨rfl, encodeOps_length _ x⟩
theorem frsq (x : Ops) : Statement (.frsq x) := ⟨rfl, encodeOps_length _ x⟩
theorem fsqrt (x : Ops) : Statement (.fsqrt x) := ⟨rfl, encodeOps_length _ x⟩
theorem fdiv (x : Ops) : Statement (.fdiv x) := ⟨rfl, encodeOps_length _ x⟩
theorem fexp2 (x : Ops) : Statement (.fexp2 x) := ⟨rfl, encodeOps_length _ x⟩
theorem flog2 (x : Ops) : Statement (.flog2 x) := ⟨rfl, encodeOps_length _ x⟩
theorem fsin (x : Ops) : Statement (.fsin x) := ⟨rfl, encodeOps_length _ x⟩
theorem fcos (x : Ops) : Statement (.fcos x) := ⟨rfl, encodeOps_length _ x⟩
theorem ftanh (x : Ops) : Statement (.ftanh x) := ⟨rfl, encodeOps_length _ x⟩
theorem fsigm (x : Ops) : Statement (.fsigm x) := ⟨rfl, encodeOps_length _ x⟩
theorem fscale (x : Ops) : Statement (.fscale x) := ⟨rfl, encodeOps_length _ x⟩
theorem ffrac (x : Ops) : Statement (.ffrac x) := ⟨rfl, encodeOps_length _ x⟩
theorem frnd (x : Ops) : Statement (.frnd x) := ⟨rfl, encodeOps_length _ x⟩
theorem cvt (x : Ops) : Statement (.cvt x) := ⟨rfl, encodeOps_length _ x⟩
theorem fpack (x : Ops) : Statement (.fpack x) := ⟨rfl, encodeOps_length _ x⟩
theorem funpack (x : Ops) : Statement (.funpack x) := ⟨rfl, encodeOps_length _ x⟩
theorem fdot2 (x : Ops) : Statement (.fdot2 x) := ⟨rfl, encodeOps_length _ x⟩
theorem shfl (x : Ops) : Statement (.shfl x) := ⟨rfl, encodeOps_length _ x⟩
theorem lbal (x : Ops) : Statement (.lbal x) := ⟨rfl, encodeOps_length _ x⟩
theorem lany (x : Ops) : Statement (.lany x) := ⟨rfl, encodeOps_length _ x⟩
theorem lall (x : Ops) : Statement (.lall x) := ⟨rfl, encodeOps_length _ x⟩
theorem lfirst (x : Ops) : Statement (.lfirst x) := ⟨rfl, encodeOps_length _ x⟩
theorem bcast (x : Ops) : Statement (.bcast x) := ⟨rfl, encodeOps_length _ x⟩
theorem lperm (x : Ops) : Statement (.lperm x) := ⟨rfl, encodeOps_length _ x⟩
theorem lred (x : Ops) : Statement (.lred x) := ⟨rfl, encodeOps_length _ x⟩
theorem lscan (x : Ops) : Statement (.lscan x) := ⟨rfl, encodeOps_length _ x⟩
theorem lmatch (x : Ops) : Statement (.lmatch x) := ⟨rfl, encodeOps_length _ x⟩
theorem ld (x : Ops) : Statement (.ld x) := ⟨rfl, encodeOps_length _ x⟩
theorem st (x : Ops) : Statement (.st x) := ⟨rfl, encodeOps_length _ x⟩
theorem lds (x : Ops) : Statement (.lds x) := ⟨rfl, encodeOps_length _ x⟩
theorem sts (x : Ops) : Statement (.sts x) := ⟨rfl, encodeOps_length _ x⟩
theorem ldc (x : Ops) : Statement (.ldc x) := ⟨rfl, encodeOps_length _ x⟩
theorem atom (x : Ops) : Statement (.atom x) := ⟨rfl, encodeOps_length _ x⟩
theorem atoms (x : Ops) : Statement (.atoms x) := ⟨rfl, encodeOps_length _ x⟩
theorem put (x : Ops) : Statement (.put x) := ⟨rfl, encodeOps_length _ x⟩
theorem phase (x : Ops) : Statement (.phase x) := ⟨rfl, encodeOps_length _ x⟩
theorem fence (x : Ops) : Statement (.fence x) := ⟨rfl, encodeOps_length _ x⟩
theorem afence (x : Ops) : Statement (.afence x) := ⟨rfl, encodeOps_length _ x⟩
theorem pref (x : Ops) : Statement (.pref x) := ⟨rfl, encodeOps_length _ x⟩
theorem pflush (x : Ops) : Statement (.pflush x) := ⟨rfl, encodeOps_length _ x⟩
theorem arrive (x : Ops) : Statement (.arrive x) := ⟨rfl, encodeOps_length _ x⟩
theorem waitb (x : Ops) : Statement (.waitb x) := ⟨rfl, encodeOps_length _ x⟩
theorem barr (x : Ops) : Statement (.barr x) := ⟨rfl, encodeOps_length _ x⟩
theorem waitc (x : Ops) : Statement (.waitc x) := ⟨rfl, encodeOps_length _ x⟩
theorem waitf (x : Ops) : Statement (.waitf x) := ⟨rfl, encodeOps_length _ x⟩
theorem fcnt (x : Ops) : Statement (.fcnt x) := ⟨rfl, encodeOps_length _ x⟩
theorem bstat (x : Ops) : Statement (.bstat x) := ⟨rfl, encodeOps_length _ x⟩
theorem mxld (x : Ops) : Statement (.mxld x) := ⟨rfl, encodeOps_length _ x⟩
theorem mxsw (x : Ops) : Statement (.mxsw x) := ⟨rfl, encodeOps_length _ x⟩
theorem mxm (x : Ops) : Statement (.mxm x) := ⟨rfl, encodeOps_length _ x⟩
theorem mxz (x : Ops) : Statement (.mxz x) := ⟨rfl, encodeOps_length _ x⟩
theorem mxrd (x : Ops) : Statement (.mxrd x) := ⟨rfl, encodeOps_length _ x⟩
theorem mxwr (x : Ops) : Statement (.mxwr x) := ⟨rfl, encodeOps_length _ x⟩
theorem had (x : Ops) : Statement (.had x) := ⟨rfl, encodeOps_length _ x⟩
theorem qnt (x : Ops) : Statement (.qnt x) := ⟨rfl, encodeOps_length _ x⟩
theorem mxst (x : Ops) : Statement (.mxst x) := ⟨rfl, encodeOps_length _ x⟩
theorem mxsv (x : Ops) : Statement (.mxsv x) := ⟨rfl, encodeOps_length _ x⟩
theorem mxrs (x : Ops) : Statement (.mxrs x) := ⟨rfl, encodeOps_length _ x⟩
theorem enq (x : Ops) : Statement (.enq x) := ⟨rfl, encodeOps_length _ x⟩
theorem leaseReq (x : Ops) : Statement (.leaseReq x) := ⟨rfl, encodeOps_length _ x⟩
theorem leaseRel (x : Ops) : Statement (.leaseRel x) := ⟨rfl, encodeOps_length _ x⟩
theorem leaseQry (x : Ops) : Statement (.leaseQry x) := ⟨rfl, encodeOps_length _ x⟩
theorem cpy (x : Ops) : Statement (.cpy x) := ⟨rfl, encodeOps_length _ x⟩
theorem xch (x : Ops) : Statement (.xch x) := ⟨rfl, encodeOps_length _ x⟩
theorem xred (x : Ops) : Statement (.xred x) := ⟨rfl, encodeOps_length _ x⟩
theorem hash (x : Ops) : Statement (.hash x) := ⟨rfl, encodeOps_length _ x⟩
theorem sigv (x : Ops) : Statement (.sigv x) := ⟨rfl, encodeOps_length _ x⟩
theorem scrub (x : Ops) : Statement (.scrub x) := ⟨rfl, encodeOps_length _ x⟩
theorem clause (h : Header) : Statement (.clause h) := ⟨rfl, Nat.le.step (Nat.le.step Nat.le.refl)⟩
theorem fpmWrite (c : Nat) (v : Word) : Statement (.fpmWrite c v) := ⟨rfl, Nat.zero_le 3⟩
theorem srseedWrite (c : Nat) (m : LaneSet) (v : Word) : Statement (.srseedWrite c m v) := ⟨rfl, Nat.zero_le 3⟩
theorem lfmodeWrite (c : Nat) (v : Word) : Statement (.lfmodeWrite c v) := ⟨rfl, Nat.zero_le 3⟩
theorem tcommitWrite (c : Nat) (tables : Byte) : Statement (.tcommitWrite c tables) := ⟨rfl, Nat.zero_le 3⟩
theorem registerWrite (c : Nat) (r : RegName) (v : Double) : Statement (.registerWrite c r v) := ⟨rfl, Nat.zero_le 3⟩
theorem hbeatWrite (die : Nat) : Statement (.hbeatWrite die) := ⟨rfl, Nat.zero_le 3⟩
theorem wdctlWrite (die : Nat) (v : Word) : Statement (.wdctlWrite die v) := ⟨rfl, Nat.zero_le 3⟩
theorem preemptSpan (die : Nat) (q : Prq) : Statement (.preemptSpan die q) := ⟨rfl, Nat.zero_le 3⟩
theorem preemptPier (die : Nat) (q : Prq) : Statement (.preemptPier die q) := ⟨rfl, Nat.zero_le 3⟩
theorem preemptTenant (die : Nat) (q : Prq) : Statement (.preemptTenant die q) := ⟨rfl, Nat.zero_le 3⟩
theorem preemptRelease (die : Nat) (q : Prq) : Statement (.preemptRelease die q) := ⟨rfl, Nat.zero_le 3⟩
theorem debugStop (die : Nat) (q : Prq) : Statement (.debugStop die q) := ⟨rfl, Nat.zero_le 3⟩
theorem fixedLatencyResult (c : Nat) : Statement (.fixedLatencyResult c) := ⟨rfl, Nat.zero_le 3⟩
theorem setAside (c : Nat) (pass : Nat) : Statement (.setAside c pass) := ⟨rfl, Nat.zero_le 3⟩
theorem setAsidePassesIssue (c : Nat) : Statement (.setAsidePassesIssue c) := ⟨rfl, Nat.zero_le 3⟩
theorem loadDataReturn (c k : Nat) : Statement (.loadDataReturn c k) := ⟨rfl, Nat.zero_le 3⟩
theorem storeOrderingPoint (c k : Nat) : Statement (.storeOrderingPoint c k) := ⟨rfl, Nat.zero_le 3⟩
theorem atomicPerformedAtHome (c k : Nat) : Statement (.atomicPerformedAtHome c k) := ⟨rfl, Nat.zero_le 3⟩
theorem putLanding (c k : Nat) : Statement (.putLanding c k) := ⟨rfl, Nat.zero_le 3⟩
theorem pageWalkComplete (c k : Nat) : Statement (.pageWalkComplete c k) := ⟨rfl, Nat.zero_le 3⟩
theorem missSlotRetry (c k : Nat) : Statement (.missSlotRetry c k) := ⟨rfl, Nat.zero_le 3⟩
theorem park (c k : Nat) : Statement (.park c k) := ⟨rfl, Nat.zero_le 3⟩
theorem pinRetry (c k : Nat) : Statement (.pinRetry c k) := ⟨rfl, Nat.zero_le 3⟩
theorem pinForcedWriteback (asid line : Nat) : Statement (.pinForcedWriteback asid line) := ⟨rfl, Nat.zero_le 3⟩
theorem frameTaken (c : Nat) : Statement (.frameTaken c) := ⟨rfl, Nat.zero_le 3⟩
theorem handlerCourseStart (die ring : Nat) : Statement (.handlerCourseStart die ring) := ⟨rfl, Nat.zero_le 3⟩
theorem replayDataArrival (c k : Nat) : Statement (.replayDataArrival c k) := ⟨rfl, Nat.zero_le 3⟩
theorem courseHalt (c : Nat) : Statement (.courseHalt c) := ⟨rfl, Nat.zero_le 3⟩
theorem forcedFullSave (c : Nat) : Statement (.forcedFullSave c) := ⟨rfl, Nat.zero_le 3⟩
theorem evictionDemand (qid : Nat) : Statement (.evictionDemand qid) := ⟨rfl, Nat.zero_le 3⟩
theorem evictionDrainComplete (qid : Nat) : Statement (.evictionDrainComplete qid) := ⟨rfl, Nat.zero_le 3⟩
theorem spillComplete (qid : Nat) : Statement (.spillComplete qid) := ⟨rfl, Nat.zero_le 3⟩
theorem restoreComplete (pier : Nat) : Statement (.restoreComplete pier) := ⟨rfl, Nat.zero_le 3⟩
theorem dispatcherDecision (die : Nat) : Statement (.dispatcherDecision die) := ⟨rfl, Nat.zero_le 3⟩
theorem pierPlacement (pier : Nat) : Statement (.pierPlacement pier) := ⟨rfl, Nat.zero_le 3⟩
theorem waitcReread (c : Nat) : Statement (.waitcReread c) := ⟨rfl, Nat.zero_le 3⟩
theorem peerWaitcPoll (c : Nat) : Statement (.peerWaitcPoll c) := ⟨rfl, Nat.zero_le 3⟩
theorem enqAppend (c k : Nat) : Statement (.enqAppend c k) := ⟨rfl, Nat.zero_le 3⟩
theorem leaseStep (c k : Nat) : Statement (.leaseStep c k) := ⟨rfl, Nat.zero_le 3⟩
theorem arrivalPoint (c : Nat) : Statement (.arrivalPoint c) := ⟨rfl, Nat.zero_le 3⟩
theorem sleepExpiry (c : Nat) : Statement (.sleepExpiry c) := ⟨rfl, Nat.zero_le 3⟩
theorem arrayCommandStart (bond k : Nat) : Statement (.arrayCommandStart bond k) := ⟨rfl, Nat.zero_le 3⟩
theorem arrayCommandCompletion (bond k : Nat) : Statement (.arrayCommandCompletion bond k) := ⟨rfl, Nat.zero_le 3⟩
theorem engineCommandStart (c k : Nat) : Statement (.engineCommandStart c k) := ⟨rfl, Nat.zero_le 3⟩
theorem engineCommandCompletion (c k : Nat) : Statement (.engineCommandCompletion c k) := ⟨rfl, Nat.zero_le 3⟩
theorem commitComplete (die : Nat) : Statement (.commitComplete die) := ⟨rfl, Nat.zero_le 3⟩
theorem wayMaskSweep (tenant : Nat) : Statement (.wayMaskSweep tenant) := ⟨rfl, Nat.zero_le 3⟩
theorem watchdogExpiry (die : Nat) : Statement (.watchdogExpiry die) := ⟨rfl, Nat.zero_le 3⟩
theorem loadslot (die : Nat) : Statement (.loadslot die) := ⟨rfl, Nat.zero_le 3⟩
theorem setpending (die : Nat) : Statement (.setpending die) := ⟨rfl, Nat.zero_le 3⟩
theorem measure (die : Nat) : Statement (.measure die) := ⟨rfl, Nat.zero_le 3⟩
theorem commitCall (die : Nat) : Statement (.commitCall die) := ⟨rfl, Nat.zero_le 3⟩
theorem perfCounterSnapshot (tenant : Nat) : Statement (.perfCounterSnapshot tenant) := ⟨rfl, Nat.zero_le 3⟩
theorem coreContainment (core : Nat) (bad : List (Nat × Nat)) : Statement (.coreContainment core bad) := ⟨rfl, Nat.zero_le 3⟩
theorem dieL2Failure (die : Nat) : Statement (.dieL2Failure die) := ⟨rfl, Nat.zero_le 3⟩
theorem thermalAbove95 (die : Nat) : Statement (.thermalAbove95 die) := ⟨rfl, Nat.zero_le 3⟩
theorem thermalBelow90 (die : Nat) : Statement (.thermalBelow90 die) := ⟨rfl, Nat.zero_le 3⟩
theorem thermalAbove105 (die : Nat) : Statement (.thermalAbove105 die) := ⟨rfl, Nat.zero_le 3⟩
theorem perstRelease (results : List Word) : Statement (.perstRelease results) := ⟨rfl, Nat.zero_le 3⟩
theorem hostWrite (a : HostAccess) (data : List Byte) : Statement (.hostWrite a data) := ⟨rfl, Nat.zero_le 3⟩
theorem hostRead (a : HostAccess) (len : Nat) : Statement (.hostRead a len) := ⟨rfl, Nat.zero_le 3⟩
theorem hostCounterWrite (a : HostAccess) (v : Word) : Statement (.hostCounterWrite a v) := ⟨rfl, Nat.zero_le 3⟩
theorem flr (vf : Nat) : Statement (.flr vf) := ⟨rfl, Nat.zero_le 3⟩
theorem getVersion (e : Endpoint) : Statement (.getVersion e) := ⟨rfl, Nat.zero_le 3⟩
theorem getCapabilities (e : Endpoint) : Statement (.getCapabilities e) := ⟨rfl, Nat.zero_le 3⟩
theorem negotiateAlgorithms (e : Endpoint) : Statement (.negotiateAlgorithms e) := ⟨rfl, Nat.zero_le 3⟩
theorem getDigests (e : Endpoint) : Statement (.getDigests e) := ⟨rfl, Nat.zero_le 3⟩
theorem getCertificate (e : Endpoint) (slot : Nat) : Statement (.getCertificate e slot) := ⟨rfl, Nat.zero_le 3⟩
theorem challenge (e : Endpoint) (slot nonce : Nat) : Statement (.challenge e slot nonce) := ⟨rfl, Nat.zero_le 3⟩
theorem getMeasurements (e : Endpoint) (block : Nat) : Statement (.getMeasurements e block) := ⟨rfl, Nat.zero_le 3⟩
theorem keyExchange (e : Endpoint) (session : Nat) : Statement (.keyExchange e session) := ⟨rfl, Nat.zero_le 3⟩
theorem finish (e : Endpoint) (session : Nat) : Statement (.finish e session) := ⟨rfl, Nat.zero_le 3⟩
theorem endSession (e : Endpoint) (session : Nat) : Statement (.endSession e session) := ⟨rfl, Nat.zero_le 3⟩
theorem spdmUnsupportedRequest (e : Endpoint) (code : Nat) : Statement (.spdmUnsupportedRequest e code) := ⟨rfl, Nat.zero_le 3⟩
theorem ideKm (session stream : Nat) (ranges : List (Nat × Nat)) : Statement (.ideKm session stream ranges) := ⟨rfl, Nat.zero_le 3⟩
theorem lockInterface (vf : Nat) : Statement (.lockInterface vf) := ⟨rfl, Nat.zero_le 3⟩
theorem startInterface (vf : Nat) : Statement (.startInterface vf) := ⟨rfl, Nat.zero_le 3⟩
theorem getDeviceInterfaceReport (vf : Nat) : Statement (.getDeviceInterfaceReport vf) := ⟨rfl, Nat.zero_le 3⟩
theorem requestReset (results : List Word) : Statement (.requestReset results) := ⟨rfl, Nat.zero_le 3⟩
theorem selectActive (slot : Byte) : Statement (.selectActive slot) := ⟨rfl, Nat.zero_le 3⟩
theorem flitReceived (port : Nat) (seq : Nat) (crcOk : Bool) : Statement (.flitReceived port seq crcOk) := ⟨rfl, Nat.zero_le 3⟩
theorem portRetrain (port : Nat) (ok : Bool) : Statement (.portRetrain port ok) := ⟨rfl, Nat.zero_le 3⟩
theorem rd (p : Packet) : Statement (.rd p) := ⟨rfl, Nat.zero_le 3⟩
theorem rdr (p : Packet) : Statement (.rdr p) := ⟨rfl, Nat.zero_le 3⟩
theorem wr (p : Packet) : Statement (.wr p) := ⟨rfl, Nat.zero_le 3⟩
theorem inv (p : Packet) : Statement (.inv p) := ⟨rfl, Nat.zero_le 3⟩
theorem inva (p : Packet) : Statement (.inva p) := ⟨rfl, Nat.zero_le 3⟩
theorem atm (p : Packet) : Statement (.atm p) := ⟨rfl, Nat.zero_le 3⟩
theorem atmr (p : Packet) : Statement (.atmr p) := ⟨rfl, Nat.zero_le 3⟩
theorem frd (p : Packet) : Statement (.frd p) := ⟨rfl, Nat.zero_le 3⟩
theorem frr (p : Packet) : Statement (.frr p) := ⟨rfl, Nat.zero_le 3⟩
theorem xwr (p : Packet) : Statement (.xwr p) := ⟨rfl, Nat.zero_le 3⟩
theorem xack (p : Packet) : Statement (.xack p) := ⟨rfl, Nat.zero_le 3⟩
theorem gngReady (p : Packet) : Statement (.gngReady p) := ⟨rfl, Nat.zero_le 3⟩
theorem gngRelease (p : Packet) : Statement (.gngRelease p) := ⟨rfl, Nat.zero_le 3⟩
theorem gngAbort (p : Packet) : Statement (.gngAbort p) := ⟨rfl, Nat.zero_le 3⟩
theorem gngQuery (p : Packet) : Statement (.gngQuery p) := ⟨rfl, Nat.zero_le 3⟩
theorem unknownPacket (p : Packet) : Statement (.unknownPacket p) := ⟨rfl, Nat.zero_le 3⟩
theorem gangTimeout (key : Nat) : Statement (.gangTimeout key) := ⟨rfl, Nat.zero_le 3⟩
theorem gangDecisionTimeout (key : Nat) : Statement (.gangDecisionTimeout key) := ⟨rfl, Nat.zero_le 3⟩
theorem lossOfLock (port : Nat) : Statement (.lossOfLock port) := ⟨rfl, Nat.zero_le 3⟩
theorem mainPowerReturn (results : List Word) : Statement (.mainPowerReturn results) := ⟨rfl, Nat.zero_le 3⟩
theorem debugStopTimeout (c : Nat) : Statement (.debugStopTimeout c) := ⟨rfl, Nat.zero_le 3⟩
theorem hbmBucketRefill (ctrl : Nat) : Statement (.hbmBucketRefill ctrl) := ⟨rfl, Nat.zero_le 3⟩
theorem illegalEncoding (w : BadWord) : Statement (.illegalEncoding w) := ⟨rfl, Nat.zero_le 3⟩
theorem preemptRequestDone : Statement (.preemptRequestDone) := ⟨rfl, Nat.zero_le 3⟩
theorem preemptOverdue : Statement (.preemptOverdue) := ⟨rfl, Nat.zero_le 3⟩
theorem pierRetirement : Statement (.pierRetirement) := ⟨rfl, Nat.zero_le 3⟩
theorem broadcastWindow : Statement (.broadcastWindow) := ⟨rfl, Nat.zero_le 3⟩
theorem xchTimeout : Statement (.xchTimeout) := ⟨rfl, Nat.zero_le 3⟩
theorem quoinVacated : Statement (.quoinVacated) := ⟨rfl, Nat.zero_le 3⟩
theorem budgetPeriodBoundary : Statement (.budgetPeriodBoundary) := ⟨rfl, Nat.zero_le 3⟩
theorem tokenCharge : Statement (.tokenCharge) := ⟨rfl, Nat.zero_le 3⟩
theorem allowanceRefill : Statement (.allowanceRefill) := ⟨rfl, Nat.zero_le 3⟩
theorem correctionWindowClear : Statement (.correctionWindowClear) := ⟨rfl, Nat.zero_le 3⟩
theorem perstAssert : Statement (.perstAssert) := ⟨rfl, Nat.zero_le 3⟩
theorem hostAccessTimeout : Statement (.hostAccessTimeout) := ⟨rfl, Nat.zero_le 3⟩
theorem vfDrained : Statement (.vfDrained) := ⟨rfl, Nat.zero_le 3⟩
theorem readSensors : Statement (.readSensors) := ⟨rfl, Nat.zero_le 3⟩
theorem readBootRecord : Statement (.readBootRecord) := ⟨rfl, Nat.zero_le 3⟩

end Sys2Proof.Laws.Encoding
end

