-- ==== Sys2Proof/Tests/Slice0.lean ====
section
/-! SUPPORT. The model's own tests: words of the spec that decode to what they stand for, terms that have no encoding, results worked by hand from the
spec's descriptions, and for every statement a state and operands that meet its hypotheses. -/

namespace Sys2Proof.Tests

set_option Elab.async false

open Sys2Proof.Machine Sys2Proof.Claims

/-! ### A small state -/

/-- What the course issues with: lanes 0 and 1 at 0x10000, two words, outside any clause. -/
def iss : Issue := 
  { mask := 3, whole := 3, pc := 0x10000, len := 8, bodies := 0, lasts := 0, yields := false, drawn := none, kept := false, stalled := false }
/-- A course alone on the device with lanes 0 and 1: integers in v1, v2, floats in v5, v6 (1.0 and 2.0, 3.0 and −0.5). -/
def st : State :=
  { (placed State.reset 0 0).upd (fun c =>
      { c with
          live := 3
          v := [(32, 5), (33, 7), (64, 3), (65, 0xFFFFFFFF), (160, 0x3F800000), (161, 0x40000000), (192, 0x40400000), (193, 0xBF000000)] }) with
    iss := iss }
/-- An instruction of layout L without a guard. -/
def op (d a b c : Opd) (minor : BitVec 12) (sel : BitVec 2 := 0) : Ops :=
  { form := .l, guard := Guard.always, d := d, a := a, b := b, c := c, sel := sel, minor := minor }
/-- One of layout LX. -/
def opx (lit : Word) (d a b c : Opd) (minor : BitVec 12) (sel : BitVec 2 := 0) : Ops := { op d a b c minor sel with form := .lx lit }
/-- The value of a vector register in a lane. -/
def vec (t : State) (r i : Nat) : Nat := (Cells.get t.cur.v (32 * r + i)).toNat
/-- A fact of the next state. -/
def next (o : Out) (f : State → Bool) : Bool := match o with | .next t => f t | .fault _ => false | .refused _ => false
/-- v3 in lanes 0 and 1 after an instruction. -/
def got (i : Instr) : Option (Nat × Nat) := match exec i st with | .next t => some (vec t 3 0, vec t 3 1) | .fault _ => none | .refused _ => none

/-! ### Words of the spec (R91 to R109) -/

/-- `nop` (R177). -/
theorem test_decode_nop : decodeWords [0x0EBAE800] = .ok (.nop { op .zero .zero .zero .zero 0 with form := .s }, 1) := by decide
/-- `add.i32 v9, v9, 1`. -/
theorem test_decode_add : decodeWords [0x0249EC88] = .ok (.add { op (.v 9) (.v 9) .one .zero 0 with form := .s }, 1) := by decide
/-- `add.i32 v10, v8, v9`. -/
theorem test_decode_add_regs : decodeWords [0x02882488] = .ok (.add { op (.v 10) (.v 8) (.v 9) .zero 0 with form := .s }, 1) := by decide
/-- `ffma.f32 v4, v1, v2, v3`. -/
theorem test_decode_ffma : decodeWords [0x7020054D, 0x0100C00E] = .ok (.ffma (op (.v 4) (.v 1) (.v 2) (.v 3) 0x00E), 2) := by decide
/-- `cmp.lt.i32 p2, …`. -/
theorem test_decode_cmp : (decodeWords [0x70100CFD, 0x02428080]).toOption.map (fun p => (match p.1 with | .cmp x => x.d == .v 2 && x.cond == 2 | _ => false)) =
    some true := by decide
/-- `cvt.bf16.f32.sr`. -/
theorem test_decode_cvt : (decodeWords [0x70281995, 0x8542810A]).toOption.map (fun p => (match p.1 with | .cvt x => x.hi4 == 1 && x.mid4 == 0 && x.rnd == 5 | _ => false)) =
    some true := by decide
/-- `srd s8, sr.NPASS`. -/
theorem test_decode_srd : decodeWords [0x7A442841, 0x85428011] = .ok (.srd (op (.s 8) .zero .zero .zero 0x011), 2) := by decide
/-- `swr sr.LFMODE, 1`. -/
theorem test_decode_swr : decodeWords [0x78570445, 0x85428002] = .ok (.swr (op .zero (.imm 1) .zero .zero 0x002), 2) := by decide
/-- `lbal`. -/
theorem test_decode_lbal : decodeWords [0x70242A05, 0x85428001] = .ok (.lbal (op (.v 4) .zero .zero .zero 1), 2) := by decide
/-- `ld.b32` with a literal offset and a flag. -/
theorem test_decode_ld : decodeWords [0x70450A42, 0x854FD400, 0x00000040] = .ok (.ld (opx 0x40 (.v 8) (.s 2) .zero .lit 0x400 1), 3) := by decide
/-- `st`. -/
theorem test_decode_st : decodeWords [0x78551245, 0x04C28490] = .ok (.st (op .zero (.s 4) (.v 9) .zero 0x490), 2) := by decide
/-- `atom.add.b32`. -/
theorem test_decode_atom : (decodeWords [0x78551A55, 0xE0C28004]).toOption.map (fun p => (match p.1 with | .atom x => x.hi4 == 0 && x.hint == 4 | _ => false)) =
    some true := by decide
/-- `mxm`. -/
theorem test_decode_mxm : decodeWords [0x78551309, 0xE84293C0] = .ok (.mxm (op .zero (.s 4) (.imm 16) .zero 0x3C0 1), 2) := by decide
/-- `had`. -/
theorem test_decode_had : (decodeWords [0x78542B19, 0xE8429004]).toOption.map (fun p => (match p.1 with | .had _ => true | _ => false)) = some true := by decide
/-- `qnt`, a literal word long. -/
theorem test_decode_qnt : (decodeWords [0x78542B1E, 0x9FF4107E, 0x00000800]).toOption.map (fun p => (match p.1 with | .qnt _ => p.2 | _ => 0)) = some 3 := by
  decide
/-- `enq` with a flag. -/
theorem test_decode_enq : (decodeWords [0x7A551341, 0xE1C29000]).toOption.map (fun p => (match p.1 with | .enq x => x.fsA | _ => false)) = some true := by decide
/-- `cpy.rel.die` with a flag. -/
theorem test_decode_cpy : decodeWords [0x7A553349, 0x85429600] = .ok (.cpy (op (.s 10) (.s 12) .zero .zero 0x600 1), 2) := by decide
/-- `lease.req` with a flag. -/
theorem test_decode_lease : (decodeWords [0x7A4D3345, 0x85429000]).toOption.map (fun p => (match p.1 with | .leaseReq _ => true | _ => false)) = some true := by decide
/-- `rett`. -/
theorem test_decode_rett : decodeWords [0x7854284D, 0x85428000] = .ok (.rett (op .zero .zero .zero .zero 0), 2) := by decide
/-- `brk 3`. -/
theorem test_decode_brk : (decodeWords [0x3EBAE838]).toOption.map (fun p => (match p.1 with | .brk x => x.field 0 8 | _ => 0)) = some 3 := by decide
/-- A clause header that sets flag f1. -/
theorem test_decode_clause : decodeWords [0x00BC4003] = .ok (.clause { stall := 0, yield := false, len := 2, setB := 15, setA := 1, wait := 0 }, 1) := by decide
/-- A word of zeros is a `nop` with used fields: illegal encoding, sub-code 12 (R107, R177). -/
theorem test_zero_word : (decodeWords [0]).toOption.map (fun p => (match p.1 with | .illegalEncoding w => w.sub | _ => 0)) = some 12 := by decide
/-- A list that ends inside an instruction is rejected. -/
theorem test_cut_word : (decodeWords [0x7854284D]).toOption = none := by decide
/-- The table's numbering of a word's bits. -/
theorem test_table_word : decodeTableWord 32 0x0249EC88 = some (.add { op (.v 9) (.v 9) .one .zero 0 with form := .s }) := by decide

/-! ### Terms without an encoding -/

/-- A register that layout S cannot name. -/
theorem test_wf_short_register : Instr.wf (.add { op (.v 40) (.v 1) (.v 2) .zero 0 with form := .s }) = false := by decide
/-- A guard in layout S. -/
theorem test_wf_short_guard : Instr.wf (.add { op (.v 4) (.v 1) (.v 2) .zero 0 with form := .s, guard := { neg := false, pred := 1 } }) = false := by decide
/-- A minor field that M4 does not expand to. -/
theorem test_wf_short_minor : Instr.wf (.add { op (.v 4) (.v 1) (.v 2) .zero 1 with form := .s }) = false := by decide
/-- A short code in layout L. -/
theorem test_wf_long_code : Instr.wf (.add (op (.v 4) (.short 0) (.v 2) .zero 0)) = false := by decide
/-- An operand in layout SJ. -/
theorem test_wf_jump : Instr.wf (.bra { op .zero (.v 1) .zero .zero 0 with form := .sj 4 }) = false := by decide
/-- The reserved guard (sub-code 9). -/
theorem test_wf_guard : Instr.wf (.add { op (.v 4) (.v 1) (.v 2) .zero 0 with guard := { neg := true, pred := 7 } }) = false := by decide
/-- A static class-0 cause: a field that the instruction does not use (sub-code 12). -/
theorem test_wf_static : Instr.wf (.nop (op (.v 1) .zero .zero .zero 0)) = false := by decide
/-- The OPC of another `lease`. -/
theorem test_wf_lease : Instr.wf (.leaseReq (op .zero .zero (.v 1) .zero 0x400)) = false := by decide
/-- A row that is no instruction. -/
theorem test_wf_event : Instr.wf .tokenCharge = false := by decide
/-- A row that is one. -/
theorem test_wf_add : Instr.wf (.add (op (.v 4) (.v 1) (.v 2) .zero 0)) = true := by decide

/-! ### Reset, and how a program comes to run -/

/-- Nothing placed, every step leaves the held device as it is. -/
theorem test_reset_waits : step State.reset = .next State.reset := by rfl
/-- A placed `add v9, v9, 1` runs as the next step. -/
theorem test_placed_runs : next (step (State.reset.withFetchWord 32 0x0249EC88)) (fun t => vec t 9 0 == 1 && vec t 9 31 == 1 && t.cur.pcOf 0 == 0x10004) = true := by decide +kernel

/-! ### Integer instructions -/

theorem test_mov : got (.mov (op (.v 3) (.v 1) .zero .zero 0)) = some (5, 7) := by decide
/-- The immediate 63 is −1 (R97). -/
theorem test_movi : got (.movi (op (.v 3) (.imm 63) .zero .zero 0)) = some (0xFFFFFFFF, 0xFFFFFFFF) := by decide
theorem test_add_wraps : got (.add (op (.v 3) (.v 1) (.v 2) .zero 0)) = some (8, 6) := by decide
theorem test_sub : got (.sub (op (.v 3) (.v 1) (.v 2) .zero 0)) = some (2, 8) := by decide
/-- The carry of lane 1 alone goes to p0. -/
theorem test_addc : next (exec (.addc (op (.v 3) (.v 1) (.v 2) .zero 0)) st) (fun t => vec t 3 0 == 8 && vec t 3 1 == 6 && Cells.get t.cur.p 0 == 2) = true := by
  decide
theorem test_subb : next (exec (.subb (op (.v 3) (.v 1) (.v 2) .zero 0)) st) (fun t => vec t 3 0 == 2 && vec t 3 1 == 8 && Cells.get t.cur.p 0 == 2) = true := by
  decide
theorem test_mul : got (.mul (op (.v 3) (.v 1) (.v 2) .zero 0)) = some (15, 0xFFFFFFF9) := by decide
theorem test_mulhi : got (.mulhi (op (.v 3) (.v 1) (.v 2) .zero 0)) = some (0, 0xFFFFFFFF) := by decide
theorem test_mad : got (.mad (op (.v 3) (.v 1) (.v 2) (.v 1) 0)) = some (20, 0) := by decide
theorem test_min : got (.min (op (.v 3) (.v 1) (.v 2) .zero 0)) = some (3, 0xFFFFFFFF) := by decide
theorem test_max : got (.max (op (.v 3) (.v 1) (.v 2) .zero 0)) = some (5, 7) := by decide
theorem test_abs : got (.abs (op (.v 3) (.v 2) .zero .zero 0)) = some (3, 1) := by decide
theorem test_neg : got (.neg (op (.v 3) (.v 1) .zero .zero 0)) = some (0xFFFFFFFB, 0xFFFFFFF9) := by decide
theorem test_sad : got (.sad (op (.v 3) (.v 1) (.v 2) (.v 1) 0)) = some (7, 15) := by decide
/-- Bytes 5, 0, 0, 0 with 3, 0, 0, 0, and 7, 0, 0, 0 with four times −1. -/
theorem test_dp4a : got (.dp4a (op (.v 3) (.v 1) (.v 2) (.v 1) 0xC00)) = some (20, 0) := by decide
theorem test_and : got (.and (op (.v 3) (.v 1) (.v 2) .zero 0)) = some (1, 7) := by decide
theorem test_or : got (.or (op (.v 3) (.v 1) (.v 2) .zero 0)) = some (7, 0xFFFFFFFF) := by decide
theorem test_xor : got (.xor (op (.v 3) (.v 1) (.v 2) .zero 0)) = some (6, 0xFFFFFFF8) := by decide
theorem test_andn : got (.andn (op (.v 3) (.v 1) (.v 2) .zero 0)) = some (4, 0) := by decide
theorem test_not : got (.not (op (.v 3) (.v 1) .zero .zero 0)) = some (0xFFFFFFFA, 0xFFFFFFF8) := by decide
/-- A count of 32 or more gives zero (R144). -/
theorem test_shl : got (.shl (op (.v 3) (.v 1) (.v 2) .zero 0)) = some (40, 0) := by decide
theorem test_shr : got (.shr (op (.v 3) (.v 2) .one .zero 0)) = some (1, 0x7FFFFFFF) := by decide
theorem test_sar : got (.sar (op (.v 3) (.v 2) .one .zero 0)) = some (1, 0xFFFFFFFF) := by decide
theorem test_rot : got (.rot (op (.v 3) (.v 2) .one .zero 0)) = some (6, 0xFFFFFFFF) := by decide
/-- Two bits from position 1. -/
theorem test_bfe : got (.bfe (opx 0x201 (.v 3) (.v 1) .lit .zero 0x200)) = some (2, 3) := by decide
theorem test_bfi : got (.bfi (opx 0x201 (.v 3) (.v 1) (.v 2) .lit 0)) = some (3, 0xFFFFFFFF) := by decide
theorem test_bfrev : got (.bfrev (op (.v 3) (.v 1) .zero .zero 0)) = some (0xA0000000, 0xE0000000) := by decide
theorem test_popc : got (.popc (op (.v 3) (.v 1) .zero .zero 0)) = some (2, 3) := by decide
theorem test_clz : got (.clz (op (.v 3) (.v 1) .zero .zero 0)) = some (29, 29) := by decide
theorem test_ctz : got (.ctz (op (.v 3) (.v 1) .zero .zero 0)) = some (0, 0) := by decide
/-- p0 is false in both lanes. -/
theorem test_sel : got (.sel (op (.v 3) (.v 1) (.v 2) .zero 0)) = some (3, 0xFFFFFFFF) := by decide
/-- 5 < 3 and 7 < −1 are false, read with sign. -/
theorem test_cmp : next (exec (.cmp (op (.v 2) (.v 1) (.v 2) .zero 0x080)) st) (fun t => Cells.get t.cur.p 2 == 0) = true := by decide
/-- Without sign 7 < 0xFFFFFFFF is true. -/
theorem test_cmp_unsigned : next (exec (.cmp (op (.v 2) (.v 1) (.v 2) .zero 0x280)) st) (fun t => Cells.get t.cur.p 2 == 2) = true := by decide
theorem test_clamp : got (.clamp (op (.v 3) (.v 2) .zero .two 0)) = some (2, 0) := by decide
theorem test_lea : got (.lea (op (.v 3) (.v 1) (.v 2) .zero 2)) = some (17, 3) := by decide
theorem test_sext : got (.sext (op (.v 3) (.v 2) .one .zero 0)) = some (0xFFFFFFFF, 0xFFFFFFFF) := by decide
theorem test_prmt : got (.prmt (opx 0x4040 (.v 3) (.v 1) (.v 2) .lit 0)) = some (0x03050305, 0xFF07FF07) := by decide
/-- A destination register pushes its lane's old last result (R99). -/
theorem test_push : next (exec (.add (op (.v 3) (.v 1) (.v 2) .zero 0)) st) (fun t => Cells.get t.cur.l 0 == 8 && Cells.get t.cur.l 32 == 0) = true := by decide

/-- No integer instruction of these meets a cause in `st`. -/
theorem wit_IntegerResults :
    let t := itType 0
    let x1 := op (.v 3) (.v 1) .zero .zero 0
    let x2 := op (.v 3) (.v 1) (.v 2) .zero 0
    let x3 := op (.v 3) (.v 1) (.v 2) (.v 1) 0
    let xi := op (.v 3) (.imm 63) .zero .zero 0
    let xw := op (.v 8) (.v 1) (.v 2) (.v 4) 1
    let two := [(t, Opd.v 1), (t, .v 2)]
    (∀ k ∈ [0x22, 0x23, 0x26, 0x27, 0x29, 0x2A], Clear st k x2 two 1) ∧ (∀ k ∈ [0x20, 0x2B, 0x2C], Clear st k x1 [(t, .v 1)] 1) ∧
    (Clear st 0x21 xi [(t, .imm 63)] 1 ∧ uniSub xi.a = none ∧ (∀ o ∈ [Opd.cid, .bid, .pier, .imask, .ncourse, .nbond], xi.a ≠ o) ∧ ∀ r, xi.a ≠ .s r) ∧
    (Clear st 0x28 x3 [(t, .v 1), (t, .v 2), (t, .v 1)] 1 ∧ x3.opx ≠ 1) ∧
    (Clear st 0x28 xw [(t, .v 1), (t, .v 2), (.int true (itSigned 0), .v 4)] 2 ∧ xw.opx = 1) ∧
    Clear st 0x2D x3 [(t, .v 1), (t, .v 2), (.int false false, .v 1)] 1 ∧ Clear st 0x40 x3 [(t, .v 1), (t, .v 2), (t, .v 1)] 1 := by
  refine ⟨by decide, by decide, ⟨by decide, by decide, by decide, fun r h => nomatch h⟩, by decide, by decide, by decide, by decide⟩

/-- None of the logic, shift and field instructions either. -/
theorem wit_BitResults :
    let t := itType 0
    let x1 := op (.v 3) (.v 1) .zero .zero 0
    let x2 := op (.v 3) (.v 1) (.v 2) .zero 0
    let x3 := op (.v 3) (.v 1) (.v 2) (.v 1) 0
    (∀ k ∈ [0x2F, 0x30, 0x31, 0x32], Clear st k x2 [(t, .v 1), (t, .v 2)] 1) ∧ (∀ k ∈ [0x33, 0x3A, 0x3B, 0x3C, 0x3D], Clear st k x1 [(t, .v 1)] 1) ∧
    (∀ k ∈ [0x34, 0x35, 0x36, 0x37, 0x38, 0x42], Clear st k x2 [(t, .v 1), (countTy, .v 2)] 1) ∧
    Clear st 0x39 x3 [(t, .v 1), (t, .v 2), (countTy, .v 1)] 1 ∧ Clear st 0x43 x3 [(t, .v 1), (t, .v 2), (t, .v 1)] 1 := by decide

/-- `lea`, `dp4a` with each second type, `sel`, `addc`, `subb`, and `cmp` with each condition. -/
theorem wit_MixedResults :
    let t := itType 0
    let x2 := op (.v 3) (.v 1) (.v 2) .zero 0
    let q := op (.v 3) (.v 1) (.v 2) (.v 1) 0xC00
    let q1 := op (.v 3) (.v 1) (.v 2) (.v 1) 0xC01
    let two := [(t, Opd.v 1), (t, .v 2)]
    let c := [(countTy, Opd.v 1), (countTy, .v 2)]
    Clear st 0x41 x2 [(t, .v 1), (.int false (itSigned 0), .v 2)] 1 ∧
    Clear st 0x2E q [(itType 6, .v 1), (itType 6, .v 2), (.int false true, .v 1)] 1 ∧
    Clear st 0x2E q1 [(itType 6, .v 1), (itType 6, .v 2), (.int false true, .v 1)] 1 ∧ q.opx ≠ 1 ∧ q1.opx = 1 ∧
    (class0 st 0x3E x2 = none ∧ aluSub1 st x2 two 1 = none ∧ opdIsS x2.d = false ∧ class2 st x2 (aluReads two ++ predRef 0) (opdRefs x2.d 1) = none) ∧
    (∀ k ∈ [0x24, 0x25], class0 st k x2 = none ∧ aluSub1 st x2 c 1 = none ∧ x2.opx ≠ 7 ∧ opdIsS x2.d = false ∧
      class2 st x2 (aluReads c ++ predRef x2.opx) (opdRefs x2.d 1 ++ predRef x2.opx) = none) ∧
    (∀ k ∈ List.range 6, let x := op (.v 2) (.v 1) (.v 2) .zero (BitVec.ofNat 12 (64 * k))
      class0 st 0x3F x = none ∧ srcSub st x t x.a = none ∧ srcSub st x t x.b = none ∧ predSub x x.d = none ∧
        class2 st x (aluReads [(t, x.a), (t, x.b)]) (predDst x.d) = none ∧ x.cond = k) := by decide

/-- Every element of every type, and the widest words. -/
theorem wit_ElementsExact : (∀ it < 8, 0 < itElems it) ∧ (2 ^ 32 - 1 < 2 ^ 32) := by decide

/-- Destinations that are a register of each file, a predicate, and none of them. -/
theorem wit_ResultFrame : st.cur.eligible ≠ 0 ∧ Cells.wf st.cur.pc = true ∧ Cells.wf st.cur.v = true ∧ Cells.wf st.cur.l = true ∧ Cells.wf st.cur.p = true ∧
    st.iss.mask.getLsbD 1 = true ∧ st.iss.mask.getLsbD 31 = false ∧ opdPushes (.v 3) = true ∧ opdPushes (.s 3) = false := by decide

/-! ### Floating point -/

/-- `fp k`: a floating instruction of FP32 in the mode of `sr.FPM`, its sources v5, v6 and v5. -/
def fp1 : Ops := op (.v 3) (.v 5) .zero .zero 0x00E
def fp2 : Ops := op (.v 3) (.v 5) (.v 6) .zero 0x00E
def fp3 : Ops := op (.v 3) (.v 5) (.v 6) (.v 5) 0x00E

theorem test_fadd : got (.fadd fp2) = some (0x40800000, 0x3FC00000) := by decide +kernel
theorem test_fsub : got (.fsub fp2) = some (0xC0000000, 0x40200000) := by decide +kernel
theorem test_fmul : got (.fmul fp2) = some (0x40400000, 0xBF800000) := by decide +kernel
theorem test_ffma : got (.ffma fp3) = some (0x40800000, 0x3F800000) := by decide +kernel
theorem test_fmin : got (.fmin fp2) = some (0x3F800000, 0xBF000000) := by decide +kernel
theorem test_fmax : got (.fmax fp2) = some (0x40400000, 0x40000000) := by decide +kernel
/-- `.lt`: 1 < 3, and not 2 < −0.5. -/
theorem test_fcmp : next (exec (.fcmp (op (.v 2) (.v 5) (.v 6) .zero 0x02E)) st) (fun t => Cells.get t.cur.p 2 == 1) = true := by decide +kernel
/-- Bit 6 for +normal, bit 1 for −normal. -/
theorem test_fclass : got (.fclass (op (.v 3) (.v 6) .zero .zero 0x00E)) = some (64, 2) := by decide +kernel
theorem test_frcp : got (.frcp fp1) = some (0x3F800000, 0x3F000000) := by decide +kernel
theorem test_frsq : got (.frsq fp1) = some (0x3F800000, 0x3F3504F3) := by decide +kernel
theorem test_fsqrt : got (.fsqrt fp1) = some (0x3F800000, 0x3FB504F3) := by decide +kernel
theorem test_fdiv : got (.fdiv (op (.v 3) (.v 6) (.v 5) .zero 0x00E)) = some (0x40400000, 0xBE800000) := by decide +kernel
theorem test_fexp2 : got (.fexp2 fp1) = some (0x40000000, 0x40800000) := by decide +kernel
theorem test_flog2 : got (.flog2 fp1) = some (0, 0x3F800000) := by decide +kernel
/-- sin 3π is +0, and sin −π/2 is −1. -/
theorem test_fsin : got (.fsin (op (.v 3) (.v 6) .zero .zero 0x00E)) = some (0, 0xBF800000) := by decide +kernel
theorem test_fcos : got (.fcos (op (.v 3) (.v 6) .zero .zero 0x00E)) = some (0xBF800000, 0) := by decide +kernel
/-- tanh 1 and tanh 2. -/
theorem test_ftanh : got (.ftanh fp1) = some (0x3F42F7D6, 0x3F76CA83) := by decide +kernel
/-- 1 / (1 + e^−1) and 1 / (1 + e^−2). -/
theorem test_fsigm : got (.fsigm fp1) = some (0x3F3B26A8, 0x3F617BEB) := by decide +kernel
theorem test_fscale : got (.fscale (op (.v 3) (.v 5) .one .zero 0x00E)) = some (0x40000000, 0x40800000) := by decide +kernel
theorem test_ffrac : got (.ffrac (op (.v 3) (.v 6) .zero .zero 0x00E)) = some (0, 0xBF000000) := by decide +kernel
/-- −0.5 to even is −0. -/
theorem test_frnd : got (.frnd (op (.v 3) (.v 6) .zero .zero 0x00E)) = some (0x40400000, 0x80000000) := by decide +kernel
/-- Division of a finite number by zero gives infinity (R71). -/
theorem test_fdiv_zero : got (.fdiv (op (.v 3) (.v 5) .zero .zero 0x00E)) = some (0x7F800000, 0x7F800000) := by decide +kernel

/-- The example of R150: 0x3F80_4000 with seed 1 gives 0x3F80 and leaves 0x0004_2021. -/
theorem test_cvt_stochastic : next (exec (.cvt (op (.v 5) (.v 6) .zero .zero 0x10A))
    (st.upd (fun c => { c with v := [(192, 0x3F804000), (193, 0x3F804000)], srseed := [(0, 1), (1, 1)] })))
    (fun t => vec t 5 0 == 0x3F80 && Cells.get t.cur.srseed 0 == 0x00042021) = true := by decide +kernel
/-- 3.0 to INT32, and −0.5 to even. -/
theorem test_cvt_int : got (.cvt (op (.v 3) (.v 6) .zero .zero 0xF0E)) = some (3, 0) := by decide +kernel
/-- Two BF16 of 1.0 and 3.0. -/
theorem test_fpack : (got (.fpack (op (.v 3) (.v 5) (.v 6) .zero 0x10E))).map (fun p => p.1) = some 0x40403F80 := by decide +kernel
/-- The high half of 1.0 as BF16 is 1.0. -/
theorem test_funpack : (got (.funpack (op (.v 3) (.v 5) .one .zero 0x01E))).map (fun p => p.1) = some 0x3F800000 := by decide +kernel
/-- In BF16 pairs 0 · 0 + 1 · 3 + 1. -/
theorem test_fdot2 : (got (.fdot2 (op (.v 3) (.v 5) (.v 6) (.v 5) 0x10E))).map (fun p => p.1) = some 0x40800000 := by decide +kernel

/-- Whether the results of a floating function in lanes 0 and 1 raise no enabled exception. -/
def quiet2 (g : Nat → FRes) : Prop := Quiet st ([0, 1].map (fun i => (i, g i)))

theorem wit_FloatResults :
    let f := fmtOf 0
    let md := arith st fp2
    let a (i : Nat) : FVal := fval st fp2 md (.v 5) i
    let b (i : Nat) : FVal := fval st fp2 md (.v 6) i
    let t : STy := .flt 0
    fltLanes st fp2 = [0, 1] ∧ (∀ k ∈ [0x50, 0x51, 0x52, 0x54, 0x55, 0x5B], Clear st k fp2 [(t, .v 5), (t, .v 6)] 1) ∧
    Clear st 0x53 fp3 [(t, .v 5), (t, .v 6), (t, .v 5)] 1 ∧ Clear st 0x62 fp2 [(t, .v 5), (.int false true, .v 6)] 1 ∧
    (∀ k ∈ [0x57, 0x58, 0x59, 0x5A, 0x5C, 0x5D, 0x5E, 0x5F, 0x60, 0x61, 0x63, 0x64], Clear st k fp1 [(t, .v 5)] 1) ∧
    quiet2 (fun i => fAdd 0 f md (a i) (b i)) ∧ quiet2 (fun i => fAdd 0 f md (a i) (b i).flip) ∧ quiet2 (fun i => fMul 0 f md (a i) (b i)) ∧
    quiet2 (fun i => fFma 0 f md (a i) (b i) (a i)) ∧ quiet2 (fun i => fDiv 0 f md (a i) (b i)) ∧
    quiet2 (fun i => fMinMax false 0 f md (readOpd st fp2 t (.v 5) i) (readOpd st fp2 t (.v 6) i)) ∧
    quiet2 (fun i => fMinMax true 0 f md (readOpd st fp2 t (.v 5) i) (readOpd st fp2 t (.v 6) i)) ∧
    quiet2 (fun i => { bits := fClass f (readOpd st fp1 t (.v 5) i), flags := 0 }) ∧ quiet2 (fun i => fRcp 0 f md (a i)) ∧
    quiet2 (fun i => fRsq 0 f md (a i)) ∧ quiet2 (fun i => fSqrt 0 f md (a i)) ∧ quiet2 (fun i => fExp2 0 f md (a i)) ∧
    quiet2 (fun i => fLog2 0 f md (a i)) ∧ quiet2 (fun i => fSin 0 f md (a i)) ∧ quiet2 (fun i => fCos 0 f md (a i)) ∧
    quiet2 (fun i => fTanh 0 f md (a i)) ∧ quiet2 (fun i => fSigm 0 f md (a i)) ∧ quiet2 (fun i => fFrac 0 f md (a i)) ∧
    quiet2 (fun i => fRnd f md (a i)) ∧ quiet2 (fun i => fScale 0 f md (a i) (toInt 32 (readOpd st fp2 (.int false true) (.v 6) i))) := by
  unfold quiet2
  decide +kernel

theorem wit_ConversionResults :
    let w : STy := .int false false
    let md := arith st fp2
    let mc := fpMode st.cur.fpm 7 false
    let f (i : Nat) : Nat := readOpd st fp1 (.flt 0) (.v 5) i
    let x := op (.v 3) (.v 5) .zero .zero 0x10E
    let y := op (.v 3) (.v 5) .zero .zero 0x10A
    let p := op (.v 3) (.v 5) (.v 6) .zero 0x10E
    let u := op (.v 3) (.v 5) .one .zero 0x01E
    let d := op (.v 3) (.v 5) (.v 6) (.v 5) 0x10E
    let c := op (.v 2) (.v 5) (.v 6) .zero 0x02E
    (x.rnd ≠ 5 ∧ Clear st 0x65 x [(cvtType 0, .v 5)] 1 ∧ quiet2 (fun i => convert 0 1 mc (f i))) ∧
    (y.rnd = 5 ∧ opdIsS y.d = false ∧ Clear st 0x65 y [(cvtType 0, .v 5)] 1 ∧
      quiet2 (fun i => convertSr 0 1 (fpMode st.cur.fpm 5 false) (xorshift (Cells.get st.cur.srseed i)) (f i))) ∧
    (Clear st 0x66 p [(.flt 0, .v 5), (.flt 0, .v 6)] 1 ∧ quiet2 (fun i => convert 0 1 mc (f i)) ∧
      quiet2 (fun i => convert 0 1 mc (readOpd st p (.flt 0) (.v 6) i))) ∧
    (Clear st 0x67 u [(w, .v 5), (w, .one)] 1 ∧ quiet2 (fun i => convert 1 0 md (readOpd st u w (.v 5) i / 2 ^ 16 % 2 ^ 16))) ∧
    (Clear st 0x68 d [(w, .v 5), (w, .v 6), (.flt 0, .v 5)] 1 ∧
      quiet2 (fun i => fDot2 md (.fin false 0 0) (.fin false 0 0) (readF 1 (fmtOf 1) md.daz (readOpd st d w (.v 5) i / 2 ^ 16)) (.fin false 0 0)
        (readF 0 fp32 md.daz (f i)))) ∧
    (class0 st 0x56 c = none ∧ srcSub st c (.flt 0) (.v 5) = none ∧ srcSub st c (.flt 0) (.v 6) = none ∧ predSub c c.d = none ∧
      class2 st c (aluReads [(.flt 0, .v 5), (.flt 0, .v 6)]) (predDst c.d) = none ∧ teCause st.cur.fpm 0 = none) := by
  unfold quiet2
  decide +kernel

/-- FP32 and a format without infinities; a sum of two infinities of different signs is a NaN. -/
theorem wit_NaNsAndZeros : (fpFmt 0).isSome = true ∧ (fpFmt 3).isSome = true ∧
    (unpackF fp32 (fAdd 0 fp32 (arith st fp2) (.inf false) (.inf true)).bits).isNan = true := by decide +kernel

/-! ### Lanes -/

/-- Lane 1's value in both. -/
theorem test_shfl : got (.shfl (op (.v 3) (.v 1) .one .zero 0)) = some (7, 7) := by decide
theorem test_bcast : got (.bcast (op (.v 3) (.v 1) .zero .zero 0)) = some (5, 5) := by decide
theorem test_lfirst : got (.lfirst (op (.v 3) (.v 1) .zero .zero 0)) = some (5, 5) := by decide
/-- Both lanes send to lane 1: the higher one's value lands, and lane 0 keeps its own. -/
theorem test_lperm : got (.lperm (op (.v 3) (.v 1) .one .zero 0)) = some (5, 7) := by decide
/-- p7 reads true in each participating lane. -/
theorem test_lbal : got (.lbal (op (.v 3) .zero .zero .zero 7)) = some (3, 3) := by decide
theorem test_lany : got (.lany (op (.v 3) .zero .zero .zero 0)) = some (0, 0) := by decide
theorem test_lall : got (.lall (op (.v 3) .zero .zero .zero 7)) = some (1, 1) := by decide
theorem test_lmatch : got (.lmatch (op (.v 3) (.v 1) .zero .zero 0)) = some (1, 2) := by decide
theorem test_lred : got (.lred (op (.v 3) (.v 1) .zero .zero 0)) = some (12, 12) := by decide
theorem test_lscan : got (.lscan (op (.v 3) (.v 1) .zero .zero 0)) = some (5, 12) := by decide
/-- The exclusive scan starts with the identity. -/
theorem test_lscan_excl : got (.lscan (op (.v 3) (.v 1) .zero .zero 16)) = some (0, 5) := by decide

theorem wit_LaneResults :
    let u : STy := .int false false
    let x1 := op (.v 3) (.v 1) .zero .zero 0
    let x2 := op (.v 3) (.v 1) .one .zero 0
    let q := op (.v 3) .zero .zero .zero 7
    let p := op (.v 2) .zero .zero .zero 0x17
    (∀ k ∈ [0x80, 0x85, 0x86], class0 st k x2 = none ∧ srcSub st x2 u (.v 1) = none ∧ srcSub st x2 u .one = none ∧ dstSub st.cur x2 1 x2.d = none ∧
      opdIsS x2.d = false ∧ opdVaries x2.b = false ∧ class2 st x2 (aluReads [(u, .v 1), (u, .one)] ++ []) (opdRefs x2.d 1) = none) ∧
    (∀ k ∈ [0x84, 0x87, 0x88, 0x89], class0 st k x1 = none ∧ srcSub st x1 u (.v 1) = none ∧ dstSub st.cur x1 1 x1.d = none ∧ opdIsS x1.d = false ∧
      class2 st x1 (opdRefs (.v 1) 1) (opdRefs x1.d 1) = none) ∧
    (∀ k ∈ [0x81, 0x82, 0x83], class0 st k q = none ∧ dstSub st.cur q 1 q.d = none ∧ opdIsS q.d = false ∧ class2 st q (predRef 7) (opdRefs q.d 1) = none) ∧
    (∀ k ∈ [0x82, 0x83], class0 st k p = none ∧ p.bit 4 = true ∧ predSub p p.d = none ∧ class2 st p (predRef 7) (predDst p.d) = none) ∧
    (class0 st 0x87 (op (.v 3) (.v 5) .zero .zero 8) = none ∧ Quiet st ([0, 1].map (fun i => (i, redFold 0 (foldMode st) [5, 7])))) := by
  decide +kernel

/-! ### Control transfers -/

/-- No operands. -/
def op0 : Ops := op .zero .zero .zero .zero 0
/-- A jump of `k` words. -/
def jump (k : BitVec 18) : Ops := { op0 with form := .sj k }
/-- A guard that no lane meets. -/
def never (x : Ops) : Ops := { x with guard := { neg := false, pred := 0 } }
/-- The state with a change of its course. -/
def with' (f : Course → Course) : State := st.upd f
/-- Targets in scalar pairs: an address, a misaligned one, one beyond the address space; a return address in lanes 0 and 1. -/
def sj : State := with' (fun c =>
  { c with s := [(4, 0x20000), (6, 0x20002), (9, 0x200000)], depth := [(0, 1), (1, 1)], rstack := [(0, 0x30000), (8, 0x30000)] })
/-- The same for lane 0 alone, with a full return stack, or an empty one. -/
def alone (s : State) (d : BitVec 4) : State := { s.upd (fun c => { c with live := 1, depth := if d = 0 then [] else [(0, d)] }) with iss := { iss with mask := 1, whole := 1 } }

theorem test_nop : next (exec (.nop op0) st) (fun t => t.cur.pcOf 0 == 0x10008 && t.cur.v == st.cur.v) = true := by decide
/-- Three words on from the instruction (R179). -/
theorem test_bra : next (exec (.bra (jump 3)) st) (fun t => t.cur.pcOf 0 == 0x1000C && t.cur.pcOf 1 == 0x1000C && t.cur.pcOf 2 == 0x10000) = true := by decide
theorem test_bra_back : next (exec (.bra (jump 0x3FFFF)) st) (fun t => t.cur.pcOf 0 == 0xFFFC) = true := by decide
/-- The address after the four-byte call is pushed (R159). -/
theorem test_call : next (exec (.call (jump 3)) st) (fun t => t.cur.pcOf 0 == 0x1000C && Cells.get t.cur.depth 0 == 1 && Cells.get t.cur.rstack 0 == 0x10004) = true := by
  decide
theorem test_brx : next (exec (.brx (op .zero (.s 4) .zero .zero 0)) sj) (fun t => t.cur.pcOf 0 == 0x20000) = true := by decide
theorem test_calli : next (exec (.calli (op .zero (.s 4) .zero .zero 0)) sj) (fun t => t.cur.pcOf 1 == 0x20000 && Cells.get t.cur.rstack 9 == 0x10008) = true := by
  decide
theorem test_ret : next (exec (.ret op0) sj) (fun t => t.cur.pcOf 0 == 0x30000 && Cells.get t.cur.depth 0 == 0) = true := by decide

theorem wit_TransferResults :
    let b := op .zero (.s 4) .zero .zero 0
    let m := op .zero (.s 6) .zero .zero 0
    let f := op .zero (.s 8) .zero .zero 0
    Free st 0x00 op0 none [] [] ∧ Free st 0x01 (jump 3) none [] [] ∧ Free st 0x03 (jump 3) none [] [] ∧
    ((0x1000C : Nat) : Int) = st.iss.pc + 4 * jumpOff (jump 3) ∧ 0x1000C < Config.vaLimit ∧
    (∀ i ∈ lanes st (jump 3), (Cells.get st.cur.depth i).toNat ≠ 8) ∧
    (∀ k ∈ [0x02, 0x04], Free sj k b (targetSub sj b) (opdRefs b.a 2) []) ∧
    (∀ i ∈ lanes sj b, readBase sj b b.a i % 4 = 0 ∧ readBase sj b b.a i < Config.vaLimit) ∧
    Free sj 0x05 op0 none [] [] ∧ (∀ i ∈ lanes sj op0, (Cells.get sj.cur.depth i).toNat ≠ 0) ∧
    -- lane 0 alone
    lanes (alone sj 8) m = [0] ∧ (alone sj 8).iss.mask = partLanes (alone sj 8) m ∧ (alone sj 8).cur.holdMode = false ∧
    (∀ k ∈ [0x02, 0x04], readBase (alone sj 8) m m.a 0 % 4 ≠ 0 ∧ Free (alone sj 8) k m (targetSub (alone sj 8) m) (opdRefs m.a 2) []) ∧
    (readBase (alone sj 8) f f.a 0 = Config.vaLimit ∧ Free (alone sj 8) 0x02 f (targetSub (alone sj 8) f) (opdRefs f.a 2) []) ∧
    (readBase (alone sj 8) b b.a 0 = 0x20000 ∧ (Cells.get (alone sj 8).cur.depth 0).toNat = 8 ∧ Free (alone sj 8) 0x04 b (targetSub (alone sj 8) b) (opdRefs b.a 2) []) ∧
    (Cells.get (alone sj 0).cur.depth 0 = 0 ∧ Free (alone sj 0) 0x05 op0 none [] []) := by decide

theorem wit_TransfersAndReturns : Cells.wf sj.cur.pc = true ∧ Cells.wf sj.cur.chead = true ∧ Cells.wf sj.cur.cdist = true ∧ Cells.wf sj.cur.depth = true ∧
    Cells.wf sj.cur.rstack = true ∧ (3 : LaneSet).getLsbD 1 = true ∧ (3 : LaneSet).getLsbD 31 = false ∧ (Cells.get sj.cur.depth 0).toNat < 8 ∧
    (Cells.get (alone sj 7).cur.depth 0).toNat = 7 := by decide

/-! ### Masks -/

/-- The mask `k`. -/
def mk (k : BitVec 12) : Ops := op .zero .zero .zero .zero k
/-- Lanes 0 and 1 enrolled in m2, lane 1 waiting there; hold mode with both lanes in m11. -/
def sm : State := with' (fun c => { c with enr := [(2, 3)], waitm := [(2, 2)] })
def hold : State := with' (fun c => { c with lfmode := 1, enr := [(11, 3)] })

theorem test_join : next (exec (.join (mk 2)) st) (fun t => Cells.get t.cur.enr 2 == 3) = true := by decide
theorem test_leave : next (exec (.leave (mk 2)) sm) (fun t => Cells.get t.cur.enr 2 == 0 && t.cur.pcOf 0 == 0x10008) = true := by decide
/-- The last lane to arrive releases the mask, and both lanes go on behind the instruction (R161). -/
theorem test_waitm : next (exec (.waitm (mk 2)) { sm.upd (fun c => { c with waitLen := [(1, 8)] }) with iss := { iss with mask := 1, whole := 1 } })
    (fun t => Cells.get t.cur.enr 2 == 0 && Cells.get t.cur.waitm 2 == 0 && t.cur.pcOf 0 == 0x10008 && t.cur.pcOf 1 == 0x10008) = true := by decide
theorem test_mget : next (exec (.mget (op (.s 3) .zero .zero .zero 2)) sm) (fun t => Cells.get t.cur.s 3 == 3) = true := by decide
theorem test_mput : next (exec (.mput (op .zero (.imm 2) .zero .zero 3)) st) (fun t => Cells.get t.cur.enr 3 == 2) = true := by decide
/-- In hold mode `join` of m11 traps with (11, 1) (R163). -/
theorem test_join_held : exec (.join (mk 11)) hold = .next (raise hold 0xB1 3 0x10000 0 0) := by rfl

theorem wit_MaskResults :
    let x := op .zero (.imm 2) .zero .zero 3
    let y := op .zero (.imm 2) .zero .zero 11
    let g := op (.s 3) .zero .zero .zero 2
    (∀ k ∈ [0x06, 0x07, 0x08], Free st k (mk 2) none [] []) ∧ heldMask st 2 = false ∧
    Free sm 0x09 g (minSub [dstSub sm.cur g 1 g.d, scalarSub g []]) [] (opdRefs g.d 1) ∧
    (Free st 0x0A x (minSub [srcSub st x (.int false false) x.a, uniSub x.a]) (opdRefs x.a 1) [] ∧ partLanes st x ≠ 0 ∧ heldMask st x.low4 = false ∧
      Cells.get st.cur.waitm 3 = 0) ∧
    (Free hold 0x0A y (minSub [srcSub hold y (.int false false) y.a, uniSub y.a]) (opdRefs y.a 1) [] ∧ partLanes hold y ≠ 0 ∧ heldMask hold y.low4 = true) ∧
    (Free st 0x0A (never x) (minSub [srcSub st (never x) (.int false false) x.a, uniSub x.a]) (opdRefs x.a 1) [] ∧ partLanes st (never x) = 0) ∧
    (Cells.wf sm.cur.enr = true ∧ Cells.wf sm.cur.waitm = true ∧ Cells.get sm.cur.waitm 2 ≠ Cells.get sm.cur.enr 2 &&& sm.cur.live) ∧
    (Cells.get sm.cur.waitm 2 ≠ 0 ∧ Cells.get sm.cur.waitm 2 = Cells.get sm.cur.enr 2 &&& 2) ∧ Cells.get sm.cur.waitm 3 = 0 := by decide

/-! ### Ends and waits -/

/-- `exit` for lane 0 of two. -/
def part : State := { st with iss := { iss with mask := 1, whole := 1 } }
/-- A header of two words and two `nop` behind it, for every lane. -/
def sc : State := { placed State.reset (0x00BC4003 + 2 ^ 32 * 0x0EBAE800 + 2 ^ 64 * 0x0EBAE800) 12 with
  iss := { iss with mask := 0xFFFFFFFF, whole := 0xFFFFFFFF, len := 1 } }
def header : Header := { stall := 0, yield := false, len := 2, setB := 15, setA := 1, wait := 0 }
/-- Asleep. -/
def asleep : State := with' (fun c => { c with wait := some (.sleep 5) })

theorem test_exit : next (exec (.exit op0) part) (fun t => t.cur.live == 2 && t.cur.pcOf 1 == 0x10000) = true := by decide
/-- The last lane's exit ends the course (R182). -/
theorem test_exit_last : next (exec (.exit op0) st) (fun t => t.cur.live == 0 && t.cur.life != .live) = true := by decide
theorem test_yield : next (exec (.yield op0) st) (fun t => t.cur.yielding && t.cur.pcOf 0 == 0x10008) = true := by decide
theorem test_sleep : next (exec (.sleep (op .zero (.imm 5) .zero .zero 0)) st) (fun t => t.cur.wait == some (.sleep 5)) = true := by decide
theorem test_sleep_expiry : next (exec (.sleepExpiry 4) asleep) (fun t => t.cur.wait == none) = true := by decide
/-- Class 17, sub-code 0, with the byte of the instruction in INFO (R187). -/
theorem test_brk : exec (.brk (op .zero .zero .zero .zero 3)) st = .next (raise st 0x110 3 0x10000 3 0) := by rfl
theorem test_illegal : exec (.illegalEncoding { word := 0, sub := 12, ctl := false, fs := 0 }) st = .next (raise st 12 3 0x10000 0 0) := by rfl
theorem test_clause : next (exec (.clause header) sc) (fun t => t.cur.pcOf 0 == 0x10004 && (Cells.get t.cur.chead 0).toNat == 0x00BC4003) = true := by decide +kernel

theorem wit_EndsAndWaits :
    let z := op .zero (.imm 5) .zero .zero 0
    let left (s : State) (x : Ops) : LaneSet := s.cur.live &&& ~~~ partLanes s x
    Free part 0x0B op0 none [] [] ∧ partLanes part op0 ≠ 0 ∧ part.cur.rgnOpen = false ∧ left part op0 ≠ 0 ∧
    Free st 0x0B op0 none [] [] ∧ partLanes st op0 ≠ 0 ∧ left st op0 = 0 ∧ Free st 0x0B (never op0) none [] [] ∧ partLanes st (never op0) = 0 ∧
    Free st 0x0C op0 none [] [] ∧ Free st 0x0D z (minSub [srcSub st z (.int false false) z.a, uniSub z.a]) (opdRefs z.a 1) [] ∧ partLanes st z ≠ 0 ∧
    asleep.cur.wait = some (.sleep 5) ∧ asleep.cur.waitBelow = none ∧ Free st 0x0E op0 none [] [] ∧ clauseSub st false false false false = none ∧
    0 < header.len.toNat ∧ bodyWhole sc sc.cur (sc.iss.pc + 4) 2 2 = true ∧ sc.iss.bodies = 0 ∧ slotBad header.setA = false ∧
    slotBad header.setB = false ∧ flagsClear sc.cur header.wait = true ∧ Cells.wf sc.cur.chead = true := by decide +kernel

/-! ### Special registers -/

/-- In a ring. -/
def atRing (r : Nat) : State := with' (fun c => { c with ring := r })
/-- `swr` of an immediate, and of a scalar pair. -/
def sw (n : BitVec 12) (k : BitVec 6) : Ops := op .zero (.imm k) .zero .zero n

theorem test_srd : next (exec (.srd (op (.v 3) .zero .zero .zero 0x03)) st) (fun t => vec t 3 0 == 3) = true := by decide
/-- A register of ring 1 read from ring 0: (19, 1) (R167). -/
theorem test_srd_ring : exec (.srd (op (.s 4) .zero .zero .zero 0x0A)) st = .next (raise st 0x131 3 0x10000 0 0) := by rfl
theorem test_swr_lfmode : next (exec (.swr (sw 0x02 1)) st) (fun t => t.cur.lfmode == 1) = true := by decide
/-- RM 5 is refused with (1, 8) (R68). -/
theorem test_swr_rm : exec (.swr (sw 0x00 5)) st = .next (raise st 0x18 3 0x10000 0 0) := by rfl

theorem wit_SpecialRead :
    let r (d : Opd) (n : BitVec 12) := op d .zero .zero .zero n
    let free (x : Ops) : Prop := Free st 0x10 x (minSub [dstSub st.cur x (if srWide (x.field 0 8) then 2 else 1) x.d, scalarSub x [],
      subIf (x.field 0 8 = 1 && opdIsS x.d) 14]) [] (opdRefs x.d (if srWide (x.field 0 8) then 2 else 1))
    free (r .zero 0x03) ∧ free (r (.s 4) 0x0A) ∧ st.cur.ring < srRing 0x0A ∧ free (r (.v 3) 0x03) ∧ srRing 0x03 ≤ st.cur.ring ∧
    st.cur.qid < 768 ∧ 0x28 < 0x29 := by decide

theorem wit_SpecialWrite :
    let free (s : State) (x : Ops) : Prop :=
      let n := x.field 0 8
      Free s 0x11 x (minSub [srcSub s x (.int (srWide n) false) x.a, if n = 1 then none else uniSub x.a]) (opdRefs x.a (STy.int (srWide n) false).regs) [] ∧
        partLanes s x ≠ 0
    (srWritable 0x03 = false ∧ srRing 0x03 ≤ st.cur.ring ∧ free st (sw 0x03 0)) ∧ (srWritable 0x0A = true ∧ st.cur.ring < srRing 0x0A ∧ free st (sw 0x0A 0)) ∧
    (srWritable 0x00 = true ∧ srRing 0x00 ≤ st.cur.ring ∧ partLanes st (never (sw 0x00 4)) = 0 ∧
      Free st 0x11 (never (sw 0x00 4)) (minSub [srcSub st (never (sw 0x00 4)) (.int false false) (.imm 4), uniSub (.imm 4)]) (opdRefs (.imm 4) 1) []) ∧
    (readOpd st (sw 0x00 4) (.int false false) (.imm 4) 0 % 8 = 4 ∧ free st (sw 0x00 4)) ∧
    (readOpd st (sw 0x00 5) (.int false false) (.imm 5) 0 % 8 = 5 ∧ free st (sw 0x00 5)) ∧ free st (sw 0x01 0) ∧
    (st.cur.holdMode = false ∧ free st (sw 0x02 1)) ∧ (Cells.get st.cur.enr 11 = 0) ∧
    free (atRing 1) (sw 0x0A 0) ∧ free (atRing 1) (sw 0x20 1) ∧ free (atRing 2) (sw 0x21 1) ∧ free (atRing 3) (sw 0x22 1) ∧ free (atRing 2) (sw 0x28 0) := by
  decide

/-! ### Traps and regions -/

/-- A course of ring 0 with a frame area and a handler at 0x20000 for its partition, both lanes live. -/
def tr : State := { with' (fun c => { c with frameBase := 0x13000 }) with tvec1 := [(1, 0x20001)] }
/-- A handler at ring 1, with the frame of the `trap` that it entered by: KIND 1, both lanes live, and their PCs behind the `trap`. -/
def inTrap : State := { with' (fun c => { c with frameBase := 0x13000, frameBusy := true, ring := 1 }) with
  mem := [(0x213000, 1), (0x213010, 3), (0x213040, 8), (0x213042, 1), (0x213048, 8), (0x21304A, 1)] }

/-- `trap` enters ring 1 with cause (18, 1) and goes on behind itself (R188). -/
theorem test_trap : exec (.trap (mk 1)) tr = .next (raise (tr.pass (mk 1)) 0x121 tr.iss.mask tr.iss.pc 0 0) := by rfl
set_option maxRecDepth 100000 in
/-- `rett` takes the course back behind its `trap` (R189). -/
theorem test_rett : next (exec (.rett op0) inTrap) (fun t => t.cur.ring == 0 && !t.cur.frameBusy && t.cur.pcOf 1 == 0x10008) = true := by decide +kernel
theorem test_rett_ring0 : exec (.rett op0) st = .next (raise st 0x132 3 0x10000 0 0) := by rfl

set_option maxRecDepth 100000 in
theorem wit_TrapAndReturn :
    let open' : State := with' (fun c => { c with rgnOpen := true })
    let apart : State := { (atRing 1).upd (fun c => c.setPcs 1 (fun _ => 0x20000)) with iss := { iss with mask := 2, whole := 2 } }
    (∀ s ∈ [st, atRing 1, open'], Free s 0x12 (mk 1) none [] [] ∧ partLanes s (mk 1) ≠ 0) ∧ open'.cur.rgnOpen = true ∧ st.cur.rgnOpen = false ∧
    st.cur.ring < 1 ∧ 1 ≤ (atRing 1).cur.ring ∧ (Free st 0x12 (never (mk 1)) none [] [] ∧ partLanes st (never (mk 1)) = 0) ∧
    (∀ s ∈ [inTrap, st, atRing 1, apart], Free s 0x13 op0 none [] []) ∧
    (inTrap.cur.reconverged = true ∧ inTrap.cur.ring = 1 ∧ inTrap.cur.frameBusy = true ∧ inTrap.cur.ops = []) ∧ apart.cur.reconverged = false ∧
    (st.cur.reconverged = true ∧ st.cur.ring = 0) ∧ ((atRing 1).cur.reconverged = true ∧ (atRing 1).cur.frameBusy = false) := by decide +kernel

theorem wit_TrapEntry : 0x121 / 16 ≠ 5 ∧ tr.cur.life = .live ∧ tr.cur.pend = [] ∧ tr.cur.stopRing = none ∧ tr.cur.aside = none ∧
    (assignEntries tr.cur.ops tr.cur.ring 0 0).2 = true ∧ targetRing 0x121 tr.cur.ring = 1 ∧ tr.cur.ring = 0 ∧ (vectorOf tr tr.cur 1).getLsbD 0 = true ∧
    inHaltPage tr tr.cur.tenant tr.cur.frameBase = false ∧ (∃ b, translate tr { tr.cur.acc with ring := 1 } tr.cur.frameBase .write = .loc (0x200000 + 0x13000) b) ∧
    Cells.wf tr.cur.pc = true := by
  refine ⟨by decide, by decide, by decide, by decide, by decide, by decide, by decide, by decide, by decide, by decide, ⟨World.leaf, by decide +kernel⟩, by decide⟩

set_option maxRecDepth 100000 in
theorem wit_ReturnRestores : (inTrap.cur.ring == 1 && inTrap.cur.ops.isEmpty && (match readBlock inTrap { inTrap.cur.acc with ring := 2 } inTrap.cur.frameBase 32 with
    | (u, raw) => frameOkay u inTrap.cur raw inTrap.cur.live.toNat [] && fieldAt raw 6 1 != 1)) = true := by decide +kernel

theorem test_rgn : next (exec (.rgn op0) st) (fun t => t.cur.rgnOpen && t.cur.rgnPc == 0x10000 && t.cur.pcOf 0 == 0x10008) = true := by decide
theorem test_rgend : next (exec (.rgend op0) (with' (fun c => { c with rgnOpen := true }))) (fun t => !t.cur.rgnOpen) = true := by decide

theorem wit_Regions :
    let open' : State := with' (fun c => { c with rgnOpen := true })
    let apart : State := st.upd (fun c => c.setPcs 1 (fun _ => 0x20000))
    Free st 0x14 op0 none [] [] ∧ st.cur.reconverged = true ∧ st.cur.rgnOpen = false ∧ st.cur.quiet = true ∧
    Free apart 0x14 op0 none [] [] ∧ apart.cur.reconverged = false ∧ Free open' 0x14 op0 none [] [] ∧ open'.cur.reconverged = true ∧
    open'.cur.rgnOpen = true ∧ Free open' 0x15 op0 none [] [] ∧ Free st 0x15 op0 none [] [] := by decide

/-! ### Control blocks -/

/-- A course of ring 1 with a block address in s4 and s5, and a predicate set. -/
def ctx : State := with' (fun c => { c with ring := 1, s := [(4, 0x14000)], p := [(0, 2)] })
/-- A fact of a block that was read. -/
def isData (r : BlockRead) (f : Nat → Bool) : Bool := match r with | .data b => f b | .stop _ _ => false | .poison => false
/-- The block instructions' operands. -/
def xc : Ops := op .zero (.s 4) .zero .zero 0
/-- After `ctxsv`. -/
def saved : State := match exec (.ctxsv xc) ctx with | .next t => { t with iss := iss } | .fault _ => ctx | .refused _ => ctx

set_option maxRecDepth 100000 in
theorem test_ctxsv : (saved.cur.pcOf 0 == 0x10008 && isData (loadLines saved 0x14000 20).2 (controlOk saved.cur)) = true := by decide +kernel
set_option maxRecDepth 100000 in
/-- The predicate that the block holds comes back, and the course goes on behind its `ctxsv`. -/
theorem test_ctxld : next (exec (.ctxld xc) (saved.upd (fun c => { c with p := [] }))) (fun t => Cells.get t.cur.p 0 == 2 && t.cur.pcOf 0 == 0x10008) = true := by
  decide +kernel

set_option maxRecDepth 100000 in
theorem wit_ControlTransfer :
    let c1 (s : State) := minSub [baseSub s xc xc.a, subIf (!opdIsS xc.a) 12, srcSub s xc (.int false true) xc.c, uniSub xc.c]
    let va := addr64 ctx xc 0
    let ready (s : State) : Bool := decide (va % 256 = 0 ∧ va + 2560 ≤ Config.vaLimit ∧ s.cur.reconverged = true ∧ s.cur.quiet = true ∧ s.cur.rgnOpen = false ∧
      s.cur.ring ≠ 0 ∧ s.cur.ops.any (fun o => o.isAccess) = false)
    let w := checkBlock ctx .write va 20
    let r := checkBlock saved .read va 20
    Free ctx 0x16 xc (c1 ctx) (opdRefs xc.a 2 ++ opdRefs xc.c 1) [] ∧ ready ctx = true ∧ w.2 = .ok ∧
    (storeLines w.1 va (controlBlock w.1.cur (w.1.iss.pc + 8)) 20).2 = none ∧
    Free saved 0x17 xc (c1 saved) (opdRefs xc.a 2 ++ opdRefs xc.c 1) [] ∧ ready saved = true ∧ r.2 = .ok ∧
    isData (loadLines r.1 va 20).2 (controlOk r.1.cur) = true ∧
    (checkBlock ctx .read va 20).2 = .ok ∧
    isData (loadLines (checkBlock ctx .read va 20).1 va 20).2 (fun b => !controlOk ctx.cur b) = true := by
  decide +kernel

set_option maxRecDepth 100000 in
theorem wit_ControlRoundTrip : sj.cur.rgnOpen = false ∧ sj.cur.fpm.toNat % 8 ≤ 4 ∧ sj.cur.restarts < 2 ^ 11 ∧ sj.cur.rgnPc < 2 ^ 53 ∧ 0x10008 < 2 ^ 53 ∧
    0x10008 % 4 = 0 ∧ (∀ i < 32, (Cells.get sj.cur.depth i).toNat ≤ 8) ∧ (∀ k < 256, (Cells.get sj.cur.rstack k).toNat % 4 = 0) ∧
    sj.cur.live.getLsbD 1 = true ∧ Cells.wf sj.cur.pc = true := by decide

/-! ### Register writes as events -/

theorem test_fpm_write : next (exec (.fpmWrite 4 0x3) st) (fun t => t.cur.fpm == 3) = true := by decide
theorem test_srseed_write : next (exec (.srseedWrite 4 1 0) st) (fun t => Cells.get t.cur.srseed 0 == 1) = true := by decide
theorem test_lfmode_write : next (exec (.lfmodeWrite 4 1) st) (fun t => t.cur.holdMode) = true := by decide
/-- The commit starts with number 1 of its die (R175). -/
theorem test_tcommit_write : next (exec (.tcommitWrite 4 0x80) (atRing 2)) (fun t => t.cur.mine == 1 && t.commit.isSome) = true := by decide +kernel
theorem test_register_write : next (exec (.registerWrite 4 .tvec1 0x20001) (atRing 1)) (fun t => Cells.get t.tvec1 1 == 0x20001) = true := by decide
/-- The heartbeat counts on and the watchdog's count is cleared (R414). -/
theorem test_hbeat_write : next (exec (.hbeatWrite 0) { st with die0 := { st.die0 with hbeat := 4, wdcnt := 9 } })
    (fun t => t.die0.hbeat == 5 && t.die0.wdcnt == 0) = true := by decide
theorem test_wdctl_write : next (exec (.wdctlWrite 0 1) st) (fun t => t.die0.wdctl == 1) = true := by decide

theorem wit_RegisterEvents : (4 : Word).toNat % 8 ≤ 4 ∧ Cells.get st.cur.enr 11 = 0 ∧ (writeTcommit (atRing 2) 0x80).2 = true ∧ (0x80 : Byte).toNat % 256 ≠ 0 ∧
    1 ≤ (atRing 1).cur.ring ∧ 2 ≤ (atRing 2).cur.ring ∧ (3 : Word).toNat < 4 := by decide +kernel

/-! ### Memory -/

/-- Lanes 0 and 1 in a clause body that sets flag f1 (header word 0x00BC4003), with a pair s4:s5 at 0x14000, offsets 0 and 4 in v9, numbers in v1, a
descriptor of a `put` into bond 0 in s8 to s11, pairs and offsets at ends of ranges in s12 to s19, and two words of memory. -/
def mem : State := { with' (fun c => { c with
    chead := [(0, 0x00BC4003), (1, 0x00BC4003)], cdist := [(0, 1), (1, 1)]
    s := [(4, 0x14000), (8, 0), (9, 0xFFF0), (10, 0xFFF0), (11, 16), (12, 0xFFFFFFFF), (13, 0x1FFFFF), (14, 1), (15, 2), (16, 0xFFFC)]
    v := [(32, 5), (33, 7), (289, 4)] }) with
  iss := { iss with bodies := 3 }
  mem := [(0x214000, 0x2A), (0x214004, 0x2B)] }
/-- `ld.b32 v3, [s4 + v9]` with flag f1; the same in scratchpad from 0xFFFC − 4 on. -/
def ldx : Ops := op (.v 3) (.s 4) .zero (.v 9) 0x400 1
def ldsx : Ops := opx 0xFFF8 (.v 3) .lit .zero (.v 9) 0x400 1
/-- `st.b32` of v1 and `atom.add.b32` with a result; the same in scratchpad. -/
def stx : Ops := op .zero (.s 4) (.v 1) (.v 9) 0x400
def stsx : Ops := opx 0xFFF8 .zero .lit (.v 1) (.v 9) 0x400
def atx : Ops := op (.v 3) (.s 4) (.v 1) (.v 9) 0x004 1
def atsx : Ops := opx 0xFFF8 (.v 3) .lit (.v 1) (.v 9) 0x004 1
/-- One lane's address from the scalar pair s4, with an acquire. -/
def ldcx : Ops := op (.s 6) (.s 4) .zero .zero 0x408 1
def putx : Ops := op .zero (.s 8) .one (.s 16) 0
/-- `afence` over the bytes in operand B from a pair. -/
def afx (a b : Opd) : Ops := op .zero a b .zero 0
def pfl (a : Opd) : Ops := op .zero a .zero .zero 0
/-- The state of a next outcome. -/
def aft (o : Out) : State := match o with | .next t => t | .fault _ => st | .refused _ => st
/-- The number of the first operation. -/
def first (t : State) : Nat := (t.cur.ops.head?.map (fun o => o.seq)).getD 0
/-- The first operation's data returns. -/
def back (t : State) : State := aft (exec (.loadDataReturn t.cur.id (first t)) t)
/-- The instruction after the first of a test. -/
def again (t : State) : State := { t.upd (fun c => { c with chead := mem.cur.chead, cdist := mem.cur.cdist }) with iss := mem.iss }

/-- Two bytes of each word come back in their lanes (R241, R246). -/
theorem test_ld : (let t := back (aft (exec (.ld ldx) mem)); vec t 3 0 == 0x2A && vec t 3 1 == 0x2B && t.cur.ops.isEmpty && Cells.get t.cur.flags 1 == 0) = true := by
  decide +kernel
/-- A load after a store sees it. -/
theorem test_st : (let t := aft (exec (.ld ldx) (again (aft (exec (.st stx) mem)))); vec (back t) 3 1 == 7) = true := by decide +kernel
theorem test_atom : (let t := aft (exec (.atom atx) mem); let u := aft (exec (.atomicPerformedAtHome t.cur.id (first t)) t)
    readNum u.mem 0x214000 4 == 0x2F && vec u 3 1 == 0x2B) = true := by decide +kernel
/-- The last two words of a scratchpad of 65,536 bytes. -/
theorem test_sts_lds : (let t := aft (exec (.lds ldsx) (again (aft (exec (.sts stsx) mem)))); let u := back t; vec u 3 0 == 5 && vec u 3 1 == 7) = true := by
  decide +kernel
theorem test_atoms : (let t := aft (exec (.atoms atsx) (again (aft (exec (.sts stsx) mem)))); let u := aft (exec (.atomicPerformedAtHome t.cur.id (first t)) t)
    vec u 3 1 == 7 && (curBond u).map (fun b => scratchRead b 0xFFFC 4) == some 14) = true := by decide +kernel
theorem test_ldc : (let t := back (aft (exec (.ldc ldcx) mem)); Cells.get t.cur.s 6 == 0x2A) = true := by decide +kernel
/-- An offset that is no multiple of 16 takes class 3, sub-code 2 (R252). -/
theorem test_put_misaligned : (let s := mem.upd (fun c => { c with s := [(8, 0), (9, 8), (11, 16)] })
    exec (.put { putx with c := .zero }) s = .next (raise s 0x32 3 0x10000 0 0)) := by rfl

theorem wit_GlobalAccesses :
    let as : List (Nat × Nat) := [(0, 0x14000), (1, 0x14004)]
    let at1 (x : Ops) (z : Nat) (u : Use) := checkLanes mem false z u (laneAddrs mem x false (partLanes mem x))
    let g (x : Ops) : Option Nat := subIf (opdIsS x.d && true && x.guard ≠ Guard.always) 10
    let t := (at1 ldx 4 .read).1
    let u := (at1 stx 4 .write).1
    (Free mem 0x90 ldx (minSub [addrSub mem ldx false, longDst mem.cur ldx 1 true false ldx.d]) (addrRefs ldx false) [] ∧
      (at1 ldx 4 .read).2 = .ok ([], as) ∧ Room t 1 [] (laneOp t ldx (.load (destOf ldx.d) 4 0 (acqOf ldx)) as [])) ∧
    (Free mem 0x91 stx (minSub [addrSub mem stx false, dataSub mem stx 4]) (addrRefs stx false ++ opdRefs stx.b 1) [] ∧
      (at1 stx 4 .write).2 = .ok ([], as) ∧ Room u 1 [] (laneOp u stx (.store 4 false) as (as.map (fun p => (p.1, dataOf mem stx 4 p.1))))) ∧
    (Free mem 0x95 atx (minSub [addrSub mem atx false, atomSub mem atx 4, longDst mem.cur atx 1 true true atx.d, g atx])
        (addrRefs atx false ++ opdRefs atx.b 1) [] ∧ mem.cur.rgnOpen = false ∧ (at1 atx 4 .write).2 = .ok ([], as) ∧
      Room u 1 [] (laneOp u atx (.atomic (destOf atx.d) 0 4 (acqOf atx)) as (as.map (fun p => (p.1, atomOpd mem atx 4 p.1))))) := by decide +kernel

theorem wit_ScratchAccesses :
    let as (x : Ops) := laneAddrs mem x true (partLanes mem x)
    let g (x : Ops) : Option Nat := subIf (opdIsS x.d && false && x.guard ≠ Guard.always) 10
    (∀ x ∈ [ldsx, stsx, atsx], as x = [(0, 0xFFF8), (1, 0xFFFC)] ∧ ∀ p ∈ as x, p.2 % 4 = 0 ∧ p.2 + 4 ≤ scratchSize mem) ∧
    (Free mem 0x92 ldsx (minSub [addrSub mem ldsx true, longDst mem.cur ldsx 1 true false ldsx.d]) (addrRefs ldsx true) [] ∧
      Room mem 1 [] (laneOp mem ldsx (.loadS (destOf ldsx.d) 4) (as ldsx) [])) ∧
    (Free mem 0x93 stsx (minSub [addrSub mem stsx true, dataSub mem stsx 4]) (addrRefs stsx true ++ opdRefs stsx.b 1) [] ∧
      Room mem 1 [] (laneOp mem stsx (.storeS 4) (as stsx) ((as stsx).map (fun p => (p.1, dataOf mem stsx 4 p.1))))) ∧
    (Free mem 0x96 atsx (minSub [addrSub mem atsx true, atomSub mem atsx 4, longDst mem.cur atsx 1 true false atsx.d, g atsx])
        (addrRefs atsx true ++ opdRefs atsx.b 1) [] ∧ mem.cur.rgnOpen = false ∧
      Room mem 1 [] (laneOp mem atsx (.atomicS (destOf atsx.d) 0 4) (as atsx) ((as atsx).map (fun p => (p.1, atomOpd mem atsx 4 p.1))))) ∧
    -- a lane's causes: size 0x10000, 4 bytes
    (0xFFFD % 4 ≠ 0) ∧ (0x10000 % 4 = 0 ∧ 0x10000 < 0x10000 + 4) ∧ (0xFFFC % 4 = 0 ∧ 0xFFFC + 4 ≤ 0x10000) ∧
    (Config.vaLimit % 4 = 0 ∧ Config.vaLimit ≤ Config.vaLimit) ∧ ((Config.vaLimit - 4) % 4 = 0 ∧ Config.vaLimit - 4 < Config.vaLimit) := by decide +kernel

theorem wit_OtherAccesses :
    let va := addr64 mem ldcx 0
    let h := probe mem mem.cur.acc mem.cur.site va .read
    let d (k : Nat) : Nat := mem.cur.regAt putx.a 0 k
    let fs (x : Ops) : Bool := decide (Free mem 0x9A x (minSub [addrSub mem x false, uniSub x.a, uniSub x.c, srcSub mem x (.int false false) x.b, uniSub x.b])
      (addrRefs x false ++ opdRefs x.b 1) [])
    let room (x : Ops) (k : OpKind) : Bool := decide (Room mem 1 [] (newOp mem x k mem.iss.mask))
    let fl (x : Ops) : Bool := decide (Free mem 0x9C x (minSub [srcSub mem x (.int false false) x.a, uniSub x.a]) (opdRefs x.a 1) [])
    let ph := op .zero .zero .zero .zero 0x038
    let near := afx (.s 12) .one
    let far := afx (.s 12) .two
    (Free mem 0x94 ldcx (minSub [addrSub mem ldcx false, uniSub ldcx.a, uniSub ldcx.c, longDst mem.cur ldcx 1 true true ldcx.d,
        subIf (opdIsS ldcx.d && ldcx.guard ≠ Guard.always) 10]) (addrRefs ldcx false) [] ∧ partLanes mem ldcx ≠ 0 ∧ va % 4 = 0 ∧ va < Config.vaLimit ∧
      leaseCause mem mem.cur va .read = none ∧ (match h.2 with | .cause _ => false | .line _ _ | .mmio _ _ | .absent | .peer _ | .pinned => true) = true ∧
      Room h.1 1 [] { newOp h.1 ldcx (.loadC (destOf ldcx.d) 4 0 (acqOf ldcx)) (partLanes mem ldcx) with lanes := 1, addrs := [(0, va)] }) ∧
    (Free mem 0x97 putx (minSub [quadSub mem putx putx.a, srcSub mem putx (.int false false) putx.b, uniSub putx.b, srcSub mem putx (.int false false) putx.c, uniSub putx.c])
        (opdRefs putx.a 4 ++ opdRefs putx.b 1 ++ opdRefs putx.c 1) [] ∧
      putCause mem (d 0 % 8) (d 1) (d 2) (d 3) (readU mem putx putx.c 0) (d 0 / 8) = none ∧
      room putx (.put (d 0 % 8) (d 1) (d 2) (d 3) (readU mem putx putx.c 0) 1) = true) ∧
    (Free mem 0x98 ph none [] [] ∧ room ph (.order (some ph.scope) (acqOf ph)) = true ∧ 2 ≤ ph.ord ∧ Free mem 0x99 op0 none [] [] ∧
      room op0 (.order none none) = true) ∧
    (fs near = true ∧ readU mem near near.b 0 ≠ 0 ∧ addr64 mem near 0 + readU mem near near.b 0 = Config.vaLimit ∧
      room near (.afence (addr64 mem near 0) 1) = true) ∧
    (fs (afx (.s 12) .zero) = true ∧ readU mem (afx (.s 12) .zero) Opd.zero 0 = 0) ∧
    (fs far = true ∧ readU mem far far.b 0 ≠ 0 ∧ Config.vaLimit < addr64 mem far 0 + readU mem far far.b 0) ∧
    (fl (pfl .zero) = true ∧ readU mem (pfl .zero) Opd.zero 0 < mem.nDev ∧ room (pfl .zero) (.pflush 0) = true ∧
      fl (pfl .one) = true ∧ mem.nDev ≤ readU mem (pfl .one) Opd.one 0) ∧
    Free mem 0x9B { ldcx with d := .zero, minor := 0, sel := 0 } (addrSub mem ldcx false) (addrRefs ldcx false) [] := by decide +kernel

/-- A fact of the first operation of the course. -/
def headIs (s : State) (f : Op → Bool) : Bool := match s.cur.ops.head? with | some o => s.cur.ops.find? (fun y => y.seq == o.seq) == some o && f o | none => false
/-- The first operation changed. -/
def headSet (s : State) (f : Op → Op) : State := s.upd (fun c => { c with ops := c.ops.map (fun o => if o.seq = first s then f o else o) })
/-- A `put` that was accepted. -/
def putIn : State := aft (exec (.put { putx with c := .s 16 }) (mem.upd (fun c => { c with s := [(10, 0x100), (11, 16), (16, 0xFFFC)] })))
/-- A dirty line of L2 with a pin that has refused a request or not. -/
def pinned (refused : Bool) : State :=
  { mem with l2 := [{ core := 0, way := 0, asid := 1, addr := 0x14000, tenant := 1, data := 1, valid := 1, dirty := 1, w := true, x := true, k := false, sg := false,
                      peer := none, cls := false, pin := some 3, refusedOnce := refused, sharers := 0, poison := 0, fresh := false }] }
/-- Lane 0 alone loads a word of scratchpad. -/
def one : State := aft (exec (.lds ldsx) { mem.upd (fun c => { c with live := 1 }) with iss := { mem.iss with mask := 1, whole := 1 } })

theorem test_put : (exec (.putLanding 4 (first putIn)) putIn |> aft |> fun t => (t.cur.ops.isEmpty && (curBond t).map (fun b => scratchRead b 0xFFFC 4) == some 1)) = true := by
  decide +kernel

theorem wit_AccessEvents :
    let ld := aft (exec (.ld ldx) mem)
    let at1 := aft (exec (.atom atx) mem)
    let ok (o : Op) : Bool := decide (o.entry ≠ 1 ∧ o.entry ≠ 3 ∧ o.etype ≠ 4)
    headIs ld (fun o => ok o && o.isLoad && !o.isAtomic && o.entry != 2 && o.isAccess) = true ∧
    headIs (headSet ld (fun o => { o with entry := 2 })) (fun o => ok o && o.entry == 2) = true ∧
    headIs putIn (fun o => ok o && o.isAccess && !o.isLoad && !o.isAtomic && o.stage == 1 && opReady putIn putIn.cur o && o.putBond.isSome) = true ∧
    headIs at1 (fun o => ok o && o.isAtomic) = true ∧
    (∀ r ∈ [true, false], (l2Find (pinned r) 1 0x14000).any (fun l => l.pin.isSome && (l.refusedOnce == r)) = true) := by decide +kernel

theorem wit_ScratchLoadReturns : headIs one (fun o => decide (one.cur.ops = [o] ∧ o.kind = .loadS (.vec 3) 4 ∧ o.entry = 4 ∧ o.etype = 0 ∧ o.stage = 0 ∧
    o.peerWait = false ∧ o.parked = none ∧ o.lanes = LaneSet.only 0 ∧ o.all = LaneSet.only 0 ∧ o.got = [] ∧ o.addrs = [(0, 0xFFF8)] ∧ o.ring = one.cur.ring ∧
    one.cur.life = .live ∧ one.cur.stopRing = none ∧ one.cur.pend = [] ∧ one.cur.live.getLsbD 0 = true ∧ Cells.wf one.cur.v = true) &&
    opReady one one.cur o && (curBond one).any (fun b => !scratchPoisoned b 0xFFF8 4)) = true := by decide +kernel

theorem wit_MemoryValues : Cells.wf mem.mem = true ∧ 0x214000 + 4 ≤ 0x214004 ∧ (0xFFFFFFFF : Nat) < 2 ^ (8 * 4) ∧ (2 ^ 64 - 1 : Nat) < 2 ^ (8 * 8) := by decide

/-! ### Barriers, waits and flags -/

/-- `arrive` on barrier 15 with N 1 and N 2, with a release at system scope. -/
def arr (n : Opd) : Ops := op (.s 6) .zero n .zero 0xF00
/-- `barr.add` on barrier 15 of the whole bond. -/
def bar : Ops := op (.v 4) (.imm 5) .zero .zero 0xF10
/-- `waitb` on it with a token in v7. -/
def wtb : Ops := op .zero (.s 4) .zero .zero 0xF00
/-- A token for barrier 15 of a phase. -/
def tok (phase k : Nat) : State := with' (fun c => { c with s := [(4, BitVec.ofNat 32 (phase * 256 + 0xA0 + k))] })
/-- `waitc` on a word of scratchpad, or of memory. -/
def wtc (sp : Bool) : Ops := if sp then opx 0xFFFC .zero .lit .one .zero 0x800 else op .zero (.s 4) .one .zero 0
/-- Waiting for a word of scratchpad to reach 1, or a word of memory. -/
def waits (sp : Bool) (a : Nat) : State := (with' (fun c => { c with wait := some (.waitc sp a 1 0 0x10000 3) }))
/-- The same with 1 in that word of scratchpad. -/
def met : State := { waits true 0xFFFC with bonds := (waits true 0xFFFC).bonds.map (fun b => { b with scratch := [(0xFFFC, 1)] }) }
/-- The same word poisoned instead. -/
def metBad : State := { met with die0 := { met.die0 with tvec2 := 0x30001 }, bonds := met.bonds.map (fun b => { b with spoison := [(0xFFFC / 64, 1)] }) }
/-- After an arrival of a course of two that has not reached its arrival point. -/
def arrived : State := with' (fun c => { c with pend := [] }) |> fun s => { s with
  bonds := s.bonds.map (fun b => { b with courses := 2, arrivals := [{ course := 4, cid := 0, k := 15, desc := { n := 2, all := true, barr := false, op := 0 }, val := 0, scope := 0, seq := 0 }] }) }
/-- A phase with one arrival of N. -/
def phased (n : Nat) : State := { st with bonds := st.bonds.map (fun b =>
  { b with bars := [(15, { phase := 0xFFFFFF, cnt := 1, desc := some { n := n, all := false, barr := false, op := 0 }, arrived := 1, vals := [] })] }) }

/-- The phase counts on modulo 2^24 (R396). -/
theorem test_phase : (findBond (tryComplete (phased 1) 3 15) 3).map (fun b => (getBar b 15).phase) = some 0 := by decide +kernel
/-- The only course of its bond arrives: the token names phase 0 and the barrier, and the phase completes. -/
theorem test_arrive : next (exec (.arrive (arr .one)) st) (fun t => Cells.get t.cur.s 6 == 0xAF && (curBond t).map (fun b => (getBar b 15).phase) == some 1) = true := by decide +kernel
theorem test_barr : next (exec (.barr bar) st) (fun t => t.cur.wait == none && vec t 4 1 == 5) = true := by decide +kernel
theorem test_waitb : next (exec (.waitb wtb) (tok 0 15)) (fun t => t.cur.wait == some (.waitb 15 0 0)) = true := by decide +kernel
/-- A token of another barrier takes class 10, sub-code 2 (R401). -/
theorem test_waitb_other : exec (.waitb wtb) (tok 0 14) = .next (raise (tok 0 14) 0xA2 3 0x10000 0 0) := by rfl
theorem test_waitc : next (exec (.waitc (wtc true)) st) (fun t => t.cur.wait == some (.waitc true 0xFFFC 1 0 0x10000 3)) = true := by decide +kernel
theorem test_waitc_reread : next (exec (.waitcReread 4) met) (fun t => t.cur.wait == none) = true := by decide +kernel
/-- A poisoned word traps the course at the `waitc`, which is to be executed again (R436). -/
theorem test_waitc_poisoned : next (exec (.waitcReread 4) metBad) (fun t => t.cur.wait == none && t.cur.pcOf 0 == 0x10000 &&
    t.cur.stopRing == some 2 && t.die0.list2.map (fun r => r.cause) == [0x150]) = true := by decide +kernel
theorem test_waitf : next (exec (.waitf (mk 0xFFF)) st) (fun t => t.cur.pcOf 0 == 0x10008) = true := by decide +kernel
theorem test_fcnt : next (exec (.fcnt (op (.v 4) .zero .zero .zero 11)) (with' (fun c => { c with flags := [(11, 255)] }))) (fun t => vec t 4 1 == 255) = true := by
  decide +kernel
/-- Phase 0xFFFFFF, open, one arrival. -/
theorem test_bstat : next (exec (.bstat (op (.v 4) .zero .zero .zero 15)) (phased 2)) (fun t => vec t 4 1 == 0xFFFFFF81) = true := by decide +kernel

theorem wit_BarrierResults :
    let o (s : State) (x : Ops) : Op := { newOp s x (.order none none) 0 with flags := 0 }
    let rel (s : State) (x : Ops) : List Op := if barScope x = 0 then [] else [{ newOp s x (.order (some (barScope x)) none) s.iss.mask with flags := 0 }]
    let w (s : State) : Bool := decide (Free s 0xB1 wtb (minSub [srcSub s wtb (.int false false) wtb.a, subIf (!opdIsS wtb.a) 12]) (opdRefs wtb.a 1) [])
    let later1 (s : State) (b : Bond) : Nat := ((getBar b 15).phase + 2 ^ 24 - readU s wtb wtb.a 0 / 256) % 2 ^ 24
    let bond (s : State) (f : Bond → Bool) : Bool := (curBond s).any f
    (∀ x ∈ [arr .one], bond st (fun _ => true) = true ∧ Free st 0xB0 x (minSub [nSub st x, dstSub st.cur x 1 x.d, subIf (opdPushes x.d) 12]) (opdRefs x.b 1) (opdRefs x.d 1) ∧
      arriveCause st 15 { n := barN st x, all := x.bit 4, barr := false, op := 0 } = none ∧ Room st 1 (rel st x) (o st x)) ∧
    (Free st 0xB2 bar (minSub [nSub st bar, srcSub st bar (.int false false) bar.a, uniSub bar.a, dstSub st.cur bar 1 bar.d]) (opdRefs bar.a 1 ++ []) [] ∧
      arriveCause st 15 { n := barN st bar, all := true, barr := true, op := bar.low4 } = none ∧ Room st 1 (rel st bar) (o st bar)) ∧
    (w (tok 0 15) = true ∧ readU (tok 0 15) wtb wtb.a 0 % 256 = 0xAF ∧ bond (tok 0 15) (fun b => (getBar b 15).phase == 0) = true) ∧
    (w (tok 0xFFFFFF 15) = true ∧ bond (tok 0xFFFFFF 15) (fun b => later1 (tok 0xFFFFFF 15) b == 1) = true ∧
      Room (tok 0xFFFFFF 15) 1 [] { newOp (tok 0xFFFFFF 15) wtb (.order none (some (barScope wtb))) 3 with flags := 0 }) ∧
    (w (tok 0 14) = true ∧ readU (tok 0 14) wtb wtb.a 0 % 256 ≠ 0xAF) ∧
    (w (tok 0x800001 15) = true ∧ bond (tok 0x800001 15) (fun b => later1 (tok 0x800001 15) b == 2 ^ 23 - 1) = true) ∧
    (w (tok 0x800000 15) = true ∧ bond (tok 0x800000 15) (fun b => later1 (tok 0x800000 15) b == 2 ^ 23) = true) := by decide +kernel

theorem wit_PhaseCompletes : ∀ p ∈ [(1, true), (2, false)], (findBond (phased p.1) 3).any (fun b => (getBar b 15).desc.any (fun d =>
    decide ((getBar b 15).cnt + exitCredit b (getBar b 15) = d.n) == p.2)) = true := by decide +kernel

theorem wit_WaitsOnCountersAndFlags :
    let w (s : State) (x : Ops) (sp : Bool) : Bool := decide (Free s 0xB3 x (minSub [addrSub s x sp, uniSub x.a, uniSub x.c, srcSub s x (.int false false) x.b, uniSub x.b])
      (addrRefs x sp ++ opdRefs x.b 1) [])
    let h := probe sj sj.cur.acc sj.cur.site 0x20000 .read
    (w st (wtc true) true = true ∧ addr32 st (wtc true) 0 % 4 = 0 ∧ addr32 st (wtc true) 0 + 4 = scratchSize st) ∧
    (w sj (wtc false) false = true ∧ addr64 sj (wtc false) 0 = 0x20000 ∧ leaseCause sj sj.cur 0x20000 .read = none ∧
      (match h.2 with | .cause _ => false | .line _ _ | .mmio _ _ | .absent | .peer _ | .pinned => true) = true) ∧
    (Free st 0xB4 (mk 0xFFF) none [] [] ∧ flagsClear st.cur (mk 0xFFF).minor = true) ∧
    (met.cur.waitBelow = none ∧ (curBond met).any (fun b => counterMet (scratchRead b 0xFFFC 4) 1) = true) ∧
    ((curBond metBad).any (fun b => scratchPoisoned b 0xFFFC 4) = true ∧ metBad.cur.stopRing = none ∧ readRows metBad metBad.cur.bond 0xFFFC 4 = metBad) ∧
    ((curBond met).any (fun b => !scratchPoisoned b 0xFFFC 4) = true ∧ (curBond (waits true 0)).any (fun b => !scratchPoisoned b 0 4) = true) ∧
    ((curBond (waits true 0)).any (fun b => !counterMet (scratchRead b 0 4) 1) = true) ∧ (waits false 0x20000).cur.waitBelow = none ∧
    (curBond arrived).any (fun b => (b.arrivals.find? (fun a => a.course == 4 && arrivalReady arrived a)).isSome) = true ∧ (2 ^ 31 - 1 : Nat) < 2 ^ 31 := by decide +kernel

theorem wit_FlagAndBarrierReads :
    let f := op (.v 4) .zero .zero .zero 11
    Free st 0xB5 f (dstSub st.cur f 1 f.d) [] (opdRefs f.d 1) ∧ (curBond st).isSome = true ∧ Free st 0xB6 f (dstSub st.cur f 1 f.d) [] (opdRefs f.d 1) := by decide +kernel

/-! ### Matrix -/

/-- A bond of 16-bit floats in both planes, no command queued. -/
def mx : State := { st with bonds := st.bonds.map (fun b => { b with active := { b.active with rcd := { valid := true, fb := 2, fa := 2, sb := false } } }) }
/-- A fact of the course's bond. -/
def inBond (s : State) (f : Bond → Bool) : Bool := (curBond s).any f
/-- An array instruction with base A, operand B and offset C. -/
def mo (a b : Opd) (minor : BitVec 12) : Ops := op .zero a b .zero minor
/-- One with a literal. -/
def ml (w : Word) (a b c : Opd) (minor : BitVec 12) : Ops := opx w .zero a b c minor
/-- `mxz` of tile 3, and of all. -/
def mz (all : Bool) : Ops := mo .zero .zero (if all then 0x010 else 0x00C)
/-- The last row of tile 3. -/
def tile (d a : Opd) : Ops := opx 63 d a .lit .zero 0x00C
/-- After `mxz` in a bond of ones. -/
def zeroed (all : Bool) : State := aft (exec (.mxz (mz all)) { st with bonds := st.bonds.map (fun b => { b with tiles := [(0, 1), (12288, 1), (16383, 1)] }) })
/-- The first command of a queue starts, and completes. -/
def ran (s : State) : State :=
  match (curBond s).bind (fun b => b.queue.head?) with
  | some q => let t := aft (exec (.arrayCommandStart 3 q.id) s); aft (exec (.arrayCommandCompletion 3 q.id) t)
  | none => s

theorem test_mxz : (inBond (ran (zeroed false)) (fun b => Cells.get b.tiles 0 == 1 && Cells.get b.tiles 12288 == 0 && b.queue.isEmpty) &&
    inBond (ran (zeroed true)) (fun b => Cells.get b.tiles 0 == 0)) = true := by decide +kernel
theorem test_mxsw : inBond (ran (aft (exec (.mxsw op0) mx))) (fun b => b.shadow.rcd.valid && !b.active.rcd.valid) = true := by decide +kernel
theorem test_mxld : inBond (aft (exec (.mxld (mo .zero .zero 0x220)) mx)) (fun b => b.queue.map (fun q => (q.maj, q.rcd.fb)) == [(0xC0, 2)]) = true := by decide +kernel
/-- An offset that is no multiple of 16 (R293). -/
theorem test_mxst_misaligned : exec (.mxst (mo .one .one 0)) mx = .next (raise mx 0x34 3 0x10000 0 0) := by rfl
/-- 65 rows (R293). -/
theorem test_mxst_rows : exec (.mxst (ml 65 .zero .lit .zero 0)) mx = .next (raise mx 0xC3 3 0x10000 0 0) := by rfl
theorem test_mxrd_mxwr : (let t := aft (exec (.mxwr (tile .zero (.v 1))) st); next (exec (.mxrd (tile (.v 4) .zero)) { t with iss := iss }) (fun u => vec u 4 1 == 7)) = true := by
  decide +kernel

theorem wit_ArrayCommands :
    let ad (s : State) (maj : Nat) (x : Ops) : Bool := decide (Free s maj x (matAddr s x) (matRefs x) [])
    let two (s : State) (maj : Nat) (x : Ops) : Bool := decide (Free s maj x (minSub [matAddr s x, uniOpd s x x.b]) (matRefs x ++ opdRefs x.b 1) [])
    let room (s : State) (x : Ops) : Bool := inBond s (fun b => decide (b.queue.length < 16 ∧ (s.cur.harvest = true → s.cur.rgnOpen = true) ∧
      Room s 1 [] { newOp s x (.array 0) (if flagsOf s x = 0 then 0 else s.iss.mask) with flags := flagsOf s x }))
    let rng (s : State) (x : Ops) (q : ArrCmd) : Bool := inBond s (fun b => rangeSub b q [addr32 s x 0] == none)
    let plain (x : Ops) (maj : Nat) : ArrCmd := { newCmd mx x maj with base := addr32 mx x 0, arg := readU mx x x.b 0 }
    let a1 := mo .zero .zero 0x000
    let a2 := mo .zero .zero 0x338
    let m1 := mo .zero .one 0x24C
    let m2 := ml 64 .zero .lit .zero 0x200
    let q1 := ml 0x8000 .zero .lit (.imm 16) 0x030
    let qc : ArrCmd := { newCmd mx q1 0xC7 with base := readU mx q1 q1.a 0, dest := readU mx q1 q1.b 0, arg := readU mx q1 q1.c 0 }
    let t1 := ml 64 .zero .lit .zero 0x000
    let t2 := mo .zero .one 0x88C
    (∀ x ∈ [a1, a2], room mx x = true ∧ ad mx 0xC0 x = true ∧ pairOk x.mid4 x.hi4 = true ∧ (x.bit 3 = true → takesScale x.hi4 = true) ∧
      rng mx x { newCmd mx x 0xC0 with base := addr32 mx x 0, rcd := { valid := true, fb := x.hi4, fa := x.mid4, sb := x.bit 3 } } = true) ∧
    Free mx 0xC1 op0 none [] [] ∧ room mx op0 = true ∧
    (∀ x ∈ [m1, m2], room mx x = true ∧ two mx 0xC2 x = true ∧ 1 ≤ readU mx x x.b 0 ∧ readU mx x x.b 0 ≤ 64 ∧ x.bit 7 = false ∧ x.field 4 2 = 0 ∧ mx.cur.rgnOpen = false ∧
      inBond mx (fun b => (recordsAfter b.queue (some b.active.rcd) (some b.shadow.rcd)).1.any (fun r => r.valid && r.fa == x.hi4 &&
        rangeSub b { newCmd mx x 0xC2 with base := addr32 mx x 0, arg := readU mx x x.b 0, rcd := r } [addr32 mx x 0] == none)) = true) ∧
    (∀ z ∈ [true, false], Free mx 0xC3 (mz z) none [] [] ∧ room mx (mz z) = true) ∧
    (room mx m2 = true ∧ two mx 0xC6 { m2 with minor := 0x000 } = true ∧ rng mx m2 (plain m2 0xC6) = true) ∧
    (room mx q1 = true ∧ Free mx 0xC7 q1 (minSub [uniOpd mx q1 q1.a, uniOpd mx q1 q1.b, uniOpd mx q1 q1.c]) (opdRefs q1.a 1 ++ opdRefs q1.b 1 ++ opdRefs q1.c 1) [] ∧
      inBond mx (fun b => rangeSub b qc [qc.base, qc.dest] == none &&
        (match cmdRanges b qc with | [r, w] => !meets r.1 r.2.1 w.1 w.2.1 | _ => true)) = true) ∧
    (∀ x ∈ [t1, t2], room mx x = true ∧ two mx 0xC8 x = true ∧ 1 ≤ readU mx x x.b 0 ∧ readU mx x x.b 0 ≤ 64 ∧ (x.bit 7 = true → x.hi4 ≠ 3 ∧ x.hi4 ≠ 4) ∧ rng mx x (plain x 0xC8) = true) ∧
    (∀ x ∈ [mo .zero .zero 0, mo .zero .zero 5], ad mx 0xC9 x = true ∧ ad mx 0xCA x = true ∧ room mx x = true ∧
      rng mx x { newCmd mx x 0xC9 with base := addr32 mx x 0 } = true ∧
      rng mx x { newCmd mx x 0xCA with base := addr32 mx x 0 } = true) := by decide +kernel

theorem wit_TileAccess :
    let r := tile (.v 4) .zero
    let w := tile .zero (.v 1)
    inBond st (fun b => rowSub st r b 3 (readU st r r.b 0) == none && rowSub st w b 3 (readU st w w.b 0) == none && !tileBusy b 3 && b.tpoison == [] && Cells.wf b.tiles) = true ∧
    Free st 0xC4 r (minSub [uniOpd st r r.b, dstSub st.cur r 1 r.d, subIf (opdIsS r.d) 14]) (opdRefs r.b 1) (opdRefs r.d 1) ∧
    Free st 0xC5 w (minSub [uniOpd st w w.b, srcSub st w (.int false false) w.a]) (opdRefs w.b 1 ++ opdRefs w.a 1) [] ∧ lanes st w = [0, 1] := by decide +kernel

theorem wit_ArrayEvents :
    let q (s : State) (f : Bond → ArrCmd → Bool) : Bool := inBond s (fun b => b.queue.head?.any (fun q => findBond s b.id == some b && b.queue.find? (fun y => y.id == q.id) == some q && f b q))
    let still : State := { zeroed false with bonds := (zeroed false).bonds.map (fun b => { b with queue := b.queue.map (fun q => { q with started := false }) }) }
    let started := zeroed false
    q still (fun b q => cmdCanStart still b q && q.maj == 0xC3 && q.f 4 1 == 0 && Cells.wf b.tiles) = true ∧
    q (zeroed true) (fun _ q => q.f 4 1 == 1) = true ∧ q started (fun b q => q.started && !cmdCanStart started b q) = true ∧
    q (aft (exec (.mxsw op0) mx)) (fun _ q => q.maj == 0xC1) = true := by decide +kernel

/-- One row: 1.0 times 2.0 is 2.0 in the first column, and 0 in the next (R290). -/
theorem test_mxm : inBond (ran (aft (exec (.mxm (mo .zero .one 0x040)) { st with bonds := st.bonds.map (fun b =>
    { b with scratch := [(2, 0x80), (3, 0x3F)], tiles := [(0, 5), (1, 5)],
             active := { b.active with rcd := { valid := true, fb := 0, fa := 0, sb := false }, slots := [(0, 0x40000000)] } }) })))
    (fun b => Cells.get b.tiles 0 == 0x40000000 && Cells.get b.tiles 1 == 0) = true := by decide +kernel
/-- The transform of a row with one element that is not zero (R294): the elements are equal. -/
theorem test_had : inBond (ran (aft (exec (.had (mo .zero .one 0x000)) { st with bonds := st.bonds.map (fun b => { b with scratch := [(2, 0x80), (3, 0x3F)] }) })))
    (fun b => scratchRead b 0 4 == scratchRead b 4 4 && scratchRead b 0 4 != 0) = true := by decide +kernel

/-! ### Spans and leases -/

/-- A 128-byte span record (R304): entry 0x10000, one pier, bond and course, 8 registers, lease 0, its counter and its status word. -/
def spanRec : Nat := 0x10000 + 2 ^ (8 * 0x19) + 2 ^ (8 * 0x1A) + 2 ^ (8 * 0x1B) + 0x12000 * 2 ^ (8 * 0x38) + 0x12008 * 2 ^ (8 * 0x40)
/-- Queue 15 of partition 1, of 16 records, with so many in it. -/
def queue (susp : Bool) (tail : Word) : Queue :=
  { tenant := 1, loc := 0, q := 15, en := true, susp := susp, prio := 0, logDepth := 4, home := 0, base := 0x15000, head := 0, tail := tail }
/-- A device with that queue, one quoin of the partition, and lease 0 granted over the page and in use by so many spans. The scratchpad holds a request for
one range. -/
def dq (susp : Bool) (tail : Word) (spans : Nat) : State := { mem with
  queues := [queue susp tail]
  quoins := [{ qid := 0, en := true, fenced := false, owner := 1, owned := true, resv := false, lessee := 0, gseg := 0, vacating := none }]
  leases := [{ tenant := 1, ix := 0, state := 1, asid := 1, gen := 0, spans := spans, ranges := [(6, 32)] }]
  bonds := mem.bonds.map (fun b => { b with scratch := [(0, 1), (16, 2), (18, 2), (24, 1)] }) }
/-- `enq s6, [s4], 15` and the leases with a result in s6. -/
def enqx : Ops := op (.s 6) (.s 4) (.imm 15) .zero 0 1
def reqx : Ops := op (.s 6) .zero .zero .zero 0 1
def relx (h : Opd) : Ops := op (.s 6) .zero h .zero 0x400 1
def qryx (h : Opd) : Ops := op (.s 6) .zero h .zero 0x800 1
/-- The first operation's lease step, or its record taken. -/
def leased (t : State) : State := aft (exec (.leaseStep t.cur.id (first t)) t)

/-- The last queue number that a record names is taken; 16 is not (R310). -/
theorem test_enq : (headIs (aft (exec (.enq enqx) (dq false 0 0))) (fun o => o.kind == .enq (.scl 6) 0x14000 15)) = true := by decide +kernel
theorem test_lease_req : (headIs (aft (exec (.leaseReq reqx) (dq false 0 0))) (fun o => o.kind == .lease (.scl 6) 0 0 [(0x20002, 1)])) = true := by decide +kernel
/-- A lease that a span uses answers 1, and an unknown one 2 (R377). -/
theorem test_lease_rel : (let a := leased (aft (exec (.leaseRel (relx .zero)) (dq false 0 1))); let b := leased (aft (exec (.leaseRel (relx .one)) (dq false 0 1)))
    Cells.get a.cur.s 6 == 1 && Cells.get b.cur.s 6 == 2) = true := by decide +kernel
theorem test_lease_qry : (let a := leased (aft (exec (.leaseQry (qryx .zero)) (dq false 0 1))); Cells.get a.cur.s 6 == 1) = true := by decide +kernel

theorem wit_DispatchCommands :
    let s := dq false 0 0
    let h := probe s s.cur.acc s.cur.site 0x14000 .read
    let one (x : Ops) (form : Nat) (rs : List (Nat × Nat)) : Op := { newOp s x (.lease (destOf x.d) form (readU s x x.b 0) rs) s.iss.mask with lanes := 1 }
    (Free s 0xD0 enqx (minSub [statusDst s enqx, addrSub s enqx false, uniSub enqx.a, uniSub enqx.c, srcSub s enqx (.int false false) enqx.b, uniSub enqx.b])
        (addrRefs enqx false ++ opdRefs enqx.b 1) [] ∧ s.cur.rgnOpen = false ∧ readU s enqx enqx.b 0 = 15 ∧ queueOn s s.cur.tenant 15 = true ∧
      addr64 s enqx 0 = 0x14000 ∧ 0x14000 % 128 = 0 ∧ leaseCause s s.cur 0x14000 .read = none ∧
      (match h.2 with | .cause _ => false | .line _ _ | .mmio _ _ | .absent | .peer _ | .pinned => true) = true ∧
      Room h.1 1 [{ newOp h.1 enqx (.order (some 5) none) h.1.iss.mask with flags := 0 }] { newOp h.1 enqx (.enq (destOf enqx.d) 0x14000 15) h.1.iss.mask with lanes := 1, addrs := [(0, 0x14000)] }) ∧
    (Free s 0xD1 reqx (minSub [statusDst s reqx, minSub [addrSub s reqx true, uniSub reqx.a, uniSub reqx.c]]) (addrRefs reqx true) [] ∧
      blockHeld s 0 144 = false ∧ readRows s s.cur.bond 0 144 = s ∧ requestOut s 0 = false ∧ blockBad s 0 32 = false ∧ requestSub s 0 = none ∧ addr32 s reqx 0 = 0 ∧ Room s 1 [] (one reqx 0 [(0x20002, 1)])) ∧
    (∀ x ∈ [relx .zero, qryx .one], Free s 0xD1 x (minSub [statusDst s x, minSub [srcSub s x (.int false false) x.b, uniSub x.b]]) (opdRefs x.b 1) [] ∧
      Room s 1 [] (one x 1 []) ∧ Room s 1 [] (one x 2 [])) := by decide +kernel

theorem wit_DispatchEvents :
    let ok (s : State) (f : Op → Bool) : Bool := headIs s (fun o => decide (o.entry ≠ 1 ∧ o.entry ≠ 3 ∧ o.etype ≠ 4) && opReady s s.cur o && f o)
    let s := dq false 0 0
    let sub (q : Queue) (v : Nat) : Option Nat := recordSub s 1 q v
    ok (aft (exec (.enq enqx) s)) (fun o => o.kind == .enq (.scl 6) 0x14000 15 && !o.peerWait && o.parked.isNone) = true ∧
    ok (aft (exec (.leaseQry (qryx .one)) s)) (fun o => o.kind == .lease (.scl 6) 2 1 [] && o.stage == 0) = true ∧
    ok (aft (exec (.leaseRel (relx .one)) s)) (fun o => o.kind == .lease (.scl 6) 1 1 []) = true ∧ leaseNamed s 1 1 = false ∧
    ok (aft (exec (.leaseRel (relx .zero)) (dq false 0 1))) (fun o => o.kind == .lease (.scl 6) 1 0 []) = true ∧ leaseNamed (dq false 0 1) 1 0 = true ∧
    (leaseAt (dq false 0 1) 1 0).spans ≠ 0 ∧
    (∀ q ∈ [queue true 0, queue false 16, queue false 15], sub q spanRec = none) ∧ sub (queue false 0) 0 = some 2 ∧
    (∀ s ∈ [dq true 0 0, dq false 16 0, dq false 15 0], (findQueue s 1 15).any (fun q => q.en) = true) ∧
    ((queue false 16).tail - (queue false 16).head).toNat = 2 ^ (queue false 16).logDepth ∧ ((queue false 15).tail - (queue false 15).head).toNat ≠ 2 ^ 4 := by
  decide +kernel

/-! ### Engines -/

/-- A map of one dimension, not split, of 16 elements of four bytes (R344). -/
def lmap : Nat := 1 + 2 * 2 ^ 8 + 2 ^ 24 + 2 ^ 40 + 16 * 2 ^ 64
/-- A device whose scratchpad begins with a command block, with that map at 0x14000 and at 0x14040. -/
def eng (v : Nat) : State := { mem.upd (fun c => { c with ring := 2 }) with
  bonds := mem.bonds.map (fun b => { b with scratch := writeNum [] 0 64 v }), mem := writeNum [] 0x214000 128 (lmap + lmap * 2 ^ 512) }
/-- A block of a control word and the fields from 0x10 on. -/
def blk (ctl : Nat) (fs : List (Nat × Nat)) : Nat := ctl + (fs.map (fun f => f.2 * 2 ^ (8 * f.1))).sum
/-- From scratchpad 0x1000 to its last 4,096 bytes. -/
def cpyV : Nat := blk 0xC [(0x10, 0x1000), (0x18, 0xF000), (0x20, 0x1000), (0x24, 1)]
def xchV : Nat := blk 0 [(0x10, 0x16000), (0x18, 0x17000), (0x20, 0x14000), (0x28, 0x14040), (0x30, 0xFFFF)]
def xredV : Nat := blk 0 [(0x10, 0x16000), (0x18, 0x17000), (0x20, 1), (0x24, 0xFFFF), (0x26, 1), (0x29, 2), (0x2A, 2)]
/-- One byte, the last of the address space, and the digest at its end. -/
def hashV : Nat := blk 0 [(0x10, Config.vaLimit - 1), (0x18, 1), (0x20, Config.vaLimit - 48), (0x28, 1)]
def sigvV : Nat := blk 0 [(0x10, Config.vaLimit - 48), (0x18, Config.vaLimit - 96), (0x20, 0)]
/-- The last frame. -/
def scrubV : Nat := blk 0 [(0x10, 524287), (0x18, 1)]
/-- An engine command with a status in s6, its block at 0. -/
def ex : Ops := op (.s 6) .zero .zero .zero 0 1
/-- The first operation's command goes on as often as the number says, then completes. -/
def gone (k : Nat) (t : State) : State :=
  let n := first t
  aft (exec (.engineCommandCompletion 4 n) ((List.range k).foldl (fun t _ => aft (exec (.engineCommandStart 4 n) t)) t))
/-- An engine command was taken. -/
def takes (maj : Nat) (o : Out) : Bool := headIs (aft o) (fun o => o.isEngine && (match o.kind with | .engine _ m _ _ _ _ _ => m == maj | _ => false))

theorem test_cpy : takes 0xD2 (exec (.cpy ex) (eng cpyV)) = true := by decide +kernel
theorem test_xch : takes 0xD3 (exec (.xch ex) (eng xchV)) = true := by decide +kernel
theorem test_xred : takes 0xD4 (exec (.xred ex) (eng xredV)) = true := by decide +kernel
theorem test_hash : takes 0xD5 (exec (.hash ex) (eng hashV)) = true := by decide +kernel
theorem test_sigv : takes 0xD6 (exec (.sigv ex) (eng sigvV)) = true := by decide +kernel
theorem test_scrub : takes 0xD7 (exec (.scrub ex) (eng scrubV)) = true := by decide +kernel
/-- A copy of one row of 16 bytes within scratchpad, with its status 0 (R338). -/
theorem test_cpy_done : (let t := gone 2 (aft (exec (.cpy ex) (eng (blk 0xC [(0x18, 0x100), (0x20, 16), (0x24, 1)]))))
    (curBond t).map (fun b => scratchRead b 0x100 4) == some 0xC && Cells.get t.cur.s 6 == 0 && t.cur.ops.isEmpty) = true := by decide +kernel

theorem wit_EngineCommands :
    let ready (maj v : Nat) : Bool := decide (BlockReady (eng v) ex maj v) && !headerBad (eng v) v
    let room (s : State) (maj : Nat) (b : List Byte) : Bool := decide (EngineRoom s ex maj b)
    let ok (maj v : Nat) : Bool := ready maj v && room (eng v) maj (bytesOf 64 v) && !blockCounts v
    let c := eng cpyV
    let x := eng xchV
    let t := readMap x 0x14000 false
    let u := readMap t.1 0x14040 false
    let r := eng xredV
    (ok 0xD2 cpyV = true ∧ minSub (copySubs (scratchSize c) cpyV) = none ∧ (copyRanges (copyOf cpyV)).any (fun r => behindCopy c c.cur.id c.cur.nextOp
        { space := .scr c.cur.bond, lo := r.1, len := r.2.1, write := r.2.2 }) = false ∧ inBond c (fun b => !rangesFull c b (copyOf cpyV)) = true) ∧
    (ready 0xD3 xchV = true ∧ tailBad xchV 0x32 = false ∧ tagHeld x (vfOfAsid x x.cur.asid) (xtagOf 0xD3 xchV) = false ∧ t.2.toOption = some lmap ∧ u.2.toOption = some lmap ∧
      minSub (xchSubs u.1 xchV lmap lmap ++ [subIf (tagHeld u.1 (vfOfAsid u.1 u.1.cur.asid) (xtagOf 0xD3 xchV)) 0xE6, subIf u.1.cur.rgnOpen 0x103]) = none ∧
      tagsFull u.1 (vfOfAsid u.1 u.1.cur.asid) = false ∧ room u.1 0xD3 (bytesOf 64 xchV ++ bytesOf 64 lmap ++ bytesOf 64 lmap) = true) ∧
    (ok 0xD4 xredV = true ∧ minSub (redSubs r xredV) = none ∧ tagHeld r (vfOfAsid r r.cur.asid) (xtagOf 0xD4 xredV) = false ∧ tagsFull r (vfOfAsid r r.cur.asid) = false) ∧
    (ok 0xD5 hashV = true ∧ tailBad hashV 0x29 = false ∧ fieldAt hashV 0x10 8 + fieldAt hashV 0x18 8 = Config.vaLimit ∧ fieldAt hashV 0x20 8 % 16 = 0 ∧
      fieldAt hashV 0x20 8 + 48 = Config.vaLimit ∧ fieldAt hashV 0x28 1 = 1) ∧
    (ok 0xD6 sigvV = true ∧ tailBad sigvV 0x28 = false ∧ (∀ p ∈ [(0x10, 48), (0x18, 96), (0x20, 96)], fieldAt sigvV p.1 8 % 16 = 0 ∧ fieldAt sigvV p.1 8 + p.2 ≤ Config.vaLimit)) ∧
    (ok 0xD7 scrubV = true ∧ tailBad scrubV 0x1C = false ∧ fieldAt scrubV 0x18 4 = 1 ∧ fieldAt scrubV 0x10 8 + fieldAt scrubV 0x18 4 = 524288 ∧
      scrubbable (eng scrubV) 524287 = true ∧ (eng scrubV).cur.ring = 2 ∧ (eng scrubV).cur.rgnOpen = false) := by decide +kernel

theorem wit_EngineEvents :
    let ok (o : Op) : Bool := decide (o.entry ≠ 1 ∧ o.entry ≠ 3 ∧ o.etype ≠ 4)
    let c := aft (exec (.cpy ex) (eng cpyV))
    let f := addFetch mem 3 0x20000 true false none
    let ld := aft (exec (.ld ldx) mem)
    headIs c (fun o => ok o && o.isEngine) = true ∧ headIs (headSet c (fun o => { o with refused := true })) (fun o => ok o && o.isEngine && o.refused && o.stage == 0) = true ∧
    headIs (headSet ld (fun o => { o with refused := true })) (fun o => ok o && o.isLoad && o.refused) = true ∧
    headIs (headSet f (fun o => { o with refused := true })) (fun o => ok o && o.isFetch && o.refused) = true ∧ Cells.wf mem.mem = true := by decide +kernel

/-! ### Links -/

/-- An active VF of partition 1, its window on the page at 0. -/
def vf1 : Vf := { vf := 1, state := 1, tenant := 1, asid := 1, winPages := 1, winBase := 0, cpage := 0x16000, ide := 0, ideReq := false, tdi := 0, drained := false }
/-- A device of two with a port to the other one, a VF, and lease 0 over the page. -/
def lk : State := { dq false 0 0 with nDev := 2, vfs := [vf1], ports := [{ port := 0, peer := 1, en := true, up := true, seq := 4095, replays := 14 }], iss := mem.iss }
/-- A packet of the other device about the line at 0x14000, and its first four bytes. -/
def pk (opc : Byte) (vf status : Nat) : Packet :=
  { opc := opc, src := 1, dst := 0, vf := vf, cls := false, rly := false, status := status, tag := 7, poison := 0, psn := 0, laddr := 0x14000 / 128, mask := 0xF,
    data := bytesOf 128 9 }
/-- An atomic add of 9 to the first word that asks for the old value. -/
def am : Packet := { pk 6 1 0 with mask := 0x1000 }
/-- Requests of the course's first operation that are outstanding. -/
def asked (s : State) : State := { s with reqs := [1, 6, 8].map (fun k => { tag := 7, dev := 1, opc := k, who := .op 4 (first s) 0 }) }
/-- An exchange command with tag 7 whose check is that of the packet, closed or not. -/
def tagged (closed : Bool) (chk : Nat) : State := { lk with tags := [{ newTag 1 7 with owner := some (4, 0), check := chk, closed := closed }] }
/-- A gang span of this device, its key 1, and its gang. -/
def gang (freed : Bool) (dec : Nat) : State := { lk with
  spans := lk.spans.map (fun x => { x with rcd := { x.rcd with gang := true } }), gangs := [{ key := 1, arrived := true, ready := 0, decision := dec, freed := freed }] }
/-- Bytes that were sent last. -/
def sentData (t : State) : Option (Nat × Nat × Nat) := t.tx.getLast?.map (fun p => (p.opc.toNat, p.status, numOf (p.data.take 4)))

/-- The line is answered with RDR, STATUS 0 (R453). -/
theorem test_rd : next (exec (.rd (pk 1 1 0)) lk) (fun t => sentData t == some (2, 0, 0x2A)) = true := by decide +kernel
/-- A VF that is not active answers STATUS 1 (R453). -/
theorem test_rd_vf : next (exec (.rd (pk 1 2 0)) lk) (fun t => sentData t == some (2, 1, 0)) = true := by decide +kernel
/-- The four bytes of the mask are written, the others stay. -/
theorem test_wr : next (exec (.rd { pk 1 1 0 with psn := 1 }) (aft (exec (.wr { pk 3 1 0 with data := bytesOf 128 (9 + 2 ^ 33) }) lk))) (fun t =>
    (t.tx.getLast?.map (fun p => numOf (p.data.take 8))) == some (9 + 0x2B * 2 ^ 32)) = true := by decide +kernel
theorem test_atm : next (exec (.atm am) lk) (fun t => sentData t == some (7, 0, 0x2A)) = true := by decide +kernel
theorem test_frd : next (exec (.frd { pk 8 1 0 with laddr := 0 }) lk) (fun t => sentData t == some (9, 0, 0)) = true := by decide +kernel

theorem wit_PeerRequests :
    let served (vf : Nat) : Option Acc := (serveAs (counted lk (pk 1 vf 0)) vf false).toOption
    let u := counted lk (pk 1 1 0)
    let a : Acc := { core := none, asid := 1, tenant := 1, ring := 0, harvest := false }
    let line (h : HRes) (f : Line → Bool) : Bool := match h with | .line l _ => f l | .cause _ | .mmio _ _ | .absent | .peer _ | .pinned => false
    (∀ p ∈ [pk 1 1 0, pk 3 2 0, am], Expected lk p) ∧ served 1 = some a ∧ served 2 = none ∧ served 0 = none ∧
    (am.opc = 6 ∧ u.refusedRx.any (fun q => q.laddr == (pk 1 1 0).laddr && q.vf == 1 && q.src == 1) = false) ∧
    line (homeGet u a 0x14000 .read).2 (fun _ => true) = true ∧ leaseRefuses u 1 a 0x14000 = false ∧ (performWr u a 0x14000 (pk 3 1 0)).2 = .performed ∧
    line (homeLoad u a 0x14000 4 .write).2.1 (fun l => !poisonOf l.poison 0 4) = true ∧ atomWrites 0 4 0x2A 9 = true ∧
    (homeGet (pinned true) { a with core := none } 0x14000 .read).2 = .pinned ∧ { u with refusedRx := [pk 1 1 0] }.refusedRx.any (fun q => q.laddr == am.laddr) = true ∧
    leaseRefuses { u with leases := [] } 1 a 0x14000 = true := by decide +kernel

theorem test_rdr : (let t := aft (exec (.ldc ldcx) lk); next (exec (.rdr (pk 2 1 0)) (asked t)) (fun u => u.reqs.length == 2)) = true := by decide +kernel
/-- The old value goes to its lane. -/
theorem test_atmr : (let t := headSet (aft (exec (.atom atx) lk)) (fun o => { o with peerWait := true, lanes := 1, all := 1 })
    next (exec (.atmr (pk 7 1 0)) { asked t with reqs := (asked t).reqs.filter (fun r => r.opc == 6) }) (fun u => vec u 3 0 == 9 && u.cur.ops.isEmpty)) = true := by decide +kernel

theorem wit_PeerReplies :
    let t := aft (exec (.atom atx) lk)
    let s := asked t
    let u := counted s (pk 2 1 0)
    let ok (p : Packet) : Bool := decide (Expected s p ∧ p.status = 0 ∧ p.poison = 0)
    ok (pk 2 1 0) = true ∧ headIs s (fun o => o.seq == first t && decide (o.dest ≠ .none)) = true ∧ (∀ k ∈ [1, 6, 8], (findReq u (pk 2 1 0) k).isSome = true ∧
      findReq { u with reqs := [] } (pk 2 1 0) k = none) ∧ replyDropped u 1 = false ∧ replyDropped { u with vfs := [{ vf1 with state := 2 }] } 1 = true ∧
    awaits { u with reqs := [] } 4 (first t) = false := by decide +kernel

/-- The coordinator holds a member's ready message; a member that is released goes on (R55). -/
theorem test_gng_ready : next (exec (.gngReady { pk 13 0 0 with tag := 1 }) (gang false 0)) (fun t => (getGang t 1).ready == 2) = true := by decide +kernel
theorem test_gangsync : next (exec (.gangsync op0) { gang false 0 with iss := iss }) (fun t => t.cur.wait == some .gang || (getGang t 1).freed) = true := by decide +kernel
theorem test_gng_release : next (exec (.gngRelease { pk 14 0 0 with tag := 1 }) (gang false 0)) (fun t => (getGang t 1).freed) = true := by decide +kernel

theorem wit_Gangs :
    let g (f : Bool) : State := { gang f 0 with iss := iss }
    (∀ f ∈ [true, false], Free (g f) 0x18 op0 none [] [] ∧ (g f).cur.reconverged = true ∧ (g f).cur.rgnOpen = false ∧
      (findSpan (g f) (g f).cur.span).any (fun y => y.rcd.gang) = true ∧ (getGang (g f) (g f).cur.gangKey).freed = f) ∧
    Expected (gang false 1) { pk 16 0 0 with tag := 1 } ∧ (gang false 1).devId = 0 ∧ (getGang (counted (gang false 1) { pk 16 0 0 with tag := 1 }) 1).decision = 1 ∧
    ({ gang false 0 with devId := 1 } : State).devId ≠ 0 ∧ (getGang (gang false 0) 1).freed = false ∧ (gangSpans (gang false 0) 1).isEmpty = false := by decide +kernel

/-- Element bytes are written and counted, and acknowledged with STATUS 0 (R347). -/
theorem test_xwr : next (exec (.xwr { pk 10 1 0 with data := bytesOf 128 9 ++ bytesOf 4 5 }) (tagged false 5)) (fun t =>
    sentData t == some (11, 0, 0) && t.tags.map (fun k => k.arrived) == [4]) = true := by decide +kernel
theorem test_xwr_closed : next (exec (.xwr (pk 10 1 0)) (tagged true 5)) (fun t => sentData t == some (11, 5, 0)) = true := by decide +kernel
/-- The sixteenth replay takes the port down (R455). -/
theorem test_flit : next (exec (.flitReceived 0 0 false) { lk with ports := lk.ports.map (fun p => { p with replays := 15 }) }) (fun t => t.ports.map (fun p => p.up) == [false]) = true := by
  decide +kernel

theorem wit_ExchangesAndPorts :
    let a : Acc := { core := none, asid := 1, tenant := 1, ring := 0, harvest := false }
    let x := { pk 10 1 0 with data := bytesOf 128 9 ++ bytesOf 4 5 }
    let u := counted (tagged false 5) x
    let down : State := { lk with ports := lk.ports.map (fun p => { p with up := false }) }
    let idle : State := { lk with vfs := [{ vf1 with state := 2 }] }
    let cmd : State := aft (exec (.xred ex) { eng xredV with vfs := [vf1] })
    Expected (tagged false 5) x ∧ numOf (x.data.drop 128) = 5 ∧ (serveAs u 1 false).toOption = some a ∧ leaseRefuses u 1 a 0x14000 = false ∧ (performWr u a 0x14000 x).2 = .performed ∧ x.opc = 10 ∧
    (∀ c ∈ [true, false], ∀ k ∈ [5, 6], (findTag (counted (tagged c k) x) 1 7).any (fun t => t.closed == c && t.check == k && t.owner.isSome) = true) ∧
    (∀ k ∈ [0, 1], Expected lk (pk 11 1 k)) ∧ lk.ports.any (fun p => p.port == 0 && p.up && p.en && decide (p.replays < 15) && p.seq == 4095) = true ∧
    down.ports.any (fun y => y.port == 0 && y.en && !y.up) = true ∧ lk.vfs.find? (fun y => y.vf == 1 && y.state == 1) = some vf1 ∧
    (idle.vfs.filter (fun y => y.state == 2 && !y.drained && vfIdle idle y)).head? = some { vf1 with state := 2 } ∧
    cmd.tags.any (fun t => t.owner.any (fun w => w.1 == cmd.cur.id && (engOp cmd w.2).any (fun o => o.isEngine))) = true := by decide +kernel

/-! ### Halts, eviction and placement -/

/-- A pre-emption request for the span of the tests, or a debug stop of its course. -/
def rq (bad : Bool) : Prq := { tenant := 1, hold := true, slot := 0, spanId := 1, pierIx := 0, qid := 0, save := 0, bad := bad }
/-- One in progress on die 1. -/
def run1 (kind : Nat) (cs : List Nat) : PrqRun := { die := 1, kind := kind, req := rq false, courses := cs, overdue := false }
def busy (kind : Nat) (cs : List Nat) : State := { with' (fun c => { c with debugReq := true }) with prqs := [run1 kind cs] }
/-- A ring-2 handler course of die 0 that is idle, with a trap listed. -/
def idle2 : State := { with' (fun c => { c with qid := 768, ring := 2, life := .idle }) with
  die0 := { st.die0 with tvec2 := 0x30001, list2 := [{ course := 4, frame := 0x123456789000, cause := 0x201 }] } }
/-- The world's pier, changed. -/
def piered (f : Pier → Pier) (g : Course → Course) : State := { with' g with piers := st.piers.map f }
/-- A result in flight for lane 0 of v3. -/
def inFlight : Landing := { dst := .v 3, wide := false, lanes := 1, vals := [(0, 9), (1, 8)], push := false }

theorem test_preempt_span : next (exec (.preemptSpan 0 (rq false)) st) (fun t => t.cur.haltReq && prqBusy t 0) = true := by decide +kernel
/-- One of another pier index asks for nothing (R432). -/
theorem test_preempt_pier : next (exec (.preemptPier 0 { rq false with pierIx := 1 }) st) (fun t => !t.cur.haltReq) = true := by decide +kernel
theorem test_preempt_tenant : next (exec (.preemptTenant 0 { rq false with spanId := 7 }) st) (fun t => t.cur.haltReq && t.cur.held) = true := by decide +kernel
theorem test_preempt_release : next (exec (.preemptRelease 0 (rq false)) (piered (fun p => { p with held := true }) id)) (fun t =>
    t.piers.all (fun p => !p.held) && t.die0.prqDone == 1) = true := by decide +kernel
theorem test_debug_stop : next (exec (.debugStop 0 (rq false)) st) (fun t => t.cur.debugReq) = true := by decide +kernel
theorem test_preempt_done : next (exec .preemptRequestDone (busy 5 [])) (fun t => t.die1.prqDone == 1 && !prqBusy t 1) = true := by decide +kernel
theorem test_preempt_overdue : next (exec .preemptOverdue (busy 5 [4])) (fun t => t.die1.prqOverdue && prqBusy t 1) = true := by decide +kernel
/-- Its address, the cause and 32 · QID + SLOT are in s0 to s3 (R428). -/
theorem test_handler_start : next (exec (.handlerCourseStart 0 2) idle2) (fun t => t.cur.pcOf 0 == 0x30000 && Cells.get t.cur.s 0 == 0x56789000 && Cells.get t.cur.s 1 == 0x1234 &&
    Cells.get t.cur.s 2 == 0x201) = true := by decide +kernel
theorem test_set_aside : next (exec (.setAside 4 1) (with' (fun c => { c with harvest := true }))) (fun t => t.cur.asideAt == some 1) = true := by decide +kernel
/-- The lanes it is for (R140). -/
theorem test_fixed_result : next (exec (.fixedLatencyResult 4) (with' (fun c => { c with landing := [inFlight] }))) (fun t => vec t 3 0 == 9 && vec t 3 1 == 0 && t.cur.landing == []) = true := by
  decide +kernel
theorem test_pier_retirement : next (exec .pierRetirement (piered id (fun c => { c with life := .exited, live := 0 }))) (fun t => t.piers.all (fun p => p.retired) || t.piers == []) = true := by
  decide +kernel

/-- Step 30 has no alternate mode and may not be skipped, step 20 may (R466 Table 3). -/
theorem test_boot_step30 : stepMode 30 { Reset.bootStep with failed := true } = none ∧ stepMode 20 { Reset.bootStep with failed := true } = some 2 := by decide +kernel
/-- A course stopped at ring 2, then released: its image frees what it held, and it goes on when it fits (R428). -/
def stopped2 : State := piered id (fun c => { c with harvest := true, life := .halted 0, stopRing := some 2 })
def returned2 : State := stopped2.upd (fun c => { c with stopRing := none })
/-- The same with its quoin taken up by another bond. -/
def crowded2 : State := { returned2.upd (fun c => { c with segs := [] }) with bonds := st.bonds ++ [newBond 9 9 0 0 1 65536 [0]] }
theorem test_stopped_spill : next (exec (.spillComplete 0) stopped2) (fun t => t.cur.segs == [] && t.cur.given && t.cur.life == .halted 0) = true := by decide +kernel
theorem test_stopped_return : next (exec (.restoreComplete 2) returned2) (fun t => t.cur.life == .live) = true := by decide +kernel
/-- A handler may change PC and FS of a descriptor and lower STATE to 0, not change LANES (R429). -/
theorem test_replay_fields :
    let o : Op := { newOp st (op (.v 4) (.s 4) .zero .zero 0) (.loadC (.vec 4) 3 0 none) 3 with entry := 2 }
    let ok (d : Nat) : Bool := replayOk (packFields [(0x3C, 1, 1), (0x5A0, 16, d)]) [(o, 0)]
    ok (descriptor o 0) = true ∧ ok (descriptor { o with pc := o.pc + 4, flags := 3 } 0) = true ∧ ok (descriptor { o with entry := 0 } 0) = true ∧
    ok (descriptor { o with entry := 3 } 0) = false ∧ ok (descriptor { o with all := 1 } 0) = false := by decide +kernel

theorem wit_Preemption :
    prqBusy (busy 1 []) 1 = true ∧ prqBusy st 0 = false ∧ (rq true).bad = true ∧ (rq false).bad = false ∧ st.cur.life = .live ∧
    (∀ k ∈ [1, 2, 3], memNat st.cur.pier (prqPiers st 0 k (rq false)) = true) ∧
    (st.cur.exists = true ∧ st.cur.qid = (rq false).qid ∧ st.cur.slot = (rq false).slot ∧ st.cur.tenant = (rq false).tenant ∧ st.cur.die = 0) ∧
    firstPrq (settlePiers (busy 1 [])) (prqAcked (settlePiers (busy 1 []))) = some (run1 1 []) ∧
    firstPrq (busy 5 [4]) (fun r => !r.overdue && !prqAcked (busy 5 [4]) r) = some (run1 5 [4]) ∧ firstPrq st (fun r => !r.overdue && !prqAcked st r) = none := by decide +kernel

theorem wit_StopsAndHandlers :
    let d := with' (fun c => { c with debugReq := true })
    let h := with' (fun c => { c with haltReq := true })
    debugDue st.cur = false ∧ debugDue d.cur = true ∧ (d.cur.debugReq = true ∧ d.cur.life = .live ∧ d.cur.ring = 0 ∧ d.cur.stopRing = none) ∧
    canHalt h.cur = true ∧ h.cur.haltReq = true ∧ (getDie idle2 0).list2 = [{ course := 4, frame := 0x123456789000, cause := 0x201 }] ∧ (getDie idle2 0).dead = false ∧
    handlerOf idle2 0 2 = some idle2.cur ∧ idle2.cur.life = .idle ∧ Cells.wf idle2.cur.pc = true ∧ idle2.cur.live.getLsbD 1 = true ∧ Cells.wf idle2.cur.s = true := by decide +kernel

theorem wit_EvictionSteps :
    let p := piered (fun p => { p with pending := true, halted := true }) (fun c => { c with life := .halted 1 })
    let r := piered id (fun c => { c with life := .exited, live := 0 })
    ((findPier p 2).any (fun x => x.pending && x.halted) = true ∧ placementFree p 2 = true ∧ pierQuiet p 2 = true) ∧ (r.piers.find? (canRetire r)).isSome = true ∧
    overfull st 0 = false ∧ (findPier st 2).isSome = true ∧ stopped2.cur.stopRing.isSome = true ∧ (findPier stopped2 stopped2.cur.pier).isSome = true ∧
    (released returned2 returned2.cur = true ∧ fitsBack (filesBack returned2 returned2.cur) returned2.cur = true) ∧
    (released crowded2 crowded2.cur = true ∧ fitsBack (filesBack crowded2 crowded2.cur) crowded2.cur = false) ∧ ((getDie st st.cur.die).list2.length < 4096) := by decide +kernel

theorem wit_ScheduleSteps :
    let h := with' (fun c => { c with harvest := true })
    let f := with' (fun c => { c with landing := [inFlight] })
    let p := piered (fun p => { p with pending := true }) id
    let sp (x : SpanState) : Span := { World.span with state := x }
    (h.cur.harvest = true ∧ h.cur.life = .live ∧ h.cur.aside = none) ∧ (f.cur.landing = [inFlight] ∧ f.cur.imageAt = 0) ∧ (getDie st 1).dead = false ∧
    ((findPier p 2).any (fun x => x.pending && !x.halted) = true ∧ placementFree p 2 = true) ∧ st.announced = [] ∧ (sp .head).state = .head ∧
    headState (dq false 0 0) (sp .head) = .head ∧ headState (dq false 0 0) (sp .eligible) = .eligible ∧ (sp .placing).state ≠ .head ∧ (sp .placing).state ≠ .eligible := by
  decide +kernel

/-! ### Tables, meters and the device -/

/-- A partition with bucket depth 2 and rate 3, and a period budget of 100. -/
def part1 : Partition :=
  { tenant := 1, valid := true, kasid := 0, lrq := 0, wmg0 := 0, wmh0 := 0, wmg1 := 0, wmh1 := 0, spill := 0, frames := 0, framePages := 0, gbud := 100, hbud := 50,
    gbor := 0, hbor := 0, lendG := false, lendH := false, ghbm := 1, hhbm := 1, ghdep := 2, hhdep := 1, gfab := 3, hfab := 1, pcnt := 0x13000 }
/-- A device that meters that partition. -/
def metered : State := { st with
  parts := [part1], budgets := [{ tenant := 1, harvest := false, bal := 2, borrowed := 0, owed := [] }], vfs := [vf1]
  buckets := [{ ctrl := 5, tenant := 1, harvest := false, bytes := 2047 }], allowances := [{ vf := 1, port := 0, harvest := false, bytes := 0 }]
  banks := [{ unit := 0, bank := 3, count := 9, retired := true }] }
/-- A commit that runs. -/
def commits : State := { st with commit := some { die := 1, course := 4, tables := 0x80, number := 5 } }
/-- A quoin that its old owner has left, and a sweep without a line. -/
def left : State := { st with quoins := [{ qid := 9, en := true, fenced := false, owner := 2, owned := true, resv := false, lessee := 0, gseg := 0, vacating := some 3 }], sweeps := [1] }
/-- A device that runs. -/
def runs : State := { st with run := .running }
/-- A monitor that serves `trap 12` of a ring-2 course, with a function and its argument. -/
def calls (f a : Word) : State := { (atRing 2) with
  run := .running, die0 := { st.die0 with func := f, arg0 := a, arg1 := 0x300000, serve3 := some { course := 4, frame := 0, cause := 0x12C } } }

theorem test_commit_complete : next (exec (.commitComplete 1) commits) (fun t => t.die1.done == 5 && t.commit == none) = true := by decide +kernel
theorem test_sweep : next (exec (.wayMaskSweep 1) left) (fun t => t.sweeps == []) = true := by decide +kernel
theorem test_vacated : next (exec .quoinVacated left) (fun t => t.quoins.all (fun e => e.vacating == none)) = true := by decide +kernel
/-- One token for the one quoin (R408). -/
theorem test_token : next (exec .tokenCharge metered) (fun t => t.budgets.map (fun b => b.bal) == [1]) = true := by decide +kernel
theorem test_period : next (exec .budgetPeriodBoundary metered) (fun t => t.budgets.map (fun b => b.bal) == [100]) = true := by decide +kernel
/-- Filled to its depth, 2 · 1,024 bytes (R410). -/
theorem test_bucket : next (exec (.hbmBucketRefill 5) metered) (fun t => t.buckets.map (fun b => b.bytes) == [2048]) = true := by decide +kernel
theorem test_allowance : next (exec .allowanceRefill metered) (fun t => t.allowances.map (fun b => b.bytes) == [96]) = true := by decide +kernel
theorem test_corrections : next (exec .correctionWindowClear metered) (fun t => t.banks == [{ unit := 0, bank := 3, count := 0, retired := true }]) = true := by decide +kernel
theorem test_thermal : next (exec (.thermalAbove95 0) runs) (fun t => t.die0.hot) = true := by decide +kernel
theorem test_thermal_off : next (exec (.thermalAbove105 0) runs) (fun t => t.run == .thermal && t.courses == []) = true := by decide +kernel
theorem test_core_containment : next (exec (.coreContainment 0 []) (dq false 0 0)) (fun t => t.quoins.all (fun e => e.fenced)) = true := by decide +kernel
theorem test_setpending : next (exec (.setpending 0) (calls 2 255)) (fun t => t.boot.pending == 0xFF && t.die0.result == 0) = true := by decide +kernel
/-- The active slot cannot be the pending one (R486). -/
theorem test_setpending_active : next (exec (.setpending 0) (calls 2 0)) (fun t => t.die0.result == 1) = true := by decide +kernel
theorem test_commit_call : next (exec (.commitCall 0) { calls 4 0 with boot := { st.boot with pending := 1 } }) (fun t => t.boot.active == 1 && t.boot.pending == 0xFF) = true := by
  decide +kernel
theorem test_select_active : next (exec (.selectActive 1) runs) (fun t => t.boot.active == 1) = true := by decide +kernel

theorem wit_CommitsAndMeters :
    commits.commit.isSome = true ∧ st.commit = none ∧ left.sweeps = [1] ∧ left.l2 = [] ∧ listMin ((left.quoins.filter (vacated left)).map (fun e => e.qid)) = some 9 ∧
    metered.budgets = [{ tenant := 1, harvest := false, bal := 2, borrowed := 0, owed := [] }] ∧ (0 : Int) < 2 - ((residentQuoins metered 1 false).length : Nat) ∧
    partition metered 1 = some part1 ∧ part1.pcnt ≠ 0 ∧ partition metered 2 = none := by decide +kernel

theorem wit_PowerAndFailures : State.reset.run = .held ∧ runs.run = .running ∧ (getDie runs 1).hot = false ∧ st.cur.exists = true ∧ st.cur.die = 0 ∧ (767 : Nat) / 4 = 191 := by
  decide +kernel

theorem wit_FirmwareServices :
    let w (k : Word) : State := { runs with die0 := { st.die0 with wdctl := k } }
    let r (f a : Word) (p : Byte) : State := { calls f a with boot := { st.boot with pending := p } }
    (getDie (w 2) 0).wdctl.getLsbD 0 = false ∧ ((getDie (w 1) 0).wdctl.getLsbD 0 = true ∧ (getDie (w 1) 0).wdctl.getLsbD 1 = false) ∧
    ((getDie (w 3) 0).wdctl.getLsbD 0 = true ∧ (getDie (w 3) 0).wdctl.getLsbD 1 = true) ∧
    (∀ s ∈ [r 1 1 0xFF, r 1 0 0xFF, r 1 2 0xFF, r 2 1 0xFF, r 2 255 0xFF, r 2 0 0xFF, r 2 254 0xFF, r 3 0 0xFF, r 4 0 1, r 4 0 0xFF],
      (monitorCaller s 0).isSome = true ∧ s.boot.active.toNat = 0) ∧ runs.boot.pending = 0xFF ∧ (1 : Byte).toNat < 2 ∧ (r 4 0 1).boot.pending ≠ 0xFF ∧
    runs.boot.steps.length = 32 := by decide +kernel

/-! ### The host link -/

/-- A host access to the window of VF 1. -/
def ha (off : Nat) : HostAccess := { vf := 1, off := off, tag := 3, stream := none, intact := true, ep := false }
/-- The same under IDE stream 2. -/
def hi (intact : Bool) : HostAccess := { ha 0 with stream := some 2, intact := intact }
def stream2 (bad : Bool) : IdeStream := { stream := 2, ranges := [(0, 2 ^ 43)], insecure := bad }
/-- A running device with that VF. -/
def hl : State := { lk with run := .running }
/-- One with that stream, and its interface in a state. -/
def ide (bad : Bool) (tdi : Nat) : State := { hl with streams := [stream2 bad], vfs := [{ vf1 with ide := 2, ideReq := true, tdi := tdi }] }
/-- A host access that waits. -/
def hw (read : Bool) : State := { hl with hostWaits := [{ acc := ha 0, read := read, len := 4, data := [] }] }
/-- So many sessions, the first finished. -/
def sess (n : Nat) : State := { hl with sessions := (List.range n).map (fun k => { id := k, finished := k == 0 }) }
/-- What the host received last. -/
def told (t : State) : Option HostMsg := t.toHost.getLast?

theorem test_host_read : next (exec (.hostRead (ha 0x14000) 8) hl) (fun t => told t == some (.readData 3 (bytesOf 8 (0x2A + 0x2B * 2 ^ 32)) false)) = true := by decide +kernel
/-- One byte beyond the window (R308). -/
theorem test_host_read_end : next (exec (.hostRead (ha 0x1FFFF9) 8) hl) (fun t => told t == some (.unsupported 3)) = true := by decide +kernel
theorem test_host_write : next (exec (.hostRead (ha 0x14000) 4) (aft (exec (.hostWrite (ha 0x14000) (bytesOf 4 0x55)) hl))) (fun t => told t == some (.readData 3 (bytesOf 4 0x55) false)) = true := by
  decide +kernel
theorem test_host_counter : next (exec (.hostCounterWrite (ha 4) 5) hl) (fun t => next (exec (.hostRead (ha 0x16004) 4) t) (fun u => told u == some (.readData 3 (bytesOf 4 5) false))) = true := by
  decide +kernel
theorem test_key_exchange : next (exec (.keyExchange .pf 4) (sess 3)) (fun t => t.sessions.length == 4) = true := by decide +kernel
theorem test_key_exchange_full : next (exec (.keyExchange .pf 4) (sess 4)) (fun t => told t == some (.spdmError .pf true) && t.sessions.length == 4) = true := by decide +kernel
theorem test_lock : next (exec (.lockInterface 1) (ide false 0)) (fun t => t.vfs.map (fun v => v.tdi) == [1]) = true := by decide +kernel
theorem test_start : next (exec (.startInterface 1) (ide false 1)) (fun t => t.vfs.map (fun v => v.tdi) == [2]) = true := by decide +kernel

theorem wit_HostAccesses :
    let ok (a : HostAccess) (addr : Nat) : Bool := (takeTlp hl a vf1 addr).2 == .ok
    let waits (r : Bool) : Bool := ((hw r).hostWaits.find? (fun w => !w.held && !(w.read && (hw r).reqs.any (fun q => q.who == .host w.acc.tag)))).any (fun y => y.read == r)
    linkDown hl = false ∧ hostVf hl 1 = some vf1 ∧ ok (ha 0x1FFFF8) (bar2 1 0x1FFFF8) = true ∧ (ha 0x1FFFF8).off + 8 = 2097152 * vf1.winPages ∧
    ok (ha 0x1FFFF9) (bar2 1 0x1FFFF9) = true ∧ ok (ha 4092) (bar0 1 4092) = true ∧ hl.hostWaits.any (fun y => !y.read && y.acc.vf == 1) = false ∧
    (hostWriteGo 5 hl { acc := { ha 0 with off := 2 ^ 36 + 4092 }, read := false, len := 4, data := bytesOf 4 5 }).2 = none ∧
    (hostWriteGo 9 hl { acc := ha 0x1FFFF8, read := false, len := 8, data := bytesOf 8 5 }).2 = none ∧
    (hostWriteGo 5 { hl with l2 := (pinned false).l2 } { acc := ha 0x14000, read := false, len := 4, data := bytesOf 4 5 }).2.isNone = false ∧
    (hw false).hostWaits.any (fun y => !y.read && y.acc.vf == 1) = true ∧ (∀ off ∈ [4108, 4348], (takeTlp hl (ha off) vf1 (bar0 1 off)).2 = .ok ∧ off % 16 = 12) ∧
    waits true = true ∧ waits false = true ∧ findStream (ide false 0) 2 = some (stream2 false) ∧ findStream (ide true 0) 2 = some (stream2 true) ∧
    (stream2 false).holds 0 = true ∧ hl.streams.any (fun x => x.holds 0) = false ∧ vf1.ideReq = false ∧ vf1.tdi ≠ 2 ∧
    (hi false).intact = false ∧ (hi true).intact = true := by decide +kernel

theorem wit_SecurityInterfaces :
    hl.run = .running ∧ (sess 3).sessions.length < 4 ∧ 4 ≤ (sess 4).sessions.length ∧ (sess 1).sessions.any (fun x => x.id == 0) = true ∧
    (sess 1).sessions.any (fun x => x.id == 1) = false ∧ (sess 1).sessions.any (fun x => x.id == 0 && x.finished) = true ∧
    (hostVf (ide false 0) 1).any (fun v => v.tdi == 0 && vfCovered (ide false 0) v) = true ∧ (hostVf (ide false 1) 1).any (fun v => v.tdi == 1) = true ∧
    (hl.vfs.find? (fun v => v.vf == 1 && v.state ≠ 0)) = some vf1 := by decide +kernel

/-! ### Reading, stepping and the state -/

/-- A device whose course issues the placed word next, and one whose code lies where no page is. -/
def nopNext : State := placed State.reset 0x0EBAE800 4
def lost : State := { nopNext with tlb := [] }
/-- A course that waits with a load in flight. -/
def asking : State := (aft (exec (.ld ldx) mem)).upd (fun c => { c with wait := some .gang })
/-- A 32-bit word with a major opcode. -/
def majWord (m : Nat) : Word := BitVec.ofNat 32 (4 * m)
/-- The fetch's words. -/
def wordsAt (s : State) : Option (List Word) :=
  match selectCourse s with
  | some (t, _) => match t.cur.subset with
    | some (m, pc) => (fetchInstr { t with iss := issueAt t.cur m pc 1 } pc).2.toOption
    | none => none
  | none => none

theorem wit_EncodingsAgree : Instr.wf (.add (op (.v 255) (.v 0) (.imm 63) .zero 0)) = true ∧
    (decodeWords (encode (.add (op (.v 255) (.v 0) (.imm 63) .zero 0)) ++ [7])).toOption = some (.add (op (.v 255) (.v 0) (.imm 63) .zero 0), 2) := by decide +kernel

/-- Each end of each range of R107. -/
theorem wit_UndefinedOpcodes :
    (∀ m ∈ [0x0F, 0x19, 0x1F, 0x44, 0x4F, 0x69, 0x7F, 0x8A, 0x8F, 0x9D, 0xAF, 0xB7, 0xBF, 0xCB, 0xCF, 0xD8, 0xDF, 0xE0, 0xEF, 0xF0, 0xFF],
      bitsOf (majWord m) 0 2 ≠ 3 ∧ majorOf (majWord m) = m) := by decide +kernel

theorem wit_StepRuns :
    ({ nopNext with inputs := [.requestReset []] }.inputs = [.requestReset []] ∧ isIssued (.requestReset []) = false) ∧
    (asleep.inputs = [] ∧ (urgentEvent (with' (fun c => { c with pend := [{ cause := 0x110, lanes := 3, tpc := 0x10000, info := 0, ring := 0, recs := 0 }] }))).isSome = true) ∧
    (nopNext.inputs = [] ∧ urgentEvent nopNext = none ∧ (selectCourse nopNext).any (fun p => p.2) = true ∧ wordsAt nopNext = some [0x0EBAE800] ∧ wordsAt lost = none) ∧
    (State.reset.inputs = [] ∧ urgentEvent State.reset = none ∧ (selectCourse State.reset).isNone = true ∧ pendingEvent State.reset = none) ∧
    (asking.inputs = [] ∧ urgentEvent asking = none ∧ (selectCourse asking).isNone = true ∧ (pendingEvent asking).isSome = true) := by decide +kernel

/-- A step of a course with code keeps the memory as it was, in its canonical form. -/
theorem wit_MemoryKept : nopNext.MemOk ∧ next (step nopNext) (fun t => Memory.wf t.mem) = true := by decide +kernel

theorem wit_ResetValues : (1 : Nat) < 2 ∧ (getDie State.reset 1).wdlim = 2000 := by decide

/-- Lane 31 of a course with seed 1, and a seed whose lane 0 would be zero (R77). -/
theorem wit_SeedsAtCreation : (31 : Nat) < 32 ∧ Cells.get st.cur.srseed 31 = 1 ^^^ BitVec.ofNat 32 (0x9E3779B9 * 32 % 2 ^ 32) ∧
    Cells.get (newCourse State.reset { World.span with rcd := { World.span.rcd with seed := 0x9E3779B9 } } World.pier
      { id := 4, qid := 0, slot := 0, frameSlot := 0, bond := 3, bid := 0, cid := 0, segs := [] }).srseed 0 = 1 := by decide +kernel

/-! ### Witnesses of causes, stalls and refusals -/

/-- A set-aside conversion, and one of its later passes. -/
theorem wit_ConversionResults_aside :
    let y := op (.v 3) (.v 5) .zero .zero 0x10A
    let a : Aside := { instr := .cvt y, rest := 2, fpm := 0, lfmode := 0, drawn := [], whole := 3 }
    let s : State := st.upd (fun c => { c with aside := some a })
    let d : State := { st with iss := { iss with drawn := some [(0, 5), (1, 6)] } }
    (∀ t ∈ [s, d], y.rnd = 5 ∧ Clear t 0x65 y [(cvtType 0, .v 5)] 1) ∧ s.iss.drawn = none ∧ s.cur.aside = some a ∧ d.iss.drawn.isSome = true ∧
    quiet2 (fun i => convertSr 0 1 (fpMode st.cur.fpm 5 false) (BitVec.ofNat 32 (5 + i)) (readOpd st y (.flt 0) (.v 5) i)) := by
  unfold quiet2
  decide +kernel

/-- An m11 that hold mode keeps, a mask with a waiting lane, and no participating lane. -/
theorem wit_MaskResults_held :
    let w := op .zero (.imm 2) .zero .zero 2
    (∀ k ∈ [0x06, 0x07, 0x08], Free hold k (mk 11) none [] []) ∧ partLanes hold (mk 11) ≠ 0 ∧ heldMask hold 11 = true ∧
    (Free sm 0x0A w (minSub [srcSub sm w (.int false false) w.a, uniSub w.a]) (opdRefs w.a 1) [] ∧ heldMask sm 2 = false ∧ Cells.get sm.cur.waitm 2 ≠ 0) ∧
    (∀ k ∈ [0x06, 0x07, 0x08], Free hold k (never (mk 11)) none [] []) ∧ partLanes hold (never (mk 11)) = 0 := by decide

set_option maxRecDepth 100000 in
/-- Ends in a region, waits without lanes, and a header of each kind. -/
theorem wit_EndsAndWaits_other :
    let z := never (op .zero (.imm 5) .zero .zero 0)
    let open' : State := with' (fun c => { c with rgnOpen := true })
    let whole (s : State) (n : Nat) : Bool := bodyWhole s s.cur (s.iss.pc + 4) n n
    let busy : State := sc.upd (fun c => { c with flags := [(1, 1)] })
    let cut : State := { sc with mem := (placed State.reset (0x00BC4003 + 2 ^ 32 * 0x7854284D) 8).mem }
    (Free open' 0x0B op0 none [] [] ∧ partLanes open' op0 ≠ 0 ∧ open'.cur.rgnOpen = true) ∧
    (Free st 0x0D z (minSub [srcSub st z (.int false false) z.a, uniSub z.a]) (opdRefs z.a 1) [] ∧ partLanes st z = 0) ∧ Free st 0x0E (never op0) none [] [] ∧
    whole cut 1 = false ∧ ({ sc.iss with bodies := 0xFFFFFFFF } : Issue).bodies ≠ 0 ∧ (slotBad 14 = true ∧ slotBad 12 = true ∧ slotBad 11 = false ∧ slotBad 15 = false) ∧
    flagsClear busy.cur 2 = false ∧ flagsClear busy.cur 1 = true ∧ whole busy 2 = true := by decide +kernel

/-- A register that no ring writes, a field that none may set, a conflict with m11, commits that start and that are held, and rounding modes above 4. -/
theorem wit_Special_other :
    let w (n : Nat) (k : BitVec 6) := sw (BitVec.ofNat 12 n) k
    let free (s : State) (x : Ops) : Prop :=
      let n := x.field 0 8
      Free s 0x11 x (minSub [srcSub s x (.int (srWide n) false) x.a, if n = 1 then none else uniSub x.a]) (opdRefs x.a (STy.int (srWide n) false).regs) [] ∧
        partLanes s x ≠ 0
    let r := never (op (.v 3) .zero .zero .zero 0x03)
    (Free st 0x10 r (minSub [dstSub st.cur r 1 r.d, scalarSub r [], subIf false 14]) [] (opdRefs r.d 1) ∧ partLanes st r = 0) ∧
    (formOk 0x10 (op (.v 3) .zero .zero .zero 0x0B) = true ∧ formOk 0x11 (w 0x0B 0) = true ∧ (op (.v 3) .zero .zero .zero 0x103).field 8 4 ≠ 0) ∧
    (∀ s ∈ [st, never (w 0x00 5) |> fun _ => st], class0 s 0x11 (never (w 0x00 5)) = none ∧ srcSub s (never (w 0x00 5)) (.int false false) (.imm 5) = none) ∧
    (free st (w 0x0A 1) ∧ readOpd st (w 0x0A 1) (.int true false) (.imm 1) 0 % 2 = 1) ∧
    (free { hold with iss := iss } (w 0x02 0) ∧ hold.cur.holdMode = true ∧ Cells.get hold.cur.enr 11 ≠ 0) ∧
    (free (atRing 2) (w 0x28 1) ∧ (writeTcommit (atRing 2) 1).2 = true ∧
      (writeTcommit { atRing 2 with commit := some { die := 1, course := 5, tables := 0x80, number := 5 } } 1).2 = false) := by decide +kernel

/-- A handler with an operation of its ring that a return must wait for. -/
theorem wit_TrapAndReturn_held :
    let s := inTrap.upd (fun c => { c with ops := [newOp inTrap op0 (.order none none) 3] })
    Free s 0x13 op0 none [] [] ∧ s.cur.reconverged = true ∧ s.cur.frameBusy = true ∧ s.cur.ops.any (fun o => o.ring == s.cur.ring && o.holdsLater) = true := by
  decide +kernel

set_option maxRecDepth 100000 in
/-- A frame that leaves every live lane waiting at a mask. -/
theorem wit_ReturnRestores_held :
    let s : State := { inTrap with mem := [(0x213000, 1), (0x213010, 3), (0x213040, 8), (0x213042, 1), (0x213048, 8), (0x21304A, 1),
      (0x213140, 3), (0x213144, 3), (0x213170, 1), (0x213174, 2), (0x2131BC, 0x22)] }
    (match readBlock s { s.cur.acc with ring := 2 } s.cur.frameBase 32 with
    | (u, raw) => (frameOkay u s.cur raw s.cur.live.toNat [], fieldAt raw 6 1 != 1, (List.range 32).all (fun i => !s.cur.live.getLsbD i ||
        (List.range 12).any (fun k => (fieldAt raw (0x170 + 4 * k) 4).testBit i)), s.cur.life == .live, s.cur.pend.isEmpty)) = (true, true, true, true, true) := by decide +kernel

set_option maxRecDepth 100000 in
/-- Control blocks that are misplaced, held behind an access, poisoned, or named by no scalar pair. -/
theorem wit_ControlTransfer_other :
    let c1 (s : State) (x : Ops) := minSub [scalarBaseSub s x x.a, srcSub s x (.int false true) x.c, uniSub x.c]
    let free (s : State) (x : Ops) (maj : Nat) : Bool := decide (Free s maj x (c1 s x) (opdRefs x.a 2 ++ opdRefs x.c 1) [])
    let far : State := ctx.upd (fun c => { c with s := [(4, 0xFFFFFF00), (5, 0x1FFFFF)] })
    let odd : State := ctx.upd (fun c => { c with s := [(4, 0x14080)] })
    let busy : State := { (aft (exec (.ld ldx) (again ctx))).upd (fun c => { c with chead := [], cdist := [] }) with iss := iss }
    let bad : State := { ctx with hpoison := [(0x214000 / 64, 1)] }
    let r := checkBlock bad .read 0x14000 20
    let v := { xc with a := .v 4 }
    (∀ s ∈ [far, odd, atRing 0, with' (fun c => { c with rgnOpen := true })], free s xc 0x16 = true ∧ free s xc 0x17 = true) ∧
    (addr64 odd xc 0 % 256 ≠ 0 ∧ Config.vaLimit < addr64 far xc 0 + 2560) ∧
    (free busy xc 0x16 = true ∧ busy.cur.ops.any (fun o => o.isAccess) = true) ∧
    (r.2 = .ok ∧ (match (loadLines r.1 0x14000 20).2 with | .poison => true | .data _ | .stop _ _ => false) = true) ∧
    (class0 ctx 0x16 v = none ∧ specSub v v.a = none ∧ groupSub ctx.cur v.a 2 = none ∧ opdIsS v.a = false ∧ srcSub ctx v (.int false true) v.c = none ∧
      uniSub v.c = none) := by decide +kernel

/-- A lease that is not there, an address without a translation, and an atomic in a region, or in a scalar destination's. -/
theorem wit_GlobalAccesses_causes :
    let out : State := mem.upd (fun c => { c with s := [(4, 0x400000)] })
    let at1 (s : State) (x : Ops) (u : Use) := checkLanes s false 4 u (laneAddrs s x false (partLanes s x))
    let ended (s : State) (x : Ops) (u : Use) : Bool := match (at1 s x u).2 with | .error _ => true | .ok _ => false
    let gone : State := { mem with tlb := [] }
    let open' : State := mem.upd (fun c => { c with rgnOpen := true })
    (Free out 0x90 ldx (minSub [addrSub out ldx false, longDst out.cur ldx 1 true false ldx.d]) (addrRefs ldx false) [] ∧ ended out ldx .read = true) ∧
    (Free out 0x91 stx (minSub [addrSub out stx false, dataSub out stx 4]) (addrRefs stx false ++ opdRefs stx.b 1) [] ∧ ended out stx .write = true) ∧
    (∀ s ∈ [out, open'], Free s 0x95 atx (minSub [addrSub s atx false, atomSub s atx 4, longDst s.cur atx 1 true true atx.d,
        subIf (opdIsS atx.d && true && atx.guard ≠ Guard.always) 10]) (addrRefs atx false ++ opdRefs atx.b 1) [] ∧ partLanes s atx ≠ 0) ∧
    out.cur.rgnOpen = false ∧ ended out atx .write = true ∧
    leaseCause gone gone.cur 0x14000 .read = none ∧ (match (probe gone gone.cur.acc gone.cur.site 0x14000 .read).2 with | .cause _ => true | .line _ _ | .mmio _ _ | .absent | .peer _ | .pinned => false) = true ∧
    (leaseCause out out.cur 0x400000 .read).isSome = true := by decide +kernel

/-- An atomic on scratchpad in a region. -/
theorem wit_ScratchAccesses_region :
    let s : State := mem.upd (fun c => { c with rgnOpen := true })
    Free s 0x96 atsx (minSub [addrSub s atsx true, atomSub s atsx 4, longDst s.cur atsx 1 true false atsx.d, subIf (opdIsS atsx.d && false && atsx.guard ≠ Guard.always) 10])
      (addrRefs atsx true ++ opdRefs atsx.b 1) [] ∧ s.cur.rgnOpen = true ∧ partLanes s atsx ≠ 0 := by decide +kernel

/-- Each cause of `ldc`, and no lane; each cause of `put`. -/
theorem wit_OtherAccesses_causes :
    let ldcFree (s : State) (x : Ops) : Bool := decide (Free s 0x94 x (minSub [addrSub s x false, uniSub x.a, uniSub x.c, longDst s.cur x 1 true true x.d,
      subIf (opdIsS x.d && x.guard ≠ Guard.always) 10]) (addrRefs x false) [])
    let pair (a b : Word) : State := mem.upd (fun c => { c with s := [(4, a), (5, b)] })
    let v := never { ldcx with d := .v 3 }
    let gone : State := { mem with tlb := [] }
    let put (s : State) : Bool := decide (Free s 0x97 putx (minSub [quadSub s putx putx.a, srcSub s putx (.int false false) putx.b, uniSub putx.b,
      srcSub s putx (.int false false) putx.c, uniSub putx.c]) (opdRefs putx.a 4 ++ opdRefs putx.b 1 ++ opdRefs putx.c 1) [])
    let quad (a b c d e : Word) : State := mem.upd (fun x => { x with s := [(8, a), (9, b), (10, c), (11, d), (16, e)] })
    let cause (s : State) : Option Nat :=
      let d (k : Nat) : Nat := s.cur.regAt putx.a 0 k
      minSub [subIf ((bondShape s s.cur).2 ≤ d 0 % 8) 0x92, subIf (d 0 / 8 ≠ 0) 0x93, subIf (d 1 % 16 ≠ 0 || d 2 % 16 ≠ 0 || d 3 % 16 ≠ 0) 0x32,
        subIf (readU s putx putx.c 0 % 4 ≠ 0) 0x33, subIf (scratchSize s < d 1 + d 3) 0x42, subIf (scratchSize s < d 2 + d 3) 0x43,
        subIf (scratchSize s < readU s putx putx.c 0 + 4) 0x44, subIf s.cur.rgnOpen 0x103]
    (ldcFree mem v = true ∧ partLanes mem v = 0) ∧
    (∀ s ∈ [pair 0x14001 0, pair 0 0x200000, pair 0x400000 0, gone], ldcFree s ldcx = true ∧ partLanes s ldcx ≠ 0) ∧
    (addr64 (pair 0x14001 0) ldcx 0 % 4 ≠ 0 ∧ addr64 (pair 0 0x200000) ldcx 0 = Config.vaLimit ∧ (leaseCause (pair 0x400000 0) mem.cur 0x400000 .read).isSome = true) ∧
    (match (probe gone gone.cur.acc gone.cur.site 0x14000 .read).2 with | .cause _ => true | .line _ _ | .mmio _ _ | .absent | .peer _ | .pinned => false) = true ∧
    [(quad 1 0 0 16 0, 0x92), (quad 8 0 0 16 0, 0x93), (quad 0 8 0 16 0, 0x32), (quad 0 0 0 16 2, 0x33), (quad 0 0xFFF0 0 32 0, 0x42),
      (quad 0 0 0xFFF0 32 0, 0x43), (quad 0 0 0 16 0x10000, 0x44)].all (fun p => put p.1 && cause p.1 == some p.2) = true := by decide +kernel

/-- Each cause of an arrival. -/
theorem wit_BarrierResults_causes :
    let open' : State := with' (fun c => { c with rgnOpen := true })
    let free (s : State) (x : Ops) : Bool := decide (Free s 0xB0 x (minSub [nSub s x, dstSub s.cur x 1 x.d, subIf (opdPushes x.d) 12]) (opdRefs x.b 1) (opdRefs x.d 1))
    let cause (s : State) (x : Ops) : Option Nat := (curBond s).bind (fun b =>
      let d : BarDesc := { n := barN s x, all := x.bit 4, barr := false, op := 0 }
      minSub [subIf (match (getBar b (barK x)).desc with | some y => y ≠ d | none => false) 0xA0, subIf ((getBar b (barK x)).arrived.getLsbD s.cur.cid) 0xA1,
        subIf (d.n = 0 || (bondShape s s.cur).1 < d.n) 0xA4, subIf s.cur.rgnOpen 0x103])
    [(phased 2, arr .one, 0xA0), (phased 1, arr .one, 0xA1), (st, arr .zero, 0xA4), (st, arr .two, 0xA4), (open', arr .one, 0x103)].all (fun p =>
      free p.1 p.2.1 && cause p.1 p.2.1 == some p.2.2) = true ∧
    Free open' 0xB2 bar (minSub [nSub open' bar, srcSub open' bar (.int false false) bar.a, uniSub bar.a, dstSub open'.cur bar 1 bar.d]) (opdRefs bar.a 1 ++ []) [] := by decide +kernel

/-- A counter word that is misaligned, beyond the scratchpad, outside the lease and without a translation, and flags that are not clear. -/
theorem wit_WaitsOnCountersAndFlags_causes :
    let w (s : State) (x : Ops) (sp : Bool) : Bool := decide (Free s 0xB3 x (minSub [addrSub s x sp, uniSub x.a, uniSub x.c, srcSub s x (.int false false) x.b, uniSub x.b])
      (addrRefs x sp ++ opdRefs x.b 1) [])
    let sc (o : Word) : Ops := opx o .zero .lit .one .zero 0x800
    let flagged := with' (fun c => { c with flags := [(11, 255)] })
    let out : State := with' (fun c => { c with s := [(4, 0x400000)] })
    let gone : State := { sj with tlb := [] }
    (w st (sc 2) true = true ∧ laneCause (scratchSize st) true 4 (addr32 st (sc 2) 0) = some 0x31 ∧
      w st (sc 0x10000) true = true ∧ laneCause (scratchSize st) true 4 (addr32 st (sc 0x10000) 0) = some 0x41) ∧
    (w out (wtc false) false = true ∧ addr64 out (wtc false) 0 = 0x400000 ∧ (leaseCause out out.cur 0x400000 .read).isSome = true) ∧
    (w gone (wtc false) false = true ∧ leaseCause gone gone.cur 0x20000 .read = none ∧
      (match (probe gone gone.cur.acc gone.cur.site 0x20000 .read).2 with | .cause _ => true | .line _ _ | .mmio _ _ | .absent | .peer _ | .pinned => false) = true) ∧
    Free flagged 0xB4 (mk 0x800) none [] [] ∧ flagsClear flagged.cur (mk 0x800).minor = false := by decide +kernel

/-- Array commands that are out of place, one outside a region, a full queue, and an `mxm` behind an `mxrs` that has not started. -/
theorem wit_ArrayCommands_causes :
    let harvest : State := mx.upd (fun c => { c with harvest := true })
    let full : State := { mx with bonds := mx.bonds.map (fun b => { b with queue := List.replicate 16 (newCmd mx op0 0xC1) }) }
    let behind : State := { mx with bonds := mx.bonds.map (fun b => { b with queue := [newCmd mx (mo .zero .zero 4) 0xCA] }) }
    let rgn : State := mx.upd (fun c => { c with rgnOpen := true })
    let m1 := mo .zero .one 0x24C
    let two (s : State) (maj : Nat) (x : Ops) : Bool := decide (Free s maj x (minSub [matAddr s x, uniOpd s x x.b]) (matRefs x ++ opdRefs x.b 1) [])
    let odd := mo .one .one 0x000
    let past := ml 0xFFF0 .lit .zero .zero 0
    (∀ s ∈ [harvest, full, behind, rgn], Free s 0xC1 op0 none [] [] ∧ Free s 0xC3 (mz true) none [] [] ∧ two s 0xC2 m1 = true ∧ two s 0xC8 (ml 65 .zero .lit .zero 0) = true ∧
      two s 0xC6 odd = true) ∧
    (harvest.cur.harvest = true ∧ harvest.cur.rgnOpen = false ∧ inBond full (fun b => decide (16 ≤ b.queue.length)) = true) ∧
    inBond behind (fun b => (recordsAfter b.queue (some b.active.rcd) (some b.shadow.rcd)).1 == none) = true ∧
    (addr32 mx odd 0 % 16 ≠ 0 ∧ rgn.cur.markActive = false ∧ rgn.cur.markTiles = 0 ∧ m1.bit 6 = true ∧ (mo .zero .one 0x20C).bit 6 = false) ∧
    inBond mx (fun b => (cmdRanges b { newCmd mx past 0xC9 with base := addr32 mx past 0 }).any (fun r => decide (b.size < r.1 + r.2.1))) = true ∧
    decide (Free mx 0xC9 past (matAddr mx past) (matRefs past) []) = true := by decide +kernel

/-- A row that there is not, a course of harvest outside a region, a tile that a command touches, a poisoned word, and no lane. -/
theorem wit_TileAccess_causes :
    let r := tile (.v 4) .zero
    let past := opx 64 (.v 4) .zero .lit .zero 0x00C
    let wide := opx 0 (.v 4) .zero .lit .zero 0x01C
    let harvest : State := with' (fun c => { c with harvest := true })
    let poisoned : State := { st with bonds := st.bonds.map (fun b => { b with tpoison := [(tileKey 3 63 0, 1)] }) }
    let busy : State := { zeroed false with iss := iss }
    [(st, r), (st, past), (st, wide), (harvest, r), (poisoned, r), (busy, r), (st, never r)].all (fun p => decide
      (Free p.1 0xC4 p.2 (minSub [uniOpd p.1 p.2 p.2.b, dstSub p.1.cur p.2 1 p.2.d, subIf (opdIsS p.2.d) 14]) (opdRefs p.2.b 1) (opdRefs p.2.d 1))) = true ∧
    (readU st past past.b 0 = 64 ∧ wide.bit 4 = true ∧ inBond st (fun b => b.dn == 1) = true ∧ partLanes st (never r) = 0) ∧
    inBond busy (fun b => tileBusy b 3) = true ∧
    inBond poisoned (fun b => Cells.get b.tpoison (tileKey 3 63 0) != 0) = true ∧ 0 ∈ lanes poisoned r := by decide +kernel

/-- `enq` out of place, in a region, outside the lease and without a translation; a request block out of place, poisoned, or that a copy still writes. -/
theorem wit_DispatchCommands_causes :
    let s := dq false 0 0
    let open' : State := s.upd (fun c => { c with rgnOpen := true })
    let out : State := s.upd (fun c => { c with s := [(4, 0x400000)] })
    let odd : State := s.upd (fun c => { c with s := [(4, 0x14040)] })
    let gone : State := { s with tlb := [] }
    let bad : State := { s with bonds := s.bonds.map (fun b => { b with spoison := [(0, 1)] }) }
    let copied : State := again (aft (exec (.cpy ex) (eng (blk 0xC [(0x10, 0x1000), (0x18, 0), (0x20, 0x100), (0x24, 1)]))))
    let far := opx 0xFFF8 (.s 6) .lit .zero .zero 0 1
    let enqFree (s : State) (x : Ops) : Bool := decide (Free s 0xD0 x (minSub [statusDst s x, addrSub s x false, uniSub x.a, uniSub x.c, srcSub s x (.int false false) x.b, uniSub x.b])
      (addrRefs x false ++ opdRefs x.b 1) [])
    let reqFree (s : State) (x : Ops) : Bool := decide (Free s 0xD1 x (minSub [statusDst s x, minSub [addrSub s x true, uniSub x.a, uniSub x.c]]) (addrRefs x true) [])
    (∀ s ∈ [open', out, odd, gone], enqFree s enqx = true) ∧ enqFree s { enqx with b := .imm 16 } = true ∧
    (leaseCause out out.cur 0x400000 .read).isSome = true ∧ leaseCause gone gone.cur 0x14000 .read = none ∧
    (match (probe gone gone.cur.acc gone.cur.site 0x14000 .read).2 with | .cause _ => true | .line _ _ | .mmio _ _ | .absent | .peer _ | .pinned => false) = true ∧
    (∀ s ∈ [bad, copied, open'], reqFree s reqx = true) ∧ reqFree s far = true ∧ requestOut s (addr32 s far 0) = true ∧
    blockBad bad 0 (requestBytes bad 0) = true ∧ blockHeld bad 0 144 = false ∧ blockHeld copied 0 144 = true ∧
    (Free open' 0xD1 (relx .zero) (minSub [statusDst open' (relx .zero), minSub [srcSub open' (relx .zero) (.int false false) (relx .zero).b, uniSub (relx .zero).b]])
      (opdRefs (relx .zero).b 1) []) := by decide +kernel

/-- A request with room in the table and one without, and a release of a lease that no span uses. -/
theorem wit_DispatchEvents_leases :
    let full : State := { dq false 0 0 with leases := (List.range 256).map (fun k => { tenant := 1, ix := k, state := 1, asid := 1, gen := 0, spans := 0, ranges := [(6, 32)] }) }
    let ok (s : State) (f : Op → Bool) : Bool := headIs s (fun o => decide (o.entry ≠ 1 ∧ o.entry ≠ 3 ∧ o.etype ≠ 4) && opReady s s.cur o && o.stage == 0 && f o)
    let req (s : State) : State := aft (exec (.leaseReq reqx) s)
    ok (req (dq false 0 0)) (fun o => o.kind == .lease (.scl 6) 0 0 [(0x20002, 1)]) = true ∧
    ((leaseAt (req (dq false 0 0)) 1 1).state = 0 ∧ (leaseAt (req (dq false 0 0)) 1 0).state ≠ 0) ∧
    ok (req full) (fun o => o.kind == .lease (.scl 6) 0 0 [(0x20002, 1)]) = true ∧ (List.range 256).all (fun k => (leaseAt (req full) 1 k).state != 0) = true ∧
    ok (aft (exec (.leaseRel (relx .zero)) (dq false 0 0))) (fun o => o.kind == .lease (.scl 6) 1 0 []) = true ∧ leaseNamed (dq false 0 0) 1 0 = true ∧
    (leaseAt (dq false 0 0) 1 0).spans = 0 := by decide +kernel

/-- Blocks out of place, held, of bad fields and poisoned; full queues and tags; `xch` with a tag in use and with a map that cannot be read. -/
theorem wit_EngineCommands_causes :
    let copied : State := again (aft (exec (.cpy ex) (eng (blk 0xC [(0x10, 0x1000), (0x18, 0), (0x20, 0x100), (0x24, 1)]))))
    let free (s : State) (maj : Nat) (x : Ops) : Bool := decide (Free s maj x (minSub [statusDst s x, addrSub s x true, uniSub x.a, uniSub x.c]) (addrRefs x true) [])
    let full (v maj n : Nat) : State := (eng v).upd (fun c =>
      { c with ops := (List.range n).map (fun k => { newOp (eng v) ex (.engine .none maj 0 [] 0 0 false) 3 with seq := k + 1 }), nextOp := 100 })
    let poisoned (v : Nat) : State := { eng v with bonds := (eng v).bonds.map (fun b => { b with spoison := [(0, 1)] }) }
    let taken (v tag : Nat) : State := { eng v with vfs := [vf1], tags := [{ newTag 1 tag with owner := some (4, 0) }] }
    let rgn (v : Nat) : State := (eng v).upd (fun c => { c with rgnOpen := true })
    let low (v : Nat) : State := (eng v).upd (fun c => { c with ring := 0 })
    let noMap : State := { eng xchV with tlb := [] }
    let majs := [0xD2, 0xD3, 0xD4, 0xD5, 0xD6, 0xD7]
    (∀ m ∈ majs, free (eng cpyV) m { ex with c := .one } = true ∧ free copied m ex = true) ∧
    (addr32 (eng cpyV) { ex with c := .one } 0 % 16 ≠ 0 ∧ blockHeld copied 0 64 = true) ∧
    [(0xD2, cpyV), (0xD3, xchV), (0xD4, xredV), (0xD5, hashV), (0xD6, sigvV), (0xD7, scrubV)].all (fun p => decide (BlockReady (poisoned p.2) ex p.1 p.2 ∧
      blockBad (poisoned p.2) 0 64 = true ∧ BlockReady (full p.2 p.1 64) ex p.1 p.2 ∧ engineFull (full p.2 p.1 64) p.1 = true ∧ BlockReady (rgn p.2) ex p.1 p.2)) = true ∧
    (headerBad (eng (cpyV + 16)) (cpyV + 16) = true ∧ BlockReady (eng (cpyV + 16)) ex 0xD2 (cpyV + 16)) ∧
    (BlockReady (low scrubV) ex 0xD7 scrubV ∧ (low scrubV).cur.ring < 2) ∧
    (BlockReady (taken xredV 0xFFFF) ex 0xD4 xredV ∧ tagHeld (taken xredV 0xFFFF) (vfOfAsid (taken xredV 0xFFFF) 1) 0xFFFF = true) ∧
    (BlockReady (taken xchV 0xFFFF) ex 0xD3 xchV ∧ tagHeld (taken xchV 0xFFFF) (vfOfAsid (taken xchV 0xFFFF) 1) 0xFFFF = true) ∧
    (BlockReady noMap ex 0xD3 xchV ∧ (match (readMap noMap 0x14000 false).2 with | .error _ => true | .ok _ => false) = true) := by decide +kernel

/-- Requests for a VF that is not active, that a lease or a page refuses, that a pin refuses, and behind a kept one; a poisoned word. -/
theorem wit_PeerRequests_refused :
    let a : Acc := { core := none, asid := 1, tenant := 1, ring := 0, harvest := false }
    let u (s : State) : State := counted s (pk 1 1 0)
    let pin : State := { lk with l2 := (pinned false).l2 }
    let gone : State := { lk with tlb := [] }
    let poisoned : State := { lk with hpoison := [(0x214000 / 64, 1)] }
    (match serveAs (u lk) 2 false with | .error st => st == 1 | .ok _ => false) = true ∧
    (performWr (u pin) a 0x14000 (pk 3 1 0)).2 = .pinned ∧ (performWr (u gone) a 0x14000 (pk 3 1 0)).2 = .refused ∧ leaseRefuses (u gone) 1 a 0x14000 = false ∧
    (match (homeLoad (u pin) a 0x14000 4 .write).2.1 with | .pinned => true | .cause _ | .line _ _ | .mmio _ _ | .absent | .peer _ => false) = true ∧
    (match (homeLoad (u poisoned) a 0x14000 4 .write).2.1 with | .line l _ => poisonOf l.poison 0 4 | .cause _ | .pinned | .mmio _ _ | .absent | .peer _ => false) = true ∧
    (atomWrites 9 4 0x2A 0 = false) ∧ bitAt am.mask.toNat 12 = true := by decide +kernel

/-- Replies with a status, to an engine's add, to a store through, and the last awaited flushing read. -/
theorem wit_PeerReplies_other :
    let s := asked (aft (exec (.atom atx) lk))
    let add : State := asked (aft (exec (.cpy ex) { eng cpyV with nDev := 2, vfs := [vf1], ports := lk.ports, leases := lk.leases }))
    let thr : State := asked (aft (exec (.atom { atx with d := .zero, sel := 0 }) lk))
    let ok (s : State) (p : Packet) : Bool := decide (Expected s p ∧ p.status ≠ 0)
    ok s (pk 2 1 2) = true ∧ ok s (pk 7 1 2) = true ∧ ok s (pk 9 1 2) = true ∧
    headIs add (fun o => o.isEngine) = true ∧ headIs thr (fun o => decide (o.dest = .none) && !o.isEngine) = true ∧
    awaits (dropReq (counted s (pk 9 1 0)) { tag := 7, dev := 1, opc := 8, who := .op 4 (first s) 0 }) 4 (first s) = true := by decide +kernel

/-- The last member's message, a timeout of the coordinator, and one of a member. -/
theorem wit_Gangs_decisions :
    let one (r d : Nat) : State := { gang false d with gangs := [{ key := 1, arrived := true, ready := BitVec.ofNat 16 r, decision := d, freed := false }] }
    let p := { pk 12 0 0 with tag := 1 }
    let apart : State := { gang false 0 with iss := { iss with mask := 1, whole := 1 } } |> fun s => s.upd (fun c => c.setPcs 2 (fun _ => 0x20000))
    let open' : State := { gang false 0 with iss := iss } |> fun s => s.upd (fun c => { c with rgnOpen := true })
    (∀ s ∈ [apart, open', { lk with iss := iss }], Free s 0x18 op0 none [] []) ∧
    (apart.cur.reconverged = false ∧ open'.cur.rgnOpen = true ∧ ({ lk with iss := iss } : State).cur.reconverged = true ∧
      (findSpan lk lk.cur.span).any (fun y => y.rcd.gang) = false) ∧
    Expected (one 1 0) p ∧ (List.range (one 1 0).nDev).all (fun d => ((getGang (counted (one 1 0) p) 1).ready ||| BitVec.ofNat 16 (2 ^ p.src)).getLsbD d) = true ∧
    (List.range (one 0 0).nDev).all (fun d => ((getGang (counted (one 0 0) p) 1).ready ||| BitVec.ofNat 16 (2 ^ p.src)).getLsbD d) = false ∧
    gangBegun (one 1 0) 1 = true ∧ gangBegun { one 0 0 with gangs := [] } 1 = false ∧ (getGang (one 1 2) 1).decision ≠ 0 := by decide +kernel

/-- A closed tag, a lease that refuses, a page, a pin, contributions and results; the command that waits for partners, and the sixteenth replay. -/
theorem wit_ExchangesAndPorts_refused :
    let a : Acc := { core := none, asid := 1, tenant := 1, ring := 0, harvest := false }
    let x := { pk 10 1 0 with data := bytesOf 128 9 ++ bytesOf 4 5 }
    let t := tagged false 5
    let u (s : State) : State := counted s x
    let cmd : State := aft (exec (.engineCommandStart 4 (first (aft (exec (.xred ex) { eng (xredV + 2 * 2 ^ (8 * 0x26)) with vfs := [vf1], nDev := 2, ports := lk.ports, leases := lk.leases }))))
      (aft (exec (.xred ex) { eng (xredV + 2 * 2 ^ (8 * 0x26)) with vfs := [vf1], nDev := 2, ports := lk.ports, leases := lk.leases })))
    leaseRefuses (u { t with leases := [] }) 1 a 0x14000 = true ∧ (performWr (u { t with tlb := [] }) a 0x14000 x).2 = .refused ∧
    (performWr (u { t with l2 := (pinned false).l2 }) a 0x14000 x).2 = .pinned ∧
    (findTag (u t) 1 7).any (fun y => slotBlock (u t) y == none) = true ∧
    (findTag cmd 1 0xFFFF).any (fun y => (slotBlock cmd y).any (fun v => !leaseRefuses cmd 1 a ((redOf v).dst + 0) && !resultPinned cmd a ((redOf v).dst + 0))) = true ∧
    cmd.tags.map (fun y => y.owner) = [some (4, first cmd)] ∧ headIs cmd (fun o => o.isEngine && partnersAwaited cmd cmd.cur o) = true ∧
    ({ lk with ports := lk.ports.map (fun p => { p with replays := 15 }) } : State).ports.any (fun p => decide (15 ≤ p.replays)) = true := by decide +kernel

/-- A course that owes write-backs, and a handler of ring 3. -/
theorem wit_StopsAndHandlers_other :
    let o := with' (fun c => { c with owing := [0x14000] })
    let idle3 : State := { with' (fun c => { c with qid := 768, ring := 3, life := .idle }) with
      die0 := { st.die0 with tvec3 := 0x30001, list3 := [{ course := 4, frame := 0x123456789000, cause := 0x12C }] } }
    o.cur.owing ≠ [] ∧ canHalt st.cur = false ∧ handlerOf idle3 0 3 = some idle3.cur ∧ idle3.cur.life = .idle ∧ (getDie idle3 0).dead = false ∧
    (getDie idle3 0).list3 = [{ course := 4, frame := 0x123456789000, cause := 0x12C }] ∧ (getDie idle3 0).list2 = [] := by decide +kernel

/-- A quoin that more is placed on than it holds. -/
theorem wit_EvictionSteps_overfull :
    let more (pend halt : Bool) : State :=
      let s := dq false 0 0
      { s with
        spans := s.spans.map (fun x => { x with harvest := true })
        piers := s.piers.map (fun p => { p with pending := pend, halted := halt })
        bonds := s.bonds.map (fun b => { b with size := 2 ^ 20 }) }
    [(false, false), (true, false), (true, true)].all (fun p =>
      overfull (more p.1 p.2) 0 && (nextVictim (more p.1 p.2) 0).any (fun x => x.pending == p.1 && x.halted == p.2)) = true := by decide +kernel

/-- An instruction set aside, and one of a guaranteed course. -/
theorem wit_ScheduleSteps_aside :
    let a : Aside := { instr := .add (op (.v 3) (.v 1) (.v 2) .zero 0), rest := 2, whole := 3, fpm := 0, lfmode := 0, drawn := [] }
    (with' (fun c => { c with aside := some a })).cur.aside.isSome = true ∧ st.cur.harvest = false ∧ st.cur.landing = [] ∧ st.cur.life = .live ∧
    (getDie { st with die1 := { st.die1 with dead := true } } 1).dead = true ∧ (findPier (piered (fun p => { p with pending := true }) id) 2).isSome = true := by decide +kernel

/-- A debt to nobody, an unpaid balance, and a commit of the other die. -/
theorem wit_CommitsAndMeters_debts :
    let b (bal : Int) (owed : List (Nat × Nat)) : Budget := { tenant := 1, harvest := false, bal := bal, borrowed := 0, owed := owed }
    (∀ s ∈ [{ metered with budgets := [b 2 [(64, 30)]] }, { metered with budgets := [b (-70) []] }], s.budgets.length = 1) ∧
    ((0 : Int) ≤ (b 2 [(64, 30)]).bal ∧ (b (-70) []).bal < 0 ∧ 70 = (b (-70) []).bal.natAbs) ∧ commits.commit.any (fun r => r.die != 0) = true ∧ memNat 2 left.sweeps = false ∧
    listMin ((st.quoins.filter (vacated st)).map (fun e => e.qid)) = none := by decide +kernel

/-- Writes behind one that waits, one that a pin holds, and TLPs that IDE drops. -/
theorem wit_HostAccesses_waiting :
    let v2 : Vf := { vf1 with ide := 2, ideReq := true }
    let w : HostWait := { acc := ha 0x14000, read := false, len := 4, data := bytesOf 4 5 }
    (takeTlp (ide true 0) (hi true) v2 0).2 = .dropped ∧ (takeTlp (ide false 0) (hi true) { v2 with ide := 1 } 0).2 = .unsupported ∧
    (hostWriteGo 5 { hl with l2 := (pinned false).l2 } w).2.isSome = true ∧ (hw false).hostWaits.any (fun y => !y.read && y.acc.vf == w.acc.vf) = true ∧
    linkDown { hl with run := .held } = true ∧ hostVf { hl with vfs := [] } 1 = none ∧ linkDown hl = false ∧ hl.streams = [] ∧
    (∀ off ∈ [2 ^ 36, 2 ^ 36 + 2 ^ 20 - 4, 2 ^ 36 - 4, 2 ^ 36 + 2 ^ 20], ({ ha off with vf := 0 } : HostAccess).stream = none ∧ ({ ha off with vf := 0 } : HostAccess).vf = 0) ∧
    2 ^ 36 + 2 ^ 20 - 4 + 4 ≤ 2 ^ 36 + 2 ^ 20 := by decide +kernel

end Sys2Proof.Tests
end

section
/-! ### The values of memory and of atomics (R2, R211, R247, R249) -/
namespace Sys2Proof.Machine

variable {z old b cmp new : Nat}

/-- `.smin` leaves the lesser of the two as signed numbers. -/
theorem toInt_atomNew_smin : toInt (8 * z) (atomNew 4 z old b) = min (toInt (8 * z) old) (toInt (8 * z) b) := by
  change toInt (8 * z) (if toInt (8 * z) b < toInt (8 * z) old then b else old) = _
  split
  case isTrue lt => exact (min_eq_right lt.le).symm
  case isFalse ge => exact (min_eq_left (not_lt.mp ge)).symm

/-- `.smax` leaves the greater of the two as signed numbers. -/
theorem toInt_atomNew_smax : toInt (8 * z) (atomNew 5 z old b) = max (toInt (8 * z) old) (toInt (8 * z) b) := by
  change toInt (8 * z) (if toInt (8 * z) old < toInt (8 * z) b then b else old) = _
  split
  case isTrue lt => exact (max_eq_right lt.le).symm
  case isFalse ge => exact (max_eq_left (not_lt.mp ge)).symm

/-- The low half of a `.cas` operand is its comparand. -/
theorem casOperand_mod (hc : cmp < 2 ^ (8 * z)) : (cmp + new * 2 ^ (8 * z)) % 2 ^ (8 * z) = cmp := by
  rw [Nat.add_mul_mod_self_right, Nat.mod_eq_of_lt hc]

/-- The high half of a `.cas` operand is its new value. -/
theorem casOperand_div (hc : cmp < 2 ^ (8 * z)) : (cmp + new * 2 ^ (8 * z)) / 2 ^ (8 * z) = new := by
  rw [Nat.add_mul_div_right _ _ (Nat.two_pow_pos _), Nat.div_eq_of_lt hc, Nat.zero_add]

theorem atomNew_cas (hc : cmp < 2 ^ (8 * z)) : atomNew 9 z old (cmp + new * 2 ^ (8 * z)) = if old = cmp then new else old := by
  change (if old = (cmp + new * 2 ^ (8 * z)) % 2 ^ (8 * z) then (cmp + new * 2 ^ (8 * z)) / 2 ^ (8 * z) else old) = _
  rw [casOperand_mod hc, casOperand_div hc]

theorem atomWrites_cas_iff (hc : cmp < 2 ^ (8 * z)) : atomWrites 9 z old (cmp + new * 2 ^ (8 * z)) = true ↔ old = cmp := by
  simp [atomWrites, casOperand_mod hc]

/-- Settles O36: the laws of numbers in cells, and the cases of `atomNew`, of which only the signed ones and `.cas` are not its definition. -/
theorem memoryValues : Obligations.MemoryValues := by
  refine ⟨fun m a n v b k hm => ⟨wf_writeNum n m a v hm, ?_, readNum_writeNum_outside m a n v b k hm⟩,
    fun z old b cmp new _ _ hc _ => ⟨rfl, rfl, rfl, rfl, fun _ => ⟨toInt_atomNew_smin, toInt_atomNew_smax⟩, rfl, rfl, rfl,
      atomNew_cas hc, atomWrites_cas_iff hc⟩⟩
  rw [readNum_writeNum n m a v hm, Nat.pow_mul]

end Sys2Proof.Machine
end

section
/-! ### The memory after reset (R2, R17) -/
namespace Sys2Proof.Machine

/-- Settles O6: `State.reset` holds no cell of memory. -/
theorem memoryAtReset : Obligations.MemoryAtReset := memOk_reset

end Sys2Proof.Machine
end

section
/-! ### Canonical memory: the memory at home -/
namespace Sys2Proof.Machine

variable {s : State} {k pa n v asid va table level tenant off vf dev unit la : Nat} {a : Acc} {p : Packet} {l : Line} {writer : Option Nat}
variable {crc : BitVec 32} {m : BitVec 128} {d : BitVec 1024} {harvest held : Bool} {u : Use} {e : Event}

/-! Whatever a function of the model does to the state, the only functions that write the cells of `State.mem` are the few of the frozen layer
(`memOk_physWrite`, `memOk_hbmPutLine`, `memOk_bootTable`, `memOk_drop`): the rest hand the memory on. So there is one lemma per function here, in the
order of the model's files. `State.MemOk.f` says that `f` keeps the canonical form, of a state, of the first component of a pair, or of the state that an
outcome goes on to (`Out.MemOk`). A function that calls others has a proof that names them in the order they run: `h.upd.done` for `done (s.upd f) x`. One
that branches is split along its own branches by `fun_cases`. -/

/-- The state that an outcome goes on to has its memory in canonical form. -/
def Out.MemOk : Out → Prop
  | .next t => t.MemOk
  | .fault _ | .refused _ => True

/-! #### Branches, folds and results -/

theorem State.MemOk.ite {p : Prop} [Decidable p] {t : State} (hs : s.MemOk) (ht : t.MemOk) : (if p then s else t).MemOk := memOk_ite s t hs ht

theorem State.MemOk.ite_fst {α : Type} {p : Prop} [Decidable p] {x y : State × α} (hx : x.1.MemOk) (hy : y.1.MemOk) :
    (if p then x else y).1.MemOk := by
  split
  · exact hx
  · exact hy

theorem Out.MemOk.ite {p : Prop} [Decidable p] {x y : Out} (hx : x.MemOk) (hy : y.MemOk) : Out.MemOk (if p then x else y) := by
  split
  · exact hx
  · exact hy

theorem State.MemOk.foldl {α : Type} {f : State → α → State} {xs : List α} (h : s.MemOk) (hf : ∀ s x, s.MemOk → (f s x).MemOk) :
    (xs.foldl f s).MemOk := memOk_foldl xs f hf s h

/-- Applying functions that each keep the form. -/
theorem State.MemOk.foldl_apply {fs : List (State → State)} (h : s.MemOk) (hf : ∀ f ∈ fs, ∀ s, s.MemOk → (f s).MemOk) :
    (fs.foldl (fun s f => f s) s).MemOk := List.foldlRecOn fs _ h fun s hs f m => hf f m s hs

/-- The state of a result that is known: how a proof goes on from `match f s with | (t, r) => …`. -/
theorem State.MemOk.of_eq {α : Type} {x : State × α} {t : State} {r : α} (h : x.1.MemOk) (e : x = (t, r)) : t.MemOk := by
  subst e
  exact h

theorem State.MemOk.pair {α : Type} {x : α} (h : s.MemOk) : (s, x).1.MemOk := h

theorem State.MemOk.cast {t : State} (h : s.MemOk) (e : s = t) : t.MemOk := e ▸ h

/-! The fields beside the memory do not matter. These forms state it where the kernel would otherwise unfold the whole of `s` to see it. -/

theorem State.MemOk.of_mem {t : State} (h : s.MemOk) (e : s.mem = t.mem) : t.MemOk := by
  unfold State.MemOk at h ⊢
  rwa [← e]

theorem State.MemOk.with_cur {c : Course} (h : s.MemOk) : ({ s with cur := c } : State).MemOk := h
theorem State.MemOk.with_run {r : Run} (h : s.MemOk) : ({ s with run := r } : State).MemOk := h
theorem State.MemOk.with_rings {rs : List Ring} (h : s.MemOk) : ({ s with rings := rs } : State).MemOk := h
theorem State.MemOk.with_shares {gs : List ShareEntry} (h : s.MemOk) : ({ s with shares := gs } : State).MemOk := h

/-! #### Tables and physical memory -/

theorem State.MemOk.sectorSettle {whole : Bool} (h : s.MemOk) : (sectorSettle s k whole).MemOk := memOk_sectorSettle _ _ _ h
theorem State.MemOk.settleFor (h : s.MemOk) : (settleFor s pa n).MemOk := memOk_settleFor _ _ _ h
theorem State.MemOk.physWrite (h : s.MemOk) : (physWrite s pa n v).MemOk := memOk_physWrite _ _ _ _ h
theorem State.MemOk.fillWalk (h : s.MemOk) : (fillWalk s asid va table level).MemOk := .ite h h

theorem State.MemOk.fillWalks (h : s.MemOk) : (fillWalks s asid va table level).MemOk := by
  fun_induction Machine.fillWalks with
  | case1 | case2 => exact h
  | case3 _ _ _ _ _ ih => exact ih h.fillWalk

theorem State.MemOk.fillTlb (h : s.MemOk) : (fillTlb s a va).MemOk := by
  fun_cases Machine.fillTlb with
  | case1 | case3 => exact h
  | case2 => exact .of_mem h.fillWalks rfl

/-! #### Packets that leave -/

theorem State.MemOk.perfAdd (h : s.MemOk) : (perfAdd s tenant off n).MemOk := .ite h (.ite h h)
theorem State.MemOk.countSent (h : s.MemOk) : (countSent s vf dev).MemOk := h
theorem State.MemOk.sendPkt (h : s.MemOk) : (sendPkt s p).MemOk := h.perfAdd
theorem State.MemOk.relay (h : s.MemOk) : (relay s p).MemOk := .ite h h

theorem State.MemOk.accept {f : State → State} (h : s.MemOk) (hf : ∀ s, s.MemOk → (f s).MemOk) : (accept s p f).MemOk := by
  fun_cases Machine.accept with
  | case1 => exact h.relay
  | case2 => exact hf _ h
  | case3 => exact h

theorem State.MemOk.invalidateSharers (h : s.MemOk) : (invalidateSharers s l writer).MemOk := .ite h (.foldl h fun _ _ hs => hs.sendPkt)
theorem State.MemOk.postWr (h : s.MemOk) : (postWr s vf dev p).MemOk := .ite h.sendPkt.countSent h

/-! #### HBM and L2 -/

theorem State.MemOk.bumpFresh (h : s.MemOk) : (bumpFresh s).MemOk := h
theorem State.MemOk.putCrc (h : s.MemOk) : (putCrc s pa crc k).MemOk := memOk_putCrc _ _ _ _ h
theorem State.MemOk.hbmPutLine {p : BitVec 2} (h : s.MemOk) : (hbmPutLine s pa m d p crc).MemOk := memOk_hbmPutLine _ _ _ _ _ _ h
theorem State.MemOk.countCorrection {bank : Nat} (h : s.MemOk) : (countCorrection s unit bank).MemOk := .ite h h

theorem State.MemOk.readRowOf {d y : Nat} (h : s.MemOk) : (readRowOf s unit d y).1.MemOk := by
  fun_cases Machine.readRowOf with
  | case1 | case3 | case4 => exact h
  | case2 => exact h.countCorrection

theorem State.MemOk.readLine (h : s.MemOk) : (readLine s unit l).1.MemOk := by
  fun_cases Machine.readLine with
  | case1 => exact h
  | case2 _ _ _ e | case3 _ _ _ e => exact h.readRowOf.of_eq e

theorem State.MemOk.l2Put (h : s.MemOk) : (l2Put s l).MemOk := h
theorem State.MemOk.l2Drop (h : s.MemOk) : (l2Drop s asid la).MemOk := h
theorem State.MemOk.drawBucket (h : s.MemOk) : (drawBucket s tenant harvest la).MemOk := h
theorem State.MemOk.takeBucket (h : s.MemOk) : (takeBucket s tenant harvest la).MemOk := h.perfAdd.drawBucket

theorem State.MemOk.l2WriteBack (h : s.MemOk) : (l2WriteBack s l).MemOk := by
  fun_cases Machine.l2WriteBack with
  | case1 | case3 => exact h
  | case2 => exact h.readLine.takeBucket.hbmPutLine

theorem State.MemOk.l2Evict (h : s.MemOk) : (l2Evict s l).MemOk := .l2Drop (.invalidateSharers (.ite h h.l2WriteBack))
theorem State.MemOk.physHomeWrite (h : s.MemOk) : (physHomeWrite s pa n v).MemOk := h.physWrite

theorem State.MemOk.l2Fill (h : s.MemOk) : (l2Fill s a l).1.MemOk := by
  fun_cases Machine.l2Fill with
  | case1 => exact h
  | case2 _ _ _ t =>
    refine .l2Put ?_
    subst t
    split
    · exact h.l2Evict
    · exact h

theorem State.MemOk.homeGet0 (h : s.MemOk) : (homeGet0 s a va u).1.MemOk := by
  have mismatch {hit : Option Line} {as : Nat} :
      (match hit, Machine.l2Find s as (lineOf va) with | none, some _ => Machine.l2Drop s as (lineOf va) | _, _ => s).MemOk := by
    split
    · exact h.l2Drop
    · exact h
  fun_cases Machine.homeGet0 with
  | case1 | case3 => exact mismatch
  | case2 => exact State.MemOk.l2Put mismatch
  | case4 => exact .perfAdd (.l2Put (State.MemOk.readLine mismatch))
  | case5 | case6 => exact State.MemOk.readLine mismatch
  | case7 => exact .l2Put (.takeBucket (State.MemOk.readLine mismatch))
  | case8 => exact .perfAdd mismatch
  | case9 | case10 | case11 => exact .fillTlb (.perfAdd mismatch)
  | case12 => exact .l2Fill (.takeBucket (.fillTlb (.perfAdd mismatch)))

theorem State.MemOk.homePut (h : s.MemOk) : (homePut s l held m).MemOk := by
  fun_cases Machine.homePut with
  | case1 => exact h.l2Put
  | case2 => exact h.takeBucket.hbmPutLine
  | case3 => exact h

theorem State.MemOk.ringStore (h : s.MemOk) : (ringStore s asid va n v).MemOk := by
  fun_cases Machine.ringStore with
  | case1 _ _ _ _ e => exact (h.homeGet0.of_eq e).homePut
  | case2 _ _ _ _ e => exact h.homeGet0.of_eq e

theorem State.MemOk.ringPut {r : Ring} (h : s.MemOk) : (ringPut s r).MemOk := .physHomeWrite (.physHomeWrite (.physHomeWrite h))

theorem State.MemOk.ringAppend {k : RingKind} {mk : Nat → Nat} (h : s.MemOk) : (ringAppend s k mk).1.MemOk := by
  fun_cases Machine.ringAppend with
  | case1 | case2 => exact h
  | case3 => exact h.ringPut
  | case4 => exact h.ringStore.ringPut

theorem State.MemOk.postEvent {k : RingKind} (h : s.MemOk) : (postEvent s k e).MemOk := h.ringAppend.bumpFresh
theorem State.MemOk.postDie {die : Nat} (h : s.MemOk) : (postDie s die e).MemOk := h.postEvent
theorem State.MemOk.postRetired (h : s.MemOk) : (postRetired s).MemOk := .ite h (.foldl h fun _ _ hs => hs.postDie)

theorem State.MemOk.dropMismatch (h : s.MemOk) : (dropMismatch s asid tenant la).MemOk := by
  fun_cases Machine.dropMismatch with
  | case1 | case3 => exact h
  | case2 => exact h.l2Drop.postDie

theorem State.MemOk.homeGet (h : s.MemOk) : (homeGet s a va u).1.MemOk := .ite_fst h.dropMismatch h.dropMismatch.homeGet0.postRetired

theorem State.MemOk.logDirty (h : s.MemOk) : (logDirty s asid va).MemOk := by
  refine .foldl h fun _ _ hs => .ite hs ?_
  split
  · exact hs
  · refine .ite hs ?_
    dsimp only
    split
    next e => exact .of_mem (hs.ringAppend.of_eq e) rfl
    next e => exact .postDie (.of_mem (hs.ringAppend.of_eq e) rfl)

theorem State.MemOk.notifyHost (h : s.MemOk) : (notifyHost s asid va).MemOk := .foldl h fun _ _ hs => .ite hs (.ite hs (.ite hs hs))
theorem State.MemOk.afterWrite (h : s.MemOk) : (afterWrite s asid la m).MemOk := .foldl (.logDirty h) fun _ _ hs => hs.notifyHost

theorem State.MemOk.homeWrite {p : BitVec 2} (h : s.MemOk) : (homeWrite s a la m d p writer).1.MemOk := by
  fun_cases Machine.homeWrite with
  | case1 _ _ _ e => exact (h.homeGet.of_eq e).homePut.postWr
  | case2 _ _ _ e => exact (h.homeGet.of_eq e).homePut.invalidateSharers.afterWrite
  | case3 _ _ e => exact (h.homeGet.of_eq e).postWr
  | case4 _ _ _ _ e => exact h.homeGet.of_eq e

theorem State.MemOk.homeStore (h : s.MemOk) : (homeStore s a va n v).1.MemOk := h.homeWrite
theorem State.MemOk.checkOut (h : s.MemOk) : (checkOut s l held off n).1.MemOk := .ite_fst h (.ite h.l2Put h)

theorem State.MemOk.homeLoad (h : s.MemOk) : (homeLoad s a va n u).1.MemOk := by
  fun_cases Machine.homeLoad with
  | case1 _ _ _ e => exact (h.homeGet.of_eq e).checkOut
  | case2 _ _ _ e => exact h.homeGet.of_eq e

end Sys2Proof.Machine
end

section
/-! ### Canonical memory: L1 lines and spans -/
namespace Sys2Proof.Machine

variable {s : State} {l : Line} {core asid la va n hint scope tenant detail id cause : Nat} {a : Acc} {si : Site} {u : Use} {asids : List Nat}
variable {ls : List Line} {f : FaultRec} {sp : Span}

/-! #### Lines of an L1 -/

theorem State.MemOk.l1Put {old : Bool} (h : s.MemOk) : (l1Put s l old).MemOk := h
theorem State.MemOk.l1Drop (h : s.MemOk) : (l1Drop s core asid la).MemOk := h

theorem State.MemOk.notePeers {owners : List Nat} {dev : Option Nat} (h : s.MemOk) : (notePeers s owners dev).MemOk := by
  fun_cases Machine.notePeers with
  | case1 | case2 => exact h

theorem State.MemOk.readL1 (h : s.MemOk) : (readL1 s l).1.MemOk := .ite_fst h (.postRetired h.readLine)

theorem State.MemOk.l1WriteBack (h : s.MemOk) : (l1WriteBack s l).1.MemOk := by
  fun_cases Machine.l1WriteBack with
  | case1 => exact h
  | case2 _ _ _ e => exact h.readL1.homeWrite.of_eq e
  | case3 _ _ _ _ _ e => exact (h.readL1.homeWrite.of_eq e).notePeers
  | case4 _ _ _ _ _ _ e => exact h.readL1.homeWrite.of_eq e

theorem State.MemOk.cleanL1 (h : s.MemOk) : (cleanL1 s l).MemOk := h

theorem State.MemOk.pinLine (h : s.MemOk) : (pinLine s l).1.MemOk := by
  fun_cases Machine.pinLine with
  | case1 | case2 => exact h.dropMismatch.l2Put
  | case3 => exact h.dropMismatch.l1WriteBack
  | case4 _ _ _ _ _ t =>
    refine .l2Put ?_
    subst t
    split
    · exact h.dropMismatch.l2Evict
    · exact h.dropMismatch

theorem State.MemOk.displace (h : s.MemOk) : (displace s l).1.MemOk := by
  fun_cases Machine.displace with
  | case1 => exact h.l1Drop
  | case2 _ _ e => exact h.l1WriteBack.of_eq e
  | case3 _ _ e => exact (h.l1WriteBack.of_eq e).pinLine.l1Drop

theorem State.MemOk.l1Alloc {quoin : Nat} (h : s.MemOk) : (l1Alloc s core quoin la).1.MemOk := by
  fun_cases Machine.l1Alloc with
  | case1 | case3 => exact h
  | case2 => exact h.displace

theorem State.MemOk.coreFill {y : Line} {held : Bool} (h : s.MemOk) : (coreFill s a si va n hint y held).1.MemOk := by
  fun_cases Machine.coreFill with
  | case1 => exact h.checkOut
  | case2 => exact h.checkOut.l1Put
  | case3 _ _ _ _ _ _ _ _ e => exact h.checkOut.l1Alloc.of_eq e
  | case4 _ _ _ _ _ _ _ _ _ _ e => exact (h.checkOut.l1Alloc.of_eq e).l1Put

theorem State.MemOk.coreRead (h : s.MemOk) : (coreRead s a si va n hint u).1.MemOk := by
  have held {y : Option Line} : (match y with | some l => (Machine.readL1 s l).1 | none => s).MemOk := by
    split
    · exact h.readL1
    · exact h
  fun_cases Machine.coreRead with
  | case1 => exact h
  | case2 => exact h.readL1.l1Put
  | case3 _ _ _ _ _ _ _ _ _ _ _ _ _ e => exact (held.homeGet.of_eq e).coreFill
  | case4 _ _ _ _ _ _ _ _ _ _ _ _ _ e => exact held.homeGet.of_eq e

theorem State.MemOk.probe (h : s.MemOk) : (probe s a si va u).1.MemOk := by
  fun_cases Machine.probe with
  | case1 | case2 | case3 | case4 | case5 | case8 | case9 | case10 | case13 => exact h
  | case6 | case7 | case11 | case12 | case14 => exact h.fillTlb

theorem State.MemOk.coreStore {v : Nat} (h : s.MemOk) : (coreStore s a si va n v).1.MemOk := by
  fun_cases Machine.coreStore with
  | case1 _ _ _ _ _ _ _ e => exact (h.probe.of_eq e).readL1.l1Put
  | case2 _ _ _ _ _ e _ _ e2 => exact (h.probe.of_eq e).l1Alloc.of_eq e2
  | case3 _ _ _ _ _ _ _ e _ _ _ e2 => exact ((h.probe.of_eq e).l1Alloc.of_eq e2).l1Put
  | case4 _ _ _ e => exact h.probe.of_eq e

theorem State.MemOk.clearPins (h : s.MemOk) : (clearPins s core asids).MemOk := h

theorem State.MemOk.writeBackAll (h : s.MemOk) : (writeBackAll s ls).1.MemOk := by
  fun_induction Machine.writeBackAll with
  | case1 => exact h
  | case2 _ _ _ _ _ _ _ ih => exact ih (State.MemOk.ite h.l1WriteBack.cleanL1 h.l1WriteBack)

theorem State.MemOk.pinAll (h : s.MemOk) : (pinAll s ls).1.MemOk := by
  fun_induction Machine.pinAll with
  | case1 => exact h
  | case2 _ _ _ _ e ih => exact ih (h.pinLine.of_eq e).cleanL1
  | case3 _ _ _ _ e ih | case4 _ _ _ _ e ih => exact ih (h.pinLine.of_eq e)

theorem State.MemOk.releaseLines (h : s.MemOk) : (releaseLines s core asids scope).1.MemOk :=
  .ite_fst h (.ite_fst h.pinAll (.ite_fst h.writeBackAll.clearPins h.writeBackAll))

theorem State.MemOk.acquireLines (h : s.MemOk) : (acquireLines s core asids scope).MemOk := .ite h h

theorem State.MemOk.endPin (h : s.MemOk) : (endPin s asid la).MemOk := by
  fun_cases Machine.endPin with
  | case1 | case3 => exact h
  | case2 x _ _ _ t =>
    have ht : t.MemOk := by
      subst t
      split
      · exact h.l1WriteBack.cleanL1
      · exact h
    exact ht

theorem State.MemOk.l1Stale (h : s.MemOk) : (l1Stale s core asid la).MemOk := h

theorem State.MemOk.fenceLine (h : s.MemOk) : (fenceLine s core asid tenant la).MemOk := by
  fun_cases Machine.fenceLine with
  | case1 _ t =>
    refine .l2Evict ?_
    subst t
    split
    · exact h.dropMismatch.endPin.l1WriteBack.l1Drop
    · exact h.dropMismatch.endPin
  | case2 _ t =>
    subst t
    split
    · exact h.dropMismatch.endPin.l1WriteBack.l1Drop
    · exact h.dropMismatch.endPin

/-! #### Parking, queues and spans -/

theorem State.MemOk.sendReq {p : Packet} {who : ReqWho} (h : s.MemOk) : (sendReq s p who).MemOk := .sendPkt h

theorem State.MemOk.writeFaultRec (h : s.MemOk) : (writeFaultRec s f).MemOk := by
  fun_cases Machine.writeFaultRec with
  | case1 _ e => exact (h.ringAppend.of_eq e).bumpFresh
  | case2 _ e => exact (h.ringAppend.of_eq e).bumpFresh.postEvent.postDie

theorem State.MemOk.leaveReady {c : Nat} (h : s.MemOk) : (leaveReady s c).MemOk := h

theorem State.MemOk.parkOn {part : Nat} {who : Nat × Nat} (h : s.MemOk) : (parkOn s asid part who f).MemOk := by
  fun_cases Machine.parkOn with
  | case1 => exact h.leaveReady
  | case2 | case3 => exact .writeFaultRec h

theorem State.MemOk.unpark {who : Nat × Nat → Bool} (h : s.MemOk) : (unpark s who).MemOk := h
theorem State.MemOk.leasePut {l : Lease} (h : s.MemOk) : (leasePut s l).MemOk := h
theorem State.MemOk.leaseCount {l : Lease} (h : s.MemOk) : (leaseCount s l n).MemOk := h.leasePut.physWrite
theorem State.MemOk.leaseDrop {y : Nat} (h : s.MemOk) : (leaseDrop s tenant y).MemOk := .ite h.leaseCount h
theorem State.MemOk.putQueue {x : Queue} (h : s.MemOk) : (putQueue s x).MemOk := .physHomeWrite (.physHomeWrite h)
theorem State.MemOk.putSpan (h : s.MemOk) : (putSpan s sp).MemOk := h

theorem State.MemOk.takeRecords {q fuel : Nat} (h : s.MemOk) : (takeRecords s tenant q fuel).MemOk := by
  fun_induction Machine.takeRecords with
  | case1 => exact h.putSpan
  | case2 | case4 => exact h
  | case3 _ _ _ _ _ t ih =>
    refine ih (State.MemOk.putSpan ?_)
    subst t
    split
    · exact h.putQueue
    · exact h

theorem State.MemOk.leaveQueue (h : s.MemOk) : (leaveQueue s sp).MemOk := h.takeRecords
theorem State.MemOk.completionRefused (h : s.MemOk) : (completionRefused s sp va detail).MemOk := h.postEvent

theorem State.MemOk.completionWrite (h : s.MemOk) : (completionWrite s sp va detail).1.MemOk := by
  fun_cases Machine.completionWrite with
  | case1 => exact h.completionRefused
  | case2 _ _ _ _ _ _ _ e => exact (h.homeLoad.of_eq e).l2Drop.sendReq
  | case3 _ _ _ _ _ _ e => exact (h.homeLoad.of_eq e).completionRefused
  | case4 _ _ _ _ _ _ _ e => exact (h.homeLoad.of_eq e).homeStore
  | case5 _ _ _ _ _ _ e => exact (h.homeLoad.of_eq e).sendReq
  | case6 _ _ _ _ _ e => exact (h.homeLoad.of_eq e).completionRefused
  | case7 _ _ _ _ e => exact h.homeLoad.of_eq e
  | case8 _ _ _ _ e => exact (h.homeLoad.of_eq e).parkOn
  | case9 _ _ _ _ e | case10 _ _ _ _ _ e | case11 _ _ _ _ _ _ e => exact (h.homeLoad.of_eq e).completionRefused

theorem State.MemOk.releaseCores {cores : List Nat} (h : s.MemOk) : (releaseCores s asids cores).1.MemOk := by
  fun_induction Machine.releaseCores with
  | case1 => exact h
  | case2 _ _ _ _ _ ih => exact ih h.releaseLines

theorem State.MemOk.gangRenew {key : Nat} (h : s.MemOk) : (gangRenew s key).MemOk := h
theorem State.MemOk.writeDecided (h : s.MemOk) : (writeDecided s sp).MemOk := .ite h.putSpan (.leaseDrop (.putSpan (.ite h.gangRenew h)))

theorem State.MemOk.completionReplied {status : Nat} (h : s.MemOk) : (completionReplied s id status).MemOk := by
  fun_cases Machine.completionReplied with
  | case1 | case2 => exact h
  | case3 => exact .writeDecided (.ite h h.completionRefused)

theorem State.MemOk.completeStep (h : s.MemOk) : (completeStep s sp).MemOk := by
  fun_cases Machine.completeStep with
  | case1 | case4 | case5 => exact h
  | case2 => exact h.releaseCores.putSpan
  | case3 => exact .putSpan (.foldl h.releaseCores fun _ _ hs => hs.sendReq)
  | case6 _ _ _ _ _ e => exact (h.completionWrite.of_eq e).writeDecided
  | case7 _ _ _ _ _ e => exact (h.completionWrite.of_eq e).putSpan
  | case8 _ _ _ _ _ e => exact h.completionWrite.of_eq e

theorem State.MemOk.completeSpan (h : s.MemOk) : (completeSpan s id).MemOk := by
  have one {t : State} (ht : t.MemOk) :
      (match Machine.findSpan t id with | some sp => if sp.state = SpanState.completing then Machine.completeStep t sp else t | none => t).MemOk := by
    split
    · exact .ite ht.completeStep ht
    · exact ht
  exact one (one (one h))

theorem State.MemOk.stopPiers (h : s.MemOk) : (stopPiers s id cause).MemOk := h

theorem State.MemOk.endSpan {kind : Nat} (h : s.MemOk) : (endSpan s id kind cause).MemOk := by
  fun_cases Machine.endSpan with
  | case1 | case2 => exact h
  | case3 => exact .completeSpan (.stopPiers (.ite (.leaveQueue (.putSpan h)) (.putSpan h)))

end Sys2Proof.Machine
end

section
/-! ### Canonical memory: courses, exceptions and fetching -/
namespace Sys2Proof.Machine

variable {s : State} {id va v n cause tpc info ring die off pc : Nat} {a : Acc} {t : Trap} {fs : List LaneFault} {o : Op} {vals : List (Nat × Nat)}
variable {x : Ops} {m : LaneSet}

/-! #### Traps and operations -/

theorem State.MemOk.upd {f : Course → Course} (h : s.MemOk) : (s.upd f).MemOk := h

theorem State.MemOk.atCourse {f : State → State} (h : s.MemOk) (hf : ∀ s, s.MemOk → (f s).MemOk) : (atCourse s id f).MemOk := by
  fun_cases Machine.atCourse with
  | case1 => exact hf s h
  | case2 => exact h
  | case3 | case4 => exact hf _ h

theorem State.MemOk.updDie {d : Nat} {f : Die → Die} (h : s.MemOk) : (updDie s d f).MemOk := .ite h h

theorem State.MemOk.settleSleep (h : s.MemOk) : (settleSleep s).MemOk := by
  fun_cases Machine.settleSleep with
  | case1 | case2 => exact h

theorem State.MemOk.writeBlock (h : s.MemOk) : (writeBlock s a va v n).MemOk := by
  fun_induction Machine.writeBlock with
  | case1 => exact h
  | case2 s va v k la t u ih =>
    have ht : t.MemOk := by
      subst t
      split
      next e => exact (h.homeWrite.of_eq e).endPin.homeWrite
      next e => exact h.homeWrite.of_eq e
    refine ih ?_
    subst u
    split
    · exact ht.l1Stale
    · exact ht

theorem State.MemOk.readBlock (h : s.MemOk) : (readBlock s a va n).1.MemOk := by
  fun_induction Machine.readBlock with
  | case1 => exact h
  | case2 s va k t _ v e rest ih => exact .pair (ih (h.homeLoad.of_eq e))

theorem State.MemOk.writeFrame {c : Course} (h : s.MemOk) : (writeFrame s c va v).MemOk := h.writeBlock

theorem State.MemOk.doubleFault (h : s.MemOk) : (doubleFault s n t).MemOk := by
  fun_cases Machine.doubleFault with
  | case1 => exact h.writeFrame.updDie.with_run
  | case2 => exact h.writeFrame.endSpan.updDie.upd.updDie
  | case3 => exact h.writeFrame.endSpan.updDie

theorem State.MemOk.trapRing1 (h : s.MemOk) : (trapRing1 s t).MemOk := by
  fun_cases Machine.trapRing1 with
  | case1 => exact h.doubleFault
  | case2 => exact h.writeFrame.upd

theorem State.MemOk.trapListed (h : s.MemOk) : (trapListed s n t).MemOk := by
  fun_cases Machine.trapListed with
  | case1 => exact h.doubleFault
  | case2 => exact h.writeFrame.updDie.upd

theorem State.MemOk.routeTrap {fuel : Nat} (h : s.MemOk) : (routeTrap s n t fuel).MemOk := by
  fun_induction Machine.routeTrap with
  | case1 | case2 | case5 => exact h.doubleFault
  | case3 => exact h.trapRing1
  | case4 => exact h.trapListed
  | case6 _ _ _ _ _ _ ih => exact ih

theorem State.MemOk.takePending (h : s.MemOk) : (takePending s).MemOk := by
  fun_cases Machine.takePending with
  | case1 | case2 => exact h
  | case3 => exact h.settleSleep.upd.routeTrap.upd

theorem State.MemOk.raise {lanes recs : LaneSet} (h : s.MemOk) : (raise s cause lanes tpc info recs).MemOk := .ite h.endSpan h.upd.takePending
theorem State.MemOk.raiseSubset (h : s.MemOk) : (raiseSubset s cause info).MemOk := h.raise

theorem State.MemOk.laneFaults {hold : Bool} (h : s.MemOk) : (laneFaults s hold tpc fs).MemOk := by
  fun_cases Machine.laneFaults with
  | case1 => exact h
  | case2 | case3 => exact .ite h.upd.upd h.upd.raise

theorem State.MemOk.noEligibleAt (h : s.MemOk) : (noEligibleAt s tpc).MemOk := .ite h.raise h
theorem State.MemOk.noEligible (h : s.MemOk) : (noEligible s).MemOk := h.noEligibleAt
theorem State.MemOk.noEligibleHere (h : s.MemOk) : (noEligibleHere s).MemOk := h.noEligibleAt

theorem State.MemOk.resumeFrame (h : s.MemOk) : (resumeFrame s ring va).1.MemOk := by
  fun_cases Machine.resumeFrame with
  | case1 c ents t raw e => exact h.readBlock.of_eq e
  | case2 c ents t raw e => exact .pair (.endSpan (h.readBlock.of_eq e).with_cur)
  | case3 c ents t raw e => exact (h.readBlock.of_eq e).with_cur.pair

/-- As `State.MemOk.atCourse`, with the value of `f` as a variable, so that the kernel does not unfold `f`. -/
theorem State.MemOk.atCourse_eq {f : State → State} (h : s.MemOk) (hf : ∀ s t, f s = t → s.MemOk → t.MemOk) :
    (Machine.atCourse s id f).MemOk := h.atCourse fun s hs => hf s _ rfl hs

theorem State.MemOk.returnTrap (h : s.MemOk) : (returnTrap s).MemOk := by
  fun_cases Machine.returnTrap with
  | case1 c refused t e => exact State.MemOk.noEligible (h.resumeFrame.of_eq e).upd
  | case2 c refused _ t e => exact (h.resumeFrame.of_eq e).doubleFault
  | case3 => exact h.upd
  | case4 => exact h.upd.updDie
  | case5 => exact h.upd.updDie
  | case6 => exact .updDie (.upd (h.atCourse_eq fun _ _ e hs => hs.resumeFrame.noEligibleHere.cast e))
  | case7 => exact h.doubleFault

theorem State.MemOk.dropOpFlags (h : s.MemOk) : (dropOpFlags s o).MemOk := by
  fun_cases Machine.dropOpFlags with
  | case1 =>
    refine .foldl h fun _ _ hs => ?_
    split
    next e => exact (hs.homeLoad.of_eq e).homeStore
  | case2 => exact h.upd

theorem State.MemOk.unstallQuoin {qid : Nat} (h : s.MemOk) : (unstallQuoin s qid).MemOk := .ite h h
theorem State.MemOk.removeOp {seq : Nat} (h : s.MemOk) : (removeOp s seq).MemOk := h.upd.unstallQuoin
theorem State.MemOk.putOp (h : s.MemOk) : (putOp s o).MemOk := h.upd

theorem State.MemOk.arriveEntry (h : s.MemOk) : (arriveEntry s o vals).MemOk := by
  fun_cases Machine.arriveEntry with
  | case1 => exact h
  | case2 _ _ _ _ _ _ _ _ _ e => exact (h.homeLoad.of_eq e).putOp
  | case3 _ _ _ _ _ _ _ _ _ _ _ e => exact .putOp (.homeStore (.foldl (h.homeLoad.of_eq e) fun _ _ hs => hs.homeStore))

theorem State.MemOk.finishOp (h : s.MemOk) : (finishOp s o vals).MemOk := .ite h.arriveEntry (.takePending (.dropOpFlags (.removeOp (.ite h h.upd))))

/-! #### Issue -/

theorem State.MemOk.holdIssue (h : s.MemOk) : (holdIssue s).MemOk := h
theorem State.MemOk.stallIssue (h : s.MemOk) : (stallIssue s).MemOk := h

theorem State.MemOk.issue {maj : Nat} {c1 c2 : Option Nat} {body : LaneSet → Out} (h : s.MemOk) (hbody : ∀ m, (body m).MemOk) :
    (issue s maj x c1 c2 body).MemOk := by
  fun_cases Machine.issue with
  | case1 | case2 | case3 => exact h.raiseSubset
  | case4 => exact hbody _

theorem State.MemOk.pass (h : s.MemOk) : (s.pass x).MemOk := h.upd
theorem State.MemOk.done (h : s.MemOk) : (done s x).MemOk := h.pass.noEligible
theorem State.MemOk.trapOut (h : s.MemOk) : (trapOut s cause).MemOk := h.raiseSubset

theorem State.MemOk.issueOpF {pre : List Op} {after : State → Nat → State} (h : s.MemOk) (hafter : ∀ s n, s.MemOk → (after s n).MemOk) :
    (issueOpF s x n pre o fs after).MemOk := by
  fun_cases Machine.issueOpF with
  | case1 => exact h.stallIssue
  | case2 => exact h.holdIssue
  | case3 => exact State.MemOk.noEligible (.laneFaults (hafter _ _ h))

theorem State.MemOk.issueOp (h : s.MemOk) : (issueOp s x n o).MemOk := h.issueOpF fun _ _ hs => hs

/-! #### Counter pages -/

theorem State.MemOk.updCourses {p : Course → Bool} {f : Course → Course} (h : s.MemOk) : (updCourses s p f).MemOk := h
theorem State.MemOk.prqComplete {overdue : Bool} (h : s.MemOk) : (prqComplete s die overdue).MemOk := .updDie h

theorem State.MemOk.startPrq {kind : Nat} {q : Prq} (h : s.MemOk) : (startPrq s die kind q).MemOk := by
  fun_cases Machine.startPrq with
  | case1 => exact h
  | case2 => exact h.updDie.prqComplete
  | case3 _ t =>
    have ht : t.MemOk := h.updDie
    exact State.MemOk.prqComplete ht
  | case4 _ t | case5 _ t =>
    have ht : t.MemOk := h.updDie
    exact ht

theorem State.MemOk.pageWord (h : s.MemOk) : (pageWord s ring die off v).MemOk :=
  .ite h.updDie (.ite h.updDie (.ite h.updDie (.ite h.startPrq (.ite h.updDie
      (.ite h.updDie (.ite h.updDie (.ite h.updDie (.ite h.updDie (.ite h.updDie (.ite (.ite h.updDie h) (.ite (.ite h.updDie h) h)))))))))))

theorem State.MemOk.dieWrite (h : s.MemOk) : (dieWrite s ring die off n v).MemOk := .foldl h fun _ _ hs => hs.pageWord

/-! #### Selection and fetching -/

theorem State.MemOk.askLine {dev : Nat} {who : ReqWho} (h : s.MemOk) : (askLine s a dev va who).MemOk := h.sendReq
theorem State.MemOk.stampReady (h : s.MemOk) : (stampReady s).MemOk := h

theorem State.MemOk.focus (h : s.MemOk) : (focus s id).MemOk := by
  fun_cases Machine.focus with
  | case1 | case2 | case3 => exact h

theorem State.MemOk.passOver {ids : List Nat} (h : s.MemOk) : (passOver s ids).MemOk := h

theorem State.MemOk.selectCourse {t : State} {b : Bool} (h : s.MemOk) : selectCourse s = some (t, b) → t.MemOk := by
  fun_cases Machine.selectCourse with
  | case1 => nofun
  | case2 =>
    rintro ⟨⟩
    exact h.stampReady.passOver.focus
  | case3 =>
    rintro ⟨⟩
    exact h.stampReady.passOver

theorem State.MemOk.fetchWord (h : s.MemOk) : (fetchWord s va).1.MemOk := by
  fun_cases Machine.fetchWord with
  | case1 | case2 => exact h
  | case3 _ _ _ _ _ _ _ _ e | case4 _ _ _ _ _ _ _ _ e | case5 _ _ _ _ _ _ _ _ _ e => exact h.coreRead.of_eq e

theorem State.MemOk.fetchWords (h : s.MemOk) : (fetchWords s va n).1.MemOk := by
  fun_induction Machine.fetchWords with
  | case1 => exact h
  | case2 _ _ _ _ _ e _ _ e2 ih | case3 _ _ _ _ _ e _ _ e2 ih => exact (ih (h.fetchWord.of_eq e)).of_eq e2
  | case4 _ _ _ _ _ _ e => exact h.fetchWord.of_eq e

theorem State.MemOk.fetchInstr (h : s.MemOk) : (fetchInstr s pc).1.MemOk := by
  fun_cases Machine.fetchInstr with
  | case1 _ _ _ e _ _ e2 | case2 _ _ _ e _ _ e2 => exact (h.fetchWords.of_eq e).fetchWords.of_eq e2
  | case3 _ e | case4 _ _ e => exact h.fetchWords.of_eq e

theorem State.MemOk.addFetch {refused peer : Bool} {part : Option Nat} (h : s.MemOk) : (addFetch s m va refused peer part).MemOk := h.upd

theorem State.MemOk.fetchStop {f : Fetched} (h : s.MemOk) : (fetchStop s f).MemOk := by
  fun_cases Machine.fetchStop with
  | case1 | case10 | case11 => exact h
  | case2 | case6 => exact h.raiseSubset
  | case3 | case8 => exact h.laneFaults.noEligible
  | case4 => exact h.addFetch.perfAdd.parkOn
  | case5 | case7 => exact h.addFetch
  | case9 => exact h.addFetch.askLine

theorem State.MemOk.prepare {i : Instr} (h : s.MemOk) : (prepare s m pc n i).MemOk := by
  fun_cases Machine.prepare with
  | case1 | case3 => exact h
  | case2 => exact .of_mem h rfl

theorem State.MemOk.afterStep (h : s.MemOk) : (afterStep s).MemOk := .ite h.upd (.upd (.ite h.upd.perfAdd.upd.raise h.upd.perfAdd))

end Sys2Proof.Machine
end

section
/-! ### Canonical memory: arithmetic and lanes -/
namespace Sys2Proof.Machine

variable {s : State} {x : Ops} {maj n c : Nat} {srcs : List (STy × Opd)} {scl : Bool}

/-! #### The arithmetic families -/

theorem State.MemOk.alu {f : Nat → Nat} (h : s.MemOk) : (alu s x maj srcs n f).MemOk := h.issue fun _ => h.upd.done
theorem State.MemOk.aluPred {f : Nat → Bool} (h : s.MemOk) : (aluPred s x maj srcs f).MemOk := h.issue fun _ => h.upd.done
theorem State.MemOk.doneFaults {fs : List LaneFault} (h : s.MemOk) : (doneFaults s x fs).MemOk := h.upd.laneFaults.noEligible

/-! #### Floating point -/

theorem State.MemOk.fltDone {rs : List (Nat × FRes)} {scalar : Bool} {write : Course → List (Nat × Nat) → Course} (h : s.MemOk) :
    (fltDone s x rs scalar write).MemOk := by
  fun_cases Machine.fltDone with
  | case1 => exact h.upd.raiseSubset
  | case2 => exact h.upd.upd.doneFaults

theorem State.MemOk.flt {f : Nat → FRes} (h : s.MemOk) : (flt s x maj srcs n f).MemOk := h.issue fun _ => h.fltDone
theorem State.MemOk.flt1 {g : Nat → FpFmt → FMode → FVal → FRes} (h : s.MemOk) : (flt1 s x maj g).MemOk := h.flt
theorem State.MemOk.flt2 {g : Nat → FpFmt → FMode → FVal → FVal → FRes} (h : s.MemOk) : (flt2 s x maj g).MemOk := h.flt
theorem State.MemOk.flt2c {g : Nat → FpFmt → FMode → Nat → Nat → FRes} (h : s.MemOk) : (flt2c s x maj g).MemOk := h.flt
theorem State.MemOk.execFadd (h : s.MemOk) : (execFadd x s).MemOk := h.flt2
theorem State.MemOk.execFsub (h : s.MemOk) : (execFsub x s).MemOk := h.flt2
theorem State.MemOk.execFmul (h : s.MemOk) : (execFmul x s).MemOk := h.flt2
theorem State.MemOk.execFfma (h : s.MemOk) : (execFfma x s).MemOk := h.flt
theorem State.MemOk.execFmin (h : s.MemOk) : (execFmin x s).MemOk := h.flt2c
theorem State.MemOk.execFmax (h : s.MemOk) : (execFmax x s).MemOk := h.flt2c

theorem State.MemOk.execFcmp (h : s.MemOk) : (execFcmp x s).MemOk := by
  rw [Machine.execFcmp]
  exact h.issue fun _ => h.fltDone

theorem State.MemOk.execFclass (h : s.MemOk) : (execFclass x s).MemOk := h.flt
theorem State.MemOk.execFrcp (h : s.MemOk) : (execFrcp x s).MemOk := h.flt1
theorem State.MemOk.execFrsq (h : s.MemOk) : (execFrsq x s).MemOk := h.flt1
theorem State.MemOk.execFsqrt (h : s.MemOk) : (execFsqrt x s).MemOk := h.flt1
theorem State.MemOk.execFdiv (h : s.MemOk) : (execFdiv x s).MemOk := h.flt2
theorem State.MemOk.execFexp2 (h : s.MemOk) : (execFexp2 x s).MemOk := h.flt1
theorem State.MemOk.execFlog2 (h : s.MemOk) : (execFlog2 x s).MemOk := h.flt1
theorem State.MemOk.execFsin (h : s.MemOk) : (execFsin x s).MemOk := h.flt1
theorem State.MemOk.execFcos (h : s.MemOk) : (execFcos x s).MemOk := h.flt1
theorem State.MemOk.execFtanh (h : s.MemOk) : (execFtanh x s).MemOk := h.flt1
theorem State.MemOk.execFsigm (h : s.MemOk) : (execFsigm x s).MemOk := h.flt1
theorem State.MemOk.execFscale (h : s.MemOk) : (execFscale x s).MemOk := h.flt
theorem State.MemOk.execFfrac (h : s.MemOk) : (execFfrac x s).MemOk := h.flt1
theorem State.MemOk.execFrnd (h : s.MemOk) : (execFrnd x s).MemOk := h.flt1

theorem State.MemOk.drawSeeds (h : s.MemOk) : (drawSeeds s x).MemOk := by
  fun_cases Machine.drawSeeds with
  | case1 => exact h
  | case2 => exact h.upd

theorem State.MemOk.execCvt (h : s.MemOk) : (execCvt x s).MemOk := by
  rw [Machine.execCvt]
  exact h.issue fun _ => State.MemOk.fltDone (.ite h.drawSeeds h)

theorem State.MemOk.execFpack (h : s.MemOk) : (execFpack x s).MemOk := h.flt
theorem State.MemOk.execFunpack (h : s.MemOk) : (execFunpack x s).MemOk := h.flt
theorem State.MemOk.execFdot2 (h : s.MemOk) : (execFdot2 x s).MemOk := h.flt

/-! #### Integers -/

theorem State.MemOk.int1 {f : Nat → Nat} (h : s.MemOk) : (int1 s x maj f).MemOk := h.alu
theorem State.MemOk.int2 {f : Nat → Nat → Nat} (h : s.MemOk) : (int2 s x maj f).MemOk := h.alu
theorem State.MemOk.int3 {f : Nat → Nat → Nat → Nat} (h : s.MemOk) : (int3 s x maj f).MemOk := h.alu
theorem State.MemOk.intN {f : Nat → Nat → Nat} (h : s.MemOk) : (intN s x maj f).MemOk := h.alu
theorem State.MemOk.execMov (h : s.MemOk) : (execMov x s).MemOk := h.int1
theorem State.MemOk.execMovi (h : s.MemOk) : (execMovi x s).MemOk := h.issue fun _ => h.upd.done
theorem State.MemOk.execAdd (h : s.MemOk) : (execAdd x s).MemOk := h.int2
theorem State.MemOk.execSub (h : s.MemOk) : (execSub x s).MemOk := h.int2
theorem State.MemOk.carryOut {f : Nat → Nat → Nat → Nat × Bool} (h : s.MemOk) : (carryOut s x maj f).MemOk := h.issue fun _ => h.upd.done
theorem State.MemOk.execAddc (h : s.MemOk) : (execAddc x s).MemOk := h.carryOut
theorem State.MemOk.execSubb (h : s.MemOk) : (execSubb x s).MemOk := h.carryOut
theorem State.MemOk.execMul (h : s.MemOk) : (execMul x s).MemOk := h.int2
theorem State.MemOk.execMulhi (h : s.MemOk) : (execMulhi x s).MemOk := h.int2
theorem State.MemOk.execMad (h : s.MemOk) : (execMad x s).MemOk := .ite h.alu h.int3
theorem State.MemOk.execMin (h : s.MemOk) : (execMin x s).MemOk := h.int2
theorem State.MemOk.execMax (h : s.MemOk) : (execMax x s).MemOk := h.int2
theorem State.MemOk.execAbs (h : s.MemOk) : (execAbs x s).MemOk := h.int1
theorem State.MemOk.execNeg (h : s.MemOk) : (execNeg x s).MemOk := h.int1
theorem State.MemOk.execSad (h : s.MemOk) : (execSad x s).MemOk := h.alu
theorem State.MemOk.execDp4a (h : s.MemOk) : (execDp4a x s).MemOk := h.alu
theorem State.MemOk.execAnd (h : s.MemOk) : (execAnd x s).MemOk := h.int2
theorem State.MemOk.execOr (h : s.MemOk) : (execOr x s).MemOk := h.int2
theorem State.MemOk.execXor (h : s.MemOk) : (execXor x s).MemOk := h.int2
theorem State.MemOk.execAndn (h : s.MemOk) : (execAndn x s).MemOk := h.int2
theorem State.MemOk.execNot (h : s.MemOk) : (execNot x s).MemOk := h.int1

theorem State.MemOk.execShl (h : s.MemOk) : (execShl x s).MemOk := by
  rw [Machine.execShl]
  exact h.intN

theorem State.MemOk.execShr (h : s.MemOk) : (execShr x s).MemOk := by
  rw [Machine.execShr]
  exact h.intN

theorem State.MemOk.execSar (h : s.MemOk) : (execSar x s).MemOk := by
  rw [Machine.execSar]
  exact h.intN

theorem State.MemOk.execRot (h : s.MemOk) : (execRot x s).MemOk := by
  rw [Machine.execRot]
  exact h.intN

theorem State.MemOk.execBfe (h : s.MemOk) : (execBfe x s).MemOk := by
  rw [Machine.execBfe]
  exact h.intN

theorem State.MemOk.execBfi (h : s.MemOk) : (execBfi x s).MemOk := h.alu

theorem State.MemOk.execBfrev (h : s.MemOk) : (execBfrev x s).MemOk := by
  rw [Machine.execBfrev]
  exact h.int1

theorem State.MemOk.intCount {f : Nat → Nat} (h : s.MemOk) : (intCount s x maj f).MemOk := h.alu
theorem State.MemOk.execPopc (h : s.MemOk) : (execPopc x s).MemOk := h.intCount

theorem State.MemOk.execClz (h : s.MemOk) : (execClz x s).MemOk := by
  rw [Machine.execClz]
  exact h.intCount

theorem State.MemOk.execCtz (h : s.MemOk) : (execCtz x s).MemOk := h.intCount
theorem State.MemOk.execSel (h : s.MemOk) : (execSel x s).MemOk := h.issue fun _ => h.upd.done
theorem State.MemOk.execCmp (h : s.MemOk) : (execCmp x s).MemOk := h.aluPred
theorem State.MemOk.execClamp (h : s.MemOk) : (execClamp x s).MemOk := h.int3
theorem State.MemOk.execLea (h : s.MemOk) : (execLea x s).MemOk := h.alu

theorem State.MemOk.execSext (h : s.MemOk) : (execSext x s).MemOk := by
  rw [Machine.execSext]
  exact h.intN

theorem State.MemOk.execPrmt (h : s.MemOk) : (execPrmt x s).MemOk := h.int3

/-! #### Passes set aside -/

theorem State.MemOk.runPasses {i : Instr} (h : s.MemOk) : (runPasses i s).MemOk := by
  fun_cases Machine.runPasses with
  | case1 => exact h.execMov
  | case2 => exact h.execMovi
  | case3 => exact h.execAdd
  | case4 => exact h.execSub
  | case5 => exact h.execAddc
  | case6 => exact h.execSubb
  | case7 => exact h.execMul
  | case8 => exact h.execMulhi
  | case9 => exact h.execMad
  | case10 => exact h.execMin
  | case11 => exact h.execMax
  | case12 => exact h.execAbs
  | case13 => exact h.execNeg
  | case14 => exact h.execSad
  | case15 => exact h.execDp4a
  | case16 => exact h.execAnd
  | case17 => exact h.execOr
  | case18 => exact h.execXor
  | case19 => exact h.execAndn
  | case20 => exact h.execNot
  | case21 => exact h.execShl
  | case22 => exact h.execShr
  | case23 => exact h.execSar
  | case24 => exact h.execRot
  | case25 => exact h.execBfe
  | case26 => exact h.execBfi
  | case27 => exact h.execBfrev
  | case28 => exact h.execPopc
  | case29 => exact h.execClz
  | case30 => exact h.execCtz
  | case31 => exact h.execSel
  | case32 => exact h.execCmp
  | case33 => exact h.execClamp
  | case34 => exact h.execLea
  | case35 => exact h.execSext
  | case36 => exact h.execPrmt
  | case37 => exact h.execFadd
  | case38 => exact h.execFsub
  | case39 => exact h.execFmul
  | case40 => exact h.execFfma
  | case41 => exact h.execFmin
  | case42 => exact h.execFmax
  | case43 => exact h.execFcmp
  | case44 => exact h.execFclass
  | case45 => exact h.execFrcp
  | case46 => exact h.execFrsq
  | case47 => exact h.execFsqrt
  | case48 => exact h.execFdiv
  | case49 => exact h.execFexp2
  | case50 => exact h.execFlog2
  | case51 => exact h.execFsin
  | case52 => exact h.execFcos
  | case53 => exact h.execFtanh
  | case54 => exact h.execFsigm
  | case55 => exact h.execFscale
  | case56 => exact h.execFfrac
  | case57 => exact h.execFrnd
  | case58 => exact h.execCvt
  | case59 => exact h.execFpack
  | case60 => exact h.execFunpack
  | case61 => exact h.execFdot2
  | case62 => exact h

theorem State.MemOk.execSetAside {pass : Nat} (h : s.MemOk) : (execSetAside c pass s).MemOk := h.atCourse fun _ hs => .ite hs.upd hs

theorem State.MemOk.outState {o : Out} (h : s.MemOk) (ho : o.MemOk) : (outState o s).MemOk := by
  cases o with
  | next t => exact ho
  | fault r => exact h
  | refused r => exact h

theorem State.MemOk.restPasses (h : s.MemOk) : (restPasses s).MemOk := by
  fun_cases Machine.restPasses with
  | case1 => exact h
  | case2 a e c m n iss s0 t =>
    have h0 : s0.MemOk := h
    exact .takePending (.upd (.ite h0 (h0.outState h0.runPasses)))

theorem State.MemOk.execSetAsidePassesIssue (h : s.MemOk) : (execSetAsidePassesIssue c s).MemOk := h.atCourse fun _ hs => .ite hs.restPasses hs

theorem State.MemOk.execFixedLatencyResult (h : s.MemOk) : (execFixedLatencyResult c s).MemOk := by
  refine h.atCourse fun _ hs => ?_
  split
  · exact hs
  · exact .ite hs hs.upd.takePending

/-! #### Lanes -/

theorem State.MemOk.lane {ex1 : Option Nat} {preds : List RegRef} {f : List Nat → Nat → Nat} (h : s.MemOk) :
    (lane s x maj srcs n scl ex1 preds f).MemOk :=
  h.issue fun _ => h.upd.done

theorem State.MemOk.execShfl (h : s.MemOk) : (execShfl x s).MemOk := by
  rw [Machine.execShfl]
  exact h.lane

theorem State.MemOk.execBcast (h : s.MemOk) : (execBcast x s).MemOk := by
  rw [Machine.execBcast]
  exact h.lane

theorem State.MemOk.execLfirst (h : s.MemOk) : (execLfirst x s).MemOk := by
  rw [Machine.execLfirst]
  exact h.lane

theorem State.MemOk.execLperm (h : s.MemOk) : (execLperm x s).MemOk := by
  rw [Machine.execLperm]
  exact h.lane

theorem State.MemOk.execLbal (h : s.MemOk) : (execLbal x s).MemOk := h.lane
theorem State.MemOk.laneVote {f : List Nat → Bool} (h : s.MemOk) : (laneVote s x maj f).MemOk := .ite (h.issue (fun _ => h.upd.done)) h.lane
theorem State.MemOk.execLany (h : s.MemOk) : (execLany x s).MemOk := h.laneVote
theorem State.MemOk.execLall (h : s.MemOk) : (execLall x s).MemOk := h.laneVote

theorem State.MemOk.execLmatch (h : s.MemOk) : (execLmatch x s).MemOk := by
  rw [Machine.execLmatch]
  exact h.lane

theorem State.MemOk.laneFold {sel : List Nat → Nat → List Nat} (h : s.MemOk) : (laneFold s x maj scl sel).MemOk := by
  rw [Machine.laneFold]
  exact h.issue fun _ => h.fltDone

theorem State.MemOk.execLred (h : s.MemOk) : (execLred x s).MemOk := h.laneFold
theorem State.MemOk.execLscan (h : s.MemOk) : (execLscan x s).MemOk := h.laneFold

end Sys2Proof.Machine
end

section
/-! ### Canonical memory: accesses -/
namespace Sys2Proof.Machine

variable {s : State} {b bond off n c k dev va i v op z len doff soff asid la : Nat} {o : Op} {ret scr : Bool} {u : Use} {as : List (Nat × Nat)}
variable {x : Ops}

/-! #### Scratchpads and barriers -/

theorem State.MemOk.putBond {b : Bond} (h : s.MemOk) : (putBond s b).MemOk := h

theorem State.MemOk.readRowAt {row : Nat} (h : s.MemOk) : (readRowAt s bond row).MemOk := by
  fun_cases Machine.readRowAt with
  | case1 | case2 => exact h
  | case3 _ _ _ _ _ _ e => exact (h.readRowOf.of_eq e).putBond
  | case4 _ _ _ _ _ _ e => exact (h.readRowOf.of_eq e).putBond.postRetired

theorem State.MemOk.readRows (h : s.MemOk) : (readRows s bond off n).MemOk := by
  fun_cases Machine.readRows with
  | case1 | case2 => exact h
  | case3 => exact .foldl h fun _ _ hs => hs.readRowAt

theorem State.MemOk.acquireFor {c : Course} {scope : Nat} (h : s.MemOk) : (acquireFor s c scope).MemOk := h.acquireLines

theorem State.MemOk.wakeBar {result : Nat} (h : s.MemOk) : (wakeBar s bond k result).MemOk := by
  refine .foldl h fun _ _ hs => ?_
  split
  · exact hs.updCourses
  · exact hs.updCourses
  · exact hs

theorem State.MemOk.tryComplete (h : s.MemOk) : (tryComplete s bond k).MemOk := by
  fun_cases Machine.tryComplete with
  | case1 | case2 | case3 => exact h
  | case4 => exact h.putBond.wakeBar

theorem State.MemOk.countArrival {a : Arrival} (h : s.MemOk) : (countArrival s bond a).MemOk := by
  fun_cases Machine.countArrival with
  | case1 => exact h
  | case2 => exact h.putBond.tryComplete

theorem State.MemOk.bondExit {cid : Nat} (h : s.MemOk) : (bondExit s bond cid).MemOk := by
  fun_cases Machine.bondExit with
  | case1 => exact h
  | case2 => exact .foldl h.putBond fun _ _ hs => hs.tryComplete

/-! #### The lanes of an operation -/

theorem State.MemOk.askFor (h : s.MemOk) : (askFor s o dev va i).1.MemOk := by
  fun_cases Machine.askFor with
  | case1 | case2 => exact h
  | case3 => exact h.askLine

theorem State.MemOk.loadLane {hint : Nat} (h : s.MemOk) : (loadLane s o hint n i va).1.MemOk := by
  fun_cases Machine.loadLane with
  | case1 => exact h.coreFill
  | case2 _ _ _ _ _ _ _ e => exact h.coreRead.of_eq e
  | case3 _ _ _ _ _ _ e => exact (h.coreRead.of_eq e).askFor
  | case4 _ _ _ _ _ _ _ _ e => exact h.coreRead.of_eq e

theorem State.MemOk.storeLane (h : s.MemOk) : (storeLane s o n va v).1.MemOk := by
  fun_cases Machine.storeLane with
  | case1 _ _ _ _ e => exact h.coreStore.of_eq e
  | case2 _ _ _ _ e => exact (h.coreStore.of_eq e).dieWrite
  | case3 _ _ _ e | case4 _ _ _ e | case5 _ _ e | case6 _ _ e => exact h.coreStore.of_eq e

theorem State.MemOk.flushOwn (h : s.MemOk) : (flushOwn s va).1.MemOk := by
  fun_cases Machine.flushOwn with
  | case1 => exact h
  | case2 _ _ _ _ _ _ e => exact h.l1WriteBack.of_eq e
  | case3 _ _ _ _ _ _ e t =>
    have ht : t.MemOk := (h.l1WriteBack.of_eq e).l1Drop
    exact State.MemOk.ite ht ht

theorem State.MemOk.peerOf (h : s.MemOk) : (peerOf s o va).1.MemOk := by
  fun_cases Machine.peerOf with
  | case1 _ _ _ e | case2 _ _ e | case3 _ _ _ _ e => exact h.probe.of_eq e

theorem State.MemOk.dropLocal (h : s.MemOk) : (dropLocal s va).MemOk := h.l2Drop

theorem State.MemOk.askAtomic (h : s.MemOk) : (askAtomic s o dev va op z i ret b).1.MemOk := by
  fun_cases Machine.askAtomic with
  | case1 | case2 => exact h
  | case3 => exact h.dropLocal.sendReq

theorem State.MemOk.throughLane (h : s.MemOk) : (throughLane s o n i va v).1.MemOk := by
  fun_cases Machine.throughLane with
  | case1 _ _ e _ e2 => exact (h.peerOf.of_eq e).flushOwn.of_eq e2
  | case2 _ _ e _ e2 => exact ((h.peerOf.of_eq e2).flushOwn.of_eq e).askAtomic
  | case3 _ _ e _ _ _ e2 e3 => exact ((h.peerOf.of_eq e3).flushOwn.of_eq e).homeStore.of_eq e2
  | case4 _ _ e _ _ _ e2 e3 => exact (((h.peerOf.of_eq e3).flushOwn.of_eq e).homeStore.of_eq e2).dieWrite
  | case5 _ _ e _ _ e2 e3 => exact (((h.peerOf.of_eq e3).flushOwn.of_eq e).homeStore.of_eq e2).askAtomic
  | case6 _ _ e _ _ e2 e3 | case7 _ _ e _ e2 e3 | case8 _ _ e _ e2 e3 => exact ((h.peerOf.of_eq e3).flushOwn.of_eq e).homeStore.of_eq e2

theorem State.MemOk.atomLane (h : s.MemOk) : (atomLane s o op z ret i va b).1.MemOk := by
  fun_cases Machine.atomLane with
  | case1 => exact h
  | case2 _ _ _ e _ e2 => exact (h.peerOf.of_eq e).flushOwn.of_eq e2
  | case3 _ _ _ e _ e2 => exact ((h.peerOf.of_eq e2).flushOwn.of_eq e).askAtomic
  | case4 _ _ _ e _ _ _ _ _ e2 _ e3 => exact ((h.peerOf.of_eq e3).flushOwn.of_eq e).homeLoad.of_eq e2
  | case5 _ _ _ e _ _ _ _ _ e2 _ e3 =>
    exact .ite (((h.peerOf.of_eq e3).flushOwn.of_eq e).homeLoad.of_eq e2).homeStore (((h.peerOf.of_eq e3).flushOwn.of_eq e).homeLoad.of_eq e2)
  | case6 _ _ _ e _ _ _ _ _ e2 _ e3 =>
    exact .ite (((h.peerOf.of_eq e3).flushOwn.of_eq e).homeLoad.of_eq e2).dieWrite (((h.peerOf.of_eq e3).flushOwn.of_eq e).homeLoad.of_eq e2)
  | case7 _ _ _ e _ _ _ _ e2 e3 | case8 _ _ _ e _ _ _ _ e2 e3 => exact ((h.peerOf.of_eq e3).flushOwn.of_eq e).homeLoad.of_eq e2
  | case9 _ _ _ e _ _ _ e2 e3 | case10 _ _ _ e _ _ _ e2 e3 => exact ((h.peerOf.of_eq e3).flushOwn.of_eq e).homeLoad.of_eq e2

theorem State.MemOk.loadSLane (h : s.MemOk) : (loadSLane s n off).1.MemOk := by
  fun_cases Machine.loadSLane with
  | case1 | case2 => exact h.readRows

theorem State.MemOk.storeSLane (h : s.MemOk) : (storeSLane s n off v).1.MemOk := by
  fun_cases Machine.storeSLane with
  | case1 => exact h.readRows.putBond
  | case2 => exact h.readRows

theorem State.MemOk.atomSLane (h : s.MemOk) : (atomSLane s op z ret off v).1.MemOk := by
  fun_cases Machine.atomSLane with
  | case1 | case3 => exact h.readRows
  | case2 => exact .ite h.readRows.putBond h.readRows

theorem State.MemOk.lateFaults {fs : List LaneFault} (h : s.MemOk) : (lateFaults s o fs).MemOk := by
  fun_cases Machine.lateFaults with
  | case1 => exact h.upd.raise
  | case2 => exact h.upd.laneFaults.noEligibleHere

theorem State.MemOk.watchRead {scratch : Bool} {addr : Nat} (h : s.MemOk) : (watchRead s scratch addr v).MemOk := by
  fun_cases Machine.watchRead with
  | case1 => exact h.upd
  | case2 => exact h

theorem State.MemOk.endWatch (h : s.MemOk) : (endWatch s o).MemOk := h.removeOp.upd

theorem State.MemOk.finishLanes (h : s.MemOk) : (finishLanes s o).MemOk := by
  fun_cases Machine.finishLanes with
  | case1 => exact h.removeOp.watchRead
  | case2 => exact h.endWatch
  | case3 _ t =>
    refine .finishOp ?_
    subst t
    split
    · exact h.acquireFor
    · exact h

theorem State.MemOk.runLanes {serial : Bool} {f : State → Nat → Nat → State × LaneRes} {addrs : List (Nat × Nat)} {w : LaneWork} {ls : List Nat}
    (h : w.s.MemOk) (hf : ∀ s i va, s.MemOk → (f s i va).1.MemOk) : (runLanes serial f addrs w ls).s.MemOk := by
  fun_induction Machine.runLanes with
  | case1 | case2 => exact h
  | case3 w i rest _ va r w1 ih =>
    have hr : r.1.MemOk := hf _ _ _ h
    apply ih
    split <;> exact hr

theorem State.MemOk.settleOp {w : LaneWork} (h : w.s.MemOk) : (settleOp o w).MemOk := by
  unfold Machine.settleOp
  refine .ite (.ite h.removeOp h.putOp) (.ite h.raise (.ite (State.MemOk.raise h.endWatch.upd) (.ite (State.MemOk.raise h.removeOp.dropOpFlags) ?_)))
  extract_lets t u v
  have ht : t.MemOk := h.putOp
  have hu : u.MemOk := by
    subst u
    split
    · exact ht
    · exact .ite ht ht.putOp.perfAdd.parkOn
  have hv : v.MemOk := .ite hu (.ite hu.putOp hu.finishLanes)
  exact .ite hv hv.lateFaults.noEligible

theorem State.MemOk.runOpLanes (h : s.MemOk) : (runOpLanes s o).MemOk := by
  unfold Machine.runOpLanes
  dsimp only
  split
  · exact .settleOp (.runLanes h fun _ _ _ ht => ht.loadLane)
  · exact .settleOp (.runLanes h fun _ _ _ ht => ht.loadLane)
  · exact .settleOp (.runLanes h fun _ _ _ ht => .ite_fst ht.throughLane ht.storeLane)
  · exact .settleOp (.runLanes h fun _ _ _ ht => ht.atomLane)
  · exact .settleOp (.runLanes h fun _ _ _ ht => ht.loadSLane)
  · exact .settleOp (.runLanes h fun _ _ _ ht => ht.storeSLane)
  · exact .settleOp (.runLanes h fun _ _ _ ht => ht.atomSLane)
  all_goals exact h

theorem State.MemOk.tryLanes (h : s.MemOk) : (tryLanes s o).MemOk := by
  fun_cases Machine.tryLanes with
  | case1 => exact h.removeOp
  | case2 => exact h.raise
  | case3 => exact h.runOpLanes

theorem State.MemOk.finishOrder (h : s.MemOk) : (finishOrder s o).MemOk := by
  fun_cases Machine.finishOrder with
  | case1 => exact h.finishOp.raise
  | case2 => exact h.finishOp

theorem State.MemOk.performOrder {rel acq : Option Nat} (h : s.MemOk) : (performOrder s o rel acq).MemOk := by
  have finish {t : State} {q : Op} (ht : t.MemOk) :
      (Machine.finishOrder (match acq with | some sc => Machine.acquireFor t t.cur sc | none => t) q).MemOk := by
    split
    · exact ht.acquireFor.finishOrder
    · exact ht.finishOrder
  fun_cases Machine.performOrder with
  | case1 => exact finish h
  | case2 => exact .ite h.putOp (finish h)
  | case3 => exact h.releaseLines.putOp
  | case4 => exact finish h.releaseLines
  | case5 => exact .ite h.releaseLines.putOp (finish h.releaseLines)
  | case6 c asids fin settle sc _ r t _ _ _ peers able vf t1 t2 =>
    have ht : t2.MemOk := .upd (.foldl h.releaseLines fun _ _ hs => hs.sendReq)
    exact .ite ht.putOp.putOp (finish ht.putOp)
  | case7 => exact .putOp (.upd (.foldl h.releaseLines fun _ _ hs => hs.sendReq))

theorem State.MemOk.performAfence {base : Nat} (h : s.MemOk) : (performAfence s o base len).MemOk :=
  .finishOrder (.foldl h fun _ _ hs => hs.fenceLine)

theorem State.MemOk.performPflush {peer : Nat} (h : s.MemOk) : (performPflush s o peer).MemOk := by
  fun_cases Machine.performPflush with
  | case1 => exact h.finishOrder
  | case2 => exact h.finishOp.raise
  | case3 => exact h.sendReq.putOp

theorem State.MemOk.putUnits {src dst : Nat} (h : s.MemOk) : (putUnits s src dst doff soff n).MemOk := by
  fun_induction Machine.putUnits with
  | case1 => exact h
  | case2 _ _ _ _ _ t ih =>
    refine ih ?_
    subst t
    split
    · exact h.putBond
    · exact h

theorem State.MemOk.landPut {coff : Nat} {inc : Word} (h : s.MemOk) : (landPut s o bond doff soff len coff inc).MemOk := by
  fun_cases Machine.landPut with
  | case1 => exact h.removeOp
  | case2 _ _ _ _ t =>
    refine .removeOp ?_
    subst t
    split
    · exact h.readRows.readRows.readRows.putUnits.putBond
    · exact h.readRows.readRows.readRows.putUnits

theorem State.MemOk.performOp {seq : Nat} (h : s.MemOk) : (performOp s seq).MemOk := by
  fun_cases Machine.performOp with
  | case1 | case2 | case14 | case15 | case16 | case17 | case18 | case19 => exact h
  | case3 | case4 | case5 | case6 | case7 | case8 | case9 => exact h.tryLanes
  | case10 => exact h.performOrder
  | case11 => exact h.performAfence
  | case12 => exact h.performPflush
  | case13 => exact h.dropOpFlags.takePending.putOp

/-! #### Memory instructions and events -/

theorem State.MemOk.probeLanes (h : s.MemOk) : (probeLanes s u as).1.MemOk := by
  fun_induction Machine.probeLanes with
  | case1 => exact h
  | case2 s p rest t k e u ih => exact .pair (ih (h.probe.of_eq e))
  | case3 s p rest t r _ e ih => exact ih (h.probe.of_eq e)

theorem State.MemOk.checkLanes (h : s.MemOk) : (checkLanes s scr z u as).1.MemOk := by
  fun_cases Machine.checkLanes with
  | case1 | case2 => exact h
  | case3 => exact h.probeLanes

theorem State.MemOk.performSeqs {seqs : List Nat} (h : s.MemOk) : (performSeqs s seqs).MemOk := .foldl h fun _ _ hs => hs.performOp

theorem State.MemOk.accessOp {k : OpKind} {dat : Nat → Nat} {now : Bool} {m : LaneSet} (h : s.MemOk) :
    (accessOp s x scr z u n k dat now m).MemOk := by
  fun_cases Machine.accessOp with
  | case1 _ _ e => exact (h.checkLanes.of_eq e).trapOut
  | case2 _ _ _ e => exact (h.checkLanes.of_eq e).issueOpF fun _ _ hs => hs.performSeqs

theorem State.MemOk.execLd (h : s.MemOk) : (execLd x s).MemOk := h.issue fun _ => h.accessOp
theorem State.MemOk.execLds (h : s.MemOk) : (execLds x s).MemOk := h.issue fun _ => h.accessOp
theorem State.MemOk.execSt (h : s.MemOk) : (execSt x s).MemOk := h.issue fun _ => h.accessOp
theorem State.MemOk.execSts (h : s.MemOk) : (execSts x s).MemOk := h.issue fun _ => h.accessOp

theorem State.MemOk.execLdc (h : s.MemOk) : (execLdc x s).MemOk := by
  rw [Machine.execLdc]
  refine h.issue fun m => .ite h.done ?_
  split
  · exact h.raiseSubset
  · split
    · exact h.trapOut
    · split
      next e => exact State.MemOk.raiseSubset (h.probe.of_eq e)
      next e => exact (h.probe.of_eq e).issueOp

theorem State.MemOk.atomic {maj : Nat} {scl : Bool} {k : Nat → OpKind} (h : s.MemOk) : (atomic s x maj scr scl k).MemOk :=
  h.issue fun _ => .ite h.trapOut h.accessOp

theorem State.MemOk.execAtom (h : s.MemOk) : (execAtom x s).MemOk := h.atomic
theorem State.MemOk.execAtoms (h : s.MemOk) : (execAtoms x s).MemOk := h.atomic

theorem State.MemOk.execPut (h : s.MemOk) : (execPut x s).MemOk := by
  refine h.issue fun _ => ?_
  dsimp only
  split
  · exact h.trapOut
  · exact h.issueOpF fun _ _ hs => hs.performOp

theorem State.MemOk.orderOp {k : OpKind} (h : s.MemOk) : (orderOp s x k).MemOk := h.issueOpF fun _ _ hs => hs.performOp
theorem State.MemOk.execPhase (h : s.MemOk) : (execPhase x s).MemOk := h.issue fun _ => h.orderOp
theorem State.MemOk.execFence (h : s.MemOk) : (execFence x s).MemOk := h.issue fun _ => h.orderOp
theorem State.MemOk.execAfence (h : s.MemOk) : (execAfence x s).MemOk := h.issue fun _ => .ite h.done (.ite h.trapOut h.orderOp)
theorem State.MemOk.execPflush (h : s.MemOk) : (execPflush x s).MemOk := h.issue fun _ => .ite h.trapOut h.orderOp

theorem State.MemOk.prefLane (h : s.MemOk) : (prefLane s x va).MemOk := by
  fun_cases Machine.prefLane with
  | case1 => exact h
  | case2 _ _ _ _ _ _ _ _ e => exact .ite (h.homeGet.of_eq e).askLine (h.homeGet.of_eq e)
  | case3 _ _ _ _ _ _ _ _ e => exact h.homeGet.of_eq e
  | case4 _ _ _ _ _ _ _ _ _ _ _ e => exact .of_mem (h.coreRead.of_eq e) rfl
  | case5 _ _ _ _ _ _ _ _ _ _ e => exact .ite (h.coreRead.of_eq e).askLine (h.coreRead.of_eq e)
  | case6 _ _ _ _ _ _ _ _ _ _ _ e => exact h.coreRead.of_eq e

theorem State.MemOk.execPref (h : s.MemOk) : (execPref x s).MemOk := h.issue fun _ => State.MemOk.done (.foldl h fun _ _ hs => hs.prefLane)

theorem State.MemOk.onOp {p : Op → Bool} {f : State → Op → State} (h : s.MemOk) (hf : ∀ s o, s.MemOk → (f s o).MemOk) :
    (onOp s c k p f).MemOk := by
  refine h.atCourse fun _ hs => ?_
  split
  · exact hf _ _ hs
  · exact hs

theorem State.MemOk.execLoadDataReturn (h : s.MemOk) : (execLoadDataReturn c k s).MemOk := h.onOp fun _ _ hs => hs.performOp
theorem State.MemOk.execReplayDataArrival (h : s.MemOk) : (execReplayDataArrival c k s).MemOk := h.onOp fun _ _ hs => hs.performOp
theorem State.MemOk.execStoreOrderingPoint (h : s.MemOk) : (execStoreOrderingPoint c k s).MemOk := h.onOp fun _ _ hs => hs.performOp
theorem State.MemOk.execAtomicPerformedAtHome (h : s.MemOk) : (execAtomicPerformedAtHome c k s).MemOk := h.onOp fun _ _ hs => hs.performOp

theorem State.MemOk.execPutLanding (h : s.MemOk) : (execPutLanding c k s).MemOk := by
  refine h.onOp fun _ _ hs => ?_
  split
  · exact .ite hs.landPut hs
  · exact hs

theorem State.MemOk.execPageWalkComplete (h : s.MemOk) : (execPageWalkComplete c k s).MemOk :=
  h.onOp fun _ _ hs => .foldl hs fun _ _ hs2 => hs2.fillTlb

theorem State.MemOk.execPark (h : s.MemOk) : (execPark c k s).MemOk := h.onOp fun _ _ hs => hs.performOp

theorem State.MemOk.forcePin (h : s.MemOk) : (forcePin s asid la).MemOk := by
  fun_cases Machine.forcePin with
  | case1 | case2 => exact h
  | case3 => exact h.endPin.postEvent

theorem State.MemOk.execPinForcedWriteback (h : s.MemOk) : (execPinForcedWriteback asid la s).MemOk := h.forcePin

end Sys2Proof.Machine
end

section
/-! ### Canonical memory: barriers, array, queues, leases and gangs -/
namespace Sys2Proof.Machine

variable {s : State} {bond course v ring pc maj c cause info k va form key decision : Nat} {x : Ops} {m : LaneSet} {b : Bond} {q : ArrCmd} {o : Op}
variable {rs : List (Nat × Nat)} {p : Packet}

/-! #### Barrier instructions and waits -/

theorem State.MemOk.arrivalPoint (h : s.MemOk) : (arrivalPoint s bond course).MemOk := by
  fun_cases Machine.arrivalPoint with
  | case1 | case3 => exact h
  | case2 => exact h.countArrival

theorem State.MemOk.arriveIssue {d : BarDesc} {v : Word} {f : Course → Course} (h : s.MemOk) : (arriveIssue s x d v f).MemOk := by
  rw [Machine.arriveIssue]
  refine h.issueOpF fun t n ht => .arrivalPoint (.performSeqs ?_)
  split
  · exact ht.upd.putBond
  · exact ht.upd

theorem State.MemOk.execArrive (h : s.MemOk) : (execArrive x s).MemOk := by
  refine h.issue fun _ => ?_
  dsimp only
  split
  · exact h.trapOut
  · exact h.arriveIssue

theorem State.MemOk.execBarr (h : s.MemOk) : (execBarr x s).MemOk := by
  refine h.issue fun _ => ?_
  dsimp only
  split
  · exact h.trapOut
  · exact h.arriveIssue

theorem State.MemOk.execWaitb (h : s.MemOk) : (execWaitb x s).MemOk :=
  h.issue fun _ => .ite h.trapOut (.ite h.trapOut (.ite h.upd.done (h.issueOpF (fun _ _ hs => hs.performOp))))

theorem State.MemOk.rereadGlobal {addr : Nat} (h : s.MemOk) : (rereadGlobal s ring addr pc m).MemOk := .ite h h.upd.performOp

theorem State.MemOk.watchScratch {off : Nat} (h : s.MemOk) : (watchScratch s ring off pc m).MemOk := by
  fun_cases Machine.watchScratch with
  | case1 => exact h.watchRead
  | case2 | case4 => exact h
  | case3 => exact h.upd.raise

theorem State.MemOk.rereadAt {w : Option Wait} (h : s.MemOk) : (rereadAt s w ring).MemOk := by
  fun_cases Machine.rereadAt with
  | case1 => exact h.readRows.watchScratch
  | case2 => exact h.rereadGlobal
  | case3 | case4 | case5 | case6 | case7 => exact h

theorem State.MemOk.rereadWait (h : s.MemOk) : (rereadWait s).MemOk := h.rereadAt.rereadAt

theorem State.MemOk.execWaitc (h : s.MemOk) : (execWaitc x s).MemOk := by
  rw [Machine.execWaitc]
  refine h.issue fun _ => ?_
  dsimp only
  split
  · exact h.raiseSubset
  · refine Out.MemOk.ite h.upd.pass.rereadWait.noEligible ?_
    split
    · exact h.trapOut
    · split
      next e => exact (h.probe.of_eq e).raiseSubset
      next e => exact (h.probe.of_eq e).upd.pass.rereadWait.noEligible

theorem State.MemOk.execWaitf (h : s.MemOk) : (execWaitf x s).MemOk := h.issue fun _ => .ite h.upd.done h.holdIssue
theorem State.MemOk.readWord (h : s.MemOk) : (readWord s x maj v).MemOk := h.issue fun _ => h.upd.done
theorem State.MemOk.execFcnt (h : s.MemOk) : (execFcnt x s).MemOk := h.readWord
theorem State.MemOk.execBstat (h : s.MemOk) : (execBstat x s).MemOk := h.readWord

theorem State.MemOk.execArrivalPoint (h : s.MemOk) : (execArrivalPoint c s).MemOk := by
  fun_cases Machine.execArrivalPoint with
  | case1 => exact h.arrivalPoint
  | case2 => exact h

theorem State.MemOk.execWaitcReread (h : s.MemOk) : (execWaitcReread c s).MemOk := h.atCourse fun _ hs => hs.rereadWait
theorem State.MemOk.execPeerWaitcPoll (h : s.MemOk) : (execPeerWaitcPoll c s).MemOk := h.atCourse fun _ hs => hs.rereadWait

/-! #### Array commands -/

theorem State.MemOk.lateCause {detail : Nat} (h : s.MemOk) : (lateCause s course ring pc cause info detail).MemOk := by
  fun_cases Machine.lateCause with
  | case1 | case6 | case7 | case8 => exact h
  | case2 | case3 => exact h.atCourse fun _ hs => hs.upd.takePending
  | case4 | case5 => exact h.postEvent

theorem State.MemOk.unstallBond (h : s.MemOk) : (unstallBond s bond).MemOk := h.updCourses
theorem State.MemOk.unstallAll (h : s.MemOk) : (unstallAll s).MemOk := h.updCourses

theorem State.MemOk.startCmd (h : s.MemOk) : (startCmd s b q).MemOk :=
  .ite (.lateCause (.unstallBond (.putBond (.foldl h fun _ _ hs => hs.readRows)))) (.unstallBond (.putBond (.foldl h fun _ _ hs => hs.readRows)))

theorem State.MemOk.pumpArray (h : s.MemOk) : (pumpArray s bond).MemOk := by
  fun_cases Machine.pumpArray with
  | case1 => exact h
  | case2 =>
    refine .foldl h fun _ _ hs => ?_
    split
    · exact hs
    · split
      · exact .ite hs.startCmd hs
      · exact hs

theorem State.MemOk.completeCmd (h : s.MemOk) : (completeCmd s b q).MemOk := by
  refine .pumpArray (.unstallBond (h.putBond.atCourse (fun _ hs => ?_)))
  split
  · exact hs.finishOp
  · exact hs

theorem State.MemOk.execArrayCommandStart (h : s.MemOk) : (execArrayCommandStart bond k s).MemOk := by
  unfold Machine.execArrayCommandStart
  split
  · exact h
  · split
    · exact State.MemOk.ite h.startCmd h
    · exact h

theorem State.MemOk.execArrayCommandCompletion (h : s.MemOk) : (execArrayCommandCompletion bond k s).MemOk := by
  change State.MemOk _
  split
  · exact h
  · split
    · exact h.completeCmd
    · exact h

theorem State.MemOk.enterCmd {mark : Course → Course} {seq : Nat} (h : s.MemOk) : (enterCmd q mark s seq).MemOk := by
  fun_cases Machine.enterCmd with
  | case1 => exact h
  | case2 => exact h.putBond.upd.pumpArray

theorem State.MemOk.command {c1 c2 : Option Nat} {build : Bond → Except Unit (ArrCmd × Option Nat)} {mark : Course → Course} (h : s.MemOk) :
    (command s x maj c1 c2 build mark).MemOk := by
  refine h.issue fun _ => ?_
  split
  · exact h.stallIssue
  · split
    · exact h.stallIssue
    · exact h.trapOut
    · split
      · exact h.trapOut
      · exact Out.MemOk.ite h.stallIssue (h.issueOpF (fun _ _ hs => hs.enterCmd))

theorem State.MemOk.execMxld (h : s.MemOk) : (execMxld x s).MemOk := h.command
theorem State.MemOk.execMxsw (h : s.MemOk) : (execMxsw x s).MemOk := h.command
theorem State.MemOk.execMxm (h : s.MemOk) : (execMxm x s).MemOk := h.command
theorem State.MemOk.execMxz (h : s.MemOk) : (execMxz x s).MemOk := h.command
theorem State.MemOk.execHad (h : s.MemOk) : (execHad x s).MemOk := h.command
theorem State.MemOk.execQnt (h : s.MemOk) : (execQnt x s).MemOk := h.command
theorem State.MemOk.execMxst (h : s.MemOk) : (execMxst x s).MemOk := h.command
theorem State.MemOk.execMxsv (h : s.MemOk) : (execMxsv x s).MemOk := h.command
theorem State.MemOk.execMxrs (h : s.MemOk) : (execMxrs x s).MemOk := h.command

theorem State.MemOk.execMxrd (h : s.MemOk) : (execMxrd x s).MemOk := by
  refine h.issue fun _ => ?_
  split
  · exact h.stallIssue
  · dsimp only
    split
    · exact h.trapOut
    · exact Out.MemOk.ite h.stallIssue (.ite h.raise h.upd.done)

theorem State.MemOk.execMxwr (h : s.MemOk) : (execMxwr x s).MemOk := by
  refine h.issue fun _ => ?_
  split
  · exact h.stallIssue
  · dsimp only
    split
    · exact h.trapOut
    · exact Out.MemOk.ite h.stallIssue h.putBond.upd.done

/-! #### Queues and leases -/

theorem State.MemOk.engineAdd {a : Acc} {inc : Nat} {who : ReqWho} (h : s.MemOk) : (engineAdd s a va inc who).1.MemOk := by
  have ask {t : State} {dev : Nat} (ht : t.MemOk) :
      (match peerCause t a.asid dev with
        | some k => (t, AddRes.cause k)
        | none => (Machine.sendReq t (atmPacket t dev (vfOfAsid t a.asid) a.harvest va 0 false false inc) who, AddRes.asked)).1.MemOk := by
    split
    · exact ht
    · exact ht.sendReq
  fun_cases Machine.engineAdd with
  | case1 _ _ _ _ _ e => exact ask (h.homeLoad.of_eq e).l2Drop
  | case2 _ _ _ _ e => exact h.homeLoad.of_eq e
  | case3 _ _ _ _ e => exact (h.homeLoad.of_eq e).homeStore
  | case4 _ _ _ _ e => exact (h.homeLoad.of_eq e).dieWrite
  | case5 _ _ _ _ e => exact ask (h.homeLoad.of_eq e)
  | case6 _ _ e | case7 _ _ e | case8 _ _ _ e => exact h.homeLoad.of_eq e

theorem State.MemOk.execEnq (h : s.MemOk) : (execEnq x s).MemOk := by
  refine h.issue fun _ => ?_
  dsimp only
  split
  · exact h.raiseSubset
  · split
    · exact h.trapOut
    · split
      next e => exact (h.probe.of_eq e).raiseSubset
      next e => exact (h.probe.of_eq e).issueOpF fun _ _ hs => hs.performOp

theorem State.MemOk.appendSpan {q : Queue} (h : s.MemOk) : (appendSpan s q v).MemOk :=
  .leaveQueue (.leaseCount (.putQueue (.ite h.ringStore.gangRenew h.ringStore)))

theorem State.MemOk.lateSubset (h : s.MemOk) : (lateSubset s o k info).MemOk := h.removeOp.dropOpFlags.raise

theorem State.MemOk.enqRecord {q : Nat} (h : s.MemOk) : (enqRecord s o q v).MemOk := by
  fun_cases Machine.enqRecord with
  | case1 | case2 | case3 => exact h.lateSubset
  | case4 | case5 => exact h.finishOp
  | case6 => exact h.appendSpan.finishOp

theorem State.MemOk.performEnq {q : Nat} (h : s.MemOk) : (performEnq s o va q).MemOk := by
  have hw : (Machine.runLanes false (fun s i va => Machine.loadLane s o 2 128 i va) o.addrs
      { s := s, got := [], fs := [], absent := [], refused := false, wait := false, poison := false } [0]).s.MemOk :=
    .runLanes h fun _ _ _ ht => ht.loadLane
  fun_cases Machine.performEnq with
  | case1 => exact hw.enqRecord
  | case2 => exact hw.lateSubset
  | case3 => exact hw.settleOp

theorem State.MemOk.execEnqAppend (h : s.MemOk) : (execEnqAppend c k s).MemOk := by
  refine h.onOp fun _ _ hs => ?_
  split
  · exact .ite hs.performEnq hs
  · exact hs

theorem State.MemOk.execLeaseReq (h : s.MemOk) : (execLeaseReq x s).MemOk := by
  refine h.issue fun _ => .ite h.stallIssue ?_
  dsimp only
  split
  · exact Out.MemOk.ite h.readRows.raise h.readRows.trapOut
  · exact h.readRows.issueOp

theorem State.MemOk.leaseHandle (h : s.MemOk) : (leaseHandle x s form).MemOk := h.issue fun _ => .ite h.trapOut h.issueOp
theorem State.MemOk.execLeaseRel (h : s.MemOk) : (execLeaseRel x s).MemOk := h.leaseHandle
theorem State.MemOk.execLeaseQry (h : s.MemOk) : (execLeaseQry x s).MemOk := h.leaseHandle
theorem State.MemOk.leaseFill {t i : Nat} (h : s.MemOk) : (leaseFill s t i rs).MemOk := h.leasePut.physWrite

theorem State.MemOk.lrqAdd {r : Nat} (h : s.MemOk) : (lrqAdd s o r).MemOk := by
  fun_cases Machine.lrqAdd with
  | case1 => exact h.finishOp
  | case2 _ _ _ e => exact (h.engineAdd.of_eq e).putOp
  | case3 _ _ _ _ _ e => exact (h.engineAdd.of_eq e).finishOp

theorem State.MemOk.leaseStep {y : Nat} (h : s.MemOk) : (leaseStep s o form y rs).MemOk := by
  fun_cases Machine.leaseStep with
  | case1 | case3 | case4 | case6 => exact h.finishOp
  | case2 => exact h.leaseFill.lrqAdd
  | case5 => exact h.leasePut.physWrite.lrqAdd

theorem State.MemOk.execLeaseStep (h : s.MemOk) : (execLeaseStep c k s).MemOk := by
  refine h.onOp fun _ _ hs => ?_
  split
  · exact .ite hs (.ite hs.lrqAdd hs.leaseStep)
  · exact hs

/-! #### Gangs -/

theorem State.MemOk.putGang {g : Gang} (h : s.MemOk) : (putGang s g).MemOk := h
theorem State.MemOk.gangEnd (h : s.MemOk) : (gangEnd s key cause).MemOk := .foldl h fun _ _ hs => hs.endSpan
theorem State.MemOk.gangAct (h : s.MemOk) : (gangAct s key decision).MemOk := .ite h (.ite (.ite h h.putGang.updCourses) h.gangEnd)
theorem State.MemOk.gangDecide (h : s.MemOk) : (gangDecide s key decision).MemOk := .ite h (.gangAct (.foldl h.putGang fun _ _ hs => hs.sendPkt))
theorem State.MemOk.gangReadyFrom {dev : Nat} (h : s.MemOk) : (gangReadyFrom s key dev).MemOk := .ite h.putGang.gangDecide h.putGang

theorem State.MemOk.gangArrive {span : Nat} (h : s.MemOk) : (gangArrive s span).MemOk := by
  fun_cases Machine.gangArrive with
  | case1 | case2 => exact h
  | case3 => exact h.putGang.gangReadyFrom
  | case4 => exact h.putGang.sendPkt
  | case5 => exact h.putGang.gangEnd

theorem State.MemOk.execGngReady (h : s.MemOk) : (execGngReady p s).MemOk := h.accept fun _ hs => .ite hs.gangReadyFrom hs
theorem State.MemOk.execGngRelease (h : s.MemOk) : (execGngRelease p s).MemOk := h.accept fun _ hs => hs.gangAct
theorem State.MemOk.execGngAbort (h : s.MemOk) : (execGngAbort p s).MemOk := h.accept fun _ hs => hs.gangAct
theorem State.MemOk.execGngQuery (h : s.MemOk) : (execGngQuery p s).MemOk := h.accept fun _ hs => .ite hs hs.sendPkt
theorem State.MemOk.execGangTimeout (h : s.MemOk) : (execGangTimeout key s).MemOk := State.MemOk.ite h.gangDecide h

end Sys2Proof.Machine
end

section
/-! ### Canonical memory: control and special registers -/
namespace Sys2Proof.Machine

variable {s : State} {x : Ops} {m : LaneSet} {maj c v n va kind die : Nat} {u : Use}

/-! #### Control -/

theorem State.MemOk.execNop (h : s.MemOk) : (execNop x s).MemOk := h.issue fun _ => h.done

theorem State.MemOk.transfer {f : Nat → Xfer} {stack : Course → Nat → Course} (h : s.MemOk) : (transfer s x m f stack).MemOk :=
  h.upd.laneFaults.noEligible

theorem State.MemOk.execBra (h : s.MemOk) : (execBra x s).MemOk := h.issue fun _ => h.transfer
theorem State.MemOk.execCall (h : s.MemOk) : (execCall x s).MemOk := h.issue fun _ => h.transfer
theorem State.MemOk.execBrx (h : s.MemOk) : (execBrx x s).MemOk := h.issue fun _ => h.transfer
theorem State.MemOk.execCalli (h : s.MemOk) : (execCalli x s).MemOk := h.issue fun _ => h.transfer
theorem State.MemOk.execRet (h : s.MemOk) : (execRet x s).MemOk := h.issue fun _ => h.transfer

theorem State.MemOk.maskOp {body : LaneSet → Out} (h : s.MemOk) (hbody : ∀ m, (body m).MemOk) : (maskOp s x maj body).MemOk :=
  h.issue fun _ => .ite h.trapOut (hbody _)

theorem State.MemOk.execJoin (h : s.MemOk) : (execJoin x s).MemOk := h.maskOp fun _ => h.upd.done
theorem State.MemOk.execLeave (h : s.MemOk) : (execLeave x s).MemOk := h.maskOp fun _ => h.upd.pass.upd.noEligible
theorem State.MemOk.execWaitm (h : s.MemOk) : (execWaitm x s).MemOk := h.maskOp fun _ => h.upd.upd.noEligible
theorem State.MemOk.execMget (h : s.MemOk) : (execMget x s).MemOk := h.issue fun _ => h.upd.done
theorem State.MemOk.execMput (h : s.MemOk) : (execMput x s).MemOk := h.issue fun _ => .ite h.done (.ite h.upd.done (.ite h.trapOut h.upd.done))
theorem State.MemOk.courseExited (h : s.MemOk) : (courseExited s).MemOk := h.upd.bondExit.gangArrive

theorem State.MemOk.execExit (h : s.MemOk) : (execExit x s).MemOk :=
  h.issue fun _ => .ite h.done (.ite h.trapOut (State.MemOk.ite h.upd.courseExited h.upd.noEligible))

theorem State.MemOk.execYield (h : s.MemOk) : (execYield x s).MemOk := h.issue fun _ => h.upd.done
theorem State.MemOk.execSleep (h : s.MemOk) : (execSleep x s).MemOk := h.issue fun _ => .ite h.done h.upd.done
theorem State.MemOk.execBrk (h : s.MemOk) : (execBrk x s).MemOk := h.issue fun _ => .ite h.done h.raiseSubset
theorem State.MemOk.execSleepExpiry (h : s.MemOk) : (execSleepExpiry c s).MemOk := h.atCourse fun _ hs => hs.upd

theorem State.MemOk.execClause {y : Header} (h : s.MemOk) : (execClause y s).MemOk := by
  fun_cases Machine.execClause with
  | case1 => exact h.raiseSubset
  | case2 => exact h.holdIssue
  | case3 => exact h.upd

theorem State.MemOk.execIllegalEncoding {w : BadWord} (h : s.MemOk) : (execIllegalEncoding w s).MemOk := h.raiseSubset

/-! #### System registers and blocks -/

theorem State.MemOk.execSrd (h : s.MemOk) : (execSrd x s).MemOk := h.issue fun _ => .ite h.done (.ite h.trapOut h.upd.done)
theorem State.MemOk.writeFpm (h : s.MemOk) : (writeFpm s v).1.MemOk := .ite_fst h h.upd
theorem State.MemOk.writeLfmode (h : s.MemOk) : (writeLfmode s v).1.MemOk := .ite_fst h h.upd

theorem State.MemOk.writeTcommit (h : s.MemOk) : (writeTcommit s v).1.MemOk :=
  .ite_fst h (.ite_fst h (.ite_fst h.releaseLines (.upd h.releaseLines.updDie)))

theorem State.MemOk.writeSr (h : s.MemOk) : (writeSr s n v).1.MemOk := by
  fun_cases Machine.writeSr with
  | case1 => exact h.writeFpm
  | case2 => exact h.writeLfmode
  | case3 | case5 | case8 => exact h
  | case4 => exact h.upd
  | case6 | case7 => exact h.updDie

theorem State.MemOk.execSwr (h : s.MemOk) : (execSwr x s).MemOk := by
  refine h.issue fun _ => .ite h.done (.ite h.upd.done ?_)
  split
  · exact h.trapOut
  · refine Out.MemOk.ite ?_ h.writeSr.done
    split
    next e => exact (h.writeTcommit.of_eq e).done
    next e => exact (h.writeTcommit.of_eq e).stallIssue

theorem State.MemOk.execTrap (h : s.MemOk) : (execTrap x s).MemOk := h.issue fun _ => .ite h.done (.ite h.trapOut h.pass.raise)

theorem State.MemOk.execRett (h : s.MemOk) : (execRett x s).MemOk := by
  refine h.issue fun _ => ?_
  dsimp only
  split
  · exact h.trapOut
  · exact Out.MemOk.ite h.stallIssue h.returnTrap

theorem State.MemOk.execRgn (h : s.MemOk) : (execRgn x s).MemOk := by
  refine h.issue fun _ => ?_
  dsimp only
  split
  · exact h.trapOut
  · exact h.upd.done

theorem State.MemOk.execRgend (h : s.MemOk) : (execRgend x s).MemOk := by
  refine h.issue fun _ => ?_
  split
  · exact h.trapOut
  · exact h.upd.done

theorem State.MemOk.checkBlock (h : s.MemOk) : (checkBlock s u va n).1.MemOk := by
  fun_induction Machine.checkBlock with
  | case1 | case2 => exact h
  | case3 _ _ _ _ _ _ e | case4 _ _ _ _ _ e => exact h.probe.of_eq e
  | case5 _ _ _ _ _ _ _ _ e ih => exact ih (h.probe.of_eq e)

theorem State.MemOk.storeLines (h : s.MemOk) : (storeLines s va v n).1.MemOk := by
  fun_induction Machine.storeLines with
  | case1 => exact h
  | case2 _ _ _ _ _ _ _ e ih => exact ih (h.coreStore.of_eq e)
  | case3 _ _ _ _ _ _ _ e ih => exact ih (h.coreStore.of_eq e).dieWrite
  | case4 _ _ _ _ _ _ _ _ e => exact h.coreStore.of_eq e

theorem State.MemOk.spoilLines (h : s.MemOk) : (spoilLines s va n).MemOk := by
  induction n generalizing s va with
  | zero => exact h
  | succ k ih => exact ih (.ite h (.coreStore h))

theorem State.MemOk.spoilBlock (h : s.MemOk) : (spoilBlock s kind va).MemOk := .ite h.spoilLines h

theorem State.MemOk.loadLines (h : s.MemOk) : (loadLines s va n).1.MemOk := by
  induction n generalizing s va with
  | zero => exact h
  | succ k ih =>
    have go {t : State} {d : Nat} (ht : t.MemOk) :
        (match Machine.loadLines t (va + 128) k with
          | (s, .data v) => (s, BlockRead.data (d + v * 2 ^ 1024))
          | (s, r) => (s, r)).1.MemOk := by
      split
      next e => exact (ih ht).of_eq e
      next e => exact (ih ht).of_eq e
    rw [Machine.loadLines]
    split
    · exact go h
    · split
      next e => exact .ite_fst (h.coreRead.of_eq e) (go (h.coreRead.of_eq e))
      next e => exact go (h.coreRead.of_eq e)
      next e => exact h.coreRead.of_eq e

theorem State.MemOk.blockStop {base : Nat} {r : HRes} (h : s.MemOk) : (blockStop s kind base va r).MemOk := by
  fun_cases Machine.blockStop with
  | case1 | case3 | case7 => exact h.spoilBlock.raise
  | case2 | case6 => exact h.addFetch
  | case4 => exact h.addFetch.askLine
  | case5 => exact h.addFetch.perfAdd.parkOn
  | case8 | case9 => exact h

theorem State.MemOk.controlOp {body : State → Nat → Out} (h : s.MemOk) (hbody : ∀ s n, s.MemOk → (body s n).MemOk) :
    (controlOp s x maj kind u body).MemOk := by
  rw [Machine.controlOp]
  refine h.issue fun _ => ?_
  dsimp only
  split
  · exact h.raise
  · refine Out.MemOk.ite h.stallIssue ?_
    split
    next e => exact (h.checkBlock.of_eq e).spoilBlock.raise
    next e => exact (h.checkBlock.of_eq e).blockStop
    next e => exact hbody _ _ (h.checkBlock.of_eq e)

theorem State.MemOk.execCtxsv (h : s.MemOk) : (execCtxsv x s).MemOk := by
  refine h.controlOp fun _ _ hs => ?_
  split
  next e => exact (hs.storeLines.of_eq e).done
  next e => exact (hs.storeLines.of_eq e).blockStop

theorem State.MemOk.execCtxld (h : s.MemOk) : (execCtxld x s).MemOk := by
  refine h.controlOp fun _ _ hs => ?_
  split
  next e => exact (hs.loadLines.of_eq e).blockStop
  next e => exact (hs.loadLines.of_eq e).raise
  next e => exact Out.MemOk.ite (hs.loadLines.of_eq e).upd.noEligible (hs.loadLines.of_eq e).trapOut

theorem State.MemOk.execGangsync (h : s.MemOk) : (execGangsync x s).MemOk := by
  refine h.issue fun _ => ?_
  dsimp only
  split
  · exact h.trapOut
  · exact Out.MemOk.ite h.done h.upd.gangArrive

theorem State.MemOk.eventWrite {f : State → State × Option Nat} (h : s.MemOk) (hf : ∀ s, s.MemOk → (f s).1.MemOk) : (eventWrite s c f).MemOk := by
  refine h.atCourse fun _ hs => ?_
  split
  next e => exact (hf _ hs).of_eq e
  next e => exact ((hf _ hs).of_eq e).raise

theorem State.MemOk.execFpmWrite {v : Word} (h : s.MemOk) : (execFpmWrite c v s).MemOk := h.eventWrite fun _ hs => hs.writeFpm
theorem State.MemOk.execSrseedWrite {v : Word} (h : s.MemOk) : (execSrseedWrite c m v s).MemOk := h.eventWrite fun _ hs => hs.upd
theorem State.MemOk.execLfmodeWrite {v : Word} (h : s.MemOk) : (execLfmodeWrite c v s).MemOk := h.eventWrite fun _ hs => hs.writeLfmode
theorem State.MemOk.execTcommitWrite {tables : Byte} (h : s.MemOk) : (execTcommitWrite c tables s).MemOk := h.eventWrite fun _ hs => hs.writeTcommit

theorem State.MemOk.execRegisterWrite {r : RegName} {v : Double} (h : s.MemOk) : (execRegisterWrite c r v s).MemOk := by
  fun_cases Machine.execRegisterWrite with
  | case1 | case2 | case3 | case4 =>
    refine h.eventWrite fun _ hs => ?_
    split
    · exact hs
    · exact hs.writeSr
  | case5 => exact h.eventWrite fun _ hs => hs.dieWrite

theorem State.MemOk.execHbeatWrite (h : s.MemOk) : (execHbeatWrite die s).MemOk := h.pageWord
theorem State.MemOk.execWdctlWrite {v : Word} (h : s.MemOk) : (execWdctlWrite die v s).MemOk := h.pageWord

end Sys2Proof.Machine
end

section
/-! ### Canonical memory: engine commands -/
namespace Sys2Proof.Machine

variable {s : State} {o : Op} {va n fuel seq dev v maj k a u vf tag check st b c : Nat} {x : Ops} {q : Copy} {sp : Bool} {r : Red} {d : Dest}

/-! #### Units, commands and completion -/

theorem State.MemOk.engPiece (h : s.MemOk) : (engPiece s o va n).1.MemOk := by
  fun_cases Machine.engPiece with
  | case1 | case2 | case3 => exact h
  | case4 _ _ _ _ _ _ _ e | case5 _ _ _ _ _ _ _ e | case6 _ _ _ _ _ _ e => exact h.homeGet.of_eq e
  | case7 _ _ _ _ _ _ e => exact (h.homeGet.of_eq e).askLine
  | case8 _ _ _ _ _ _ e | case9 _ _ _ _ _ e | case10 _ _ _ _ _ e => exact h.homeGet.of_eq e

theorem State.MemOk.engRead (h : s.MemOk) : (engRead fuel s o va n).1.MemOk := by
  fun_induction Machine.engRead with
  | case1 | case2 => exact h
  | case3 _ _ _ _ _ _ _ _ e _ _ e2 ih => exact (ih (h.engPiece.of_eq e)).of_eq e2
  | case4 _ _ _ _ _ _ _ _ e _ ih => exact ih (h.engPiece.of_eq e)
  | case5 => exact h.engPiece

theorem State.MemOk.engWrote (h : s.MemOk) : (engWrote s seq dev).MemOk := h.upd

theorem State.MemOk.engPut (h : s.MemOk) : (engPut s o va n v).1.MemOk := by
  fun_cases Machine.engPut with
  | case1 => exact h
  | case2 _ _ _ e => exact h.peerOf.of_eq e
  | case3 _ _ _ e _ _ _ _ e2 _ t =>
    have hu := (h.peerOf.of_eq e).homeStore.of_eq e2
    have ht : t.MemOk := .ite hu.l1Stale hu
    split
    · exact ht.engWrote
    · exact ht
  | case4 _ _ _ e _ _ _ _ e2 => exact ((h.peerOf.of_eq e).homeStore.of_eq e2).dieWrite
  | case5 _ _ _ e _ _ _ e2 => exact ((h.peerOf.of_eq e).homeStore.of_eq e2).engWrote
  | case6 _ _ _ e _ _ _ e2 | case7 _ _ _ e _ _ e2 | case8 _ _ _ e _ _ e2 => exact (h.peerOf.of_eq e).homeStore.of_eq e2

theorem State.MemOk.engWrite (h : s.MemOk) : (engWrite fuel s o va n v).1.MemOk := by
  fun_induction Machine.engWrite with
  | case1 | case2 => exact h
  | case3 _ _ _ _ _ _ _ _ _ e ih => exact ih (h.engPut.of_eq e)
  | case4 => exact h.engPut

theorem State.MemOk.engine {body : State → Nat → Option Nat → Out} (h : s.MemOk) (hbody : ∀ s n x2, s.MemOk → (body s n x2).MemOk) :
    (engine s x maj body).MemOk :=
  h.issue fun _ => .ite h.trapOut (.ite h.stallIssue (hbody _ _ _ h.readRows))

theorem State.MemOk.engineTrap (h : s.MemOk) : (engineTrap s k).MemOk := .ite h.raise h.trapOut

theorem State.MemOk.engineEnter {bytes : List Byte} {after : State → Nat → State} (h : s.MemOk) (hafter : ∀ s n, s.MemOk → (after s n).MemOk) :
    (engineEnter s x maj bytes after).MemOk := by
  fun_cases Machine.engineEnter with
  | case1 => exact h.stallIssue
  | case2 => exact h.issueOpF fun _ _ hs => (hafter _ _ hs.performSeqs)

theorem State.MemOk.engineCheck {subs : List (Option Nat)} {after : State → Nat → State} (h : s.MemOk)
    (hafter : ∀ s n, s.MemOk → (after s n).MemOk) : (engineCheck s x maj v subs after).MemOk := by
  fun_cases Machine.engineCheck with
  | case1 => exact h.engineTrap
  | case2 => exact h.engineEnter fun _ _ hs => hafter _ _ hs

theorem State.MemOk.takeRanges (h : s.MemOk) : (takeRanges s q seq).MemOk := by
  fun_cases Machine.takeRanges with
  | case1 => exact h
  | case2 => exact h.putBond

theorem State.MemOk.execCpy (h : s.MemOk) : (execCpy x s).MemOk := by
  refine h.engine fun _ _ _ hs => ?_
  dsimp only
  split
  · exact hs.engineTrap
  · exact Out.MemOk.ite hs.stallIssue (hs.engineEnter (fun _ _ hs2 => hs2.takeRanges))

theorem State.MemOk.sideRead (h : s.MemOk) : (sideRead s o sp a n).1.MemOk := by
  fun_cases Machine.sideRead with
  | case1 | case2 => exact h.readRows
  | case3 => exact h.engRead

theorem State.MemOk.sideWrite (h : s.MemOk) : (sideWrite s o sp a n v).1.MemOk := by
  fun_cases Machine.sideWrite with
  | case1 => exact h.readRows.putBond
  | case2 => exact h.readRows
  | case3 => exact h.engWrite

theorem State.MemOk.copyUnit (h : s.MemOk) : (copyUnit s o q u).1.MemOk := by
  fun_cases Machine.copyUnit with
  | case1 _ _ _ _ _ _ _ _ e => exact (h.sideRead.of_eq e).sideWrite
  | case2 _ _ _ _ _ _ e => exact h.sideRead.of_eq e
  | case3 => exact h.sideRead

theorem State.MemOk.engAt {keep : Bool} (h : s.MemOk) : (engAt s seq u keep).MemOk := h.upd

theorem State.MemOk.engUnits {f : State → Op → Nat → State × EngRes} (h : s.MemOk) (hf : ∀ s o n, s.MemOk → (f s o n).1.MemOk) :
    (engUnits fuel f s seq u).1.MemOk := by
  fun_induction Machine.engUnits with
  | case1 | case2 => exact h
  | case3 _ _ _ _ _ _ _ e ih => exact ih ((hf _ _ _ h).of_eq e).engAt
  | case4 _ _ _ _ _ _ _ _ e => exact ((hf _ _ _ h).of_eq e).engAt

theorem State.MemOk.putTag {t : TagSlot} (h : s.MemOk) : (putTag s t).MemOk := h
theorem State.MemOk.updTag {f : TagSlot → TagSlot} (h : s.MemOk) : (updTag s vf tag f).MemOk := h
theorem State.MemOk.claimTag (h : s.MemOk) : (claimTag s vf tag check seq).MemOk := h.putTag
theorem State.MemOk.tagStatus (h : s.MemOk) : (tagStatus s vf tag st).MemOk := h.updTag
theorem State.MemOk.sendXwr {p : Packet} (h : s.MemOk) : (sendXwr s p).MemOk := h.sendPkt.countSent.updTag

theorem State.MemOk.sendBytes {kind : Nat} (h : s.MemOk) : (sendBytes fuel s dev vf tag kind check a n v).MemOk := by
  fun_induction Machine.sendBytes with
  | case1 | case2 => exact h
  | case3 _ _ _ _ _ _ _ _ ih => exact ih h.sendXwr

theorem State.MemOk.readMap {held : Bool} (h : s.MemOk) : (readMap s va held).1.MemOk := by
  fun_cases Machine.readMap with
  | case1 => exact h
  | case2 _ _ _ _ _ e | case3 _ _ _ _ _ e | case4 _ _ _ _ _ _ e | case5 _ _ _ _ e | case6 _ _ _ _ e => exact h.engPiece.of_eq e
  | case7 _ _ _ _ e | case8 _ _ _ _ _ e | case9 _ _ _ _ e => exact h.engPiece.of_eq e

/-- The state of a course that `readMap` stops. -/
theorem State.MemOk.readMap_error {t : State} {held : Bool} (h : s.MemOk) (e : (Machine.readMap s va held).2 = .error t) : t.MemOk := by
  revert e
  fun_cases Machine.readMap with
  | case1 | case2 => nofun
  | case3 _ _ _ _ _ e => rintro ⟨⟩; exact .endSpan (h.engPiece.of_eq e)
  | case4 _ _ _ _ _ _ e => rintro ⟨⟩; exact .ite (.endSpan (h.engPiece.of_eq e)) (.blockStop (h.engPiece.of_eq e))
  | case5 _ _ _ _ e => rintro ⟨⟩; exact .blockStop (h.engPiece.of_eq e)
  | case6 _ _ _ _ e => rintro ⟨⟩; exact .addFetch (h.engPiece.of_eq e)
  | case7 _ _ _ _ e => rintro ⟨⟩; exact .ite (.raiseSubset (h.engPiece.of_eq e)) (.raise (h.engPiece.of_eq e))
  | case8 _ _ _ _ _ e => rintro ⟨⟩; exact .ite (.raiseSubset (h.engPiece.of_eq e)) (.raise (h.engPiece.of_eq e))
  | case9 _ _ _ _ e => rintro ⟨⟩; exact h.engPiece.of_eq e

theorem State.MemOk.execXch (h : s.MemOk) : (execXch x s).MemOk := by
  rw [Machine.execXch]
  refine h.engine fun _ _ _ hs => ?_
  dsimp only
  split
  · exact hs.engineTrap
  · split
    case h_1 e => exact hs.readMap_error (congrArg Prod.snd e)
    case h_2 e =>
      have ht := hs.readMap.of_eq e
      split
      case h_1 e => exact ht.readMap_error (congrArg Prod.snd e)
      case h_2 e =>
        have hu := ht.readMap.of_eq e
        split
        · exact hu.trapOut
        · exact .ite hu.stallIssue (hu.engineEnter fun _ _ hs => hs.claimTag)

theorem State.MemOk.xchAhead {src zb count : Nat} (h : s.MemOk) : (xchAhead s o src zb count u).1.MemOk := .ite_fst h.engRead h

theorem State.MemOk.xchUnit (h : s.MemOk) : (xchUnit v a b vf s o u).1.MemOk := by
  have ahead {src zb count pa n : Nat} :
      (match (Machine.xchAhead s o src zb count u).2 with
        | .val _ => Machine.engRead 2 (Machine.xchAhead s o src zb count u).1 o pa n
        | r => ((Machine.xchAhead s o src zb count u).1, r)).1.MemOk := by
    split
    · exact h.xchAhead.engRead
    · exact h.xchAhead
  fun_cases Machine.xchUnit with
  | case1 => exact h
  | case2 _ _ _ _ _ _ _ _ _ _ _ e => exact (ahead.of_eq e).engWrite
  | case3 _ _ _ _ _ _ _ _ _ _ e => exact (ahead.of_eq e).tagStatus
  | case4 _ _ _ _ _ _ _ _ _ _ _ e => exact (ahead.of_eq e).sendBytes.engWrote
  | case5 _ _ _ _ _ _ e => exact ahead.of_eq e
  | case6 => exact ahead

theorem State.MemOk.freeBytes {a : Acc} (h : s.MemOk) : (freeBytes s a va n).MemOk := by
  fun_induction Machine.freeBytes with
  | case1 => exact h
  | case2 _ _ _ ih => exact ih h.homeStore.bumpFresh

theorem State.MemOk.freeLine {a : Acc} {la : Nat} {m : BitVec 128} (h : s.MemOk) : (freeLine s a la m).MemOk := .foldl h fun _ _ hs => hs.freeBytes

theorem State.MemOk.xchMismatch (h : s.MemOk) : (xchMismatch s o v a b vf).MemOk := by
  fun_cases Machine.xchMismatch with
  | case1 _ _ t =>
    refine .freeBytes ?_
    subst t
    split
    · exact .foldl h fun _ _ hs => hs.freeLine
    · exact h

theorem State.MemOk.execXred (h : s.MemOk) : (execXred x s).MemOk := by
  refine h.engine fun _ _ _ hs => ?_
  dsimp only
  split
  · exact hs.engineTrap
  · exact Out.MemOk.ite hs.stallIssue (hs.engineEnter (fun _ _ hs2 => hs2.claimTag))

theorem State.MemOk.keepParts {member off : Nat} (h : s.MemOk) : (keepParts s vf tag member off n v).MemOk := h.updTag

theorem State.MemOk.redSend (h : s.MemOk) : (redSend r vf c s o).1.MemOk := by
  fun_cases Machine.redSend with
  | case1 _ _ _ _ e => exact (h.engRead.of_eq e).keepParts
  | case2 _ _ _ _ e => exact (h.engRead.of_eq e).tagStatus
  | case3 _ _ _ _ e => exact (h.engRead.of_eq e).sendBytes
  | case4 _ _ _ e => exact h.engRead.of_eq e
  | case5 => exact h.engRead

theorem State.MemOk.redFold1 (h : s.MemOk) : (redFold1 r vf c s o).1.MemOk := by
  fun_cases Machine.redFold1 with
  | case1 | case2 => exact h
  | case3 => exact h.tagStatus
  | case4 _ _ _ _ _ _ _ _ _ _ e t =>
    refine .updTag (.foldl ((State.MemOk.ite_fst h.engWrite h).of_eq e) fun _ _ hs => ?_)
    subst t
    split
    · exact hs.tagStatus
    · exact hs.sendBytes.engWrote
  | case5 => exact .ite_fst h.engWrite h

theorem State.MemOk.redUnit (h : s.MemOk) : (redUnit v vf s o u).1.MemOk := .ite_fst h.redSend h.redFold1
theorem State.MemOk.execHash (h : s.MemOk) : (execHash x s).MemOk := h.engine fun _ _ _ hs => hs.engineCheck fun _ _ hs2 => hs2
theorem State.MemOk.keepHash {y : List Nat} (h : s.MemOk) : (keepHash s o y).MemOk := h.putOp

theorem State.MemOk.hashUnit (h : s.MemOk) : (hashUnit v s o u).1.MemOk := by
  fun_cases Machine.hashUnit with
  | case1 _ _ _ _ _ _ e => exact (h.engRead.of_eq e).keepHash
  | case2 _ _ _ _ _ _ e => exact (h.engRead.of_eq e).engWrite
  | case3 _ _ _ _ _ e => exact h.engRead.of_eq e
  | case4 => exact h.engRead

theorem State.MemOk.execSigv (h : s.MemOk) : (execSigv x s).MemOk := h.engine fun _ _ _ hs => hs.engineCheck fun _ _ hs2 => hs2

theorem State.MemOk.read3 {na nb nc : Nat} (h : s.MemOk) : (read3 s o a na b nb c nc).1.MemOk := by
  fun_cases Machine.read3 with
  | case1 _ _ e _ _ e2 _ _ e3 | case2 _ _ e _ _ e2 _ _ _ e3 => exact ((h.engRead.of_eq e).engRead.of_eq e2).engRead.of_eq e3
  | case3 _ _ e _ _ _ e2 => exact (h.engRead.of_eq e).engRead.of_eq e2
  | case4 _ _ _ e => exact h.engRead.of_eq e

theorem State.MemOk.sigvUnit (h : s.MemOk) : (sigvUnit v s o u).1.MemOk := by
  fun_cases Machine.sigvUnit with
  | case1 _ _ _ _ e | case2 _ e | case3 _ _ _ e => exact h.read3.of_eq e

theorem State.MemOk.execScrub (h : s.MemOk) : (execScrub x s).MemOk := h.engine fun _ _ _ hs => hs.engineCheck fun _ _ hs2 => hs2
theorem State.MemOk.putFrame {e : FrameEntry} (h : s.MemOk) : (putFrame s e).MemOk := h

theorem State.MemOk.scrubUnit (h : s.MemOk) : (scrubUnit v s o u).1.MemOk := by
  fun_cases Machine.scrubUnit with
  | case1 f t =>
    have ht : t.MemOk := memOk_drop s _ _ h
    exact ht.putFrame.physHomeWrite

theorem State.MemOk.engineBody {block : List Byte} (h : s.MemOk) : (engineBody s seq maj block u).1.MemOk := by
  fun_cases Machine.engineBody with
  | case1 => exact h.engUnits fun _ _ _ hs => hs.copyUnit
  | case2 => exact h.xchMismatch
  | case3 | case4 => exact h.engUnits fun _ _ _ hs => hs.xchUnit
  | case5 => exact h.engUnits fun _ _ _ hs => hs.redUnit
  | case6 => exact h.engUnits fun _ _ _ hs => hs.hashUnit
  | case7 => exact h.engUnits fun _ _ _ hs => hs.sigvUnit
  | case8 => exact h.engUnits fun _ _ _ hs => hs.scrubUnit

theorem State.MemOk.engineCount (h : s.MemOk) : (engineCount s o v).1.MemOk := by
  fun_cases Machine.engineCount with
  | case1 | case4 => exact h
  | case2 => exact .ite h.readRows h.readRows.putBond
  | case3 => exact h.readRows
  | case5 _ _ _ _ _ _ e | case6 _ _ _ _ _ _ e | case7 _ _ _ _ _ _ e | case8 _ _ _ _ _ _ e | case9 _ _ _ _ _ _ _ e => exact h.engineAdd.of_eq e

theorem State.MemOk.engineEnd (h : s.MemOk) : (engineEnd s seq st).MemOk := by
  fun_cases Machine.engineEnd with
  | case1 t =>
    refine .unstallAll (.putBond ?_)
    subst t
    split
    · split
      · exact h.putOp
      · exact h
    · exact h
  | case2 t =>
    refine .unstallAll ?_
    subst t
    split
    · split
      · exact h.putOp
      · exact h
    · exact h

theorem State.MemOk.engineSettle {r : EngRes} (h : s.MemOk) : (engineSettle s seq r).MemOk := by
  fun_cases Machine.engineSettle with
  | case1 | case2 | case3 => exact h
  | case4 | case5 => exact h.engineEnd
  | case6 | case7 | case9 => exact h.putOp
  | case8 | case11 => exact .ite h.endSpan h.engineEnd
  | case10 => exact h.putOp.parkOn

theorem State.MemOk.engineGo (h : s.MemOk) : (engineGo s o).MemOk := by
  fun_cases Machine.engineGo with
  | case1 | case4 => exact h
  | case2 => exact h.putOp.engineEnd
  | case3 => exact h.putOp.engineBody.engineSettle

theorem State.MemOk.engineDeliver (h : s.MemOk) : (engineDeliver s o d maj st).MemOk :=
  .ite (.lateCause (.unstallAll (.finishOp h))) (.unstallAll (.finishOp h))

theorem State.MemOk.engineFinish (h : s.MemOk) : (engineFinish s o d maj st v).MemOk := by
  fun_cases Machine.engineFinish with
  | case1 => exact h.engineDeliver
  | case2 _ _ _ _ e | case3 _ _ _ _ e => exact (h.engineCount.of_eq e).engineDeliver
  | case4 _ _ e | case5 _ _ e => exact (h.engineCount.of_eq e).putOp
  | case6 _ _ _ _ _ _ _ _ e => exact (h.engineCount.of_eq e).engineDeliver
  | case7 _ _ _ _ _ _ _ e => exact (h.engineCount.of_eq e).engineSettle

theorem State.MemOk.engineComplete (h : s.MemOk) : (engineComplete s o).MemOk := by
  fun_cases Machine.engineComplete with
  | case1 | case5 => exact h
  | case2 => exact h.putOp.putOp.engineFinish
  | case3 => exact .putOp (.foldl h.putOp fun _ _ hs => hs.sendReq)
  | case4 => exact h.putOp.engineFinish

theorem State.MemOk.execEngineCommandStart (h : s.MemOk) : (execEngineCommandStart c k s).MemOk := h.onOp fun _ _ hs => hs.engineGo
theorem State.MemOk.execEngineCommandCompletion (h : s.MemOk) : (execEngineCommandCompletion c k s).MemOk := h.onOp fun _ _ hs => hs.engineComplete

theorem State.MemOk.retryOp (h : s.MemOk) : (retryOp s c k).MemOk := by
  refine h.onOp fun _ _ hs => ?_
  dsimp only
  split
  · exact hs.putOp
  · exact .ite hs.putOp.performEnq hs.putOp
  · exact .ite hs.putOp.lrqAdd hs.putOp.leaseStep
  · exact .ite hs.putOp.engineGo hs.putOp.engineComplete
  all_goals exact hs.putOp.performOp

theorem State.MemOk.execMissSlotRetry (h : s.MemOk) : (execMissSlotRetry c k s).MemOk := h.retryOp

end Sys2Proof.Machine
end

section
/-! ### Canonical memory: packets of other devices -/
namespace Sys2Proof.Machine

variable {s : State} {p : Packet} {poison : BitVec 2} {asid la vf st d seq tag n port : Nat} {r : PeerReq} {a : Acc} {w : HostWait} {who : ReqWho}

/-! #### Requests served and replies -/

theorem State.MemOk.replyTo {opc : Byte} {status : Nat} {data : List Byte} (h : s.MemOk) : (replyTo s p opc status data poison).MemOk := h.sendPkt
theorem State.MemOk.replyWritten {r : Packet} (h : s.MemOk) : (replyWritten s asid la r).MemOk := .ite h h.sendPkt
theorem State.MemOk.releaseAcks (h : s.MemOk) : (releaseAcks s).MemOk := .foldl h fun _ _ hs => hs.sendPkt
theorem State.MemOk.keepRx (h : s.MemOk) : (keepRx s p).MemOk := h

theorem State.MemOk.serveRd (h : s.MemOk) : (serveRd s p).MemOk := by
  fun_cases Machine.serveRd with
  | case1 => exact h.replyTo
  | case2 _ _ _ _ _ _ e => exact .replyTo (State.MemOk.checkOut (.ite (h.homeGet.of_eq e).l2Put (h.homeGet.of_eq e)))
  | case3 _ _ _ _ _ _ e | case4 _ _ _ _ _ e | case5 _ _ _ _ _ e | case6 _ _ _ _ e => exact (h.homeGet.of_eq e).replyTo
  | case7 _ _ _ _ e => exact (h.homeGet.of_eq e).keepRx

theorem State.MemOk.answerFlushes (h : s.MemOk) : (answerFlushes s).MemOk := .foldl h fun _ _ hs => hs.replyTo
theorem State.MemOk.countDone (h : s.MemOk) : (countDone s p).MemOk := .answerFlushes h
theorem State.MemOk.writeRefused {va src : Nat} (h : s.MemOk) : (writeRefused s va vf src).MemOk := h.postDie

theorem State.MemOk.performWr (h : s.MemOk) : (performWr s a la p).1.MemOk := by
  fun_cases Machine.performWr with
  | case1 _ _ _ _ e => exact .foldl (h.homeGet.of_eq e) fun _ _ hs => hs.dieWrite
  | case2 _ _ e | case3 _ e | case4 _ e | case5 _ _ e => exact h.homeGet.of_eq e
  | case6 _ _ _ _ e _ _ _ e2 | case7 _ _ _ _ e _ _ _ e2 => exact (h.homeGet.of_eq e).homeWrite.of_eq e2

theorem State.MemOk.serveWr (h : s.MemOk) : (serveWr s p).MemOk := by
  fun_cases Machine.serveWr with
  | case1 => exact h.countDone
  | case2 => exact h.writeRefused.countDone
  | case3 _ _ _ _ _ e => exact (h.performWr.of_eq e).countDone
  | case4 _ _ _ _ _ e => exact (h.performWr.of_eq e).writeRefused.countDone
  | case5 _ _ _ _ _ e => exact (h.performWr.of_eq e).keepRx

theorem State.MemOk.execInv (h : s.MemOk) : (execInv p s).MemOk := h.accept fun _ hs => .replyTo hs
theorem State.MemOk.execInva (h : s.MemOk) : (execInva p s).MemOk := h.accept fun _ hs => .answerFlushes (.releaseAcks hs)

theorem State.MemOk.serveAtm (h : s.MemOk) : (serveAtm s p).MemOk := by
  fun_cases Machine.serveAtm with
  | case1 | case2 => exact h.replyTo
  | case3 _ _ _ _ _ _ _ _ _ _ _ _ e => exact (h.homeLoad.of_eq e).replyTo
  | case4 _ _ _ _ _ _ _ _ _ _ _ _ _ _ _ e => exact .replyWritten (.ite (h.homeLoad.of_eq e).homeWrite (h.homeLoad.of_eq e))
  | case5 _ _ _ _ _ _ _ _ _ _ _ _ _ _ _ e => exact .replyWritten (.ite (h.homeLoad.of_eq e).dieWrite (h.homeLoad.of_eq e))
  | case6 _ _ _ _ _ _ _ _ _ e | case7 _ _ _ _ _ _ _ _ _ e | case8 _ _ _ _ _ _ _ _ e => exact (h.homeLoad.of_eq e).replyTo
  | case9 _ _ _ _ _ _ _ _ e => exact (h.homeLoad.of_eq e).keepRx

theorem State.MemOk.execFrd (h : s.MemOk) : (execFrd p s).MemOk := by
  refine h.accept fun _ hs => ?_
  split
  · exact hs.replyTo
  · exact .answerFlushes hs

theorem State.MemOk.dropReq (h : s.MemOk) : (dropReq s r).MemOk := h

theorem State.MemOk.replyFails {o : Op} {lane : Nat → Bool} (h : s.MemOk) : (replyFails s o st lane).MemOk := by
  have settle {q : Op} {fs : List LaneFault} {more : Bool} :
      (Machine.settleOp q { s := s, got := [], fs := fs, absent := [], refused := false, wait := more, poison := false }).MemOk := .settleOp h
  fun_cases Machine.replyFails with
  | case1 | case3 | case10 | case12 | case14 => exact h.putOp
  | case2 => exact h.endWatch.lateFaults
  | case4 => exact h.lateSubset
  | case5 => exact h.removeOp.laneFaults.noEligible
  | case6 | case7 | case8 | case9 => exact settle
  | case11 | case13 | case15 => exact h.putOp.finishOrder
  | case16 | case17 | case18 | case19 | case20 | case21 => exact h

theorem State.MemOk.fillPeer (h : s.MemOk) : (fillPeer s a la d poison).MemOk := by
  fun_cases Machine.fillPeer with
  | case1 => exact h.l2Fill
  | case2 | case3 | case4 => exact h

theorem State.MemOk.goOn (h : s.MemOk) : (goOn s seq).MemOk := by
  fun_cases Machine.goOn with
  | case1 | case3 | case6 => exact h
  | case2 => exact h.performEnq
  | case4 => exact h.engineGo
  | case5 => exact h.engineComplete
  | case7 | case8 | case9 | case10 | case11 | case12 | case13 | case14 | case15 | case16 | case17 | case18 | case19 => exact h.performOp

theorem State.MemOk.dropWait (h : s.MemOk) : (dropWait s tag).MemOk := h
theorem State.MemOk.putWait (h : s.MemOk) : (putWait s w).MemOk := h
theorem State.MemOk.tellHost {m : HostMsg} (h : s.MemOk) : (tellHost s m).MemOk := h

theorem State.MemOk.hostReadGo {fuel : Nat} (h : s.MemOk) : (hostReadGo fuel s w).MemOk := by
  fun_induction Machine.hostReadGo with
  | case1 => exact h
  | case2 | case3 => exact h.dropWait.tellHost
  | case4 _ _ _ _ _ _ _ _ _ _ ih => exact ih h
  | case5 _ _ _ _ _ _ _ _ _ _ _ _ _ _ e _ _ _ ih => exact ih (h.homeGet.of_eq e).checkOut
  | case6 _ _ _ _ _ _ _ _ _ _ _ _ _ _ e ih => exact ih (h.homeGet.of_eq e)
  | case7 _ _ _ _ _ _ _ _ _ _ _ _ _ e => exact (h.homeGet.of_eq e).dropWait.tellHost
  | case8 _ _ _ _ _ _ _ _ _ _ _ _ e => exact (h.homeGet.of_eq e).putWait.askLine
  | case9 _ _ _ _ _ _ _ _ _ _ _ e => exact (h.homeGet.of_eq e).putWait
  | case10 _ _ _ _ _ _ _ _ _ _ _ _ _ e => exact (h.homeGet.of_eq e).dropWait.tellHost
  | case11 _ _ _ _ _ _ _ _ _ _ _ e => exact (h.homeGet.of_eq e).putWait

theorem State.MemOk.hostReadArrives (h : s.MemOk) : (hostReadArrives s tag p).MemOk := by
  fun_cases Machine.hostReadArrives with
  | case1 => exact h
  | case2 => exact h.dropWait.tellHost
  | case3 => exact h.hostReadGo

theorem State.MemOk.prefArrives {quoin : Nat} (h : s.MemOk) : (prefArrives s a quoin la d poison).MemOk := by
  fun_cases Machine.prefArrives with
  | case1 => exact h.fillPeer.coreFill
  | case2 | case3 | case4 => exact h.fillPeer

theorem State.MemOk.rdrReply {lane : Op → Nat → Bool} (h : s.MemOk) : (rdrReply s p who lane).MemOk := by
  fun_cases Machine.rdrReply with
  | case1 =>
    refine h.atCourse fun _ hs => ?_
    split
    · exact hs
    · exact .ite hs.replyFails hs.fillPeer.putOp.goOn
  | case2 | case4 | case6 => exact h
  | case3 => exact h.fillPeer
  | case5 => exact h.hostReadArrives
  | case7 => exact h.prefArrives

theorem State.MemOk.atmrReply (h : s.MemOk) : (atmrReply s p who).MemOk := by
  fun_cases Machine.atmrReply with
  | case1 =>
    refine h.atCourse fun u hu => ?_
    split
    · exact hu
    · refine .ite (.goOn (.ite hu.replyFails hu.putOp)) (.ite hu.replyFails (.settleOp ?_))
      exact State.MemOk.ite hu hu.upd
  | case2 => exact h.completionReplied.completeSpan
  | case3 | case4 => exact h

theorem State.MemOk.frrReply (h : s.MemOk) : (frrReply s p who).MemOk := by
  fun_cases Machine.frrReply with
  | case1 =>
    refine h.atCourse fun _ hs => ?_
    split
    · exact hs
    · exact .ite hs.replyFails (.ite hs hs.putOp.goOn)
  | case2 => exact h.putSpan.completeSpan
  | case3 | case4 | case5 => exact h

theorem State.MemOk.takeReply {opc : Nat} {f : State → Packet → ReqWho → State} (h : s.MemOk) (hf : ∀ s p w, s.MemOk → (f s p w).MemOk) :
    (takeReply s p opc f).MemOk := by
  fun_cases Machine.takeReply with
  | case1 => exact h
  | case2 | case3 => exact hf _ _ _ h.dropReq
  | case4 | case5 | case6 => exact h.dropReq

theorem State.MemOk.execRdr (h : s.MemOk) : (execRdr p s).MemOk := h.accept fun _ hs => hs.takeReply fun _ _ _ hs2 => hs2.rdrReply
theorem State.MemOk.execAtmr (h : s.MemOk) : (execAtmr p s).MemOk := h.accept fun _ hs => hs.takeReply fun _ _ _ hs2 => hs2.atmrReply
theorem State.MemOk.execFrr (h : s.MemOk) : (execFrr p s).MemOk := h.accept fun _ hs => hs.takeReply fun _ _ _ hs2 => hs2.frrReply
theorem State.MemOk.xack (h : s.MemOk) : (xack s p st).MemOk := h.replyTo.countDone
theorem State.MemOk.xackWritten (h : s.MemOk) : (xackWritten s p asid la).MemOk := h.replyWritten.countDone
theorem State.MemOk.writeResult {dst : Nat} (h : s.MemOk) : (writeResult s a dst p).MemOk := .foldl h fun _ _ hs => hs.performWr

theorem State.MemOk.serveXwr (h : s.MemOk) : (serveXwr s p).MemOk := by
  fun_cases Machine.serveXwr with
  | case1 | case2 | case4 | case5 | case9 => exact h.xack
  | case3 => exact h.putTag.xack
  | case6 => exact h.homeGet.homeGet.keepRx
  | case7 => exact h.writeResult.putTag.xackWritten
  | case8 => exact h.tagStatus.xack
  | case10 _ _ _ _ _ _ _ _ _ e => exact (h.performWr.of_eq e).xack
  | case11 _ _ _ _ _ _ _ _ _ e => exact (h.performWr.of_eq e).keepRx
  | case12 _ _ _ _ _ _ _ _ _ _ _ e => exact (h.performWr.of_eq e).putTag.xackWritten

theorem State.MemOk.serve (h : s.MemOk) : (serve s p).MemOk := .ite h.keepRx (.ite h.serveRd (.ite h.serveWr (.ite h.serveAtm h.serveXwr)))
theorem State.MemOk.retryRx (h : s.MemOk) : (retryRx s).MemOk := .foldl h fun _ _ hs => hs.serve
theorem State.MemOk.execRd (h : s.MemOk) : (execRd p s).MemOk := h.accept fun _ hs => hs.serve
theorem State.MemOk.execWr (h : s.MemOk) : (execWr p s).MemOk := h.accept fun _ hs => hs.serve
theorem State.MemOk.execAtm (h : s.MemOk) : (execAtm p s).MemOk := h.accept fun _ hs => hs.serve
theorem State.MemOk.execXwr (h : s.MemOk) : (execXwr p s).MemOk := h.accept fun _ hs => hs.serve
theorem State.MemOk.execXack (h : s.MemOk) : (execXack p s).MemOk := h.accept fun _ hs => .ite hs.updTag hs.updTag.tagStatus

theorem State.MemOk.execXchTimeout (h : s.MemOk) : (execXchTimeout s).MemOk := by
  fun_cases Machine.execXchTimeout with
  | case1 => exact h
  | case2 =>
    change State.MemOk _
    split
    · exact h
    · refine h.putTag.atCourse fun _ hs => ?_
      split
      · exact hs.putOp.engineComplete
      · exact hs

theorem State.MemOk.execUnknownPacket (h : s.MemOk) : (execUnknownPacket p s).MemOk := h.accept fun _ hs => hs.postDie

theorem State.MemOk.answerOne (h : s.MemOk) : (answerOne s r).MemOk := by
  fun_cases Machine.answerOne with
  | case1 => exact h.dropReq.rdrReply
  | case2 => exact h.dropReq.atmrReply
  | case3 => exact h.dropReq.frrReply

theorem State.MemOk.answerCut (h : s.MemOk) : (answerCut s).MemOk := .ite h (.answerFlushes (.releaseAcks (.foldl h fun _ _ hs => hs.answerOne)))

theorem State.MemOk.portDown (h : s.MemOk) : (portDown s n).MemOk := by
  fun_cases Machine.portDown with
  | case1 | case2 => exact h
  | case3 => exact .answerCut (.postDie h)

theorem State.MemOk.resetPort (h : s.MemOk) : (resetPort s n).MemOk := h.portDown

theorem State.MemOk.execFlitReceived {crcOk : Bool} (h : s.MemOk) : (execFlitReceived port seq crcOk s).MemOk := by
  fun_cases Machine.execFlitReceived with
  | case1 | case2 | case4 => exact h
  | case3 => exact h.portDown

theorem State.MemOk.execLossOfLock (h : s.MemOk) : (execLossOfLock port s).MemOk := h.portDown
theorem State.MemOk.sendUnsent (h : s.MemOk) : (sendUnsent s).MemOk := .foldl h fun _ _ hs => .ite hs.sendPkt.countSent hs.relay

theorem State.MemOk.execPortRetrain {ok : Bool} (h : s.MemOk) : (execPortRetrain port ok s).MemOk := by
  fun_cases Machine.execPortRetrain with
  | case1 | case2 => exact h
  | case3 => exact State.MemOk.sendUnsent (.postDie h)

theorem State.MemOk.execGangDecisionTimeout {key : Nat} (h : s.MemOk) : (execGangDecisionTimeout key s).MemOk :=
  .ite h (State.MemOk.ite (.sendPkt (.foldl h fun _ _ hs => hs.resetPort)) (.gangEnd (.foldl h fun _ _ hs => hs.resetPort)))

theorem State.MemOk.drainVf (h : s.MemOk) : (drainVf s vf).MemOk := h

theorem State.MemOk.execVfDrained (h : s.MemOk) : (execVfDrained s).MemOk := by
  fun_cases Machine.execVfDrained with
  | case1 => exact h
  | case2 => exact State.MemOk.postDie h

theorem State.MemOk.execFlr (h : s.MemOk) : (execFlr vf s).MemOk := by
  fun_cases Machine.execFlr with
  | case1 => exact h
  | case2 => exact State.MemOk.postDie (.drainVf h)

end Sys2Proof.Machine
end

section
/-! ### Canonical memory: the host link -/
namespace Sys2Proof.Machine

variable {s : State} {a : HostAccess} {v : Word} {len vf k code slot session : Nat} {data : List Byte} {w : HostWait} {e : Endpoint} {body : List Nat}

/-! #### Reads, writes and device control -/

theorem State.MemOk.takeTlp {v : Vf} {addr : Nat} (h : s.MemOk) : (takeTlp s a v addr).1.MemOk := by
  fun_cases Machine.takeTlp with
  | case1 | case2 | case3 | case4 | case5 | case6 | case7 | case8 => exact h

theorem State.MemOk.pfRead (h : s.MemOk) : (pfRead s a len).MemOk := by
  fun_cases Machine.pfRead with
  | case1 _ e => exact h.takeTlp.of_eq e
  | case2 _ e | case3 _ e | case4 _ e => exact (h.takeTlp.of_eq e).tellHost

theorem State.MemOk.announcePhys {pa : Nat} (h : s.MemOk) : (announcePhys s pa).MemOk := h

theorem State.MemOk.pfWrite (h : s.MemOk) : (pfWrite s a data).MemOk := by
  fun_cases Machine.pfWrite with
  | case1 _ e => exact .foldl (h.takeTlp.of_eq e) fun _ _ hs => .ite hs.physHomeWrite hs
  | case2 _ _ _ e => exact h.takeTlp.of_eq e

theorem State.MemOk.pfWord (h : s.MemOk) : (pfWord s a v).MemOk := by
  fun_cases Machine.pfWord with
  | case1 _ e => exact (h.takeTlp.of_eq e).physHomeWrite.announcePhys
  | case2 _ e => exact .of_mem (h.takeTlp.of_eq e) rfl
  | case3 _ e | case4 _ _ _ e => exact h.takeTlp.of_eq e

theorem State.MemOk.execHostRead (h : s.MemOk) : (execHostRead a len s).MemOk := by
  refine State.MemOk.ite h (.ite h.pfRead ?_)
  split
  · exact h.tellHost
  · split
    next e => exact h.takeTlp.of_eq e
    next e => exact (h.takeTlp.of_eq e).tellHost
    next e => exact .ite (h.takeTlp.of_eq e).tellHost (h.takeTlp.of_eq e).hostReadGo

theorem State.MemOk.hostWriteGo {fuel : Nat} (h : s.MemOk) : (hostWriteGo fuel s w).1.MemOk := by
  fun_induction Machine.hostWriteGo with
  | case1 | case2 | case3 => exact h
  | case4 _ _ _ _ _ _ _ _ _ _ e | case5 _ _ _ _ _ _ _ _ _ _ e | case6 _ _ _ _ _ _ _ _ _ _ e => exact h.engineAdd.of_eq e
  | case7 _ _ _ _ _ _ _ _ _ _ e => exact h.engineAdd.of_eq e
  | case8 _ _ _ _ _ _ _ _ _ _ _ e => exact (h.engineAdd.of_eq e).postDie
  | case9 _ _ _ _ _ _ _ _ _ _ _ _ _ _ _ e ih => exact ih (h.homeGet.of_eq e).dieWrite
  | case10 _ _ _ _ _ _ _ _ _ _ _ e | case11 _ _ _ _ _ _ _ _ _ _ _ e => exact h.homeGet.of_eq e
  | case12 _ _ _ _ _ _ _ _ _ _ _ _ e => exact (h.homeGet.of_eq e).postDie
  | case13 _ _ _ _ _ _ _ _ _ _ _ _ _ _ _ _ e ih | case14 _ _ _ _ _ _ _ _ _ _ _ _ _ _ _ e ih => exact ih (h.homeGet.of_eq e).homeWrite

theorem State.MemOk.hostWriteIn (h : s.MemOk) : (hostWriteIn s w).MemOk := by
  fun_cases Machine.hostWriteIn with
  | case1 => exact h
  | case2 _ _ e => exact h.hostWriteGo.of_eq e
  | case3 _ _ _ e => exact .of_mem (h.hostWriteGo.of_eq e) rfl

theorem State.MemOk.execHostWrite (h : s.MemOk) : (execHostWrite a data s).MemOk := by
  refine State.MemOk.ite h (.ite h.pfWrite ?_)
  split
  · exact h
  · split
    next e => exact h.takeTlp.of_eq e
    next e => exact h.takeTlp.of_eq e
    next e => exact .ite (h.takeTlp.of_eq e).postDie (h.takeTlp.of_eq e).hostWriteIn

theorem State.MemOk.msixMaskWrite {masked : Bool} (h : s.MemOk) : (msixMaskWrite s vf k masked).MemOk := .ite h (.ite (.tellHost h) h)

theorem State.MemOk.execHostCounterWrite (h : s.MemOk) : (execHostCounterWrite a v s).MemOk := by
  refine State.MemOk.ite h (.ite h.pfWord ?_)
  split
  · exact h
  · split
    next e => exact h.takeTlp.of_eq e
    next e => exact h.takeTlp.of_eq e
    next e => exact .ite (h.takeTlp.of_eq e).hostWriteIn (.ite (h.takeTlp.of_eq e).msixMaskWrite (h.takeTlp.of_eq e))

theorem State.MemOk.execHostAccessTimeout (h : s.MemOk) : (execHostAccessTimeout s).MemOk := by
  fun_cases Machine.execHostAccessTimeout with
  | case1 => exact h
  | case2 => exact State.MemOk.ite (.tellHost h) h

theorem State.MemOk.hostWritesAgain {ws : List HostWait} {stuck : List Nat} (h : s.MemOk) : (hostWritesAgain s ws stuck).MemOk := by
  fun_induction Machine.hostWritesAgain with
  | case1 => exact h
  | case2 _ _ _ _ _ _ ih => exact ih h
  | case3 _ _ _ _ _ _ e ih => exact ih (h.hostWriteGo.of_eq e)
  | case4 _ _ _ _ _ _ _ _ e ih => exact ih (State.MemOk.of_mem (h.hostWriteGo.of_eq e) rfl)

theorem State.MemOk.hostRetry (h : s.MemOk) : (hostRetry s).MemOk :=
  .ite (.foldl h fun _ _ hs => hs.hostReadGo) (.hostWritesAgain (.foldl h fun _ _ hs => hs.hostReadGo))

theorem State.MemOk.retryAgents (h : s.MemOk) : (retryAgents s).MemOk := .foldl h.retryRx.releaseAcks.hostRetry fun _ _ hs => hs.completeSpan
theorem State.MemOk.execPinRetry {c : Nat} (h : s.MemOk) : (execPinRetry c k s).MemOk := .ite h.retryAgents h.retryOp

theorem State.MemOk.attend {k : Out} (h : s.MemOk) (hk : k.MemOk) : (attend s e k).MemOk := by
  fun_cases Machine.attend with
  | case1 | case2 => exact hk
  | case3 | case5 | case6 => exact h
  | case4 => exact State.MemOk.ite h.tellHost h

theorem State.MemOk.answer (h : s.MemOk) : (answer s e code body).MemOk := h.tellHost
theorem State.MemOk.freePart (h : s.MemOk) : (freePart s code).1.MemOk := h.bumpFresh
theorem State.MemOk.freeReply (h : s.MemOk) : (freeReply s e code body).MemOk := h.freePart.answer
theorem State.MemOk.execGetVersion (h : s.MemOk) : (execGetVersion e s).MemOk := h.attend h.answer
theorem State.MemOk.execGetCapabilities (h : s.MemOk) : (execGetCapabilities e s).MemOk := h.attend h.freeReply
theorem State.MemOk.execNegotiateAlgorithms (h : s.MemOk) : (execNegotiateAlgorithms e s).MemOk := h.attend h.answer
theorem State.MemOk.execGetDigests (h : s.MemOk) : (execGetDigests e s).MemOk := h.attend h.freePart.freeReply
theorem State.MemOk.execGetCertificate (h : s.MemOk) : (execGetCertificate e slot s).MemOk := h.attend h.freeReply
theorem State.MemOk.execChallenge {nonce : Nat} (h : s.MemOk) : (execChallenge e slot nonce s).MemOk := h.attend h.freeReply
theorem State.MemOk.execGetMeasurements {block : Nat} (h : s.MemOk) : (execGetMeasurements e block s).MemOk := h.attend h.answer
theorem State.MemOk.execKeyExchange (h : s.MemOk) : (execKeyExchange e session s).MemOk := h.attend (.ite h.tellHost (State.MemOk.freeReply h))
theorem State.MemOk.execFinish (h : s.MemOk) : (execFinish e session s).MemOk := h.attend (.ite (State.MemOk.answer h) h.tellHost)
theorem State.MemOk.execEndSession (h : s.MemOk) : (execEndSession e session s).MemOk := h.attend (.ite (State.MemOk.answer h) h.tellHost)
theorem State.MemOk.execSpdmUnsupportedRequest (h : s.MemOk) : (execSpdmUnsupportedRequest e code s).MemOk := h.attend h.tellHost
theorem State.MemOk.execIdeKm {stream : Nat} {ranges : List (Nat × Nat)} (h : s.MemOk) : (execIdeKm session stream ranges s).MemOk := .ite h h
theorem State.MemOk.setTdi {t : Nat} (h : s.MemOk) : (setTdi s vf t).MemOk := h

theorem State.MemOk.execLockInterface (h : s.MemOk) : (execLockInterface vf s).MemOk := by
  fun_cases Machine.execLockInterface with
  | case1 => exact State.MemOk.ite h.setTdi h
  | case2 => exact h

theorem State.MemOk.execStartInterface (h : s.MemOk) : (execStartInterface vf s).MemOk := by
  fun_cases Machine.execStartInterface with
  | case1 => exact State.MemOk.ite h.setTdi h
  | case2 => exact h

theorem State.MemOk.execGetDeviceInterfaceReport (h : s.MemOk) : (execGetDeviceInterfaceReport vf s).MemOk := by
  fun_cases Machine.execGetDeviceInterfaceReport with
  | case1 => exact h.tellHost
  | case2 => exact h

end Sys2Proof.Machine
end

section
/-! ### Canonical memory: creation of piers, saving, halting and placement -/
namespace Sys2Proof.Machine

variable {s : State} {die ring id fuel pa n kind cause qid pier core : Nat} {p : Pier} {c : Course} {b : Bond} {q : Prq} {sp : Span}
variable {cs : List Choice}

/-! #### New courses -/

theorem State.MemOk.newHandler (h : s.MemOk) : (newHandler s die ring).MemOk := .ite h h

/-! #### Spilling and restoring -/

theorem State.MemOk.updPier {f : Pier → Pier} (h : s.MemOk) : (updPier s id f).MemOk := h

theorem State.MemOk.imagePut {v : Nat} (h : s.MemOk) : (imagePut fuel s pa n v).MemOk := by
  fun_induction Machine.imagePut with
  | case1 | case2 => exact h
  | case3 _ _ _ _ _ _ _ ih => exact ih h.physHomeWrite

theorem State.MemOk.chargeSpill {tenant : Nat} (h : s.MemOk) : (chargeSpill s tenant pa n).MemOk := .foldl h fun _ _ hs => hs.drawBucket
theorem State.MemOk.spillCourse (h : s.MemOk) : (spillCourse s p c).MemOk := .ite h h.chargeSpill.imagePut.updCourses
theorem State.MemOk.spillBond (h : s.MemOk) : (spillBond s p b).MemOk := .foldl h fun _ _ hs => hs.chargeSpill.imagePut

theorem State.MemOk.spillImage (h : s.MemOk) : (spillImage s id).MemOk := by
  fun_cases Machine.spillImage with
  | case1 => exact h
  | case2 => exact .foldl (.foldl (.foldl h fun _ _ hs => hs.readRows) fun _ _ hs => hs.spillCourse) fun _ _ hs => hs.spillBond

theorem State.MemOk.readImage (h : s.MemOk) : (readImage s id).MemOk := by
  fun_cases Machine.readImage with
  | case1 t u v w bond =>
    have hu : u.MemOk := .foldl h fun _ _ hs => hs.chargeSpill
    have hv : v.MemOk := .foldl hu fun _ _ hs => .foldl hs fun _ _ hs => hs.chargeSpill
    exact hv

theorem State.MemOk.spillStopped (h : s.MemOk) : (spillStopped s c).MemOk := by
  fun_cases Machine.spillStopped with
  | case1 => exact h
  | case2 => exact h.spillCourse.updPier.updCourses

theorem State.MemOk.filesBack (h : s.MemOk) : (filesBack s c).MemOk := .updPier (.updCourses (.ite h h.chargeSpill))
theorem State.MemOk.segsBack (h : s.MemOk) : (segsBack s c).MemOk := h.updCourses

theorem State.MemOk.landPuts (h : s.MemOk) : (landPuts s).MemOk := by
  refine .foldl h fun _ _ hs => ?_
  split
  · exact hs.landPut
  · exact hs

/-! #### Halting and handlers -/

theorem State.MemOk.takeDebugStop (h : s.MemOk) : (takeDebugStop s).MemOk := h.upd.raise
theorem State.MemOk.execFrameTaken {c : Nat} (h : s.MemOk) : (execFrameTaken c s).MemOk := h.atCourse fun _ hs => .ite hs.takeDebugStop hs.takePending
theorem State.MemOk.execDebugStopTimeout {c : Nat} (h : s.MemOk) : (execDebugStopTimeout c s).MemOk := h.atCourse fun _ hs => .ite hs.takeDebugStop hs

theorem State.MemOk.execHandlerCourseStart (h : s.MemOk) : (execHandlerCourseStart die ring s).MemOk := by
  fun_cases Machine.execHandlerCourseStart with
  | case1 | case3 => exact h
  | case2 => exact h.updDie.atCourse fun _ hs => hs.upd

theorem State.MemOk.haltFlush {ls : List (Nat × Nat)} (h : s.MemOk) : (haltFlush s ls).MemOk := by
  fun_induction Machine.haltFlush with
  | case1 => exact h.clearPins
  | case2 => exact h
  | case3 _ _ _ _ ih => exact ih h
  | case4 _ _ _ _ _ _ e ih => exact ih (h.l1WriteBack.of_eq e).cleanL1
  | case5 _ _ _ _ _ _ e ih => exact ih (h.l1WriteBack.of_eq e).upd

theorem State.MemOk.haltWriteBack (h : s.MemOk) : (haltWriteBack s).MemOk := h.upd.haltFlush
theorem State.MemOk.haltAgain (h : s.MemOk) : (haltAgain s).MemOk := h.upd.haltFlush
theorem State.MemOk.saveCourse (h : s.MemOk) : (saveCourse s kind cause).MemOk := h.settleSleep.writeFrame.upd.haltWriteBack
theorem State.MemOk.haltCourse (h : s.MemOk) : (haltCourse s).MemOk := .ite h h.upd.saveCourse
theorem State.MemOk.freePier (h : s.MemOk) : (freePier s id).MemOk := .updCourses h

theorem State.MemOk.settlePier (h : s.MemOk) : (settlePier s id).MemOk := by
  fun_cases Machine.settlePier with
  | case1 | case2 => exact h
  | case3 => exact h.endSpan
  | case4 => exact h.updPier.spillImage.freePier

theorem State.MemOk.settlePiers (h : s.MemOk) : (settlePiers s).MemOk := .foldl h fun _ _ hs => hs.settlePier

theorem State.MemOk.execCourseHalt {c : Nat} (h : s.MemOk) : (execCourseHalt c s).MemOk :=
  State.MemOk.settlePiers (h.atCourse (fun _ hs => .ite hs.haltCourse hs.haltAgain))

theorem State.MemOk.execForcedFullSave {c : Nat} (h : s.MemOk) : (execForcedFullSave c s).MemOk :=
  State.MemOk.settlePiers (h.atCourse (fun _ hs => .ite hs.upd.haltCourse hs))

theorem State.MemOk.preemptPier (h : s.MemOk) : (preemptPier s id).MemOk := h.updPier.updCourses
theorem State.MemOk.execPreemptSpan (h : s.MemOk) : (execPreemptSpan die q s).MemOk := h.startPrq
theorem State.MemOk.execPreemptPier (h : s.MemOk) : (execPreemptPier die q s).MemOk := h.startPrq
theorem State.MemOk.execPreemptTenant (h : s.MemOk) : (execPreemptTenant die q s).MemOk := h.startPrq
theorem State.MemOk.execPreemptRelease (h : s.MemOk) : (execPreemptRelease die q s).MemOk := h.startPrq
theorem State.MemOk.execDebugStop (h : s.MemOk) : (execDebugStop die q s).MemOk := h.startPrq

theorem State.MemOk.execPreemptRequestDone (h : s.MemOk) : (execPreemptRequestDone s).MemOk := by
  change State.MemOk _
  split
  · exact h.settlePiers.prqComplete
  · exact h.settlePiers

theorem State.MemOk.execPreemptOverdue (h : s.MemOk) : (execPreemptOverdue s).MemOk := by
  change State.MemOk _
  split
  · exact h
  · refine .ite (.updDie h) (.foldl (.updDie h) fun _ _ hs => hs.atCourse (fun _ hs2 => ?_))
    split
    · split
      · exact .ite hs2.raise hs2
      · exact hs2
    · exact hs2

theorem State.MemOk.evictPier (h : s.MemOk) : (evictPier s id).MemOk := h.updPier.updCourses

theorem State.MemOk.markVictims (h : s.MemOk) : (markVictims s qid fuel).MemOk := by
  fun_induction Machine.markVictims with
  | case1 | case2 | case3 => exact h
  | case4 _ _ _ _ _ _ ih => exact ih h.updPier.freePier
  | case5 _ _ _ _ _ _ _ ih => exact ih h.updPier
  | case6 _ _ _ _ _ _ _ ih => exact ih h.evictPier

theorem State.MemOk.execEvictionDemand (h : s.MemOk) : (execEvictionDemand qid s).MemOk := h.markVictims
theorem State.MemOk.acceptStores (h : s.MemOk) : (acceptStores s).MemOk := h.performSeqs
theorem State.MemOk.discardOps {p : Op → Bool} (h : s.MemOk) : (discardOps s p).MemOk := h
theorem State.MemOk.drainInside (h : s.MemOk) : (drainInside s).MemOk := h.discardOps.upd.saveCourse
theorem State.MemOk.dropReplies (h : s.MemOk) : (dropReplies s).MemOk := h
theorem State.MemOk.dropArrays (h : s.MemOk) : (dropArrays s).MemOk := .foldl h fun _ _ hs => hs.removeOp.dropOpFlags
theorem State.MemOk.drainOutside (h : s.MemOk) : (drainOutside s kind cause).MemOk := h.dropArrays.upd.dropReplies.saveCourse

theorem State.MemOk.drainCourse (h : s.MemOk) : (drainCourse s).MemOk :=
  .ite h.upd (.ite h.acceptStores.drainInside
      (.ite (.upd (.ite h.acceptStores h.acceptStores.takePending)) (.drainOutside (.ite h.acceptStores h.acceptStores.takePending))))

theorem State.MemOk.drainPier (h : s.MemOk) : (drainPier s id).MemOk := .foldl (.updPier h) fun _ _ hs => hs.atCourse fun _ hs2 => hs2.drainCourse

theorem State.MemOk.execEvictionDrainComplete (h : s.MemOk) : (execEvictionDrainComplete qid s).MemOk :=
  State.MemOk.foldl h fun _ _ hs => hs.drainPier

theorem State.MemOk.spillPier (h : s.MemOk) : (spillPier s id).MemOk := by
  fun_cases Machine.spillPier with
  | case1 => exact h
  | case2 => exact .freePier (.spillImage (.updPier (.foldl h.perfAdd fun _ _ hs => hs.atCourse (fun _ hs2 => hs2.landPuts))))

theorem State.MemOk.execSpillComplete (h : s.MemOk) : (execSpillComplete qid s).MemOk :=
  State.MemOk.foldl (.foldl h fun _ _ hs => hs.spillPier) fun _ _ hs => hs.spillStopped

theorem State.MemOk.undefineArrays (h : s.MemOk) : (undefineArrays s id).MemOk := h

theorem State.MemOk.takeRangesAgain (h : s.MemOk) : (takeRangesAgain s).MemOk := by
  refine .foldl h fun _ _ hs => ?_
  split
  · exact .ite hs hs.takeRanges
  · exact hs

theorem State.MemOk.goOnHere (h : s.MemOk) : (goOnHere s).MemOk := h.upd.takePending.noEligibleHere

theorem State.MemOk.restoreOne {slot : Nat} (h : s.MemOk) : (restoreOne s qid slot).MemOk := by
  fun_cases Machine.restoreOne with
  | case1 => exact h.upd.goOnHere
  | case2 | case5 | case6 | case7 | case8 | case9 | case10 => exact h.upd
  | case3 _ _ _ _ _ _ _ _ e => exact (h.upd.readBlock.of_eq e).endSpan
  | case4 _ _ _ _ _ _ _ _ e =>
    have hr := h.upd.readBlock.of_eq e
    exact .noEligible (.takePending (.rereadWait (.takeRangesAgain (.ite (.perfAdd (.of_mem hr rfl)) (.of_mem hr rfl)))))

theorem State.MemOk.moveCourses {ids : List Nat} (h : s.MemOk) : (moveCourses s id ids).MemOk := by
  fun_induction Machine.moveCourses with
  | case1 => exact h
  | case2 _ _ _ t ih =>
    refine ih ?_
    subst t
    split
    · exact h
    · split
      · exact h
      · exact h.updCourses

theorem State.MemOk.restorePier (h : s.MemOk) : (restorePier s p).MemOk :=
  .foldl (.updPier (.ite h.readImage.updCourses.moveCourses.undefineArrays h.readImage.updCourses.moveCourses))
    fun _ _ hs => hs.atCourse fun _ hs2 => hs2.restoreOne

theorem State.MemOk.returnCourse (h : s.MemOk) : (returnCourse s c).MemOk :=
  .ite h (.ite (h.filesBack.segsBack.atCourse (fun _ hs => hs.goOnHere)) h.filesBack)

theorem State.MemOk.execRestoreComplete (h : s.MemOk) : (execRestoreComplete pier s).MemOk := by
  change State.MemOk _
  split
  · refine .ite (.ite h.restorePier h) (.foldl h fun _ _ hs => ?_)
    split
    · exact hs.returnCourse
    · exact hs
  · exact h

theorem State.MemOk.retirePier (h : s.MemOk) : (retirePier s p).MemOk := by
  fun_cases Machine.retirePier with
  | case1 => exact h
  | case2 => exact .completeSpan (.putSpan (.putSpan h))
  | case3 => exact .putSpan h

theorem State.MemOk.execPierRetirement (h : s.MemOk) : (execPierRetirement s).MemOk := by
  change State.MemOk _
  split
  · exact h.retirePier
  · exact h

theorem State.MemOk.fenceQuoins (h : s.MemOk) : (fenceQuoins s core).MemOk := .foldl (.foldl h fun _ _ hs => hs) fun _ _ hs => hs.physHomeWrite
theorem State.MemOk.containCourse (h : s.MemOk) : (containCourse s).MemOk := .ite h (.ite h.upd h.bumpFresh.acceptStores.drainOutside)

theorem State.MemOk.execCoreContainment {bad : List (Nat × Nat)} (h : s.MemOk) : (execCoreContainment core bad s).MemOk := by
  fun_cases Machine.execCoreContainment with
  | case1 t here piers u v w lines x y z =>
    have hu : u.MemOk := .foldl h.fenceQuoins fun _ _ hs => by
      split
      · exact hs.endSpan
      · exact hs
    have hv : v.MemOk := .foldl hu fun _ _ hs => hs.atCourse fun _ hs => hs.containCourse
    have hw : w.MemOk := .foldl hv fun _ _ hs => hs.preemptPier
    have hx : x.MemOk := .foldl hw fun _ _ hs => by
      split
      · exact .ite hs.l2Put.forcePin hs
      · exact hs
    have hy : y.MemOk := hx.writeBackAll
    have hz : z.MemOk := hy
    exact hz.postDie.settlePiers

theorem State.MemOk.execDieL2Failure (h : s.MemOk) : (execDieL2Failure die s).MemOk :=
  State.MemOk.updCourses (.foldl h.updDie fun _ _ hs => hs.endSpan)

/-! #### Placement -/

theorem State.MemOk.updateHeads (h : s.MemOk) : (updateHeads s die).MemOk := by
  refine .foldl h fun u x hu => .ite hu.endSpan ?_
  have hh : (if Machine.headState u x ≠ x.state then Machine.putSpan u { x with state := Machine.headState u x } else u).MemOk := .ite hu.putSpan hu
  refine .ite (.foldl hh fun _ _ hs => ?_) hh
  split
  · exact hs.askLine
  · exact hs

theorem State.MemOk.reserveNew (h : s.MemOk) : (reserveNew s sp die cs).MemOk := h

theorem State.MemOk.placeNew {p : Plan} (h : s.MemOk) : (placeNew s p).MemOk := by
  fun_cases Machine.placeNew with
  | case1 => exact .leaveQueue h
  | case2 => exact h

theorem State.MemOk.placeAgain (h : s.MemOk) : (placeAgain s p cs).MemOk := h

theorem State.MemOk.decide1 (h : s.MemOk) : (decide1 s die).MemOk := by
  fun_cases Machine.decide1 with
  | case1 => exact h.settlePiers.updateHeads
  | case2 => exact .placeAgain (.of_mem h.settlePiers.updateHeads rfl)
  | case3 => exact .placeNew (.of_mem h.settlePiers.updateHeads rfl)

theorem State.MemOk.execDispatcherDecision (h : s.MemOk) : (execDispatcherDecision die s).MemOk := State.MemOk.ite h h.decide1

theorem State.MemOk.createCourses {cids : List Nat} (h : s.MemOk) : (createCourses s sp p b cids).MemOk := by
  fun_induction Machine.createCourses with
  | case1 => exact h
  | case2 _ _ _ _ _ _ _ ih => exact ih (State.MemOk.of_mem h.acquireLines rfl)

theorem State.MemOk.createPier (h : s.MemOk) : (createPier s p).MemOk := by
  fun_cases Machine.createPier with
  | case1 => exact h
  | case2 => exact .evictPier (.foldl h.updPier fun _ _ hs => hs.createCourses)
  | case3 => exact .foldl h.updPier fun _ _ hs => hs.createCourses

theorem State.MemOk.execPierPlacement (h : s.MemOk) : (execPierPlacement pier s).MemOk := by
  change State.MemOk _
  split
  · exact .ite h.createPier h
  · exact h

theorem State.MemOk.execBroadcastWindow (h : s.MemOk) : (execBroadcastWindow s).MemOk :=
  State.MemOk.updateHeads (.updateHeads (.foldl h fun _ _ hs => .foldl hs fun _ _ hs2 => hs2.atCourse (fun _ hs3 => hs3.rereadWait)))

end Sys2Proof.Machine
end

section
/-! ### Canonical memory: commits, metering and the device -/
namespace Sys2Proof.Machine

variable {s : State} {die t tenant fuel k n : Nat} {c : Change} {harvest : Bool} {results : List Word}

/-! #### Table commits -/

theorem State.MemOk.postRefused {bit : Nat} {is : List Nat} (h : s.MemOk) : (postRefused s die bit is).MemOk := .foldl h fun _ _ hs => hs.postDie
theorem State.MemOk.restoreFrame {i : Nat} (h : s.MemOk) : (restoreFrame s i).MemOk := h.physHomeWrite
theorem State.MemOk.writeFrameBits {e : FrameEntry} (h : s.MemOk) : (writeFrameBits s e).MemOk := h.physHomeWrite

theorem State.MemOk.withdrawLines (h : s.MemOk) : (withdrawLines s c).MemOk :=
  .foldl (.writeBackAll (.foldl h fun _ _ hs => hs.endPin)) fun _ _ hs => hs.l2Evict

theorem State.MemOk.dropWalks (h : s.MemOk) : (dropWalks s c).MemOk := h

theorem State.MemOk.applyChange (h : s.MemOk) : (applyChange s c).MemOk := by
  have hd : (Machine.dropWalks (if c.kind = 0 then s else Machine.withdrawLines s c) c).MemOk := State.MemOk.dropWalks (.ite h h.withdrawLines)
  rw [Machine.applyChange]
  exact .ite (.physHomeWrite hd) hd

theorem State.MemOk.withdrawFrame {f : Nat} (h : s.MemOk) : (withdrawFrame s f).MemOk := .ite h (.writeFrameBits h)
theorem State.MemOk.installAsids {es : List AsidEntry} (h : s.MemOk) : (installAsids s es).MemOk := .foldl h fun _ _ hs => .ite (.physHomeWrite hs) hs
theorem State.MemOk.installFrames {es : List FrameEntry} (h : s.MemOk) : (installFrames s es).MemOk := .foldl h fun _ _ hs => .writeFrameBits hs

theorem State.MemOk.installQuoins {es : List QuoinEntry} (h : s.MemOk) : (installQuoins s es).MemOk :=
  .foldl h fun _ _ hs => .foldl hs fun _ _ hs2 => .ite hs2.evictPier hs2.preemptPier

theorem State.MemOk.meterNew {p : Partition} (h : s.MemOk) : (meterNew s p).MemOk := h
theorem State.MemOk.tearDown (h : s.MemOk) : (tearDown s t).MemOk := .foldl (.foldl h fun _ _ hs => hs.endSpan) fun _ _ hs => .postDie (.drainVf hs)

theorem State.MemOk.installPartitions {es : List Partition} (h : s.MemOk) : (installPartitions s es).MemOk := by
  refine .foldl h fun _ _ hs => ?_
  split
  · exact .ite (.meterNew hs) hs
  · exact .ite hs (.ite (.tearDown hs) hs)

theorem State.MemOk.revokeSpan {sp : Span} (h : s.MemOk) : (revokeSpan s sp).MemOk := by
  fun_cases Machine.revokeSpan with
  | case1 | case2 | case3 | case4 => exact h.endSpan
  | case5 | case6 | case7 => exact h

theorem State.MemOk.installLeases {es : List Lease} (h : s.MemOk) : (installLeases s es).MemOk := by
  refine .foldl h fun u l hs => .ite (.foldl hs.leasePut fun _ _ hs => hs.revokeSpan) (.foldl ?_ fun _ _ hs => .ite hs.endSpan hs)
  have hl : (Machine.leasePut u { l with spans := (leaseAt u l.tenant l.ix).spans }).MemOk := hs.leasePut
  exact hl

theorem State.MemOk.installQueues {es : List Queue} (h : s.MemOk) : (installQueues s es).MemOk :=
  .foldl h fun _ _ hs => .ite (.foldl hs fun _ _ hs2 => hs2.endSpan) hs

theorem State.MemOk.installRings {es : List (Ring × Bool)} (h : s.MemOk) : (installRings s es).MemOk := by
  refine .foldl h fun _ _ hs => ?_
  split
  · exact .ringPut (.with_rings (.ite hs.physHomeWrite hs))
  · exact .ite (.ringPut hs) hs

theorem State.MemOk.installDomain {d : Domain} (h : s.MemOk) : (installDomain s d).MemOk := by
  refine .foldl (.updCourses h) fun _ _ hs => ?_
  split
  · exact hs
  · refine .ite (.resetPort ?_) ?_
    · split
      · exact .ite hs hs
      · exact .of_mem (State.MemOk.ite hs.portDown hs) rfl
    · dsimp only
      split
      · exact .ite hs hs
      · exact .of_mem (State.MemOk.ite hs.portDown hs) rfl

theorem State.MemOk.installVfs {es : List Vf} (h : s.MemOk) : (installVfs s es).MemOk :=
  .foldl h fun _ _ hs => .ite hs (.ite (.drainVf hs) (.ite hs hs))

/-- What a commit installs keeps the canonical form. -/
def Keeps (f : State → State) : Prop := ∀ s, s.MemOk → (f s).MemOk

theorem State.MemOk.commitAsids (h : s.MemOk) : (commitAsids s die).1.MemOk ∧ Keeps (commitAsids s die).2 := by
  refine ⟨h.postRefused.postRefused, ?_⟩
  rw [Machine.commitAsids]
  exact fun t ht => State.MemOk.with_shares ht.installAsids

theorem State.MemOk.commitFrames (h : s.MemOk) : (commitFrames s die).1.MemOk ∧ Keeps (commitFrames s die).2 :=
  ⟨h.postRefused, fun _ ht => .foldl ht.installFrames fun _ _ hs => hs.restoreFrame⟩

theorem State.MemOk.commitParts (h : s.MemOk) : (commitParts s die).1.MemOk ∧ Keeps (commitParts s die).2 :=
  ⟨h.postRefused.postRefused, fun _ ht => State.MemOk.installQuoins (.ite ht.installPartitions ht)⟩

theorem State.MemOk.commitLeases (h : s.MemOk) : (commitLeases s die).1.MemOk ∧ Keeps (commitLeases s die).2 :=
  ⟨h.postRefused, fun _ ht => ht.installLeases⟩

theorem State.MemOk.commitQueues (h : s.MemOk) : (commitQueues s die).1.MemOk ∧ Keeps (commitQueues s die).2 :=
  ⟨h.postRefused, fun _ ht => ht.installQueues⟩

theorem State.MemOk.commitRings (h : s.MemOk) : (commitRings s die).1.MemOk ∧ Keeps (commitRings s die).2 :=
  ⟨h.postRefused, fun _ ht => ht.installRings⟩

theorem State.MemOk.commitDomain (h : s.MemOk) : (commitDomain s die).1.MemOk ∧ Keeps (commitDomain s die).2 := by
  refine ⟨h.postRefused, fun t ht => State.MemOk.installVfs ?_⟩
  split
  · exact ht.installDomain
  · exact ht

/-- A table's commit keeps the canonical form, and so does what it installs. -/
theorem commitTable_keeps {f : State → Nat → State × (State → State)} (h : s.MemOk)
    (hf : f ∈ [commitAsids, commitFrames, commitParts, commitLeases, commitQueues, commitRings, commitDomain]) :
    (f s die).1.MemOk ∧ Keeps (f s die).2 := by
  simp only [List.mem_cons, List.not_mem_nil, or_false] at hf
  obtain rfl | rfl | rfl | rfl | rfl | rfl | rfl := hf
  · exact h.commitAsids
  · exact h.commitFrames
  · exact h.commitParts
  · exact h.commitLeases
  · exact h.commitQueues
  · exact h.commitRings
  · exact h.commitDomain

theorem State.MemOk.commitTables (h : s.MemOk) : (commitTables s r).1.MemOk ∧ ∀ f ∈ (commitTables s r).2, Keeps f := by
  unfold Machine.commitTables
  refine List.foldlRecOn _ _ (motive := fun x : State × List (State → State) => x.1.MemOk ∧ ∀ f ∈ x.2, Keeps f)
    ⟨h, by simp⟩ fun acc hacc t ht => ?_
  obtain ⟨hs, hfs⟩ := hacc
  have ht : t.2 ∈ [Machine.commitAsids, Machine.commitFrames, Machine.commitParts, Machine.commitLeases, Machine.commitQueues,
    Machine.commitRings, Machine.commitDomain] := List.mem_map_of_mem (f := Prod.snd) ht
  obtain ⟨hu, hk⟩ := commitTable_keeps (die := r.die) hs ht
  split
  · refine ⟨hu, fun f hf => ?_⟩
    obtain hf | hf := List.mem_append.mp hf
    · exact hfs f hf
    · rw [List.mem_singleton.mp hf]
      exact hk
  · exact ⟨hs, hfs⟩

theorem State.MemOk.recheckTlb (h : s.MemOk) : (recheckTlb s).MemOk := h

theorem State.MemOk.resumeParker {w : Nat × Nat} (h : s.MemOk) : (resumeParker s w).MemOk :=
  .ite h.completeSpan (.stampReady (h.atCourse (fun _ hs => hs.upd)))

theorem State.MemOk.resumeParks (h : s.MemOk) : (resumeParks s).MemOk := .foldl h fun _ _ hs => hs.resumeParker

theorem State.MemOk.rootSpan (h : s.MemOk) : (rootSpan s t).MemOk := by
  fun_cases Machine.rootSpan with
  | case1 | case2 => exact h
  | case3 => exact h.appendSpan

theorem State.MemOk.startPartitions {before : State} (h : s.MemOk) : (startPartitions before s).MemOk := .foldl h fun _ _ hs => hs.rootSpan
theorem State.MemOk.finishCommit {r : CommitRun} (h : s.MemOk) : (finishCommit s r).MemOk := .updCourses h.updDie

theorem State.MemOk.execCommitComplete (h : s.MemOk) : (execCommitComplete die s).MemOk := by
  rw [Machine.execCommitComplete]
  split
  · exact h
  next r _ =>
    obtain ⟨ht, hk⟩ := h.commitTables (r := r)
    refine State.MemOk.ite h (.finishCommit (.updateHeads (.updateHeads (.hostRetry (.resumeParks (.recheckTlb (.foldl ?_ fun _ _ hs => ?_)))))))
    · exact .startPartitions (.foldl_apply (.foldl ht.postRefused fun _ _ hs => hs.applyChange) hk)
    · split
      · exact hs.withdrawFrame
      · exact hs

theorem State.MemOk.execWayMaskSweep (h : s.MemOk) : (execWayMaskSweep tenant s).MemOk :=
  .ite h (State.MemOk.ite (.foldl h fun _ _ hs => hs.l2Evict) (.foldl h fun _ _ hs => hs.l2Evict))

theorem State.MemOk.execQuoinVacated (h : s.MemOk) : (execQuoinVacated s).MemOk := by
  fun_cases Machine.execQuoinVacated with
  | case1 => exact h
  | case2 => exact State.MemOk.postDie h

/-! #### Budgets -/

theorem State.MemOk.updBudget {f : Budget → Budget} (h : s.MemOk) : (updBudget s t harvest f).MemOk := h

theorem State.MemOk.borrow (h : s.MemOk) : (borrow s t harvest fuel).MemOk := by
  fun_induction Machine.borrow with
  | case1 | case2 | case3 | case4 => exact h
  | case5 _ _ _ _ _ _ _ _ _ _ ih => exact ih h.updBudget.updBudget

theorem State.MemOk.execTokenCharge (h : s.MemOk) : (execTokenCharge s).MemOk := State.MemOk.foldl h fun _ _ hs => hs.borrow
theorem State.MemOk.repay {b : Budget} (h : s.MemOk) : (repay s b).MemOk := .foldl h.updBudget fun _ _ hs => hs.updBudget
theorem State.MemOk.execBudgetPeriodBoundary (h : s.MemOk) : (execBudgetPeriodBoundary s).MemOk := State.MemOk.foldl h fun _ _ hs => hs.repay
theorem State.MemOk.execHbmBucketRefill {ctrl : Nat} (h : s.MemOk) : (execHbmBucketRefill ctrl s).MemOk := h
theorem State.MemOk.execAllowanceRefill (h : s.MemOk) : (execAllowanceRefill s).MemOk := h

theorem State.MemOk.execPerfCounterSnapshot (h : s.MemOk) : (execPerfCounterSnapshot tenant s).MemOk := by
  rw [Machine.execPerfCounterSnapshot]
  split
  · exact h
  · exact State.MemOk.ite h (.physHomeWrite (.perfAdd (.foldl h.physHomeWrite.physHomeWrite fun _ _ hs => hs.physHomeWrite)))

theorem State.MemOk.execCorrectionWindowClear (h : s.MemOk) : (execCorrectionWindowClear s).MemOk := h

/-! #### Boot, events and the monitor -/

theorem State.MemOk.deviceReset (h : s.MemOk) : (deviceReset s).MemOk := h
theorem State.MemOk.setStep {f : BootStep → BootStep} (h : s.MemOk) : (setStep s k f).MemOk := h

theorem State.MemOk.bootTable {k n v : Nat} {f : Nat → Bool} (h : s.MemOk) (hv : v % 256 ≠ 0) : (bootTable s k n v f).MemOk :=
  memOk_bootTable s k n v f hv h

theorem State.MemOk.markDoubt (h : s.MemOk) : (markDoubt s).MemOk := by
  rw [Machine.markDoubt]
  exact h

theorem State.MemOk.retireFailing (h : s.MemOk) : (retireFailing s).MemOk := h
theorem State.MemOk.reportDf3 {d : Nat} (h : s.MemOk) : (reportDf3 s d).MemOk := .ite h h.tellHost.updDie
theorem State.MemOk.enterSlot (h : s.MemOk) : (enterSlot s n).MemOk := h

theorem State.MemOk.runStep {mode : Nat} (h : s.MemOk) : (runStep s k mode).1.MemOk := by
  fun_cases Machine.runStep with
  | case1 | case4 | case5 | case6 | case18 => exact h
  | case2 => exact h.reportDf3.reportDf3
  | case3 => exact .updDie (.updDie h)
  | case7 _ _ t =>
    have ht : t.MemOk := State.MemOk.enterSlot h
    exact .updDie (.updDie ht)
  | case8 | case9 | case10 | case11 => exact .ite h.markDoubt h
  | case12 | case13 | case14 | case15 => exact .ite h.retireFailing h
  | case16 => exact (h.bootTable (by decide)).bootTable (by decide)
  | case17 => exact h.newHandler.newHandler.newHandler.newHandler

theorem State.MemOk.bootDone (h : s.MemOk) : (bootDone s).MemOk := h

theorem State.MemOk.bootFrom {codes : List Word} (h : s.MemOk) : (bootFrom fuel s k codes).MemOk := by
  fun_induction Machine.bootFrom with
  | case1 | case3 => exact h
  | case2 => exact h.bootDone
  | case4 _ _ _ _ _ _ _ _ ih => exact ih h.setStep.setStep
  | case5 _ _ _ _ _ _ _ _ _ _ _ _ ih => exact ih h.setStep.setStep.deviceReset
  | case6 _ _ _ _ _ _ _ _ _ _ _ _ _ e ih => exact ih (h.setStep.runStep.of_eq e).setStep
  | case7 _ _ _ _ _ _ _ _ _ _ _ _ _ e ih => exact ih (h.setStep.runStep.of_eq e).bumpFresh.setStep.deviceReset

theorem State.MemOk.boot (h : s.MemOk) : (Machine.boot s codes).MemOk := h.deviceReset.bootFrom
theorem State.MemOk.execPerstRelease (h : s.MemOk) : (execPerstRelease results s).MemOk := State.MemOk.ite h.boot h

theorem State.MemOk.execMainPowerReturn (h : s.MemOk) : (execMainPowerReturn results s).MemOk := by
  rw [Machine.execMainPowerReturn]
  exact State.MemOk.ite (.boot rfl) h

theorem State.MemOk.execPerstAssert (h : s.MemOk) : (execPerstAssert s).MemOk := h.deviceReset
theorem State.MemOk.execRequestReset (h : s.MemOk) : (execRequestReset results s).MemOk := State.MemOk.ite h h.boot
theorem State.MemOk.manage {k : Out} (h : s.MemOk) (hk : k.MemOk) : (manage s k).MemOk := h.attend hk
theorem State.MemOk.execSelectActive {slot : Byte} (h : s.MemOk) : (execSelectActive slot s).MemOk := h.manage (State.MemOk.ite h h.tellHost)
theorem State.MemOk.execReadSensors (h : s.MemOk) : (execReadSensors s).MemOk := h.manage (State.MemOk.tellHost h)
theorem State.MemOk.execReadBootRecord (h : s.MemOk) : (execReadBootRecord s).MemOk := h.manage h.tellHost
theorem State.MemOk.execThermalAbove95 (h : s.MemOk) : (execThermalAbove95 die s).MemOk := State.MemOk.ite h h.updDie.postDie
theorem State.MemOk.execThermalBelow90 (h : s.MemOk) : (execThermalBelow90 die s).MemOk := h.updDie
theorem State.MemOk.execThermalAbove105 (h : s.MemOk) : (execThermalAbove105 die s).MemOk := State.MemOk.ite h h.deviceReset
theorem State.MemOk.restartControl (h : s.MemOk) : (restartControl s die).MemOk := h.updCourses.updDie

theorem State.MemOk.execWatchdogExpiry (h : s.MemOk) : (execWatchdogExpiry die s).MemOk :=
  .ite h (.ite (.ite h.updDie.postDie.deviceReset (State.MemOk.updDie (.restartControl h.updDie.postDie))) h.updDie.postDie.restartControl.tellHost)

theorem State.MemOk.monitorCall {func : Nat} {f : Course → Option State} (h : s.MemOk) (hf : ∀ c t, f c = some t → t.MemOk) :
    (monitorCall s die func f).MemOk := by
  fun_cases Machine.monitorCall with
  | case1 | case2 => exact h
  | case3 c _ _ t e => exact (hf c t e).updDie
  | case4 => exact h.updDie

theorem State.MemOk.dropPhys {asid lo : Nat} (h : s.MemOk) : (dropPhys s asid lo n).MemOk := h

theorem State.MemOk.execLoadslot (h : s.MemOk) : (execLoadslot die s).MemOk := by
  refine h.monitorCall fun c t e => ?_
  dsimp only at e
  split at e
  · cases e
  · cases e
    exact h.physWrite.dropPhys

theorem State.MemOk.execSetpending (h : s.MemOk) : (execSetpending die s).MemOk := by
  refine h.monitorCall fun c t e => ?_
  dsimp only at e
  split at e
  · cases e
  · cases e
    exact h

theorem State.MemOk.execMeasure (h : s.MemOk) : (execMeasure die s).MemOk := by
  refine h.monitorCall fun c t e => ?_
  cases e
  exact h

theorem State.MemOk.execCommitCall (h : s.MemOk) : (execCommitCall die s).MemOk := by
  refine h.monitorCall fun c t e => ?_
  dsimp only at e
  split at e
  · cases e
  · cases e
    exact h

end Sys2Proof.Machine
end

section
/-! ### Canonical memory: the step -/
namespace Sys2Proof.Machine

variable {s : State}

/-! #### Instructions and events -/

theorem State.MemOk.exec {i : Instr} (h : s.MemOk) : Out.MemOk (exec i s) := by
  cases i with
  | nop => exact h.execNop
  | bra => exact h.execBra
  | brx => exact h.execBrx
  | call => exact h.execCall
  | calli => exact h.execCalli
  | ret => exact h.execRet
  | join => exact h.execJoin
  | leave => exact h.execLeave
  | waitm => exact h.execWaitm
  | mget => exact h.execMget
  | mput => exact h.execMput
  | exit => exact h.execExit
  | yield => exact h.execYield
  | sleep => exact h.execSleep
  | brk => exact h.execBrk
  | srd => exact h.execSrd
  | swr => exact h.execSwr
  | trap => exact h.execTrap
  | rett => exact h.execRett
  | rgn => exact h.execRgn
  | rgend => exact h.execRgend
  | ctxsv => exact h.execCtxsv
  | ctxld => exact h.execCtxld
  | gangsync => exact h.execGangsync
  | mov => exact h.execMov
  | movi => exact h.execMovi
  | add => exact h.execAdd
  | sub => exact h.execSub
  | addc => exact h.execAddc
  | subb => exact h.execSubb
  | mul => exact h.execMul
  | mulhi => exact h.execMulhi
  | mad => exact h.execMad
  | min => exact h.execMin
  | max => exact h.execMax
  | abs => exact h.execAbs
  | neg => exact h.execNeg
  | sad => exact h.execSad
  | dp4a => exact h.execDp4a
  | and => exact h.execAnd
  | or => exact h.execOr
  | xor => exact h.execXor
  | andn => exact h.execAndn
  | not => exact h.execNot
  | shl => exact h.execShl
  | shr => exact h.execShr
  | sar => exact h.execSar
  | rot => exact h.execRot
  | bfe => exact h.execBfe
  | bfi => exact h.execBfi
  | bfrev => exact h.execBfrev
  | popc => exact h.execPopc
  | clz => exact h.execClz
  | ctz => exact h.execCtz
  | sel => exact h.execSel
  | cmp => exact h.execCmp
  | clamp => exact h.execClamp
  | lea => exact h.execLea
  | sext => exact h.execSext
  | prmt => exact h.execPrmt
  | fadd => exact h.execFadd
  | fsub => exact h.execFsub
  | fmul => exact h.execFmul
  | ffma => exact h.execFfma
  | fmin => exact h.execFmin
  | fmax => exact h.execFmax
  | fcmp => exact h.execFcmp
  | fclass => exact h.execFclass
  | frcp => exact h.execFrcp
  | frsq => exact h.execFrsq
  | fsqrt => exact h.execFsqrt
  | fdiv => exact h.execFdiv
  | fexp2 => exact h.execFexp2
  | flog2 => exact h.execFlog2
  | fsin => exact h.execFsin
  | fcos => exact h.execFcos
  | ftanh => exact h.execFtanh
  | fsigm => exact h.execFsigm
  | fscale => exact h.execFscale
  | ffrac => exact h.execFfrac
  | frnd => exact h.execFrnd
  | cvt => exact h.execCvt
  | fpack => exact h.execFpack
  | funpack => exact h.execFunpack
  | fdot2 => exact h.execFdot2
  | shfl => exact h.execShfl
  | lbal => exact h.execLbal
  | lany => exact h.execLany
  | lall => exact h.execLall
  | lfirst => exact h.execLfirst
  | bcast => exact h.execBcast
  | lperm => exact h.execLperm
  | lred => exact h.execLred
  | lscan => exact h.execLscan
  | lmatch => exact h.execLmatch
  | ld => exact h.execLd
  | st => exact h.execSt
  | lds => exact h.execLds
  | sts => exact h.execSts
  | ldc => exact h.execLdc
  | atom => exact h.execAtom
  | atoms => exact h.execAtoms
  | put => exact h.execPut
  | phase => exact h.execPhase
  | fence => exact h.execFence
  | afence => exact h.execAfence
  | pref => exact h.execPref
  | pflush => exact h.execPflush
  | arrive => exact h.execArrive
  | waitb => exact h.execWaitb
  | barr => exact h.execBarr
  | waitc => exact h.execWaitc
  | waitf => exact h.execWaitf
  | fcnt => exact h.execFcnt
  | bstat => exact h.execBstat
  | mxld => exact h.execMxld
  | mxsw => exact h.execMxsw
  | mxm => exact h.execMxm
  | mxz => exact h.execMxz
  | mxrd => exact h.execMxrd
  | mxwr => exact h.execMxwr
  | had => exact h.execHad
  | qnt => exact h.execQnt
  | mxst => exact h.execMxst
  | mxsv => exact h.execMxsv
  | mxrs => exact h.execMxrs
  | enq => exact h.execEnq
  | leaseReq => exact h.execLeaseReq
  | leaseRel => exact h.execLeaseRel
  | leaseQry => exact h.execLeaseQry
  | cpy => exact h.execCpy
  | xch => exact h.execXch
  | xred => exact h.execXred
  | hash => exact h.execHash
  | sigv => exact h.execSigv
  | scrub => exact h.execScrub
  | clause => exact h.execClause
  | fpmWrite => exact h.execFpmWrite
  | srseedWrite => exact h.execSrseedWrite
  | lfmodeWrite => exact h.execLfmodeWrite
  | tcommitWrite => exact h.execTcommitWrite
  | registerWrite => exact h.execRegisterWrite
  | hbeatWrite => exact h.execHbeatWrite
  | wdctlWrite => exact h.execWdctlWrite
  | preemptSpan => exact h.execPreemptSpan
  | preemptPier => exact h.execPreemptPier
  | preemptTenant => exact h.execPreemptTenant
  | preemptRelease => exact h.execPreemptRelease
  | debugStop => exact h.execDebugStop
  | fixedLatencyResult => exact h.execFixedLatencyResult
  | setAside => exact h.execSetAside
  | setAsidePassesIssue => exact h.execSetAsidePassesIssue
  | loadDataReturn => exact h.execLoadDataReturn
  | storeOrderingPoint => exact h.execStoreOrderingPoint
  | atomicPerformedAtHome => exact h.execAtomicPerformedAtHome
  | putLanding => exact h.execPutLanding
  | pageWalkComplete => exact h.execPageWalkComplete
  | missSlotRetry => exact h.execMissSlotRetry
  | park => exact h.execPark
  | pinRetry => exact h.execPinRetry
  | pinForcedWriteback => exact h.execPinForcedWriteback
  | frameTaken => exact h.execFrameTaken
  | handlerCourseStart => exact h.execHandlerCourseStart
  | replayDataArrival => exact h.execReplayDataArrival
  | courseHalt => exact h.execCourseHalt
  | forcedFullSave => exact h.execForcedFullSave
  | evictionDemand => exact h.execEvictionDemand
  | evictionDrainComplete => exact h.execEvictionDrainComplete
  | spillComplete => exact h.execSpillComplete
  | restoreComplete => exact h.execRestoreComplete
  | dispatcherDecision => exact h.execDispatcherDecision
  | pierPlacement => exact h.execPierPlacement
  | waitcReread => exact h.execWaitcReread
  | peerWaitcPoll => exact h.execPeerWaitcPoll
  | enqAppend => exact h.execEnqAppend
  | leaseStep => exact h.execLeaseStep
  | arrivalPoint => exact h.execArrivalPoint
  | sleepExpiry => exact h.execSleepExpiry
  | arrayCommandStart => exact h.execArrayCommandStart
  | arrayCommandCompletion => exact h.execArrayCommandCompletion
  | engineCommandStart => exact h.execEngineCommandStart
  | engineCommandCompletion => exact h.execEngineCommandCompletion
  | commitComplete => exact h.execCommitComplete
  | wayMaskSweep => exact h.execWayMaskSweep
  | watchdogExpiry => exact h.execWatchdogExpiry
  | loadslot => exact h.execLoadslot
  | setpending => exact h.execSetpending
  | measure => exact h.execMeasure
  | commitCall => exact h.execCommitCall
  | perfCounterSnapshot => exact h.execPerfCounterSnapshot
  | coreContainment => exact h.execCoreContainment
  | dieL2Failure => exact h.execDieL2Failure
  | thermalAbove95 => exact h.execThermalAbove95
  | thermalBelow90 => exact h.execThermalBelow90
  | thermalAbove105 die => exact h.execThermalAbove105 (die := die)
  | perstRelease => exact h.execPerstRelease
  | hostWrite => exact h.execHostWrite
  | hostRead => exact h.execHostRead
  | hostCounterWrite => exact h.execHostCounterWrite
  | flr => exact h.execFlr
  | getVersion => exact h.execGetVersion
  | getCapabilities => exact h.execGetCapabilities
  | negotiateAlgorithms => exact h.execNegotiateAlgorithms
  | getDigests => exact h.execGetDigests
  | getCertificate => exact h.execGetCertificate
  | challenge => exact h.execChallenge
  | getMeasurements => exact h.execGetMeasurements
  | keyExchange => exact h.execKeyExchange
  | finish => exact h.execFinish
  | endSession => exact h.execEndSession
  | spdmUnsupportedRequest e code => exact h.execSpdmUnsupportedRequest (code := code)
  | ideKm => exact h.execIdeKm
  | lockInterface => exact h.execLockInterface
  | startInterface => exact h.execStartInterface
  | getDeviceInterfaceReport => exact h.execGetDeviceInterfaceReport
  | requestReset => exact h.execRequestReset
  | selectActive => exact h.execSelectActive
  | flitReceived => exact h.execFlitReceived
  | portRetrain => exact h.execPortRetrain
  | rd => exact h.execRd
  | rdr => exact h.execRdr
  | wr => exact h.execWr
  | inv => exact h.execInv
  | inva => exact h.execInva
  | atm => exact h.execAtm
  | atmr => exact h.execAtmr
  | frd => exact h.execFrd
  | frr => exact h.execFrr
  | xwr => exact h.execXwr
  | xack => exact h.execXack
  | gngReady => exact h.execGngReady
  | gngRelease => exact h.execGngRelease
  | gngAbort => exact h.execGngAbort
  | gngQuery => exact h.execGngQuery
  | unknownPacket => exact h.execUnknownPacket
  | gangTimeout => exact h.execGangTimeout
  | gangDecisionTimeout => exact h.execGangDecisionTimeout
  | lossOfLock => exact h.execLossOfLock
  | mainPowerReturn => exact h.execMainPowerReturn
  | debugStopTimeout => exact h.execDebugStopTimeout
  | hbmBucketRefill => exact h.execHbmBucketRefill
  | illegalEncoding => exact h.execIllegalEncoding
  | preemptRequestDone => exact h.execPreemptRequestDone
  | preemptOverdue => exact h.execPreemptOverdue
  | pierRetirement => exact h.execPierRetirement
  | broadcastWindow => exact h.execBroadcastWindow
  | xchTimeout => exact h.execXchTimeout
  | quoinVacated => exact h.execQuoinVacated
  | budgetPeriodBoundary => exact h.execBudgetPeriodBoundary
  | tokenCharge => exact h.execTokenCharge
  | allowanceRefill => exact h.execAllowanceRefill
  | correctionWindowClear => exact h.execCorrectionWindowClear
  | perstAssert => exact h.execPerstAssert
  | hostAccessTimeout => exact h.execHostAccessTimeout
  | vfDrained => exact h.execVfDrained
  | readSensors => exact h.execReadSensors
  | readBootRecord => exact h.execReadBootRecord

/-! #### Events that are due -/

theorem State.MemOk.runOpEvent {c : Nat} {o : Op} (h : s.MemOk) : (runOpEvent s c o).MemOk := by
  fun_cases Machine.runOpEvent with
  | case1 => exact h.execReplayDataArrival
  | case2 => exact h.execLoadDataReturn
  | case3 => exact h.execStoreOrderingPoint
  | case4 => exact h.execAtomicPerformedAtHome
  | case5 => exact h.execPutLanding
  | case6 => exact h.execEnqAppend
  | case7 => exact h.execLeaseStep
  | case8 => exact h.execEngineCommandStart
  | case9 => exact h.execEngineCommandCompletion
  | case10 => exact h.execPinRetry

theorem State.MemOk.idleStep (h : s.MemOk) : (idleStep s).MemOk := h.unstallAll

/-! #### One step -/

theorem State.MemOk.issueStep (h : s.MemOk) : Out.MemOk (issueStep s) := by
  have hf {i : Issue} {pc : Nat} : (Machine.fetchInstr { s with iss := i } pc).1.MemOk := State.MemOk.fetchInstr (s := { s with iss := i }) h
  fun_cases Machine.issueStep with
  | case1 => exact h.restPasses
  | case2 => exact h
  | case3 _ _ _ _ u _ e =>
    have hu : u.MemOk := hf.of_eq e
    exact hu.fetchStop
  | case4 => trivial
  | case5 _ m pc _ u _ e i n _ t et =>
    have hu : u.MemOk := hf.of_eq e
    have ht : Out.MemOk (Machine.exec i (Machine.prepare u m pc n i)) := hu.prepare.exec
    rw [et] at ht
    exact ht.afterStep
  | case6 => trivial
  | case7 => trivial

/-- The next state of a step, of every case of `step`. -/
theorem State.MemOk.step (h : s.MemOk) : Out.MemOk (step s) := by
  fun_cases Machine.step with
  | case1 => exact h
  | case2 => exact State.MemOk.exec h
  | case3 | case6 => exact h.exec
  | case4 _ _ _ e => exact (h.selectCourse e).issueStep
  | case5 _ _ _ e => exact h.selectCourse e
  | case7 => exact h.idleStep

/-- Settles O5: `State.MemOk.step`, which the lemmas about each function of the model add up to. -/
theorem memoryKept : Obligations.MemoryKept := by
  intro s t h e
  have ht : Out.MemOk (step s) := h.step
  rw [e] at ht
  exact ht

end Sys2Proof.Machine
end

section
/-! ### Reading special registers (R94, R136, R166 to R175, R190) -/
namespace Sys2Proof.Machine

open Sys2Proof.Claims

variable {s : State} {x : Ops} {maj n q t : Nat}

/-! #### Class 0 of a minor field (R102, R108) -/

/-- In a layout the instruction has, a minor field that its table does not give takes sub-code 3. -/
theorem staticSub_of_minorBad (form : formOk maj x = true) (minor : (shapeOf maj x).minorOk = false) : staticSub maj x = some 3 := by
  simp [staticSub, form, minor]

/-- An instruction that neither transfers control nor bears flags meets no cause of its clause (R113). -/
theorem clauseSub_plain (s : State) (fsA fsB : Bool) : clauseSub s false false fsA fsB = none := rfl

/-- Outside the transfers and the groups that bear flags, that sub-code is the lowest of class 0. -/
theorem class0_of_minorBad (s : State) (form : formOk maj x = true) (minor : (shapeOf maj x).minorOk = false) (transfer : isTransfer maj = false)
    (flags : bearsFlags maj = false) : class0 s maj x = some 3 := by
  rw [class0, staticSub_of_minorBad form minor, transfer, flags, clauseSub_plain]
  rfl

/-! #### The numbers of Table 1 (R166) -/

/-- The special-register numbers, in the order of the table. -/
def srNumbers : List Nat :=
  [0x00, 0x01, 0x02, 0x03, 0x04, 0x05, 0x06, 0x07, 0x08, 0x09, 0x0A, 0x10, 0x11, 0x12, 0x18, 0x19, 0x1A, 0x1B, 0x1C, 0x1D, 0x20, 0x21, 0x22, 0x28]

theorem mem_srNumbers_of_srnOk (h : srnOk n = true) : n ∈ srNumbers := by
  simp only [srnOk, Bool.or_eq_true, Bool.and_eq_true, decide_eq_true_eq] at h
  simp only [srNumbers, List.mem_cons, List.not_mem_nil, or_false]
  omega

/-- The minor field by its SR number and the bits above it. -/
theorem minor_eq_fields (x : Ops) : x.minor.toNat = x.field 8 4 * 256 + x.field 0 8 := by
  have := x.minor.isLt
  simp only [Ops.field, BitVec.extractLsb'_toNat, Nat.shiftRight_eq_div_pow]
  omega

/-- Bits above the SR number, or a number that the table does not give, make the minor field one that the table does not give. -/
theorem srnOk_minor_of_unlisted (h : x.field 8 4 ≠ 0 ∨ x.field 0 8 ∉ srNumbers) : srnOk x.minor.toNat = false := by
  rw [← Bool.not_eq_true]
  intro ok
  have listed : x.minor.toNat ∈ srNumbers := mem_srNumbers_of_srnOk ok
  have small : ∀ k ∈ srNumbers, k < 256 := by decide
  have split := minor_eq_fields x
  have high : x.field 8 4 = 0 := by have := small _ listed; omega
  rw [split, high, Nat.zero_mul, Nat.zero_add] at listed
  exact h.elim (· high) (· listed)

/-! #### What `srd` answers (R190) -/

/-- No cause of class 0, 1 or 2 applies to `srd` where it issues. -/
abbrev SrdFree (s : State) (x : Ops) : Prop :=
  let w := if srWide (x.field 0 8) then 2 else 1
  Free s 0x10 x (minSub [dstSub s.cur x w x.d, scalarSub x [], subIf (x.field 0 8 = 1 && opdIsS x.d) 14]) [] (opdRefs x.d w)

theorem execSrd_free (free : SrdFree s x) : execSrd x s =
    if x.d = .zero ∨ partLanes s x = 0 then done s x
    else if s.cur.ring < srRing (x.field 0 8) then trapOut s 0x131
    else done (s.upd (fun c => c.writeLanes x.d (if srWide (x.field 0 8) then 2 else 1) false
      ((lanes s x).map (fun i => (i, srValue s (x.field 0 8) i))))) x := by
  rw [execSrd, issue_free _ free]
  simp only [Bool.or_eq_true, decide_eq_true_eq]
  rfl

/-- Of a number that the table does not give, (0, 3). -/
theorem execSrd_unlisted (form : formOk 0x10 x = true) (h : x.field 8 4 ≠ 0 ∨ x.field 0 8 ∉ srNumbers) : execSrd x s = trapOut s 3 := by
  rw [execSrd]
  exact issue_class0 _ _ _ (class0_of_minorBad s form (srnOk_minor_of_unlisted h) rfl rfl)

/-! #### Where a quoin stands (R10), and the quoins of a partition (R16) -/

theorem coreOfQid_of_lt (h : q < 768) : coreOfQid q = q / 4 := if_pos h

theorem dieOfQid_of_lt (h : q < 768) : dieOfQid q = q / 384 := by
  rw [dieOfQid, coreOfQid_of_lt h, dieOfCore]
  split_ifs <;> omega

theorem mem_partQuoins : q ∈ partQuoins s t ↔ ∃ e ∈ s.quoins, e.qid = q ∧ e.owned = true ∧ e.owner = t ∧ e.en = true ∧ e.fenced = false ∧
    quoinWhole s q = true := by
  simp only [partQuoins, List.mem_map, List.mem_filter, Bool.and_eq_true, beq_iff_eq, Bool.not_eq_true']
  constructor
  · rintro ⟨e, ⟨listed, ⟨⟨⟨owned, owner⟩, en⟩, fenced⟩, whole⟩, rfl⟩
    exact ⟨e, listed, rfl, owned, owner, en, fenced, whole⟩
  · rintro ⟨e, listed, rfl, owned, owner, en, fenced, whole⟩
    exact ⟨e, ⟨listed, ⟨⟨⟨owned, owner⟩, en⟩, fenced⟩, whole⟩, rfl⟩

/-- Settles O22: what `srd` answers by `execSrd_free`; the values are `srValue` by cases of the number, but for the place of a quoin. -/
theorem specialRead : Obligations.SpecialRead := by
  refine ⟨fun x s => ⟨?nothing, ?ring, ?value, ?unlisted⟩, fun s i => ?values, fun s t q => mem_partQuoins⟩
  case nothing =>
    intro free idle
    exact (execSrd_free free).trans (if_pos idle)
  case ring =>
    intro free dest part below
    exact (execSrd_free free).trans ((if_neg (not_or.mpr ⟨dest, part⟩)).trans (if_pos below))
  case value =>
    intro free dest part reads
    exact (execSrd_free free).trans ((if_neg (not_or.mpr ⟨dest, part⟩)).trans (if_neg (not_lt.mpr reads)))
  case unlisted => exact execSrd_unlisted
  case values =>
    exact ⟨rfl, rfl, rfl, rfl, rfl, rfl, rfl, rfl, rfl, rfl, rfl, rfl, rfl, rfl, fun quoin => ⟨coreOfQid_of_lt quoin, dieOfQid_of_lt quoin⟩,
      rfl, rfl, rfl, rfl, rfl, rfl, rfl, rfl⟩

end Sys2Proof.Machine
end

section
/-! ### Regions (R48, R119, R191, R491) -/
namespace Sys2Proof.Machine

open Sys2Proof.Claims

variable {s : State} {x : Ops} {k n : Nat} {b : Bool}

/-! #### The lowest cause of a list (R102) -/

/-- A sub-code that applies is the lowest where every later one that applies is no lower. -/
theorem minSub_lowest {rest : List (Option Nat)} (least : ∀ o ∈ rest, ∀ n, o = some n → k ≤ n) : minSub (some k :: rest) = some k := by
  show rest.foldl _ (some k) = some k
  induction rest with
  | nil => rfl
  | cons o rest ih =>
    obtain ⟨lo, later⟩ := List.forall_mem_cons.mp least
    cases o with
    | none => exact ih later
    | some n => exact (congrArg (fun m => rest.foldl _ (some m)) (Nat.min_eq_left (lo n rfl))).trans (ih later)

/-- A sub-code that does not apply counts for nothing. -/
theorem minSub_none_cons (rest : List (Option Nat)) : minSub (none :: rest) = minSub rest := rfl

theorem eq_of_subIf_eq_some (h : subIf b k = some n) : n = k := by
  cases b with
  | false => cases h
  | true => exact (Option.some.inj h).symm

/-! #### What `rgn` and `rgend` answer (R191) -/

/-- The class-16 cause of `rgn`, if one applies. -/
def rgnSub (c : Course) : Option Nat := minSub [subIf (!c.reconverged) 0x100, subIf c.rgnOpen 0x101, subIf (!c.quiet) 0x106]

/-- The class-16 cause of `rgend`, if one applies. -/
def rgendSub (c : Course) : Option Nat := minSub [subIf (!c.rgnOpen) 0x102, subIf (!c.reconverged) 0x107]

/-- The course with its region open at a PC: the shadow of what a restart brings back, and RESTARTS counted on only by a restart (R491). -/
def Course.openRegion (c : Course) (pc : Nat) : Course :=
  { c with
      shadow := { srseed := c.srseed, enr := c.enr, depth := c.depth, rstack := c.rstack }, rgnPc := pc, rgnOpen := true,
      restarts := if c.restarted then c.restarts else 0, restarted := false, markTiles := 0, markActive := false, markShadow := false }

theorem execRgn_trap (free : Free s 0x14 x none [] []) (cause : rgnSub s.cur = some k) : execRgn x s = trapOut s k := by
  rw [rgnSub] at cause
  simp only [execRgn, issue_free _ free, cause]

theorem execRgn_open (free : Free s 0x14 x none [] []) (clear : rgnSub s.cur = none) :
    execRgn x s = .next (passed (s.upd (fun c => c.openRegion s.iss.pc)) x) := by
  rw [rgnSub] at clear
  simp only [execRgn, issue_free _ free, clear]
  rfl

theorem execRgend_trap (free : Free s 0x15 x none [] []) (cause : rgendSub s.cur = some k) : execRgend x s = trapOut s k := by
  rw [rgendSub] at cause
  simp only [execRgend, issue_free _ free, cause]

theorem execRgend_close (free : Free s 0x15 x none [] []) (clear : rgendSub s.cur = none) :
    execRgend x s = .next (passed (s.upd (fun c => { c with rgnOpen := false })) x) := by
  rw [rgendSub] at clear
  simp only [execRgend, issue_free _ free, clear]
  rfl

/-! #### Which cause applies -/

variable {c : Course}

theorem rgnSub_clear (joined : c.reconverged = true) (closed : c.rgnOpen = false) (quiet : c.quiet = true) : rgnSub c = none := by
  rw [rgnSub, joined, closed, quiet]
  rfl

theorem rgnSub_apart (apart : c.reconverged = false) : rgnSub c = some 0x100 := by
  rw [rgnSub, apart]
  refine minSub_lowest (List.forall_mem_cons.mpr ⟨fun n h => ?_, List.forall_mem_singleton.mpr fun n h => ?_⟩)
  all_goals rw [eq_of_subIf_eq_some h]; decide

theorem rgnSub_open (joined : c.reconverged = true) (opened : c.rgnOpen = true) : rgnSub c = some 0x101 := by
  rw [rgnSub, joined, opened]
  refine (minSub_none_cons _).trans (minSub_lowest (List.forall_mem_singleton.mpr fun n h => ?_))
  rw [eq_of_subIf_eq_some h]
  decide

theorem rgnSub_busy (joined : c.reconverged = true) (closed : c.rgnOpen = false) (busy : c.quiet = false) : rgnSub c = some 0x106 := by
  rw [rgnSub, joined, closed, busy]
  rfl

theorem rgendSub_clear (joined : c.reconverged = true) (opened : c.rgnOpen = true) : rgendSub c = none := by
  rw [rgendSub, joined, opened]
  rfl

theorem rgendSub_closed (closed : c.rgnOpen = false) : rgendSub c = some 0x102 := by
  rw [rgendSub, closed]
  refine minSub_lowest (List.forall_mem_singleton.mpr fun n h => ?_)
  rw [eq_of_subIf_eq_some h]
  decide

theorem rgendSub_apart (apart : c.reconverged = false) (opened : c.rgnOpen = true) : rgendSub c = some 0x107 := by
  rw [rgendSub, apart, opened]
  rfl

/-- Settles O27: what `rgn` and `rgend` answer is decided by `rgnSub` and `rgendSub`, the lowest class-16 cause that applies. -/
theorem regions : Obligations.Regions := by
  intro x s
  refine ⟨?opens, ?apart, ?again, ?busy, ?closes, ?closed, ?endApart⟩
  case opens => exact fun free joined closed quiet => execRgn_open free (rgnSub_clear joined closed quiet)
  case apart => exact fun free apart => execRgn_trap free (rgnSub_apart apart)
  case again => exact fun free joined opened => execRgn_trap free (rgnSub_open joined opened)
  case busy => exact fun free joined closed busy => execRgn_trap free (rgnSub_busy joined closed busy)
  case closes => exact fun free joined opened => execRgend_close free (rgendSub_clear joined opened)
  case closed => exact fun free closed => execRgend_trap free (rgendSub_closed closed)
  case endApart => exact fun free apart opened => execRgend_trap free (rgendSub_apart apart opened)

end Sys2Proof.Machine
end

section
/-! ### Late frames, debug stops, halts and handler starts (R59, R225, R424, R428, R430, R432) -/
namespace Sys2Proof.Machine

open Sys2Proof.Claims

variable {s : State} {c : Course} {die ring n i entry : Nat} {t : TrapRec} {rest : List TrapRec}

/-! #### The control core of a die -/

@[simp] theorem getDie_updDie (s : State) (d : Nat) (f : Die → Die) : getDie (updDie s d f) d = f (getDie s d) := by
  by_cases h : d = 0 <;> simp [getDie, updDie, h]

@[simp] theorem updDie_cur (s : State) (d : Nat) (f : Die → Die) : (updDie s d f).cur = s.cur := apply_ite State.cur _ _ _ |>.trans (ite_self _)

@[simp] theorem getDie_upd (s : State) (d : Nat) (f : Course → Course) : getDie (s.upd f) d = getDie s d := rfl

/-- The traps listed for a ring, 2 or else 3, oldest first. -/
def Die.listed (d : Die) (ring : Nat) : List TrapRec := if ring = 2 then d.list2 else d.list3

/-- The trap that the handler of a ring serves. -/
def Die.serving (d : Die) (ring : Nat) : Option TrapRec := if ring = 2 then d.serve2 else d.serve3

/-- The vector of a ring. -/
def Die.vector (d : Die) (ring : Nat) : Double := if ring = 2 then d.tvec2 else d.tvec3

/-- The handler of a ring has taken the oldest listed trap, `rest` being the others. -/
def Die.serve (d : Die) (ring : Nat) (t : TrapRec) (rest : List TrapRec) : Die :=
  if ring = 2 then { d with list2 := rest, serve2 := some t } else { d with list3 := rest, serve3 := some t }

/-- A trap is listed last for a ring. -/
def Die.addListed (d : Die) (ring : Nat) (t : TrapRec) : Die :=
  if ring = 2 then { d with list2 := d.list2 ++ [t] } else { d with list3 := d.list3 ++ [t] }

@[simp] theorem Die.listed_serve (d : Die) : (d.serve ring t rest).listed ring = rest := by
  by_cases h : ring = 2 <;> simp [Die.listed, Die.serve, h]

@[simp] theorem Die.serving_serve (d : Die) : (d.serve ring t rest).serving ring = some t := by
  by_cases h : ring = 2 <;> simp [Die.serving, Die.serve, h]

@[simp] theorem Die.listed_addListed (d : Die) : (d.addListed ring t).listed ring = d.listed ring ++ [t] := by
  by_cases h : ring = 2 <;> simp [Die.listed, Die.addListed, h]

/-! #### A handler course that starts (R428) -/

/-- A vector's entry is an address of 53 bits (R173). -/
theorem vectorEntry_lt (v : Double) : vectorEntry v < 2 ^ 53 := by
  have := (v.extractLsb' 2 51).isLt
  unfold vectorEntry
  omega

/-- The lanes that go to an address stand there. -/
theorem Course.pcOf_setPcs (m : LaneSet) (f : Nat → Nat) (wf : Cells.wf c.pc = true) (lane : i < 32) (goes : m.getLsbD i = true) :
    (c.setPcs m f).pcOf i = f i % 2 ^ 53 := by
  rw [Course.pcOf, Course.setPcs, Cells.get_foldl _ (fun i => BitVec.ofNat 53 (f i)) _ _ wf, if_pos ((toList_mem m i).mpr ⟨lane, goes⟩), BitVec.toNat_ofNat]

theorem startHandler_pcOf (wf : Cells.wf c.pc = true) (lane : i < 32) (live : c.live.getLsbD i = true) (h : entry < 2 ^ 53) :
    (startHandler c entry t).pcOf i = entry :=
  (Course.pcOf_setPcs c.live (fun _ => entry) wf lane live).trans (Nat.mod_eq_of_lt h)

/-- The registers s0 to s3 of a handler that starts: the frame's address, the cause and the course. -/
theorem startHandler_s (entry : Nat) (t : TrapRec) (wf : Cells.wf c.s = true) :
    Cells.get (startHandler c entry t).s 0 = BitVec.ofNat 32 (t.frame % 2 ^ 32) ∧
      Cells.get (startHandler c entry t).s 1 = BitVec.ofNat 32 (t.frame / 2 ^ 32) ∧
      Cells.get (startHandler c entry t).s 2 = BitVec.ofNat 32 t.cause ∧ Cells.get (startHandler c entry t).s 3 = BitVec.ofNat 32 t.who := by
  have wf0 := Cells.wf_set c.s 0 (BitVec.ofNat 32 (t.frame % 2 ^ 32)) wf
  have wf1 := Cells.wf_set _ 1 (BitVec.ofNat 32 (t.frame / 2 ^ 32)) wf0
  have wf2 := Cells.wf_set _ 2 (BitVec.ofNat 32 t.cause) wf1
  have read (j : Nat) : Cells.get (startHandler c entry t).s j = if j = 3 then BitVec.ofNat 32 t.who else if j = 2 then BitVec.ofNat 32 t.cause
      else if j = 1 then BitVec.ofNat 32 (t.frame / 2 ^ 32) else if j = 0 then BitVec.ofNat 32 (t.frame % 2 ^ 32) else Cells.get c.s j := by
    rw [← Cells.get_set _ _ _ _ wf, ← Cells.get_set _ _ _ _ wf0, ← Cells.get_set _ _ _ _ wf1, ← Cells.get_set _ _ _ _ wf2]
    rfl
  exact ⟨read 0, read 1, read 2, read 3⟩

/-- The handler course of a ring, which stands in the issue unit, has started on the oldest listed trap. -/
def handlerStarted (s : State) (die ring : Nat) (t : TrapRec) (rest : List TrapRec) : State :=
  (updDie s die (fun d => d.serve ring t rest)).upd (fun c => startHandler c (vectorEntry ((getDie s die).vector ring)) t)

theorem getDie_handlerStarted : getDie (handlerStarted s die ring t rest) die = (getDie s die).serve ring t rest := by simp [handlerStarted]

theorem handlerStarted_cur :
    (handlerStarted s die ring t rest).cur = startHandler s.cur (vectorEntry ((getDie s die).vector ring)) t := by simp [handlerStarted]

theorem execHandlerCourseStart_none (empty : (getDie s die).listed ring = []) : execHandlerCourseStart die ring s = .next s := by
  unfold Die.listed at empty
  simp only [execHandlerCourseStart, empty]
  cases handlerOf s die ring <;> rfl

theorem execHandlerCourseStart_busy (listed : (getDie s die).listed ring = t :: rest) (handler : handlerOf s die ring = some s.cur)
    (busy : s.cur.life ≠ .idle ∨ (getDie s die).dead = true) : execHandlerCourseStart die ring s = .next s := by
  unfold Die.listed at listed
  simp only [execHandlerCourseStart, handler, listed]
  exact if_pos (by simpa using busy)

theorem execHandlerCourseStart_idle (listed : (getDie s die).listed ring = t :: rest) (handler : handlerOf s die ring = some s.cur)
    (idle : s.cur.life = .idle) (alive : (getDie s die).dead = false) :
    execHandlerCourseStart die ring s = .next (handlerStarted s die ring t rest) := by
  unfold Die.listed at listed
  simp only [execHandlerCourseStart, handler, listed]
  refine (if_neg (by simp [idle, alive])).trans (congrArg Host.Outcome.next ?_)
  have here := atCourse_here (updDie s die (fun d => d.serve ring t rest))
    (fun u => u.upd (fun c => startHandler c (vectorEntry ((getDie s die).vector ring)) t))
  rw [updDie_cur] at here
  exact here

/-! #### A trap to ring 2 or 3 (R428) -/

/-- Where its list has room, the trap is listed last, with the number of its course. -/
theorem trapListed_listed (s : State) (n : Nat) (t : Trap) (room : ((getDie s s.cur.die).listed n).length < 4096) :
    ∃ va before, (getDie (trapListed s n t) s.cur.die).listed n =
      before ++ [{ course := s.cur.id, frame := va, cause := t.cause, who := 32 * s.cur.qid + s.cur.slot }] := by
  have room' : ¬ 4096 ≤ (if n = 2 then (getDie s s.cur.die).list2 else (getDie s s.cur.die).list3).length := Nat.not_le.mpr room
  unfold trapListed
  simp only [if_neg room', getDie_upd, getDie_updDie]
  exact ⟨_, _, Die.listed_addListed _⟩

/-! #### Stops and halts (R59, R225, R430) -/

theorem haltCourse_ready (ready : canHalt s.cur = true) :
    haltCourse s = saveCourse (s.upd (fun c => { c with ops := (haltOps c.ops c.ring 0 0).1 })) (if s.cur.reconverged then 1 else 2)
      (if s.cur.reconverged then 0 else 0x140) := by
  unfold haltCourse
  rw [if_neg (by simp [ready])]
  cases s.cur.reconverged <;> rfl

theorem haltCourse_waits (waits : canHalt s.cur = false) : haltCourse s = s := by
  unfold haltCourse
  rw [if_pos (by simp [waits])]

theorem execFrameTaken_here (s : State) : execFrameTaken s.cur.id s = .next (if debugDue s.cur then takeDebugStop s else takePending s) := by
  rw [execFrameTaken, atCourse_here]

theorem execDebugStopTimeout_here (s : State) : execDebugStopTimeout s.cur.id s =
    .next (if s.cur.debugReq && s.cur.life = .live && s.cur.ring = 0 && s.cur.stopRing.isNone then takeDebugStop s else s) := by
  rw [execDebugStopTimeout, atCourse_here]

theorem execCourseHalt_here (s : State) : execCourseHalt s.cur.id s = .next (settlePiers (if s.cur.owing.isEmpty then haltCourse s else haltAgain s)) := by
  rw [execCourseHalt, atCourse_here]

theorem execForcedFullSave_here (s : State) : execForcedFullSave s.cur.id s =
    .next (settlePiers (if s.cur.haltReq then haltCourse (s.upd (fun c => { c with forced := true })) else s)) := by
  rw [execForcedFullSave, atCourse_here]

/-- Settles O53: each event acts on the course where it stands (the `_here` lemmas), a handler starts as `handlerStarted`, and a trap is listed by
`trapListed_listed`. -/
theorem stopsAndHandlers : Obligations.StopsAndHandlers := by
  refine ⟨fun s => ⟨?frame, ?stop, ?late, ?noStop, ?halt, ?noHalt, ?owes, ?forced, ?noForced⟩,
    fun s die ring t rest _ => ⟨execHandlerCourseStart_none, execHandlerCourseStart_busy, ?starts⟩, fun s n t _ => ?listed⟩
  case frame =>
    intro due
    refine (execFrameTaken_here s).trans ?_
    rw [if_neg (by simp [due])]
  case stop =>
    intro due
    refine (execFrameTaken_here s).trans ?_
    rw [if_pos due]
  case late =>
    intro asked live ring0 running
    refine (execDebugStopTimeout_here s).trans ?_
    rw [if_pos (by simp [asked, live, ring0, running])]
  case noStop =>
    intro asked
    refine (execDebugStopTimeout_here s).trans ?_
    rw [if_neg (by simp [asked])]
  case halt =>
    intro settled ready
    refine (execCourseHalt_here s).trans ?_
    rw [if_pos (by simp [settled]), haltCourse_ready ready]
  case noHalt =>
    intro settled waits
    refine (execCourseHalt_here s).trans ?_
    rw [if_pos (by simp [settled]), haltCourse_waits waits]
  case owes =>
    intro owes
    refine (execCourseHalt_here s).trans ?_
    rw [if_neg (by simp [owes]), haltAgain]
  case forced =>
    intro asked
    refine (execForcedFullSave_here s).trans ?_
    rw [if_pos asked]
  case noForced =>
    intro asked
    refine (execForcedFullSave_here s).trans ?_
    rw [if_neg (by simp [asked])]
  case starts =>
    intro listed handler idle alive
    refine ⟨_, execHandlerCourseStart_idle listed handler idle alive, ?_, ?_, ?_, ?_, ?_⟩
    · exact (congrArg (Die.listed · ring) getDie_handlerStarted).trans (Die.listed_serve _)
    · exact (congrArg (Die.serving · ring) getDie_handlerStarted).trans (Die.serving_serve _)
    · rw [handlerStarted_cur]; rfl
    · intro wf i lane live
      rw [handlerStarted_cur]
      exact startHandler_pcOf wf lane live (vectorEntry_lt _)
    · intro wf
      rw [handlerStarted_cur]
      exact startHandler_s _ _ wf
  case listed =>
    intro _ room
    obtain ⟨va, before, listed⟩ := trapListed_listed s n t room
    exact ⟨va, (congrArg List.getLast? listed).trans List.getLast?_concat⟩

end Sys2Proof.Machine
end

section
/-! ### One step (R36, R91, R158, R321) -/
namespace Sys2Proof.Machine

variable {s t u v : State} {i : Instr} {inputs : List Instr} {m : LaneSet} {pc n : Nat} {ws : List Word}

/-! #### What a step runs -/

theorem step_input (given : s.inputs = i :: inputs) :
    step s = if isIssued i then .next { s with inputs := inputs } else exec i { s with inputs := inputs } := by
  simp only [step, given]

theorem step_urgent (quiet : s.inputs = []) (due : urgentEvent s = some i) : step s = exec i s := by
  simp only [step, quiet, due]

section
variable (quiet : s.inputs = []) (noneDue : urgentEvent s = none)
include quiet noneDue

theorem step_issue (selected : selectCourse s = some (t, true)) : step s = issueStep t := by
  simp only [step, quiet, noneDue, selected]

theorem step_passedOver (yields : selectCourse s = some (t, false)) : step s = .next t := by
  simp only [step, quiet, noneDue, yields]

theorem step_pending (idle : selectCourse s = none) (due : pendingEvent s = some i) : step s = exec i s := by
  simp only [step, quiet, noneDue, idle, due]

theorem step_idle (idle : selectCourse s = none) (nothing : pendingEvent s = none) : step s = .next (idleStep s) := by
  simp only [step, quiet, noneDue, idle, nothing]

end

/-! #### What the selected course issues -/

theorem issueStep_aside (aside : s.cur.aside ≠ none) : issueStep s = .next (restPasses s) :=
  if_pos (Option.isSome_iff_ne_none.mpr aside)

section
variable (noAside : s.cur.aside = none) (subset : s.cur.subset = some (m, pc))
include noAside subset

theorem issueStep_stopped {f : Fetched} (stops : fetchInstr { s with iss := issueAt s.cur m pc 1 } pc = (u, .error f)) :
    issueStep s = .next (fetchStop u f) := by
  simp only [issueStep, noAside, subset, stops]
  rfl

/-- The decoded instruction runs on the prepared state; its issue is counted where it does not stop the device. -/
theorem issueStep_decoded (fetched : fetchInstr { s with iss := issueAt s.cur m pc 1 } pc = (u, .ok ws)) (decoded : decodeWords ws = .ok (i, n)) :
    (∀ v, exec i (prepare u m pc n i) = .next v → issueStep s = .next (afterStep v)) ∧
    (∀ f, exec i (prepare u m pc n i) = .fault f → issueStep s = .fault f) ∧
    (∀ r, exec i (prepare u m pc n i) = .refused r → issueStep s = .refused r) := by
  refine ⟨fun v ran => ?_, fun f ran => ?_, fun r ran => ?_⟩
  all_goals
    simp only [issueStep, noAside, subset, fetched, decoded, ran]
    rfl

end

/-- Settles O4: the cases of `step`, and of `issueStep` where a course is selected. -/
theorem stepRuns : Obligations.StepRuns := by
  intro s
  refine ⟨fun i rest => step_input, fun i => step_urgent, fun quiet noneDue => ⟨?pending, ?idle, ?passedOver, ?aside, ?issues⟩⟩
  case pending => exact fun i => step_pending quiet noneDue
  case idle => exact step_idle quiet noneDue
  case passedOver => exact fun t => step_passedOver quiet noneDue
  case aside => exact fun t selected aside => (step_issue quiet noneDue selected).trans (issueStep_aside aside)
  case issues =>
    intro t u m pc selected noAside subset
    rw [step_issue quiet noneDue selected]
    exact ⟨fun f => issueStep_stopped noAside subset, fun ws i n => issueStep_decoded noAside subset⟩

end Sys2Proof.Machine
end

section
/-! ### Gangs across devices (R55, R56, R196, R460) -/
namespace Sys2Proof.Machine

open Sys2Proof.Claims

variable {s : State} {x : Ops} {p : Packet} {k key dev decision : Nat}

/-! #### Records -/

/-- A record that is put back is the one found. -/
theorem find?_putWhere {α : Type} {q : α → Bool} {x : α} (hx : q x = true) (xs : List α) : (putWhere q x xs).find? q = some x := by
  induction xs with
  | nil => simp [putWhere, hx]
  | cons y rest ih =>
    cases hy : q y with
    | true => simp [putWhere, hy, hx]
    | false =>
      rw [← ih]
      by_cases any : rest.any q = true <;> simp [putWhere, hy, any]

@[simp] theorem getGang_key (s : State) (key : Nat) : (getGang s key).key = key := by
  cases found : s.gangs.find? (fun g => g.key == key) with
  | none => simp [getGang, found]
  | some g => simpa [getGang, found] using List.find?_some found

theorem getGang_putGang {g : Gang} (h : g.key = key) : getGang (putGang s g) key = g := by
  subst h
  simp [getGang, putGang, find?_putWhere]

/-! #### Packets -/

/-- A packet with the PSN that is expected is counted and acted on (R456). -/
theorem accept_expected (expected : Expected s p) (f : State → State) : accept s p f = f (counted s p) := by
  obtain ⟨here, next⟩ := expected
  rw [accept, if_neg (not_not.mpr here), if_pos next]
  rfl

/-! #### Decisions -/

/-- The coordinator has noted a decision and told every other member. -/
def gangTold (s : State) (key decision : Nat) : State :=
  ((List.range s.nDev).filter (fun d => d ≠ 0)).foldl (fun t d => sendPkt t (gangPacket t d key decision))
    (putGang s { getGang s key with decision := decision })

theorem gangDecide_first (undecided : (getGang s key).decision = 0) : gangDecide s key decision = gangAct (gangTold s key decision) key decision :=
  if_neg (not_not.mpr undecided)

theorem gangDecide_again (decided : (getGang s key).decision ≠ 0) : gangDecide s key decision = s := if_pos decided

theorem gangAct_freed (freed : (getGang s key).freed = true) : gangAct s key decision = s := if_pos freed

theorem gangAct_release_unready (held : (getGang s key).freed = false) (unready : (getGang s key).arrived = false) : gangAct s key 1 = s := by
  simp [gangAct, held, unready]

theorem gangAct_abort (held : (getGang s key).freed = false) : gangAct s key 2 = gangEnd s key 0x161 := by
  simp [gangAct, held]

/-- The record of a gang with the ready message of one more member. -/
def Gang.withReady (g : Gang) (dev : Nat) : Gang := { g with ready := g.ready ||| BitVec.ofNat 16 (2 ^ dev) }

/-- Whether every device of the domain has sent ready. -/
def Gang.allReady (g : Gang) (nDev : Nat) : Bool := (List.range nDev).all (fun d => g.ready.getLsbD d)

/-- The record after a ready message of a member: one more of it after the decision is for the next gang of the key. -/
def Gang.heard (g : Gang) (dev : Nat) : Gang :=
  if g.decision ≠ 0 && g.ready.getLsbD dev then { g with next := g.next ||| BitVec.ofNat 16 (2 ^ dev) } else g.withReady dev

theorem Gang.heard_undecided {g : Gang} (undecided : g.decision = 0) : g.heard dev = g.withReady dev := if_neg (by simp [undecided])

theorem gangReadyFrom_eq (s : State) (key dev : Nat) : gangReadyFrom s key dev =
    if ((getGang s key).heard dev).decision = 0 && ((getGang s key).heard dev).allReady s.nDev then
      gangDecide (putGang s ((getGang s key).heard dev)) key 1
    else putGang s ((getGang s key).heard dev) := rfl

theorem gangReadyFrom_last (undecided : (getGang s key).decision = 0) (all : ((getGang s key).withReady dev).allReady s.nDev = true) :
    gangReadyFrom s key dev = gangAct (gangTold (putGang s ((getGang s key).withReady dev)) key 1) key 1 := by
  have record : getGang (putGang s ((getGang s key).withReady dev)) key = (getGang s key).withReady dev := getGang_putGang (getGang_key s key)
  have undecided' : ((getGang s key).withReady dev).decision = 0 := undecided
  rw [gangReadyFrom_eq, Gang.heard_undecided undecided, if_pos (by simp [undecided', all]), gangDecide_first (by rw [record, undecided'])]

theorem gangReadyFrom_early (undecided : (getGang s key).decision = 0) (more : ((getGang s key).withReady dev).allReady s.nDev = false) :
    gangReadyFrom s key dev = putGang s ((getGang s key).withReady dev) := by
  rw [gangReadyFrom_eq, Gang.heard_undecided undecided, if_neg (by simp [more])]

/-! #### Messages -/

theorem execGngReady_expected (expected : Expected s p) :
    execGngReady p s = .next (if s.devId = 0 then gangReadyFrom (counted s p) p.tag p.src else counted s p) :=
  congrArg Host.Outcome.next (accept_expected expected _)

theorem execGngRelease_expected (expected : Expected s p) : execGngRelease p s = .next (gangAct (counted s p) p.tag 1) :=
  congrArg Host.Outcome.next (accept_expected expected _)

theorem execGngAbort_expected (expected : Expected s p) : execGngAbort p s = .next (gangAct (counted s p) p.tag 2) :=
  congrArg Host.Outcome.next (accept_expected expected _)

theorem execGngQuery_expected (expected : Expected s p) : execGngQuery p s =
    .next (if s.devId ≠ 0 || (getGang (counted s p) p.tag).decision = 0 then counted s p
      else sendPkt (counted s p) (gangPacket (counted s p) p.src p.tag (getGang (counted s p) p.tag).decision)) :=
  congrArg Host.Outcome.next (accept_expected expected _)

/-! #### Timeouts -/

theorem execGangTimeout_aborts (coordinator : s.devId = 0) (begun : gangBegun s key = true) (undecided : (getGang s key).decision = 0) :
    execGangTimeout key s = .next (gangAct (gangTold s key 2) key 2) := by
  rw [execGangTimeout, if_pos (by simp [coordinator, begun]), gangDecide_first undecided]

theorem execGangTimeout_nothing (h : s.devId ≠ 0 ∨ gangBegun s key = false ∨ (getGang s key).decision ≠ 0) : execGangTimeout key s = .next s := by
  rcases h with member | waits | decided
  · rw [execGangTimeout, if_neg (by simp [member])]
  · rw [execGangTimeout, if_neg (by simp [waits])]
  · rw [execGangTimeout, gangDecide_again decided, ite_self]

theorem execGangDecisionTimeout_waiting (member : s.devId ≠ 0) (held : (getGang s key).freed = false) (spans : (gangSpans s key).isEmpty = false) :
    execGangDecisionTimeout key s =
      let t := ((s.ports.filter (fun p => p.peer == 0)).map (fun p => p.port)).foldl resetPort s
      .next (if pathTo t 0 then sendPkt t (gangPacket t 0 key 3) else gangEnd t key 0x167) :=
  if_neg (by simp [member, held, spans])

/-! #### `gangsync` (R196) -/

/-- Whether the span of the course is a gang's. -/
def spanIsGang (s : State) : Bool := match findSpan s s.cur.span with | some y => y.rcd.gang | none => false

/-- The cause of `gangsync`, if one applies. -/
def gangsyncSub (s : State) : Option Nat := minSub [subIf (!s.cur.reconverged) 0xB9, subIf s.cur.rgnOpen 0x103, subIf (!spanIsGang s) 0x160]

theorem execGangsync_trap (free : Free s 0x18 x none [] []) (cause : gangsyncSub s = some k) : execGangsync x s = trapOut s k := by
  cases found : findSpan s s.cur.span
  all_goals
    simp only [gangsyncSub, spanIsGang, found] at cause
    simp only [execGangsync, issue_free _ free, found, cause]

theorem execGangsync_clear (free : Free s 0x18 x none [] []) (clear : gangsyncSub s = none) : execGangsync x s =
    if (getGang s s.cur.gangKey).freed then done s x else .next (gangArrive (s.upd (fun c => { c with wait := some .gang })) s.cur.span) := by
  cases found : findSpan s s.cur.span
  all_goals
    simp only [gangsyncSub, spanIsGang, found] at clear
    simp only [execGangsync, issue_free _ free, found, clear]

/-- Settles O50: `gangsync` by its cause, the messages by `accept_expected`, decisions by `gangDecide` and `gangAct`. -/
theorem gangs : Obligations.Gangs := by
  refine ⟨fun x s free => ⟨?trap, ?freed, ?waits⟩, fun s p key expected =>
    ⟨?ready, ?last, ?early, ?member, ?release, ?abort, ?decided, ?unready, ?ends, ?answered, ?unanswered, ?timeout, ?noTimeout, ?queries⟩⟩
  case trap => exact fun k => execGangsync_trap free
  case freed => exact fun clear freed => (execGangsync_clear free clear).trans (if_pos freed)
  case waits => exact fun clear held => (execGangsync_clear free clear).trans (if_neg (by simp [held]))
  case ready =>
    intro coordinator
    refine (execGngReady_expected expected).trans ?_
    rw [if_pos coordinator]
  case last =>
    intro coordinator undecided all
    refine ⟨_, rfl, (execGngReady_expected expected).trans ?_⟩
    rw [if_pos coordinator, gangReadyFrom_last undecided all]
    rfl
  case early =>
    intro coordinator undecided more
    refine (execGngReady_expected expected).trans ?_
    rw [if_pos coordinator, gangReadyFrom_early undecided more]
    rfl
  case member =>
    intro member
    refine (execGngReady_expected expected).trans ?_
    rw [if_neg member]
  case release => exact execGngRelease_expected expected
  case abort => exact execGngAbort_expected expected
  case decided =>
    intro freed
    exact ⟨(execGngRelease_expected expected).trans (congrArg _ (gangAct_freed freed)),
      (execGngAbort_expected expected).trans (congrArg _ (gangAct_freed freed))⟩
  case unready =>
    exact fun held unready => (execGngRelease_expected expected).trans (congrArg _ (gangAct_release_unready held unready))
  case ends => exact fun held => (execGngAbort_expected expected).trans (congrArg _ (gangAct_abort held))
  case answered =>
    intro coordinator decided
    refine (execGngQuery_expected expected).trans ?_
    rw [if_neg (by simp [coordinator, decided])]
  case unanswered =>
    intro coordinator undecided
    refine (execGngQuery_expected expected).trans ?_
    rw [if_pos (by simp [undecided])]
  case timeout => exact execGangTimeout_aborts
  case noTimeout => exact execGangTimeout_nothing
  case queries =>
    rintro member held spans _ rfl
    exact execGangDecisionTimeout_waiting member held spans

end Sys2Proof.Machine
end

section
/-! ### Seeds of a new course (R77) -/
namespace Sys2Proof.Machine

variable {i : Nat}

/-- The seed of a lane, with the product taken modulo 2³². -/
theorem laneSeed_eq (seed : Word) (i : Nat) : laneSeed seed i =
    if seed ^^^ BitVec.ofNat 32 (0x9E3779B9 * (i + 1) % 2 ^ 32) = 0 then 1 else seed ^^^ BitVec.ofNat 32 (0x9E3779B9 * (i + 1) % 2 ^ 32) := by
  have wraps : BitVec.ofNat 32 (0x9E3779B9 * (i + 1) % 2 ^ 32) = BitVec.ofNat 32 (0x9E3779B9 * (i + 1)) := BitVec.eq_of_toNat_eq (by simp)
  rw [wraps, laneSeed]

theorem get_seedCells (seed : Word) (lane : i < 32) : Cells.get (seedCells seed) i = laneSeed seed i := by
  rw [seedCells, Cells.setAll, List.foldl_map, Cells.get_foldl allLanes (laneSeed seed) [] i rfl]
  exact if_pos (List.mem_range.mpr lane)

@[simp] theorem newCourse_srseed (s : State) (sp : Span) (p : Pier) (w : Place) : (newCourse s sp p w).srseed = seedCells sp.rcd.seed := by
  simp only [newCourse, Course.setPcs]

/-- Settles O8: a new course has `seedCells` of its span record's seed, and each lane reads its own `laneSeed` there. -/
theorem seedsAtCreation : Obligations.SeedsAtCreation := by
  intro s sp p w i lane
  rw [newCourse_srseed, get_seedCells sp.rcd.seed lane]
  exact laneSeed_eq sp.rcd.seed i

end Sys2Proof.Machine
end

section
/-! ### NaN results and exact zero sums (R63) -/
namespace Sys2Proof.Machine

variable {f : FpFmt} {code mag : Nat}

/-! #### Which codes are NaNs (R62, R64) -/

/-- The magnitude of a code is its fraction and, above that, its exponent field. -/
theorem mod_signBit (f : FpFmt) (x : Nat) : x % f.signBit = bits x 0 f.mbits + 2 ^ f.mbits * bits x f.mbits f.ebits := by
  simp only [FpFmt.signBit, bits, pow_zero, Nat.div_one, pow_add, mul_comm (2 ^ f.ebits), Nat.mod_mul]

/-- With the exponent field at its top, a fraction makes a magnitude above infinity's. -/
theorem infCode_lt {x : Nat} (top : bits x f.mbits f.ebits = 2 ^ f.ebits - 1) (fraction : bits x 0 f.mbits ≠ 0) : f.infCode < x % f.signBit := by
  rw [mod_signBit, top, FpFmt.infCode, mul_comm]
  omega

/-- A NaN lies above infinity, or in a format without infinities has every bit of the magnitude set. -/
theorem magnitude_of_isNan {x : Nat} (h : (unpackF f x).isNan = true) :
    (f.kind = .ieee ∧ f.infCode < x % f.signBit) ∨ (f.kind = .nanOnly ∧ x % f.signBit = f.signBit - 1) := by
  simp only [unpackF] at h
  split_ifs at h with ieee zero nan sub
  · cases h
  · simp only [Bool.and_eq_true, decide_eq_true_eq] at ieee
    exact .inl ⟨ieee.1, infCode_lt ieee.2 zero⟩
  · simp only [Bool.and_eq_true, decide_eq_true_eq] at nan
    obtain ⟨⟨kind, top⟩, full⟩ := nan
    refine .inr ⟨kind, ?_⟩
    have whole : 2 ^ f.mbits * (2 ^ f.ebits - 1) + 2 ^ f.mbits = f.signBit := by
      rw [← Nat.mul_add_one, Nat.sub_add_cancel (Nat.one_le_two_pow), FpFmt.signBit, pow_add, mul_comm]
    have := Nat.two_pow_pos f.mbits
    rw [mod_signBit, top, full]
    omega
  · cases h
  · cases h

/-- Where the formats keep their largest finite codes and their infinities: below the NaNs. -/
theorem fpFmt_bounds (format : fpFmt code = some f) :
    (f.maxFin < f.signBit ∧ f.infCode < f.signBit) ∧ (f.kind = .ieee → f.maxFin ≤ f.infCode) ∧
      (f.kind = .nanOnly → f.maxFin < f.signBit - 1 ∧ f.infCode < f.signBit - 1) := by
  unfold fpFmt at format
  split at format
  all_goals cases format
  all_goals decide

/-! #### Results that are canonical where they are NaNs (R63) -/

/-- A result whose code is the format's canonical NaN if it is a NaN at all. -/
def FpFmt.Canonical (f : FpFmt) (r : FRes) : Prop := (unpackF f r.bits).isNan = true → r.bits = f.nan

theorem FpFmt.Canonical.ite {p : Prop} [Decidable p] {r t : FRes} (yes : p → f.Canonical r) (no : ¬p → f.Canonical t) :
    f.Canonical (if p then r else t) := by
  split_ifs with h
  · exact yes h
  · exact no h

theorem canonical_nan (f : FpFmt) (flags : Nat) : f.Canonical { bits := f.nan, flags := flags } := fun _ => rfl

theorem canonical_nanRes (f : FpFmt) (nv : Bool) : f.Canonical (nanRes f nv) := canonical_nan f _

section
variable (format : fpFmt code = some f)
include format

/-- A sign and a magnitude, finite or infinite, make no NaN. -/
theorem canonical_signed (neg : Bool) (flags : Nat) (number : mag ≤ f.maxFin ∨ mag = f.infCode) :
    f.Canonical { bits := (if neg then f.signBit else 0) + mag, flags := flags } := by
  obtain ⟨⟨maxFin, infCode⟩, ieee, nanOnly⟩ := fpFmt_bounds format
  intro isNan
  have magnitude : ((if neg then f.signBit else 0) + mag) % f.signBit = mag := by
    have : mag < f.signBit := by omega
    cases neg <;> simp [Nat.mod_eq_of_lt this]
  rcases magnitude_of_isNan isNan with ⟨kind, above⟩ | ⟨kind, full⟩
  · have := ieee kind
    exact absurd (magnitude ▸ above) (by omega)
  · have := nanOnly kind
    exact absurd (magnitude.symm.trans full) (by omega)

theorem canonical_zero (neg : Bool) (flags : Nat) : f.Canonical { bits := if neg then f.signBit else 0, flags := flags } :=
  canonical_signed format neg flags (.inl (Nat.zero_le _))

theorem canonical_infinity (neg : Bool) (flags : Nat) : f.Canonical { infRes f neg with flags := flags } :=
  canonical_signed format neg flags (.inr rfl)

theorem canonical_infRes (neg : Bool) : f.Canonical (infRes f neg) := canonical_infinity format neg 0

theorem canonical_overflowF (rm : Nat) (sat neg : Bool) (flags : Nat) : f.Canonical { bits := overflowF f rm sat neg, flags := flags } := by
  have largest := canonical_signed format neg flags (.inl (le_refl f.maxFin))
  cases sat with
  | true => exact largest
  | false =>
    simp only [overflowF, Bool.false_eq_true, if_false]
    cases f.kind with
    | ieee =>
      dsimp only
      split
      · exact largest
      · exact canonical_infinity format neg flags
    | nanOnly => exact canonical_nan f flags
    | finite => exact largest

theorem canonical_roundF (flush : Bool) (md : FMode) (neg : Bool) (m : Nat) (e : Int) : f.Canonical (roundF f flush md neg m e) :=
  .ite (fun _ => canonical_zero format neg _) fun _ => .ite (fun _ => canonical_zero format neg _) fun _ =>
    .ite (fun _ => canonical_overflowF format _ _ neg _) fun fits => canonical_signed format neg _ (.inl (not_lt.mp fits))

theorem canonical_deliver (md : FMode) (sig : Bool) (v : FVal) : f.Canonical (deliver code f md sig v) := by
  cases v with
  | nan => exact canonical_nanRes f sig
  | inf n => exact canonical_infRes format n
  | fin n m e => exact canonical_roundF format _ md n m e

/-! #### The operations (R146 to R148) -/

theorem canonical_fAdd (md : FMode) (a b : FVal) : f.Canonical (fAdd code f md a b) :=
  .ite (fun _ => canonical_nanRes f _) fun _ => .ite (fun _ => canonical_nanRes f _) fun _ => canonical_deliver format md _ _

theorem canonical_fMul (md : FMode) (a b : FVal) : f.Canonical (fMul code f md a b) :=
  .ite (fun _ => canonical_nanRes f _) fun _ => .ite (fun _ => canonical_nanRes f _) fun _ => canonical_deliver format md _ _

theorem canonical_fFma (md : FMode) (a b c : FVal) : f.Canonical (fFma code f md a b c) :=
  .ite (fun _ => canonical_nanRes f _) fun _ => .ite (fun _ => canonical_nanRes f _) fun _ =>
    .ite (fun _ => canonical_nanRes f _) fun _ => canonical_deliver format md _ _

theorem canonical_fDiv (md : FMode) (a b : FVal) : f.Canonical (fDiv code f md a b) := by
  refine .ite (fun _ => canonical_nanRes f _) fun _ => ?_
  split
  case h_1 => exact canonical_nanRes f _
  case h_2 => exact canonical_infRes format _
  case h_3 => exact canonical_zero format _ _
  case h_4 =>
    exact .ite (fun _ => .ite (fun _ => canonical_nanRes f _) fun _ => canonical_infinity format _ _) fun _ =>
      .ite (fun _ => canonical_zero format _ _) fun _ => canonical_roundF format _ md _ _ _
  case h_5 => exact canonical_nanRes f _

theorem canonical_fSqrt (md : FMode) (a : FVal) : f.Canonical (fSqrt code f md a) := by
  cases a with
  | nan s => exact canonical_nanRes f s
  | inf n => exact .ite (fun _ => canonical_nanRes f true) fun _ => canonical_infRes format false
  | fin n m e =>
    exact .ite (fun _ => canonical_zero format n _) fun _ => .ite (fun _ => canonical_nanRes f true) fun _ => canonical_roundF format _ md _ _ _

end

/-! #### Exact zero sums (R63) -/

/-- The exact sum of a value and its opposite. -/
theorem sumExact_opposite (rm : Nat) (neg : Bool) (m : Nat) (e : Int) : sumExact rm [(neg, m, e), (!neg, m, e)] = (rm == 2, 0, e) := by
  cases neg <;> simp [sumExact, minExp, signedM]

theorem fAdd_opposite (code : Nat) (f : FpFmt) (md : FMode) (neg : Bool) (m : Nat) (e : Int) :
    fAdd code f md (.fin neg m e) (.fin (!neg) m e) = { bits := if md.rm = 2 then f.signBit else 0, flags := 0 } := by
  have sum : sumV md.rm [.fin neg m e, .fin (!neg) m e] = .fin (md.rm == 2) 0 e := by
    simp [sumV, FVal.isNan, FVal.isInf, FVal.term, sumExact_opposite]
  rw [fAdd, sum]
  simp [FVal.isNan, FVal.isInf, deliver, roundF]

/-- Settles O16: the five operations deliver canonical codes (`canonical_…`), and a value and its opposite sum to a zero of the mode's sign. -/
theorem naNsAndZeros : Obligations.NaNsAndZeros := by
  refine ⟨fun code f md a b c format => ?nans, fun code m e f md neg _ => ?zeros⟩
  case nans =>
    have all : ∀ r ∈ [fAdd code f md a b, fMul code f md a b, fFma code f md a b c, fDiv code f md a b, fSqrt code f md a], f.Canonical r := by
      simp only [List.forall_mem_cons, List.not_mem_nil, false_implies, implies_true, and_true]
      exact ⟨canonical_fAdd format md a b, canonical_fMul format md a b, canonical_fFma format md a b c, canonical_fDiv format md a b,
        canonical_fSqrt format md a⟩
    exact all
  case zeros =>
    rw [fAdd_opposite]
    exact ⟨rfl, rfl⟩

end Sys2Proof.Machine
end

section
/-! ### Writing special registers with `swr` (R68, R76, R102, R167 to R175, R190) -/
namespace Sys2Proof.Machine

open Sys2Proof.Claims

variable {s t : State} {x : Ops} {k n v : Nat}

/-! #### What a write itself refuses -/

theorem writeSr_fpm (valid : v % 8 ≤ 4) : writeSr s 0x00 v = (s.upd (fun c => { c with fpm := BitVec.ofNat 32 (Nat.land v 0x001F1F3F) }), none) :=
  if_neg (by omega)

theorem writeSr_lfmode (free : s.cur.holdMode = decide (v % 2 = 1) ∨ Cells.get s.cur.enr 11 = 0) :
    writeSr s 0x02 v = (s.upd (fun c => { c with lfmode := BitVec.ofNat 32 (v % 2) }), none) :=
  if_neg (by rcases free with same | unheld <;> simp [*])

theorem writeSr_lfmode_conflict (change : s.cur.holdMode ≠ decide (v % 2 = 1)) (held : Cells.get s.cur.enr 11 ≠ 0) :
    writeSr s 0x02 v = (s, some 0xB8) := by
  have conflict : (v % 2 = 1) ≠ (s.cur.holdMode = true) := fun same => change (Bool.eq_iff_iff.mpr (by simp [same]))
  exact if_pos (by simpa [conflict] using held)

theorem writeSr_frame (unset : v % 2 = 0) : writeSr s 0x0A v = (s.upd (fun c => { c with frameBase := bits v 12 41 * 4096 }), none) :=
  if_neg (by omega)

theorem writeSr_frame_busy (busy : v % 2 = 1) : writeSr s 0x0A v = (s, some 0x130) := if_pos busy

/-- The other registers take every value. -/
theorem writeSr_accepts (fpm : n ≠ 0x00) (lfmode : n ≠ 0x02) (frame : n ≠ 0x0A) : (writeSr s n v).2 = none := by
  unfold writeSr
  split
  case h_1 => exact absurd rfl fpm
  case h_2 => exact absurd rfl lfmode
  case h_3 => exact absurd rfl frame
  all_goals rfl

/-! #### Which cause applies (R102, R167) -/

/-- After sub-codes of which none applies, the last decides. -/
theorem minSub_append {l : List (Option Nat)} (clear : minSub l = none) (o : Option Nat) : minSub (l ++ [o]) = o := by
  rw [minSub] at clear
  rw [minSub, List.foldl_append, clear]
  rfl

/-- From a ring that may write, only the write itself can refuse. -/
theorem swrCause_allowed (writable : srWritable n = true) (may : srRing n ≤ s.cur.ring) : swrCause s n v = (writeSr s n v).2 := by
  rw [swrCause, writable, decide_eq_false (not_lt.mpr may)]
  exact minSub_append (l := [none, none]) rfl _

/-- What no ring writes takes (19, 0), from whatever ring. -/
theorem swrCause_refused (refused : srWritable n = false ∨ (n = 0x0A ∧ v % 2 = 1)) : swrCause s n v = some 0x130 := by
  rcases refused with unwritable | ⟨rfl, busy⟩
  · have differs {k : Nat} (writable : srWritable k = true) : n ≠ k := by
      rintro rfl
      exact Bool.noConfusion (writable.symm.trans unwritable)
    rw [swrCause, unwritable, writeSr_accepts (differs rfl) (differs rfl) (differs rfl)]
    cases decide (s.cur.ring < srRing n) <;> rfl
  · rw [swrCause, writeSr_frame_busy busy]
    cases decide (s.cur.ring < srRing 0x0A) <;> rfl

theorem swrCause_below (writable : srWritable n = true) (unset : ¬(n = 0x0A ∧ v % 2 = 1)) (below : s.cur.ring < srRing n) :
    swrCause s n v = some 0x131 := by
  have accepts : (writeSr s n v).2 = none := by
    by_cases frame : n = 0x0A
    · subst frame
      rw [writeSr_frame (by omega)]
    · exact writeSr_accepts (by rintro rfl; cases below) (by rintro rfl; cases below) frame
  rw [swrCause, writable, accepts, decide_eq_true below]
  rfl

/-! #### What `swr` answers (R190) -/

/-- How the source of `swr` is read: as wide as the register. -/
def swrType (x : Ops) : STy := .int (srWide (x.field 0 8)) false

/-- The value that `swr` writes where the register acts once for the course. -/
def swrValue (s : State) (x : Ops) : Nat := readOpd s x (swrType x) x.a 0

/-- The class-1 sub-code of the source of `swr`, whatever its value: only a seed may differ between lanes. -/
def swrSource (s : State) (x : Ops) : Option Nat := minSub [srcSub s x (swrType x) x.a, if x.field 0 8 = 1 then none else uniSub x.a]

/-- No cause of class 0, 1 or 2 applies to `swr` where it issues. -/
abbrev SwrFree (s : State) (x : Ops) : Prop :=
  (x.field 0 8 = 0 → swrValue s x % 8 ≤ 4) ∧ Free s 0x11 x (swrSource s x) (opdRefs x.a (swrType x).regs) []

/-- What `swr` does to TCOMMIT: its commit starts or is held (R175). -/
def swrCommit (s : State) (x : Ops) : Out :=
  match writeTcommit s (swrValue s x) with
  | (t, true) => done t x
  | (t, false) => stallIssue t

/-- What `swr` does where no cause of class 0, 1 or 2 applies. -/
def swrAct (s : State) (x : Ops) : Out :=
  if partLanes s x = 0 then done s x
  else if x.field 0 8 = 1 then done (s.upd (fun c => (lanes s x).foldl (fun c i => c.setSeed i (readU s x x.a i)) c)) x
  else match swrCause s (x.field 0 8) (swrValue s x) with
    | some k => trapOut s k
    | none =>
      if x.field 0 8 = 0x28 then swrCommit s x else done (writeSr s (x.field 0 8) (swrValue s x)).1 x

theorem execSwr_free (free : SwrFree s x) : execSwr x s = swrAct s x := by
  obtain ⟨valid, clear0, clear1, clear2⟩ := free
  have mode : subIf (x.field 0 8 = 0 && decide (5 ≤ swrValue s x % 8)) 8 = none := if_neg (by simpa [Nat.lt_succ_iff] using valid)
  rw [execSwr]
  exact issue_clear _ clear0 ((minSub_append clear1 _).trans mode) clear2

/-- An RM of 5 to 7 is a cause of class 1 (R68). -/
theorem execSwr_badMode (clear0 : class0 s 0x11 x = none) (clear1 : swrSource s x = none) (fpm : x.field 0 8 = 0) (invalid : 5 ≤ swrValue s x % 8) :
    execSwr x s = trapOut s 0x18 := by
  have mode : subIf (x.field 0 8 = 0 && decide (5 ≤ swrValue s x % 8)) 8 = some 8 := if_pos (by simp [fpm, invalid])
  rw [execSwr]
  exact (congrArg (issue s 0x11 x · _ _) ((minSub_append clear1 _).trans mode)).trans (issue_class1 _ _ clear0)

/-- A number that the table does not give takes (0, 3). -/
theorem execSwr_unlisted (form : formOk 0x11 x = true) (h : x.field 8 4 ≠ 0 ∨ x.field 0 8 ∉ srNumbers) : execSwr x s = trapOut s 3 := by
  rw [execSwr]
  exact issue_class0 _ _ _ (class0_of_minorBad s form (srnOk_minor_of_unlisted h) rfl rfl)

section
variable (free : SwrFree s x)
include free

theorem execSwr_idle (idle : partLanes s x = 0) : execSwr x s = .next (passed s x) := by
  rw [execSwr_free free, swrAct, if_pos idle]
  rfl

variable (part : partLanes s x ≠ 0)
include part

/-- The seed register acts in each lane (R76). -/
theorem execSwr_seed (number : x.field 0 8 = 1) :
    execSwr x s = .next (passed (s.upd (fun c => (lanes s x).foldl (fun c i => c.setSeed i (readU s x x.a i)) c)) x) := by
  rw [execSwr_free free, swrAct, if_neg part, if_pos number]
  rfl

variable (number : x.field 0 8 = n) (once : n ≠ 1)
include number once

theorem execSwr_trap (cause : swrCause s n (swrValue s x) = some k) : execSwr x s = trapOut s k := by
  subst number
  simp only [execSwr_free free, swrAct, if_neg part, if_neg once, cause]

theorem execSwr_write (plain : n ≠ 0x28) (writable : srWritable n = true) (may : srRing n ≤ s.cur.ring)
    (writes : writeSr s n (swrValue s x) = (t, none)) : execSwr x s = .next (passed t x) := by
  subst number
  have clear : swrCause s (x.field 0 8) (swrValue s x) = none := by rw [swrCause_allowed writable may, writes]
  simp only [execSwr_free free, swrAct, if_neg part, if_neg once, clear, if_neg plain, writes]
  rfl

end

section
variable (free : SwrFree s x) (part : partLanes s x ≠ 0) (number : x.field 0 8 = 0x28) (may : 2 ≤ s.cur.ring)
include free part number may

theorem execSwr_commit : execSwr x s = swrCommit s x := by
  have clear : swrCause s 0x28 (swrValue s x) = none := swrCause_allowed rfl may
  simp only [execSwr_free free, swrAct, if_neg part, number, clear]
  rfl

theorem execSwr_commits (commit : writeTcommit s (swrValue s x) = (t, true)) : execSwr x s = .next (passed t x) := by
  simp only [execSwr_commit free part number may, swrCommit, commit]
  rfl

theorem execSwr_holds (held : writeTcommit s (swrValue s x) = (t, false)) : execSwr x s = stallIssue t := by
  simp only [execSwr_commit free part number may, swrCommit, held]

end

theorem writeTcommit_nothing (empty : v % 256 = 0) : writeTcommit s v = (s, true) := if_pos empty

/-- Settles O23: with no cause of class 0, 1 or 2, `swrCause` says which write traps and `writeSr` or `writeTcommit` what the others do. -/
theorem specialWrite : Obligations.SpecialWrite := by
  intro x s
  refine ⟨?unlisted, ?badMode, ?idle, ?refused, ?below, ?fpm, ?seed, ?lfmode, ?conflict, ?frame, ?tvec1, ?tvec2, ?tvec3, ?nothing, ?commits, ?holds⟩
  case unlisted => exact execSwr_unlisted
  case badMode => exact execSwr_badMode
  case idle => exact execSwr_idle
  case refused =>
    intro free part refused
    refine execSwr_trap free part rfl ?_ (swrCause_refused refused)
    rintro seed
    rcases refused with unwritable | ⟨frame, -⟩
    · rw [seed] at unwritable
      cases unwritable
    · omega
  case below =>
    intro free part writable unset below
    refine execSwr_trap free part rfl ?_ (swrCause_below writable unset below)
    rintro seed
    rw [seed] at below
    cases below
  case fpm => exact fun free part number => execSwr_write free part number (by decide) (by decide) rfl (Nat.zero_le _) (writeSr_fpm (free.1 number))
  case seed => exact execSwr_seed
  case lfmode => exact fun free part number may => execSwr_write free part number (by decide) (by decide) rfl (Nat.zero_le _) (writeSr_lfmode may)
  case conflict =>
    intro free part number change held
    have cause : swrCause s 0x02 (swrValue s x) = some 0xB8 :=
      (swrCause_allowed rfl (Nat.zero_le _)).trans (congrArg Prod.snd (writeSr_lfmode_conflict change held))
    exact execSwr_trap free part number (by decide) cause
  case frame => exact fun free part number may unset => execSwr_write free part number (by decide) (by decide) rfl may (writeSr_frame unset)
  case tvec1 => exact fun free part number may => execSwr_write free part number (by decide) (by decide) rfl may rfl
  case tvec2 => exact fun free part number may => execSwr_write free part number (by decide) (by decide) rfl may rfl
  case tvec3 => exact fun free part number may => execSwr_write free part number (by decide) (by decide) rfl may rfl
  case nothing => exact fun free part number may empty => execSwr_commits free part number may (writeTcommit_nothing empty)
  case commits => exact fun t free part number may => execSwr_commits free part number may
  case holds => exact fun t free part number may => execSwr_holds free part number may

end Sys2Proof.Machine
end

section
/-! ### Register writes as events (R68, R76, R167 to R175, R389, R414, R488) -/
namespace Sys2Proof.Machine

variable {s t : State} {v die : Nat} {w : Word} {f : State → State × Option Nat}

/-- A write that takes effect, for the course in the issue unit. -/
theorem eventWrite_here (takes : f s = (t, none)) : eventWrite s s.cur.id f = .next t := by
  rw [eventWrite, atCourse_here, takes]

/-- A write of a special register under the causes of `swr`. -/
def writeSrChecked (n v : Nat) (s : State) : State × Option Nat :=
  match swrCause s n v with
  | some k => (s, some k)
  | none => writeSr s n v

theorem eventWrite_sr {n : Nat} (writable : srWritable n = true) (may : srRing n ≤ s.cur.ring) (writes : writeSr s n v = (t, none)) :
    eventWrite s s.cur.id (writeSrChecked n v) = .next t := by
  refine eventWrite_here ?_
  simp only [writeSrChecked, swrCause_allowed writable may, writes]

theorem execSrseedWrite_here (m : LaneSet) :
    execSrseedWrite s.cur.id m w s = .next (s.upd (fun c => (LaneSet.toList m).foldl (fun c i => c.setSeed i w.toNat) c)) := eventWrite_here rfl

theorem execTcommitWrite_here {b : Byte} (commits : writeTcommit s b.toNat = (t, true)) : execTcommitWrite s.cur.id b s = .next t :=
  eventWrite_here (by rw [commits])

theorem execRegisterWrite_page (off : Nat) (d : Double) : execRegisterWrite s.cur.id (.counterPage die off) d s =
    .next (dieWrite s s.cur.ring die off (if off = 0xC08 then 8 else 4) d.toNat) := by
  rw [execRegisterWrite]
  exact eventWrite_here rfl

/-- A value of WDCTL without reserved bits is written (R414). -/
theorem setWdctl_wdctl (d : Die) (valid : w.toNat < 4) : (setWdctl d w).wdctl = w := by
  rw [setWdctl, if_neg (not_le.mpr valid)]

theorem pageWord_wdctl (s : State) (ring die : Nat) (w : Word) : pageWord s ring die 0x008 w.toNat = updDie s die (fun d => setWdctl d w) := by
  simp [pageWord]

/-- A commit that is not held takes the next number of its die, for the course that wrote it (R175, R389). -/
theorem writeTcommit_starts (tables : v % 256 ≠ 0) (starts : writeTcommit s v = (t, true)) :
    ∃ r, t.commit = some r ∧ r.course = s.cur.id ∧ r.die = s.cur.die ∧ r.tables = BitVec.ofNat 8 v ∧ t.cur.mine = r.number ∧ s.commit = none := by
  simp only [writeTcommit, if_neg tables] at starts
  split_ifs at starts with held unreleased
  · cases starts
  · cases starts
  · cases starts
    have idle : s.commit = none := by
      simp only [Bool.or_eq_true, not_or, Option.not_isSome_iff_eq_none] at held
      exact held.1
    exact ⟨_, rfl, rfl, rfl, rfl, rfl, idle⟩

/-- Settles O30: each event is its write for the course in the issue unit (`eventWrite_here`), with the causes of `swrCause`. -/
theorem registerEvents : Obligations.RegisterEvents := by
  refine ⟨fun s m v d b die off => ⟨?fpm, ?seeds, ?lfmode, ?commits, ?tvec1, ?tvec2, ?page, ?hbeat, ?wdctl⟩, fun s t v => writeTcommit_starts⟩
  case fpm => exact fun valid => eventWrite_here (writeSr_fpm valid)
  case seeds => exact execSrseedWrite_here m
  case lfmode => exact fun unheld => eventWrite_here (writeSr_lfmode (.inr unheld))
  case commits => exact fun t => execTcommitWrite_here
  case tvec1 => exact fun may => eventWrite_sr rfl may rfl
  case tvec2 => exact fun may => eventWrite_sr rfl may rfl
  case page => exact execRegisterWrite_page off d
  case hbeat => rfl
  case wdctl =>
    intro valid
    refine ⟨_, congrArg Host.Outcome.next (pageWord_wdctl s 2 die v), ?_⟩
    rw [getDie_updDie, setWdctl_wdctl _ valid]

end Sys2Proof.Machine
end

section
/-! ### Specifiers, guards and minor fields as bits (R94 to R96, R104, R138) -/
namespace Sys2Proof

variable {o : Opd} {x : Ops} {maj : Nat} {m : BitVec 4}

theorem Guard.code_ofCode : ∀ k : BitVec 4, (Guard.ofCode k).code = k := by decide

theorem Guard.ofCode_code (g : Guard) : Guard.ofCode g.code = g := by
  obtain ⟨neg, pred⟩ := g
  revert neg pred
  decide

/-- Table 3 gives each of its 512 codes a specifier of its own (R95). -/
theorem Opd.ofCode9_spec : ∀ k : BitVec 9, (Opd.ofCode9 k).hasLong = true ∧ (Opd.ofCode9 k).code9 = k := by decide +kernel

/-- Table 4 gives each of its 64 codes a specifier of its own (R96). -/
theorem Opd.ofCode6_spec : ∀ k : BitVec 6, (Opd.ofCode6 k).hasShort = true ∧ (Opd.ofCode6 k).code6 = k := by decide +kernel

theorem Opd.ofCode9_code9 (long : o.hasLong = true) : Opd.ofCode9 o.code9 = o := by
  cases o with
  | v r =>
    have code : (Opd.v r).code9.toNat = r.toNat := by simp [Opd.code9]; omega
    simp (disch := omega) [Opd.ofCode9, code, if_pos]
  | o r =>
    have code : (Opd.o r).code9.toNat = 0x100 + r.toNat := by simp [Opd.code9]; omega
    simp (disch := omega) [Opd.ofCode9, code, if_neg, if_pos]
  | l r =>
    have code : (Opd.l r).code9.toNat = 0x108 + r.toNat := by simp [Opd.code9]; omega
    simp (disch := omega) [Opd.ofCode9, code, if_neg, if_pos]
  | s r =>
    have code : (Opd.s r).code9.toNat = 0x140 + r.toNat := by simp [Opd.code9]; omega
    simp (disch := omega) [Opd.ofCode9, code, if_neg, if_pos]
  | hole k =>
    have code : (Opd.hole k).code9.toNat = 0x180 + k.toNat := by simp [Opd.code9]; omega
    simp (disch := omega) [Opd.ofCode9, code, if_neg, if_pos]
  | imm k =>
    have code : (Opd.imm k).code9.toNat = 0x1C0 + k.toNat := by simp [Opd.code9]; omega
    simp (disch := omega) [Opd.ofCode9, code, if_neg]
  | resv code =>
    simp only [Opd.hasLong, Bool.and_eq_true, decide_eq_true_eq] at long
    simp (disch := omega) [Opd.ofCode9, Opd.code9, if_neg, if_pos]
  | short k => cases long
  | zero | one | lane | cid | bid | pier | mone | two | imask | ncourse | nbond | lit => rfl

theorem Opd.ofCode6_code6 (short : o.hasShort = true) : Opd.ofCode6 o.code6 = o := by
  cases o with
  | v r =>
    simp only [Opd.hasShort, decide_eq_true_eq] at short
    have code : (Opd.v r).code6.toNat = r.toNat := by simp [Opd.code6]; omega
    simp (disch := omega) [Opd.ofCode6, code, if_pos]
  | o r =>
    have code : (Opd.o r).code6.toNat = 32 + r.toNat := by simp [Opd.code6]; omega
    simp (disch := omega) [Opd.ofCode6, code, if_neg, if_pos]
  | l r =>
    have code : (Opd.l r).code6.toNat = 40 + r.toNat := by simp [Opd.code6]; omega
    simp (disch := omega) [Opd.ofCode6, code, if_neg, if_pos]
  | s r =>
    simp only [Opd.hasShort, decide_eq_true_eq] at short
    have code : (Opd.s r).code6.toNat = 42 + r.toNat := by simp [Opd.code6]; omega
    simp (disch := omega) [Opd.ofCode6, code, if_neg, if_pos]
  | short k =>
    simp only [Opd.hasShort, decide_eq_true_eq] at short
    have code : (Opd.short k).code6.toNat = 61 + k.toNat := by simp [Opd.code6]; omega
    simp (disch := omega) [Opd.ofCode6, code, if_neg]
  | zero | one | lane => rfl
  | cid | bid | pier | mone | two | imask | ncourse | nbond | lit | imm _ | hole _ | resv _ => cases short

/-- M4 is read back from the minor field and SM that it expands to. -/
theorem m4Of_minorOfM4 (expanded : minorOfM4 maj m = (x.minor, x.sel)) : m4Of maj x = m := by
  obtain ⟨minor, sel⟩ := Prod.mk.inj expanded.symm
  simp only [m4Of, Ops.it, Ops.hi4, Ops.low4, Ops.field, minor, sel]
  generalize grpOf maj = group
  clear expanded minor sel
  revert m
  cases group <;> decide

end Sys2Proof
end

section
/-! ### Words of instructions and their fields (R91, R93, R109) -/
namespace Sys2Proof

variable {x : Ops} {w w0 w1 lit : Word} {maj n lo N : Nat} {k : BitVec n} {off : BitVec 18}

/-- A field of a word is the number that its bits hold. -/
theorem extractLsb'_ofNat_eq (holds : N % 2 ^ 32 / 2 ^ lo % 2 ^ n = k.toNat) : (BitVec.ofNat 32 N).extractLsb' lo n = k := by
  apply BitVec.eq_of_toNat_eq
  rw [BitVec.extractLsb'_toNat, BitVec.toNat_ofNat, Nat.shiftRight_eq_div_pow, holds]

theorem bitsOf_ofNat (lo n N : Nat) : bitsOf (BitVec.ofNat 32 N) lo n = N % 2 ^ 32 / 2 ^ lo % 2 ^ n := by
  rw [bitsOf, BitVec.extractLsb'_toNat, BitVec.toNat_ofNat, Nat.shiftRight_eq_div_pow]

theorem bitsOf_eq (w : Word) (lo n : Nat) : bitsOf w lo n = w.toNat / 2 ^ lo % 2 ^ n := by
  rw [bitsOf, BitVec.extractLsb'_toNat, Nat.shiftRight_eq_div_pow]

/-! #### Headers -/

theorem getLsbD_eq_decide (w : Word) (i : Nat) : w.getLsbD i = decide (w.toNat / 2 ^ i % 2 = 1) := by
  rw [← BitVec.testBit_toNat, Nat.testBit_eq_decide_div_mod_eq]

theorem headerOf_word (h : Header) : headerOf h.word = h := by
  obtain ⟨stall, yield, len, setB, setA, wait⟩ := h
  simp only [headerOf, Header.word, Header.mk.injEq]
  refine ⟨extractLsb'_ofNat_eq ?_, ?yield, extractLsb'_ofNat_eq ?_, extractLsb'_ofNat_eq ?_, extractLsb'_ofNat_eq ?_, extractLsb'_ofNat_eq ?_⟩
  case yield =>
    rw [getLsbD_eq_decide, BitVec.toNat_ofNat]
    cases yield
    · exact decide_eq_false (by rw [if_neg Bool.false_ne_true]; omega)
    · exact decide_eq_true (by rw [if_pos rfl]; omega)
  all_goals split_ifs <;> omega

theorem bitsOf_headerWord (h : Header) : bitsOf h.word 0 2 = 3 := by
  rw [Header.word, bitsOf_ofNat]
  split_ifs <;> omega

theorem word_headerOf (clause : bitsOf w 0 2 = 3) : (headerOf w).word = w := by
  apply BitVec.eq_of_toNat_eq
  simp only [bitsOf_eq] at clause
  simp only [Header.word, headerOf, BitVec.extractLsb'_toNat, Nat.shiftRight_eq_div_pow, BitVec.toNat_ofNat, getLsbD_eq_decide, decide_eq_true_eq]
  split_ifs <;> omega

/-! #### Layouts S and SJ -/

theorem majorOf_wordS (maj8 : maj < 256) : majorOf (wordS maj x) = maj := by
  rw [majorOf, wordS, bitsOf_ofNat]
  omega

theorem bitsOf_wordS (maj : Nat) (x : Ops) : bitsOf (wordS maj x) 0 2 = 0 := by
  rw [wordS, bitsOf_ofNat]
  omega

theorem majorOf_wordSJ (maj8 : maj < 256) : majorOf (wordSJ maj x off) = maj := by
  rw [majorOf, wordSJ, bitsOf_ofNat]
  omega

theorem bitsOf_wordSJ (maj : Nat) (x : Ops) (off : BitVec 18) : bitsOf (wordSJ maj x off) 0 2 = 0 := by
  rw [wordSJ, bitsOf_ofNat]
  omega

/-- The opcodes that layout SJ belongs to: `bra` and `call`. -/
abbrev JumpMajor (maj : Nat) : Prop := maj = 0x01 ∨ maj = 0x03

theorem opsShort_jump (jump : JumpMajor (majorOf w)) : opsShort w =
    { form := .sj (w.extractLsb' 10 18), guard := Guard.ofCode (w.extractLsb' 28 4), d := .zero, a := .zero, b := .zero, c := .zero, sel := 0, minor := 0 } :=
  if_pos (by simpa using jump)

theorem opsShort_plain (plain : ¬JumpMajor (majorOf w)) : opsShort w =
    { form := .s, guard := Guard.always, d := Opd.ofCode6 (w.extractLsb' 22 6), a := Opd.ofCode6 (w.extractLsb' 16 6),
      b := Opd.ofCode6 (w.extractLsb' 10 6), c := .zero, sel := (minorOfM4 (majorOf w) (w.extractLsb' 28 4)).2,
      minor := (minorOfM4 (majorOf w) (w.extractLsb' 28 4)).1 } :=
  if_neg (by simpa using plain)

/-- A payload that layout S can carry is read back from its word. -/
theorem opsShort_wordS (maj8 : maj < 256) (form : x.form = .s) (fits : x.fits maj = true) (plain : ¬JumpMajor maj) : opsShort (wordS maj x) = x := by
  have m4 : (wordS maj x).extractLsb' 28 4 = m4Of maj x := extractLsb'_ofNat_eq (by omega)
  have d : (wordS maj x).extractLsb' 22 6 = x.d.code6 := extractLsb'_ofNat_eq (by omega)
  have a : (wordS maj x).extractLsb' 16 6 = x.a.code6 := extractLsb'_ofNat_eq (by omega)
  have b : (wordS maj x).extractLsb' 10 6 = x.b.code6 := extractLsb'_ofNat_eq (by omega)
  simp only [Ops.fits, form, Bool.and_eq_true, decide_eq_true_eq] at fits
  obtain ⟨⟨⟨⟨⟨guard, shortD⟩, shortA⟩, shortB⟩, zeroC⟩, expanded⟩ := fits
  rw [opsShort_plain (by rwa [majorOf_wordS maj8]), majorOf_wordS maj8, m4, d, a, b, expanded, Opd.ofCode6_code6 shortD, Opd.ofCode6_code6 shortA,
    Opd.ofCode6_code6 shortB, ← form, ← guard, ← zeroC]

/-- A payload of layout SJ is read back from its word. -/
theorem opsShort_wordSJ (maj8 : maj < 256) (form : x.form = .sj off) (fits : x.fits maj = true) (jump : JumpMajor maj) :
    opsShort (wordSJ maj x off) = x := by
  have guard : (wordSJ maj x off).extractLsb' 28 4 = x.guard.code := extractLsb'_ofNat_eq (by omega)
  have offset : (wordSJ maj x off).extractLsb' 10 18 = off := extractLsb'_ofNat_eq (by omega)
  rw [opsShort_jump (by rwa [majorOf_wordSJ maj8]), guard, offset, Guard.ofCode_code]
  obtain ⟨form', guard', xd, xa, xb, xc, sel, minor⟩ := x
  obtain rfl : form' = .sj off := form
  simp only [Ops.fits, Bool.and_eq_true, decide_eq_true_eq] at fits
  obtain ⟨⟨⟨⟨⟨rfl, rfl⟩, rfl⟩, rfl⟩, rfl⟩, rfl⟩ := fits
  rfl

theorem m4Of_opsShort (plain : ¬JumpMajor (majorOf w)) : m4Of (majorOf w) (opsShort w) = w.extractLsb' 28 4 := by
  rw [opsShort_plain plain]
  exact m4Of_minorOfM4 rfl

theorem wordS_opsShort (short : bitsOf w 0 2 = 0) (plain : ¬JumpMajor (majorOf w)) : wordS (majorOf w) (opsShort w) = w := by
  rw [wordS, m4Of_opsShort plain, opsShort_plain plain, (Opd.ofCode6_spec _).2, (Opd.ofCode6_spec _).2, (Opd.ofCode6_spec _).2]
  apply BitVec.eq_of_toNat_eq
  simp only [bitsOf_eq] at short
  simp only [BitVec.extractLsb'_toNat, Nat.shiftRight_eq_div_pow, BitVec.toNat_ofNat, majorOf, bitsOf_eq]
  omega

theorem wordSJ_opsShort (short : bitsOf w 0 2 = 0) (jump : JumpMajor (majorOf w)) :
    wordSJ (majorOf w) (opsShort w) (w.extractLsb' 10 18) = w := by
  rw [opsShort_jump jump, wordSJ, Guard.code_ofCode]
  apply BitVec.eq_of_toNat_eq
  simp only [bitsOf_eq] at short
  simp only [BitVec.extractLsb'_toNat, Nat.shiftRight_eq_div_pow, BitVec.toNat_ofNat, majorOf, bitsOf_eq]
  omega

/-- One word reads as a payload that its layout can carry. -/
theorem fits_opsShort (w : Word) : (opsShort w).fits (majorOf w) = true := by
  by_cases jump : JumpMajor (majorOf w)
  · rw [opsShort_jump jump]
    rfl
  · have m4 := m4Of_opsShort jump
    rw [opsShort_plain jump] at m4 ⊢
    simp [Ops.fits, Opd.ofCode6_spec, m4]

theorem encodeOps_s (form : x.form = .s) : encodeOps maj x = [wordS maj x] := by rw [encodeOps, form]
theorem encodeOps_sj (form : x.form = .sj off) : encodeOps maj x = [wordSJ maj x off] := by rw [encodeOps, form]
theorem encodeOps_l (form : x.form = .l) : encodeOps maj x = [wordL0 maj x 1, wordL1 x] := by rw [encodeOps, form]
theorem encodeOps_lx (form : x.form = .lx lit) : encodeOps maj x = [wordL0 maj x 2, wordL1 x, lit] := by rw [encodeOps, form]

/-- The payload that one word reads as is encoded by that word. -/
theorem encodeOps_opsShort (short : bitsOf w 0 2 = 0) : encodeOps (majorOf w) (opsShort w) = [w] := by
  by_cases jump : JumpMajor (majorOf w)
  · rw [encodeOps_sj (by rw [opsShort_jump jump]), wordSJ_opsShort short jump]
  · rw [encodeOps_s (by rw [opsShort_plain jump]), wordS_opsShort short jump]

/-! #### Layouts L and LX -/

theorem majorOf_wordL0 (maj8 : maj < 256) (len4 : n < 4) : majorOf (wordL0 maj x n) = maj := by
  rw [majorOf, wordL0, bitsOf_ofNat]
  omega

theorem bitsOf_wordL0 (maj : Nat) (x : Ops) (len4 : n < 4) : bitsOf (wordL0 maj x n) 0 2 = n := by
  rw [wordL0, bitsOf_ofNat]
  omega

theorem opsLong_words (maj8 : maj < 256) (len4 : n < 4) (fits : (x.d.hasLong && x.a.hasLong && x.b.hasLong && x.c.hasLong) = true) :
    opsLong (wordL0 maj x n) (wordL1 x) x.form = x := by
  have guard : (wordL0 maj x n).extractLsb' 28 4 = x.guard.code := extractLsb'_ofNat_eq (by omega)
  have d : (wordL0 maj x n).extractLsb' 19 9 = x.d.code9 := extractLsb'_ofNat_eq (by omega)
  have a : (wordL0 maj x n).extractLsb' 10 9 = x.a.code9 := extractLsb'_ofNat_eq (by omega)
  have b : (wordL1 x).extractLsb' 23 9 = x.b.code9 := extractLsb'_ofNat_eq (by omega)
  have c : (wordL1 x).extractLsb' 14 9 = x.c.code9 := extractLsb'_ofNat_eq (by omega)
  have sel : (wordL1 x).extractLsb' 12 2 = x.sel := extractLsb'_ofNat_eq (by omega)
  have minor : (wordL1 x).extractLsb' 0 12 = x.minor := extractLsb'_ofNat_eq (by omega)
  simp only [Bool.and_eq_true] at fits
  obtain ⟨⟨⟨longD, longA⟩, longB⟩, longC⟩ := fits
  rw [opsLong, guard, d, a, b, c, sel, minor, Guard.ofCode_code, Opd.ofCode9_code9 longD, Opd.ofCode9_code9 longA, Opd.ofCode9_code9 longB,
    Opd.ofCode9_code9 longC]

theorem wordL0_opsLong (form : Form) : wordL0 (majorOf w0) (opsLong w0 w1 form) (bitsOf w0 0 2) = w0 := by
  rw [opsLong, wordL0, Guard.code_ofCode, (Opd.ofCode9_spec _).2, (Opd.ofCode9_spec _).2]
  apply BitVec.eq_of_toNat_eq
  simp only [BitVec.extractLsb'_toNat, Nat.shiftRight_eq_div_pow, BitVec.toNat_ofNat, majorOf, bitsOf_eq]
  omega

theorem wordL1_opsLong (form : Form) : wordL1 (opsLong w0 w1 form) = w1 := by
  rw [opsLong, wordL1, (Opd.ofCode9_spec _).2, (Opd.ofCode9_spec _).2]
  apply BitVec.eq_of_toNat_eq
  simp only [BitVec.extractLsb'_toNat, Nat.shiftRight_eq_div_pow, BitVec.toNat_ofNat]
  omega

end Sys2Proof
end

section
/-! ### Rows and their words (R91, R106 to R109) -/
namespace Sys2Proof

variable {i : Instr} {x : Ops} {w w0 w1 lit : Word} {maj n sub : Nat} {rest ws : List Word}

/-- The major opcodes that some instruction has (R106 Table 10). -/
abbrev Assigned (maj : Nat) : Prop :=
  maj ≤ 0x0E ∨ (0x10 ≤ maj ∧ maj ≤ 0x18) ∨ (0x20 ≤ maj ∧ maj ≤ 0x43) ∨ (0x50 ≤ maj ∧ maj ≤ 0x68) ∨ (0x80 ≤ maj ∧ maj ≤ 0x89) ∨
    (0x90 ≤ maj ∧ maj ≤ 0x9C) ∨ (0xB0 ≤ maj ∧ maj ≤ 0xB6) ∨ (0xC0 ≤ maj ∧ maj ≤ 0xCA) ∨ (0xD0 ≤ maj ∧ maj ≤ 0xD7)

theorem assigned_of_major? (major : i.major? = some maj) : Assigned maj := by
  cases i <;> cases major <;> decide

/-- The row of a major opcode and a payload has both; in case 128, opcode 0xD1, OPC tells the rows of `lease` apart (R376). -/
theorem ofMajor_eq_some (row : Instr.ofMajor maj x = some i) : i.major? = some maj ∧ i.ops? = some x ∧ i.opcOk = true := by
  unfold Instr.ofMajor at row
  split at row
  case h_128 =>
    split at row
    case h_4 => cases row
    all_goals
      next opc => cases row; exact ⟨rfl, rfl, decide_eq_true opc⟩
  all_goals cases row <;> exact ⟨rfl, rfl, rfl⟩

theorem ofMajor_of_major? (major : i.major? = some maj) (ops : i.ops? = some x) (opc : i.opcOk = true) : Instr.ofMajor maj x = some i := by
  cases i <;> cases major <;> cases ops
  case leaseReq | leaseRel | leaseQry => simp only [Instr.ofMajor, of_decide_eq_true opc]
  all_goals rfl

theorem ofMajor_of_not_assigned (free : ¬Assigned maj) (x : Ops) : Instr.ofMajor maj x = none :=
  Option.eq_none_iff_forall_ne_some.mpr fun _ row => free (assigned_of_major? (ofMajor_eq_some row).1)

/-! #### Which rows are well-formed -/

/-- An instruction that has an encoding: its payload fits its layout and no static cause of class 0 applies (R102, R108). -/
structure Encodable (i : Instr) (maj : Nat) (x : Ops) : Prop where
  major : i.major? = some maj
  ops : i.ops? = some x
  fits : x.fits maj = true
  clear : staticSub maj x = none
  opc : i.opcOk = true

theorem Encodable.wf (h : Encodable i maj x) : i.wf = true := by
  simp [Instr.wf, h.major, h.ops, h.fits, h.clear, h.opc]

theorem Encodable.encode_eq (h : Encodable i maj x) : encode i = encodeOps maj x := by
  simp only [encode, h.major, h.ops]

theorem Encodable.major_lt (h : Encodable i maj x) : maj < 0xE0 := by
  have := assigned_of_major? h.major
  omega

/-- A well-formed row is an instruction that has an encoding, or a clause header. -/
theorem encodable_of_wf (wf : i.wf = true) : (∃ maj x, Encodable i maj x) ∨ ∃ h, i = .clause h := by
  unfold Instr.wf at wf
  split at wf
  next maj x major ops =>
    simp only [Bool.and_eq_true, Option.isNone_iff_eq_none] at wf
    obtain ⟨⟨fits, clear⟩, opc⟩ := wf
    exact .inl ⟨maj, x, major, ops, fits, clear, opc⟩
  next =>
    split at wf
    next => exact .inr ⟨_, rfl⟩
    next => cases wf

/-! #### What a payload decodes to -/

/-- The row of a first word that is no instruction, with its sub-code (R107). -/
def illegalRow (w : Word) (x : Ops) (sub : Nat) : Instr :=
  .illegalEncoding { sub := BitVec.ofNat 4 sub, word := w, fs := if bearsFlags (majorOf w) then x.sel else 0, ctl := isTransfer (majorOf w) }

theorem build_high (high : 0xF0 ≤ majorOf w) (x : Ops) : build w x = illegalRow w x 2 := if_pos high

theorem build_reserved (reserved : 0xE0 ≤ majorOf w) (low : majorOf w < 0xF0) (x : Ops) : build w x = illegalRow w x 1 :=
  (if_neg (not_le.mpr low)).trans (if_pos reserved)

section
variable (low : majorOf w < 0xE0)
include low

theorem build_unnamed (unnamed : Instr.ofMajor (majorOf w) x = none) : build w x = illegalRow w x (if majorOf w = 0xD1 then 3 else 0) := by
  simp only [build, unnamed]
  rw [if_neg (by omega), if_neg (by omega)]
  exact (apply_ite (illegalRow w x) _ _ _).symm

theorem build_static (named : Instr.ofMajor (majorOf w) x = some i) (static : staticSub (majorOf w) x = some sub) :
    build w x = illegalRow w x sub := by
  simp only [build, named, static]
  rw [if_neg (by omega), if_neg (by omega)]
  rfl

theorem build_clear (named : Instr.ofMajor (majorOf w) x = some i) (clear : staticSub (majorOf w) x = none) : build w x = i := by
  simp only [build, named, clear]
  rw [if_neg (by omega), if_neg (by omega)]

end

theorem build_encodable (h : Encodable i (majorOf w) x) : build w x = i :=
  build_clear h.major_lt (ofMajor_of_major? h.major h.ops h.opc) h.clear

/-- What decodes to an instruction is encodable. -/
theorem encodable_of_build (row : build w x = i) (legal : ∀ b, i ≠ .illegalEncoding b) (fits : x.fits (majorOf w) = true) :
    Encodable i (majorOf w) x := by
  have notIllegal (sub : Nat) : build w x ≠ illegalRow w x sub := row ▸ legal _
  have low : majorOf w < 0xE0 := by
    by_contra! high
    exact (lt_or_ge (majorOf w) 0xF0).elim (fun below => notIllegal 1 (build_reserved high below x)) (fun above => notIllegal 2 (build_high above x))
  cases named : Instr.ofMajor (majorOf w) x with
  | none => exact absurd (build_unnamed low named) (notIllegal _)
  | some j =>
    cases clear : staticSub (majorOf w) x with
    | some sub => exact absurd (build_static low named clear) (notIllegal sub)
    | none =>
      obtain rfl : j = i := (build_clear low named clear).symm.trans row
      obtain ⟨major, ops, opc⟩ := ofMajor_eq_some named
      exact ⟨major, ops, fits, clear, opc⟩

/-! #### What words decode to (R91) -/

theorem decodeWords_short (short : bitsOf w0 0 2 = 0) (rest : List Word) : decodeWords (w0 :: rest) = .ok (build w0 (opsShort w0), 1) := by
  simp only [decodeWords, short]

theorem decodeWords_long (long : bitsOf w0 0 2 = 1) (w1 : Word) (rest : List Word) :
    decodeWords (w0 :: w1 :: rest) = .ok (build w0 (opsLong w0 w1 .l), 2) := by
  simp only [decodeWords, long]

theorem decodeWords_literal (literal : bitsOf w0 0 2 = 2) (w1 lit : Word) (rest : List Word) :
    decodeWords (w0 :: w1 :: lit :: rest) = .ok (build w0 (opsLong w0 w1 (.lx lit)), 3) := by
  simp only [decodeWords, literal]

theorem decodeWords_header (header : bitsOf w0 0 2 = 3) (rest : List Word) : decodeWords (w0 :: rest) = .ok (.clause (headerOf w0), 1) := by
  simp only [decodeWords, header]

/-- A clause is decoded from its header word, an instruction or an illegal row from one to three words by the length of the first. -/
theorem decodeWords_cases (decoded : decodeWords ws = .ok (i, n)) : ∃ w0 rest, ws = w0 :: rest ∧
    ((bitsOf w0 0 2 = 3 ∧ i = .clause (headerOf w0) ∧ n = 1) ∨
     (bitsOf w0 0 2 = 0 ∧ i = build w0 (opsShort w0) ∧ n = 1) ∨
     (bitsOf w0 0 2 = 1 ∧ ∃ w1 more, rest = w1 :: more ∧ i = build w0 (opsLong w0 w1 .l) ∧ n = 2) ∨
     (bitsOf w0 0 2 = 2 ∧ ∃ w1 lit more, rest = w1 :: lit :: more ∧ i = build w0 (opsLong w0 w1 (.lx lit)) ∧ n = 3)) := by
  unfold decodeWords at decoded
  split at decoded
  next => cases decoded
  next w0 rest =>
    refine ⟨w0, rest, rfl, ?_⟩
    split at decoded
    next short => cases decoded; exact .inr (.inl ⟨short, rfl, rfl⟩)
    next w1 more long => cases decoded; exact .inr (.inr (.inl ⟨long, w1, more, rfl, rfl, rfl⟩))
    next w1 lit more literal => cases decoded; exact .inr (.inr (.inr ⟨literal, w1, lit, more, rfl, rfl, rfl⟩))
    next header => cases decoded; exact .inl ⟨header, rfl, rfl⟩
    next => cases decoded

/-! #### Encoding and decoding -/

/-- A layout that the instruction has: only `bra` and `call` have SJ, and these have no S (R108). -/
theorem formOk_of_clear (clear : staticSub maj x = none) : formOk maj x = true := by
  by_contra bad
  simp [staticSub, Bool.eq_false_of_not_eq_true bad] at clear

theorem plain_of_short (short : (shapeOf maj x).short = true) : ¬JumpMajor maj := by
  rintro (rfl | rfl) <;> cases short

theorem jumpMajor_of_jump (jump : (shapeOf maj x).jump = true) : JumpMajor maj := by
  unfold shapeOf at jump
  dsimp only at jump
  split at jump
  case h_2 => exact .inl rfl
  case h_4 => exact .inr rfl
  case h_128 => split at jump <;> cases jump
  all_goals exact absurd jump Bool.false_ne_true

/-- The words of an encodable row decode to it, whatever follows them. -/
theorem decodeWords_encodeOps (h : Encodable i maj x) (rest : List Word) :
    decodeWords (encodeOps maj x ++ rest) = .ok (i, (encodeOps maj x).length) := by
  have small := h.major_lt
  have maj8 : maj < 256 := by omega
  have form := formOk_of_clear h.clear
  have fits := h.fits
  cases layout : x.form with
  | s =>
    rw [formOk, layout] at form
    have major := majorOf_wordS (x := x) maj8
    rw [encodeOps_s layout, List.singleton_append, decodeWords_short (bitsOf_wordS maj x), opsShort_wordS maj8 layout fits (plain_of_short form),
      build_encodable (by rwa [major])]
    rfl
  | sj off =>
    rw [formOk, layout] at form
    rw [encodeOps_sj layout, List.singleton_append, decodeWords_short (bitsOf_wordSJ maj x off),
      opsShort_wordSJ maj8 layout fits (jumpMajor_of_jump form), build_encodable (by rwa [majorOf_wordSJ maj8])]
    rfl
  | l =>
    rw [Ops.fits, layout] at fits
    rw [encodeOps_l layout, List.cons_append, List.singleton_append, decodeWords_long (bitsOf_wordL0 maj x (by decide)), ← layout,
      opsLong_words maj8 (by decide) fits, build_encodable (by rwa [majorOf_wordL0 maj8 (by decide)])]
    rfl
  | lx lit =>
    rw [Ops.fits, layout] at fits
    rw [encodeOps_lx layout, List.cons_append, List.cons_append, List.singleton_append, decodeWords_literal (bitsOf_wordL0 maj x (by decide)), ← layout,
      opsLong_words maj8 (by decide) fits, build_encodable (by rwa [majorOf_wordL0 maj8 (by decide)])]
    rfl

theorem decodeWords_encode_of_wf (wf : i.wf = true) (rest : List Word) : decodeWords (encode i ++ rest) = .ok (i, (encode i).length) := by
  rcases encodable_of_wf wf with ⟨maj, x, h⟩ | ⟨h, rfl⟩
  · rw [h.encode_eq]
    exact decodeWords_encodeOps h rest
  · exact (decodeWords_header (bitsOf_headerWord h) rest).trans (by rw [headerOf_word]; rfl)

theorem fits_opsLong (w0 w1 : Word) (maj : Nat) : (opsLong w0 w1 .l).fits maj = true ∧ ∀ lit, (opsLong w0 w1 (.lx lit)).fits maj = true := by
  simp [opsLong, Ops.fits, Opd.ofCode9_spec]

/-- Words that decode to an instruction or a header are the encoding of that well-formed row. -/
theorem encode_of_decodeWords (decoded : decodeWords ws = .ok (i, n)) (legal : ∀ b, i ≠ .illegalEncoding b) :
    i.wf = true ∧ encode i = ws.take n := by
  obtain ⟨w0, rest, rfl, ⟨header, rfl, rfl⟩ | ⟨short, row, rfl⟩ | ⟨long, w1, more, rfl, row, rfl⟩ | ⟨literal, w1, lit, more, rfl, row, rfl⟩⟩ :=
    decodeWords_cases decoded
  · exact ⟨rfl, congrArg (fun w => [w]) (word_headerOf header)⟩
  · have h := encodable_of_build row.symm legal (fits_opsShort w0)
    exact ⟨h.wf, h.encode_eq.trans (encodeOps_opsShort short)⟩
  · have h := encodable_of_build row.symm legal (fits_opsLong w0 w1 _).1
    refine ⟨h.wf, h.encode_eq.trans ((encodeOps_l rfl).trans ?_)⟩
    rw [wordL1_opsLong, ← long, wordL0_opsLong]
    rfl
  · have h := encodable_of_build row.symm legal ((fits_opsLong w0 w1 _).2 lit)
    refine ⟨h.wf, h.encode_eq.trans ((encodeOps_lx rfl).trans ?_)⟩
    rw [wordL1_opsLong, ← literal, wordL0_opsLong]
    rfl

/-- Settles O1: a well-formed row is a header or encodable, and each layout's fields are read back as they were written. -/
theorem encodingsAgree : Obligations.EncodingsAgree :=
  ⟨fun _ rest wf => decodeWords_encode_of_wf wf rest, fun _ _ _ => encode_of_decodeWords⟩

end Sys2Proof
end

section
/-! ### Words that are no instruction (R107) -/
namespace Sys2Proof.Machine

variable {s : State} {w a b : Word} {rest : List Word} {k n : Nat} {transfer flags fsA fsB : Bool}

/-- The sub-codes of a clause are 6, 7 and 10 (R108). -/
theorem le_of_clauseSub (cause : clauseSub s transfer flags fsA fsB = some n) : 6 ≤ n := by
  unfold clauseSub at cause
  dsimp only at cause
  split_ifs at cause <;> cases cause <;> decide

/-- A word that is no instruction takes its own sub-code where no lower one of its clause applies (R102). -/
theorem execIllegalEncoding_own {bad : BadWord}
    (least : ∀ n, clauseSub s bad.ctl (bad.fs ≠ 0) (bad.fs.getLsbD 0) (bad.fs.getLsbD 1) = some n → bad.sub.toNat ≤ n) :
    execIllegalEncoding bad s = trapOut s bad.sub.toNat := by
  rw [execIllegalEncoding, minSub_lowest (List.forall_mem_singleton.mpr least)]
  rfl

/-- Words that begin no clause decode to what some payload of their first word builds. -/
theorem exists_decodeWords_build (word : bitsOf w 0 2 ≠ 3) (a b : Word) (rest : List Word) :
    ∃ x n, decodeWords (w :: a :: b :: rest) = .ok (build w x, n) := by
  have bits : bitsOf w 0 2 < 4 := BitVec.isLt _
  obtain short | long | literal : bitsOf w 0 2 = 0 ∨ bitsOf w 0 2 = 1 ∨ bitsOf w 0 2 = 2 := by omega
  · exact ⟨_, _, decodeWords_short short _⟩
  · exact ⟨_, _, decodeWords_long long a _⟩
  · exact ⟨_, _, decodeWords_literal literal a b rest⟩

/-- Where every payload of a first word builds the illegal row of a low sub-code, its words take that sub-code at every length. -/
theorem illegalWords_trap (word : bitsOf w 0 2 ≠ 3) (low : k ≤ 6) (builds : ∀ x, build w x = illegalRow w x k) (s : State) (a b : Word)
    (rest : List Word) : ∃ bad n, decodeWords (w :: a :: b :: rest) = .ok (.illegalEncoding bad, n) ∧
      exec (.illegalEncoding bad) s = .next (raise s k s.iss.mask s.iss.pc 0 0) := by
  obtain ⟨x, n, decoded⟩ := exists_decodeWords_build word a b rest
  rw [builds x] at decoded
  have sub : (BitVec.ofNat 4 k).toNat = k := by rw [BitVec.toNat_ofNat]; omega
  refine ⟨_, n, decoded, (execIllegalEncoding_own fun n cause => ?_).trans (congrArg (trapOut s) sub)⟩
  exact sub.le.trans (low.trans (le_of_clauseSub cause))

/-- Settles O3: no payload of an unassigned opcode names a row, and sub-codes 0, 1 and 2 lie below those of any clause. -/
theorem undefinedOpcodes : Obligations.UndefinedOpcodes := by
  intro w a b rest s word
  refine ⟨fun unassigned => ?free, fun reserved low => ?reserved, fun high => ?high⟩
  case free =>
    have below : majorOf w < 0xE0 := by omega
    have noLease : majorOf w ≠ 0xD1 := by omega
    refine illegalWords_trap word (by decide) (fun x => ?_) s a b rest
    rw [build_unnamed below (ofMajor_of_not_assigned (by omega) x), if_neg noLease]
  case reserved => exact illegalWords_trap word (by decide) (build_reserved reserved (by omega)) s a b rest
  case high => exact illegalWords_trap word (by decide) (build_high high) s a b rest

/-- Settles O2: the tests read each word but that of `lbal`, which is guarded by p6. -/
theorem wordsDecode : Obligations.WordsDecode :=
  ⟨Tests.test_decode_nop, Tests.test_decode_add, Tests.test_decode_ffma, by decide, Tests.test_decode_srd, Tests.test_decode_ld, Tests.test_decode_st,
    Tests.test_decode_mxm, Tests.test_decode_cpy, Tests.test_decode_clause⟩

end Sys2Proof.Machine
end

section
/-! ### Transfers and return stacks (R113, R158, R159) -/
namespace Sys2Proof.Machine

variable {c : Course} {m : LaneSet} {i k a : Nat} {w : Nat} {cs : Cells w}

/-- Writing a value in each lane of a set leaves the other lanes as they were. -/
theorem Cells.get_foldl_lanes (m : LaneSet) (f : Nat → BitVec w) (wf : Cells.wf cs = true) (lane : i < 32) :
    Cells.get ((LaneSet.toList m).foldl (fun y i => Cells.set y i (f i)) cs) i = if m.getLsbD i then f i else Cells.get cs i := by
  rw [Cells.get_foldl _ f cs i wf]
  simp only [toList_mem, lane, true_and]

/-! #### Transfers (R158) -/

theorem Course.pcOf_jump (m : LaneSet) (f : Nat → Nat) (wf : Cells.wf c.pc = true) (lane : i < 32) :
    (c.jump m f).pcOf i = if m.getLsbD i then f i % 2 ^ 53 else c.pcOf i := by
  rw [Course.pcOf, Course.jump, Course.leaveBody, Course.setPcs, Cells.get_foldl_lanes m _ wf lane]
  split_ifs
  · exact BitVec.toNat_ofNat _ _
  · rfl

theorem Course.chead_jump (m : LaneSet) (f : Nat → Nat) (wf : Cells.wf c.chead = true) (lane : i < 32) :
    Cells.get (c.jump m f).chead i = if m.getLsbD i then 0 else Cells.get c.chead i :=
  Cells.get_foldl_lanes m (fun _ => 0) wf lane

theorem Course.cdist_jump (m : LaneSet) (f : Nat → Nat) (wf : Cells.wf c.cdist = true) (lane : i < 32) :
    Cells.get (c.jump m f).cdist i = if m.getLsbD i then 0 else Cells.get c.cdist i :=
  Cells.get_foldl_lanes m (fun _ => 0) wf lane

/-! #### Return stacks (R159) -/

section
variable (wf : Cells.wf c.depth = true) (room : (Cells.get c.depth i).toNat < 8)
include wf room

theorem Course.depth_pushRet (a : Nat) : (Cells.get (c.pushRet i a).depth i).toNat = (Cells.get c.depth i).toNat + 1 := by
  rw [Course.pushRet, Cells.get_set _ _ _ _ wf, if_pos rfl, BitVec.toNat_ofNat]
  omega

/-- The pop after a push gives the lane its old depth back, and every lane its own. -/
theorem Course.depth_popRet_pushRet (a : Nat) : ((c.pushRet i a).popRet i).depth = c.depth := by
  have pushed : Cells.wf (c.pushRet i a).depth = true := Cells.wf_set _ _ _ wf
  refine Cells.ext _ _ (Cells.wf_set _ _ _ pushed) wf fun k => ?_
  rw [Course.popRet, Cells.get_set _ _ _ _ pushed, Course.depth_pushRet wf room, Nat.add_sub_cancel]
  split_ifs with own
  · rw [own, BitVec.ofNat_toNat, BitVec.setWidth_eq]
  · rw [Course.pushRet, Cells.get_set _ _ _ _ wf, if_neg own]

theorem Course.rstack_popRet_pushRet (stack : Cells.wf c.rstack = true) (a : Nat) (other : k ≠ 8 * i + (Cells.get c.depth i).toNat) :
    Cells.get ((c.pushRet i a).popRet i).rstack k = Cells.get c.rstack k := by
  have pushed : Cells.wf (c.pushRet i a).rstack = true := Cells.wf_set _ _ _ stack
  rw [Course.popRet, Course.depth_pushRet wf room, Cells.get_set _ _ _ _ pushed, ← Nat.add_assoc, Nat.add_sub_cancel, if_neg other, Course.pushRet,
    Cells.get_set _ _ _ _ stack, if_neg other]

end

theorem Course.rstack_pushRet (stack : Cells.wf c.rstack = true) (address : a < 2 ^ 53) :
    (Cells.get (c.pushRet i a).rstack (8 * i + (Cells.get c.depth i).toNat)).toNat = a := by
  rw [Course.pushRet, Cells.get_set _ _ _ _ stack, if_pos rfl, BitVec.toNat_ofNat, Nat.mod_eq_of_lt address]

/-- Settles O19: a jump writes the PC and the clause position of its lanes; a push and a pop act on one entry and one depth. -/
theorem transfersAndReturns : Obligations.TransfersAndReturns := by
  refine ⟨fun c m f i pcs heads dists lane => ?jump, fun c i a depths stack lane address room => ?returns⟩
  case jump =>
    rw [Course.pcOf_jump m f pcs lane, Course.chead_jump m f heads lane, Course.cdist_jump m f dists lane]
    exact ⟨fun goes => by simp only [goes, if_true, and_self], fun stays => by simp only [stays, Bool.false_eq_true, if_false, and_self]⟩
  case returns =>
    exact ⟨Course.depth_pushRet depths room a, Course.rstack_pushRet stack address, Course.depth_popRet_pushRet depths room a,
      fun k other => Course.rstack_popRet_pushRet depths room stack a other⟩

end Sys2Proof.Machine
end

section
/-! ### What fixed-latency results change (R97, R99, R130, R136, R158) -/
namespace Sys2Proof.Machine

open Sys2Proof.Claims

variable {c d : Course} {s : State} {x : Ops} {o : Opd} {m : LaneSet} {i j k n v : Nat} {push : Bool} {ls : List Nat} {f : Nat → Nat}

/-! #### Lists of lanes -/

theorem toList_nodup (m : LaneSet) : (LaneSet.toList m).Nodup := List.Nodup.filter _ List.nodup_range

theorem lanes_nodup (s : State) (x : Ops) : (lanes s x).Nodup := toList_nodup _

theorem lt_of_mem_lanes (h : i ∈ lanes s x) : i < 32 := ((toList_mem _ _).mp h).1

theorem getLsbD_only (i : Nat) (lane : j < 32) : (LaneSet.only i).getLsbD j = decide (i % 32 = j) := by
  rw [LaneSet.only, BitVec.getLsbD_ofNat, Nat.testBit_two_pow, decide_eq_true lane, Bool.true_and]

/-! #### Advancing -/

/-- The course without the places of its lanes: their PCs and clause positions. -/
def Course.unplaced (c : Course) : Course := { c with pc := [], chead := [], cdist := [] }

theorem Course.unplaced_advance1 (c : Course) (i n : Nat) : (c.advance1 i n).unplaced = c.unplaced := by
  unfold Course.advance1
  dsimp only
  split_ifs <;> rfl

/-- Advancing changes nothing but the places of lanes. -/
theorem Course.unplaced_advance (c : Course) (m : LaneSet) (n : Nat) : (c.advance m n).unplaced = c.unplaced := by
  rw [Course.advance]
  induction m.toList generalizing c with
  | nil => rfl
  | cons i ls ih => rw [List.foldl_cons, ih, Course.unplaced_advance1]

theorem Course.pc_advance1 (c : Course) (i n : Nat) : (c.advance1 i n).pc = Cells.set c.pc i (BitVec.ofNat 53 (c.pcOf i + n)) := by
  unfold Course.advance1
  dsimp only
  split_ifs <;> rfl

theorem Course.pcOf_advance1 (wf : Cells.wf c.pc = true) (i n j : Nat) :
    (c.advance1 i n).pcOf j = if j = i then (c.pcOf i + n) % 2 ^ 53 else c.pcOf j := by
  rw [Course.pcOf, Course.pc_advance1, Cells.get_set _ _ _ _ wf]
  split_ifs
  · exact BitVec.toNat_ofNat _ _
  · rfl

theorem Course.pcOf_foldl_advance1 (wf : Cells.wf c.pc = true) (distinct : ls.Nodup) (n i : Nat) :
    (ls.foldl (fun c i => c.advance1 i n) c).pcOf i = if i ∈ ls then (c.pcOf i + n) % 2 ^ 53 else c.pcOf i := by
  induction ls generalizing c with
  | nil => rfl
  | cons j ls ih =>
    obtain ⟨fresh, distinct⟩ := List.nodup_cons.mp distinct
    have kept : Cells.wf (c.advance1 j n).pc = true := by rw [Course.pc_advance1]; exact Cells.wf_set _ _ _ wf
    rw [List.foldl_cons, ih kept distinct, Course.pcOf_advance1 wf]
    by_cases own : i = j
    · subst own
      simp [fresh]
    · simp [own]

/-- The lanes of the set, and no other, advance by the length (R158). -/
theorem Course.pcOf_advance (wf : Cells.wf c.pc = true) (m : LaneSet) (n : Nat) (lane : i < 32) :
    (c.advance m n).pcOf i = if m.getLsbD i then (c.pcOf i + n) % 2 ^ 53 else c.pcOf i := by
  rw [Course.advance, Course.pcOf_foldl_advance1 wf (toList_nodup m)]
  simp only [toList_mem, lane, true_and]

/-! #### Writing lanes -/

/-- Whatever of the course neither a register write nor a push changes, results leave as it was. -/
theorem Course.writeLanes_keeps {α : Type} (g : Course → α) (reg : ∀ c i v, g (c.setReg o i n v) = g c)
    (pushed : push = true → ∀ c i v, g (c.push i v) = g c) (c : Course) (vals : List (Nat × Nat)) : g (c.writeLanes o n push vals) = g c := by
  have folded : g (vals.foldl (fun c p => if push then (c.setReg o p.1 n p.2).push p.1 p.2 else c.setReg o p.1 n p.2) c) = g c := by
    induction vals generalizing c with
    | nil => rfl
    | cons p vals ih =>
      rw [List.foldl_cons, ih]
      split_ifs with pushes
      · rw [pushed pushes, reg]
      · exact reg _ _ _
  cases o
  case v | o => exact folded
  case s =>
    cases vals with
    | nil => rfl
    | cons p vals => exact reg c p.1 p.2
  all_goals rfl

/-- The course without its data registers. -/
def Course.dataless (c : Course) : Course := { c with v := [], o := [], l := [], s := [] }

theorem Course.dataless_setReg (c : Course) (o : Opd) (i n v : Nat) : (c.setReg o i n v).dataless = c.dataless := by
  cases o <;> rfl

theorem Course.dataless_writeLanes (c : Course) (o : Opd) (n : Nat) (push : Bool) (vals : List (Nat × Nat)) :
    (c.writeLanes o n push vals).dataless = c.dataless :=
  Course.writeLanes_keeps Course.dataless (fun c i v => c.dataless_setReg o i n v) (fun _ _ _ _ => rfl) c vals

theorem Course.v_setReg (other : ∀ r, o ≠ .v r) (c : Course) (i v : Nat) : (c.setReg o i n v).v = c.v := by
  cases o
  case v r => exact absurd rfl (other r)
  all_goals rfl

theorem Course.o_setReg (other : ∀ r, o ≠ .o r) (c : Course) (i v : Nat) : (c.setReg o i n v).o = c.o := by
  cases o
  case o r => exact absurd rfl (other r)
  all_goals rfl

theorem Course.s_setReg (other : ∀ r, o ≠ .s r) (c : Course) (i v : Nat) : (c.setReg o i n v).s = c.s := by
  cases o
  case s r => exact absurd rfl (other r)
  all_goals rfl

theorem Course.l_setReg (c : Course) (o : Opd) (i n v : Nat) : (c.setReg o i n v).l = c.l := by
  cases o <;> rfl

/-! #### A vector destination (R97, R99) -/

/-- The results of some lanes, each pushed, in a vector register. -/
def Course.vecPushed (c : Course) (r : BitVec 8) (ls : List Nat) (f : Nat → Nat) : Course :=
  ls.foldl (fun c i => (c.setReg (.v r) i 1 (f i)).push i (f i)) c

theorem Course.writeLanes_vec (c : Course) (r : BitVec 8) (ls : List Nat) (f : Nat → Nat) :
    c.writeLanes (.v r) 1 true (ls.map (fun i => (i, f i))) = c.vecPushed r ls f :=
  List.foldl_map

theorem Course.v_vecPushed (c : Course) (r : BitVec 8) (ls : List Nat) (f : Nat → Nat) : (c.vecPushed r ls f).v =
    (ls.map (fun i => 32 * r.toNat + i)).foldl (fun y k => Cells.set y k (BitVec.ofNat 32 (f (k - 32 * r.toNat)))) c.v := by
  induction ls generalizing c with
  | nil => rfl
  | cons i ls ih =>
    have first : ((c.setReg (.v r) i 1 (f i)).push i (f i)).v = Cells.set c.v (32 * r.toNat + i) (BitVec.ofNat 32 (f i)) := by
      simp [Course.setReg, Course.setVec, Course.push]
    rw [Course.vecPushed, List.foldl_cons, ← Course.vecPushed, ih, first, List.map_cons, List.foldl_cons, Nat.add_sub_cancel_left]

theorem Course.get_v_vecPushed (wf : Cells.wf c.v = true) (r : BitVec 8) (ls : List Nat) (f : Nat → Nat) :
    (∀ i ∈ ls, Cells.get (c.vecPushed r ls f).v (32 * r.toNat + i) = BitVec.ofNat 32 (f i)) ∧
    (∀ k, (∀ i ∈ ls, k ≠ 32 * r.toNat + i) → Cells.get (c.vecPushed r ls f).v k = Cells.get c.v k) := by
  simp only [Course.v_vecPushed, Cells.get_foldl _ (fun k => BitVec.ofNat 32 (f (k - 32 * r.toNat))) _ _ wf]
  refine ⟨fun i listed => ?_, fun k other => if_neg fun listed => ?_⟩
  · rw [if_pos (List.mem_map_of_mem listed), Nat.add_sub_cancel_left]
  · obtain ⟨i, member, rfl⟩ := List.mem_map.mp listed
    exact other i member rfl

/-- A push writes the two last-result entries of its lane: l1 := l0, then l0 := result (R99). -/
theorem Course.get_l_push (wf : Cells.wf c.l = true) (i v k : Nat) :
    Cells.get (c.push i v).l k = if k = i then BitVec.ofNat 64 v else if k = 32 + i then Cells.get c.l i else Cells.get c.l k := by
  rw [Course.push, Cells.get_set _ _ _ _ (Cells.wf_set _ _ _ wf), Cells.get_set _ _ _ _ wf]

theorem Course.get_l_vecPushed (wf : Cells.wf c.l = true) (distinct : ls.Nodup) (lanes : ∀ i ∈ ls, i < 32) (r : BitVec 8) (f : Nat → Nat)
    (lane : j < 32) : Cells.get (c.vecPushed r ls f).l j = (if j ∈ ls then BitVec.ofNat 64 (f j) else Cells.get c.l j) ∧
      Cells.get (c.vecPushed r ls f).l (32 + j) = if j ∈ ls then Cells.get c.l j else Cells.get c.l (32 + j) := by
  induction ls generalizing c with
  | nil => exact ⟨rfl, rfl⟩
  | cons i ls ih =>
    obtain ⟨fresh, distinct⟩ := List.nodup_cons.mp distinct
    obtain ⟨lane1, lanes⟩ := List.forall_mem_cons.mp lanes
    have kept : Cells.wf ((c.setReg (.v r) i 1 (f i)).push i (f i)).l = true := Cells.wf_set _ _ _ (Cells.wf_set _ _ _ wf)
    have first (k : Nat) : Cells.get ((c.setReg (.v r) i 1 (f i)).push i (f i)).l k =
        if k = i then BitVec.ofNat 64 (f i) else if k = 32 + i then Cells.get c.l i else Cells.get c.l k :=
      Course.get_l_push wf i (f i) k
    rw [Course.vecPushed, List.foldl_cons, ← Course.vecPushed, (ih kept distinct lanes).1, (ih kept distinct lanes).2, first, first]
    by_cases own : j = i
    · subst own
      simp [fresh]
    · have below : j ≠ 32 + i := by omega
      have above : 32 + j ≠ i := by omega
      simp [own, below, above]

/-! #### A predicate destination (R130) -/

/-- The truth values of some lanes in a predicate. -/
def Course.predSet (c : Course) (r : BitVec 8) (ls : List Nat) (g : Nat → Bool) : Course := ls.foldl (fun c i => c.setPred r.toNat i (g i)) c

theorem Course.writePred_vec (c : Course) (r : BitVec 8) (ls : List Nat) (g : Nat → Bool) :
    c.writePred (.v r) (ls.map (fun i => (i, g i))) = c.predSet r ls g :=
  List.foldl_map

/-- The course without its predicates. -/
def Course.predless (c : Course) : Course := { c with p := [] }

theorem Course.predless_writePred (c : Course) (o : Opd) (vals : List (Nat × Bool)) : (c.writePred o vals).predless = c.predless := by
  cases o
  case v r =>
    rw [Course.writePred]
    induction vals generalizing c with
    | nil => rfl
    | cons p vals ih => exact ih (c.setPred r.toNat p.1 p.2)
  all_goals rfl

theorem Course.get_p_setPred (wf : Cells.wf c.p = true) (r i : Nat) (b : Bool) (k : Nat) : Cells.get (c.setPred r i b).p k =
    if k = r then (if b then Cells.get c.p r ||| LaneSet.only i else Cells.get c.p r &&& ~~~ LaneSet.only i) else Cells.get c.p k :=
  Cells.get_set _ _ _ _ wf

theorem Course.bit_setPred (wf : Cells.wf c.p = true) (r : Nat) (set : i < 32) (b : Bool) (lane : j < 32) :
    (Cells.get (c.setPred r i b).p r).getLsbD j = if j = i then b else (Cells.get c.p r).getLsbD j := by
  rw [Course.get_p_setPred wf, if_pos rfl]
  have only : (LaneSet.only i).getLsbD j = decide (j = i) := by
    rw [getLsbD_only i lane, Nat.mod_eq_of_lt set]
    exact decide_eq_decide.mpr eq_comm
  cases b
  · rw [if_neg Bool.false_ne_true, BitVec.getLsbD_and, BitVec.getLsbD_not, only, decide_eq_true lane]
    split_ifs with own <;> simp [own]
  · rw [if_pos rfl, BitVec.getLsbD_or, only]
    split_ifs with own <;> simp [own]

theorem Course.get_p_predSet (wf : Cells.wf c.p = true) (r : BitVec 8) (distinct : ls.Nodup) (lanes : ∀ i ∈ ls, i < 32) (g : Nat → Bool) :
    (∀ j < 32, (Cells.get (c.predSet r ls g).p r.toNat).getLsbD j = if j ∈ ls then g j else (Cells.get c.p r.toNat).getLsbD j) ∧
    (∀ k, k ≠ r.toNat → Cells.get (c.predSet r ls g).p k = Cells.get c.p k) := by
  induction ls generalizing c with
  | nil => exact ⟨fun _ _ => rfl, fun _ _ => rfl⟩
  | cons i ls ih =>
    obtain ⟨fresh, distinct⟩ := List.nodup_cons.mp distinct
    obtain ⟨lane1, lanes⟩ := List.forall_mem_cons.mp lanes
    have kept : Cells.wf (c.setPred r.toNat i (g i)).p = true := Cells.wf_set _ _ _ wf
    obtain ⟨bits, others⟩ := ih kept distinct lanes
    refine ⟨fun j lane => (bits j lane).trans ?_, fun k other => (others k other).trans ?_⟩
    · rw [Course.bit_setPred wf _ lane1 _ lane]
      by_cases own : j = i
      · subst own
        simp [fresh]
      · simp [own]
    · rw [Course.get_p_setPred wf, if_neg other]

/-! #### The whole state -/

/-- The course after its results and the advance of the subset. -/
def Course.wrote (c : Course) (x : Ops) (n : Nat) (m : LaneSet) (vals : List (Nat × Nat)) : Course :=
  (c.writeLanes x.d n (opdPushes x.d) vals).advance m x.len

/-- The course after its truth values and the advance of the subset. -/
def Course.wrotePred (c : Course) (x : Ops) (m : LaneSet) (vals : List (Nat × Bool)) : Course := (c.writePred x.d vals).advance m x.len

theorem Course.dataless_wrote (c : Course) (x : Ops) (n : Nat) (m : LaneSet) (vals : List (Nat × Nat)) :
    (c.wrote x n m vals).unplaced.dataless = c.unplaced.dataless :=
  (congrArg Course.dataless (Course.unplaced_advance _ m x.len)).trans
    (congrArg Course.unplaced (c.dataless_writeLanes x.d n (opdPushes x.d) vals))

theorem Course.predless_wrotePred (c : Course) (x : Ops) (m : LaneSet) (vals : List (Nat × Bool)) :
    (c.wrotePred x m vals).unplaced.predless = c.unplaced.predless :=
  (congrArg Course.predless (Course.unplaced_advance _ m x.len)).trans (congrArg Course.unplaced (c.predless_writePred x.d vals))

/-- Two courses that agree but for the places of lanes and the data registers. -/
theorem Course.eq_of_dataless (same : d.unplaced.dataless = c.unplaced.dataless) :
    d = { c with v := d.v, o := d.o, l := d.l, s := d.s, pc := d.pc, chead := d.chead, cdist := d.cdist } :=
  congrArg (fun e : Course => { e with v := d.v, o := d.o, l := d.l, s := d.s, pc := d.pc, chead := d.chead, cdist := d.cdist }) same

theorem Course.eq_of_predless (same : d.unplaced.predless = c.unplaced.predless) :
    d = { c with p := d.p, pc := d.pc, chead := d.chead, cdist := d.cdist } :=
  congrArg (fun e : Course => { e with p := d.p, pc := d.pc, chead := d.chead, cdist := d.cdist }) same

section
variable (eligible : s.cur.eligible ≠ 0)
include eligible

theorem wrote_eq (x : Ops) (n : Nat) (f : Nat → Nat) :
    wrote s x n f = { s with cur := s.cur.wrote x n s.iss.mask ((lanes s x).map (fun i => (i, f i))) } := by
  have same := congrArg Course.eligible (s.cur.dataless_wrote x n s.iss.mask ((lanes s x).map (fun i => (i, f i))))
  exact noEligible_of _ fun blocked => eligible (same.symm.trans blocked)

theorem wrotePred_eq (x : Ops) (g : Nat → Bool) :
    wrotePred s x g = { s with cur := s.cur.wrotePred x s.iss.mask ((lanes s x).map (fun i => (i, g i))) } := by
  have same := congrArg Course.eligible (s.cur.predless_wrotePred x s.iss.mask ((lanes s x).map (fun i => (i, g i))))
  exact noEligible_of _ fun blocked => eligible (same.symm.trans blocked)

end

/-- What of the course the advance of the subset leaves, `wrote` leaves as the results do. -/
theorem Course.keeps_wrote {α : Type} (g : Course → α) (unplaced : ∀ c, g c.unplaced = g c) (c : Course) (x : Ops) (n : Nat) (m : LaneSet)
    (vals : List (Nat × Nat)) : g (c.wrote x n m vals) = g (c.writeLanes x.d n (opdPushes x.d) vals) := by
  rw [← unplaced, Course.wrote, Course.unplaced_advance, unplaced]

/-- Settles O9: `wrote` and `wrotePred` are results and an advance, of which each leaves what the other writes. -/
theorem resultFrame : Obligations.ResultFrame := by
  intro x s n f g eligible
  dsimp only
  rw [wrote_eq eligible, wrotePred_eq eligible]
  refine ⟨rfl, rfl, Course.eq_of_dataless (Course.dataless_wrote ..), Course.eq_of_predless (Course.predless_wrotePred ..), fun _ => ⟨rfl, rfl⟩,
    fun other => ?v, fun other => ?o, fun other => ?s, fun silent => ?l, fun wf i lane => ?pc, fun r dest one wf => ?vec, fun r dest one wf i member => ?last,
    fun r dest wf => ?pred⟩
  case v =>
    exact (Course.keeps_wrote Course.v (fun _ => rfl) ..).trans (Course.writeLanes_keeps Course.v (Course.v_setReg other) (fun _ _ _ _ => rfl) _ _)
  case o =>
    exact (Course.keeps_wrote Course.o (fun _ => rfl) ..).trans (Course.writeLanes_keeps Course.o (Course.o_setReg other) (fun _ _ _ _ => rfl) _ _)
  case s =>
    exact (Course.keeps_wrote Course.s (fun _ => rfl) ..).trans (Course.writeLanes_keeps Course.s (Course.s_setReg other) (fun _ _ _ _ => rfl) _ _)
  case l =>
    refine (Course.keeps_wrote Course.l (fun _ => rfl) ..).trans (Course.writeLanes_keeps Course.l (fun c i => c.l_setReg x.d i n) (fun pushes => ?_) _ _)
    exact absurd (silent.symm.trans pushes) Bool.false_ne_true
  case pc =>
    have pc : (s.cur.writeLanes x.d n (opdPushes x.d) ((lanes s x).map (fun i => (i, f i)))).pc = s.cur.pc :=
      (congrArg Course.pc (Course.dataless_writeLanes _ x.d n _ _) :)
    refine (Course.pcOf_advance (by rwa [pc]) s.iss.mask x.len lane).trans ?_
    simp only [Course.pcOf, pc]
  case vec =>
    subst one
    rw [Course.keeps_wrote Course.v (fun _ => rfl), dest, opdPushes, Course.writeLanes_vec]
    exact Course.get_v_vecPushed wf r _ f
  case last =>
    subst one
    rw [Course.keeps_wrote Course.l (fun _ => rfl), dest, opdPushes, Course.writeLanes_vec]
    have pushed := Course.get_l_vecPushed wf (lanes_nodup s x) (fun _ => lt_of_mem_lanes) r f (lt_of_mem_lanes member)
    rwa [if_pos member, if_pos member] at pushed
  case pred =>
    have written : (s.cur.wrotePred x s.iss.mask ((lanes s x).map (fun i => (i, g i)))).p = (s.cur.predSet r (lanes s x) g).p := by
      rw [← Course.writePred_vec, ← dest]
      exact (congrArg Course.p (Course.unplaced_advance _ s.iss.mask x.len) :)
    simp only [written]
    obtain ⟨bits, others⟩ := Course.get_p_predSet wf r (lanes_nodup s x) (fun _ => lt_of_mem_lanes) g
    exact ⟨fun i member => (bits i (lt_of_mem_lanes member)).trans (if_pos member), others⟩

end Sys2Proof.Machine
end

section
/-! ### Ends, waits and clause headers (R109 to R113, R182, R185 to R187) -/
namespace Sys2Proof.Machine

open Sys2Proof.Claims

variable {s : State} {x : Ops} {c : Course} {h : Header} {i n : Nat}

/-! #### `exit`, `yield`, `sleep` and `brk` -/

/-- The participating lanes have left LIVE, their bodies and their masks, and the others have advanced (R182). -/
def leaving (s : State) (x : Ops) : State := s.upd (fun c =>
  let c := (c.advance (s.iss.mask &&& ~~~ partLanes s x) x.len).leaveBody (partLanes s x)
  ({ c with live := c.live &&& ~~~ partLanes s x }).releaseMasks 12)

theorem execExit_free (free : Free s 0x0B x none [] []) : execExit x s =
    if partLanes s x = 0 then done s x
    else if s.cur.rgnOpen then trapOut s 0x103
    else .next (if (leaving s x).cur.live = 0 then courseExited (leaving s x) else noEligible (leaving s x)) := by
  rw [execExit, issue_free _ free]
  rfl

section
variable (free : Free s 0x0B x none [] []) (part : partLanes s x ≠ 0)
include free part

theorem execExit_open (opened : s.cur.rgnOpen = true) : execExit x s = trapOut s 0x103 := by
  rw [execExit_free free, if_neg part, if_pos opened]

theorem execExit_closed (closed : s.cur.rgnOpen = false) : execExit x s =
    .next (if (leaving s x).cur.live = 0 then courseExited (leaving s x) else noEligible (leaving s x)) := by
  rw [execExit_free free, if_neg part, closed, if_neg Bool.false_ne_true]

end

theorem execYield_free (free : Free s 0x0C x none [] []) : execYield x s = .next (passed (s.upd (fun c => { c with yielding := true })) x) := by
  rw [execYield, issue_free _ free]
  rfl

theorem execSleep_free (free : Free s 0x0D x (minSub [srcSub s x (.int false false) x.a, uniSub x.a]) (opdRefs x.a 1) []) : execSleep x s =
    if partLanes s x = 0 then done s x else done (s.upd (fun c => { c with wait := some (.sleep (Nat.max (readU s x x.a 0) 1)) })) x := by
  rw [execSleep, issue_free _ free]

theorem execBrk_free (free : Free s 0x0E x none [] []) : execBrk x s =
    if partLanes s x = 0 then done s x else .next (raiseSubset s 0x110 (x.field 0 8)) := by
  rw [execBrk, issue_free _ free]

/-- The end of a sleep leaves a wait below it, of which there is none, as it is. -/
theorem execSleepExpiry_here (asleep : s.cur.wait = some (.sleep n)) (alone : s.cur.waitBelow = none) :
    execSleepExpiry s.cur.id s = .next (s.upd (fun c => { c with wait := none })) := by
  rw [execSleepExpiry, atCourse_here]
  simp only [State.upd, Course.wake, asleep, alone, if_true]

/-! #### Which cause applies to a header (R110, R111) -/

/-- The class-0 cause of a header, if one applies. -/
def headerSub (s : State) (h : Header) : Option Nat :=
  minSub [subIf (h.len.toNat = 0 || !bodyWhole s s.cur (s.iss.pc + 4) h.len.toNat h.len.toNat) 4, subIf (s.iss.bodies ≠ 0) 5,
    subIf (slotBad h.setA || slotBad h.setB) 10]

/-- The body of a header has words, and whole instructions fill it. -/
abbrev headerWhole (s : State) (h : Header) : Bool := h.len.toNat ≠ 0 && bodyWhole s s.cur (s.iss.pc + 4) h.len.toNat h.len.toNat

theorem bodyBad_eq (s : State) (h : Header) : (decide (h.len.toNat = 0) || !bodyWhole s s.cur (s.iss.pc + 4) h.len.toNat h.len.toNat) = !headerWhole s h := by
  rw [headerWhole, Bool.not_and, decide_not, Bool.not_not]

theorem headerSub_eq (s : State) (h : Header) : headerSub s h =
    minSub [subIf (!headerWhole s h) 4, subIf (s.iss.bodies ≠ 0) 5, subIf (slotBad h.setA || slotBad h.setB) 10] := by
  rw [headerSub, bodyBad_eq]

theorem headerSub_broken (broken : headerWhole s h = false) : headerSub s h = some 4 := by
  rw [headerSub_eq, broken]
  refine minSub_lowest (List.forall_mem_cons.mpr ⟨fun n cause => ?_, List.forall_mem_singleton.mpr fun n cause => ?_⟩)
  all_goals rw [eq_of_subIf_eq_some cause]; decide

theorem headerSub_nested (whole : headerWhole s h = true) (nested : s.iss.bodies ≠ 0) : headerSub s h = some 5 := by
  rw [headerSub_eq, whole, decide_eq_true nested]
  refine (minSub_none_cons _).trans (minSub_lowest (List.forall_mem_singleton.mpr fun n cause => ?_))
  rw [eq_of_subIf_eq_some cause]
  decide

theorem headerSub_slots (whole : headerWhole s h = true) (outside : s.iss.bodies = 0) :
    headerSub s h = subIf (slotBad h.setA || slotBad h.setB) 10 := by
  rw [headerSub_eq, whole, decide_eq_false (not_not.mpr outside)]
  exact minSub_append (l := [none, none]) rfl _

/-! #### What a header answers (R111) -/

/-- The subset has entered its body, with its waited records cleared. -/
def Course.enterBody (c : Course) (m : LaneSet) (h : Header) : Course :=
  let c := (c.clearRecords m h.wait).setPcs m (fun i => c.pcOf i + 4)
  { c with
      chead := (LaneSet.toList m).foldl (fun y i => Cells.set y i h.word) c.chead
      cdist := (LaneSet.toList m).foldl (fun y i => Cells.set y i 1) c.cdist }

theorem execClause_trap (cause : headerSub s h = some n) : execClause h s = trapOut s n := by
  rw [headerSub] at cause
  simp only [execClause, cause]
  rfl

theorem execClause_clear (clear : headerSub s h = none) :
    execClause h s = if !flagsClear s.cur h.wait then holdIssue s else .next (s.upd (fun c => c.enterBody s.iss.mask h)) := by
  rw [headerSub] at clear
  simp only [execClause, clear]
  rfl

/-- Settles O21: what each instruction answers by its `…_free` lemma, and a header by `headerSub`, the lowest class-0 cause that applies. -/
theorem endsAndWaits : Obligations.EndsAndWaits := by
  intro x s
  refine ⟨fun free part closed stays => ?exit, fun free part closed ends => ?last, fun free idle => ?exitIdle, fun free part opened => ?exitOpen,
    execYield_free, fun free part => ?sleep, fun free idle => ?sleepIdle, fun n => execSleepExpiry_here, fun free part => ?brk, fun free idle => ?brkIdle,
    fun w plain => ?illegal, fun h => ⟨fun broken => ?broken, fun whole nested => ?nested, fun whole outside reserved => ?reserved,
      fun whole outside slots waits => ?held, fun whole outside slots clear => ?enters⟩⟩
  case exit => exact (execExit_closed free part closed).trans (congrArg Host.Outcome.next (if_neg stays))
  case last => exact (execExit_closed free part closed).trans (congrArg Host.Outcome.next (if_pos ends))
  case exitIdle => exact (execExit_free free).trans (if_pos idle)
  case exitOpen => exact execExit_open free part opened
  case sleep => exact (execSleep_free free).trans (if_neg part)
  case sleepIdle => exact (execSleep_free free).trans (if_pos idle)
  case brk => exact (execBrk_free free).trans (if_neg part)
  case brkIdle => exact (execBrk_free free).trans (if_pos idle)
  case illegal => exact execIllegalEncoding_own fun n cause => nomatch plain.symm.trans cause
  case broken => exact execClause_trap (headerSub_broken broken)
  case nested => exact execClause_trap (headerSub_nested whole nested)
  case reserved => exact execClause_trap ((headerSub_slots whole outside).trans (if_pos reserved))
  all_goals
    have noCause : headerSub s h = none := (headerSub_slots whole outside).trans (by rw [slots]; rfl)
  case held => exact (execClause_clear noCause).trans (if_pos (by rw [waits]; rfl))
  case enters =>
    refine ⟨_, (execClause_clear noCause).trans (if_neg (by rw [clear]; decide)), rfl, rfl, fun i lane heads dists => ?_⟩
    exact ⟨Cells.get_foldl_lanes s.iss.mask (fun _ => h.word) heads lane, Cells.get_foldl_lanes s.iss.mask (fun _ => 1) dists lane⟩

end Sys2Proof.Machine
end

section
/-! ### Set-aside passes, results in flight and the dispatcher (R21, R114, R140, R305, R313 to R318, R321) -/
namespace Sys2Proof.Machine

variable {s : State} {p : Pier} {sp : Span} {r : Landing} {rest : List Landing} {die n : Nat} {a : Nat × Nat} {xs : List (Nat × Nat)}

/-! #### Passes and results of the course in the issue unit (R114, R140, R321) -/

theorem execSetAside_here (s : State) (n : Nat) : execSetAside s.cur.id n s =
    .next (if s.cur.harvest && s.cur.life = .live && s.cur.aside.isNone then s.upd (fun c => { c with asideAt := some n }) else s) := by
  rw [execSetAside, atCourse_here]

theorem execSetAside_asks (harvest : s.cur.harvest = true) (live : s.cur.life = .live) (nothing : s.cur.aside = none) (n : Nat) :
    execSetAside s.cur.id n s = .next (s.upd (fun c => { c with asideAt := some n })) := by
  rw [execSetAside_here, harvest, nothing, decide_eq_true live]
  rfl

theorem execSetAside_passes (cannot : s.cur.harvest = false ∨ s.cur.life ≠ .live ∨ s.cur.aside.isSome = true) (n : Nat) :
    execSetAside s.cur.id n s = .next s := by
  refine (execSetAside_here s n).trans (congrArg Host.Outcome.next (if_neg fun may => ?_))
  simp only [Bool.and_eq_true, decide_eq_true_eq, Option.isNone_iff_eq_none] at may
  obtain ⟨⟨harvest, live⟩, nothing⟩ := may
  simp [harvest, live, nothing] at cannot

theorem execSetAsidePassesIssue_here (live : s.cur.life = .live) : execSetAsidePassesIssue s.cur.id s = .next (restPasses s) := by
  rw [execSetAsidePassesIssue, atCourse_here, if_pos live]

theorem execFixedLatencyResult_none (nothing : s.cur.landing = []) : execFixedLatencyResult s.cur.id s = .next s := by
  simp only [execFixedLatencyResult, atCourse_here, nothing]

theorem execFixedLatencyResult_lands (flies : s.cur.landing = r :: rest) (here : s.cur.imageAt = 0) :
    execFixedLatencyResult s.cur.id s = .next (takePending (s.upd (fun c => { c.land r with landing := rest }))) := by
  simp only [execFixedLatencyResult, atCourse_here, flies, here, ne_eq, not_true_eq_false, if_false]

/-! #### Placements (R318) -/

theorem execPierPlacement_creates (found : findPier s p.id = some p) (pending : p.pending = true) (fresh : p.halted = false)
    (free : placementFree s p.id = true) : execPierPlacement p.id s = .next (createPier s p) := by
  simp only [execPierPlacement, found, pending, fresh, free]
  rfl

theorem execPierPlacement_waits (found : findPier s p.id = some p) (taken : placementFree s p.id = false) : execPierPlacement p.id s = .next s := by
  simp only [execPierPlacement, found, taken, Bool.and_false, Bool.false_eq_true, if_false]

/-! #### The order of stations in a window (R21) -/

theorem perm_insertStation (a : Nat × Nat) (xs : List (Nat × Nat)) : (insertStation a xs).Perm (a :: xs) := by
  induction xs with
  | nil => exact .refl _
  | cons x xs ih =>
    rw [insertStation]
    split_ifs
    · exact .refl _
    · exact (ih.cons x).trans (.swap a x xs)

theorem pairwise_insertStation (ordered : xs.Pairwise (fun a b => station a ≤ station b)) :
    (insertStation a xs).Pairwise (fun a b => station a ≤ station b) := by
  induction xs with
  | nil => exact List.pairwise_singleton _ _
  | cons x xs ih =>
    obtain ⟨least, later⟩ := List.pairwise_cons.mp ordered
    rw [insertStation]
    split_ifs with before
    · exact List.pairwise_cons.mpr ⟨List.forall_mem_cons.mpr ⟨before.le, fun b member => before.le.trans (least b member)⟩, ordered⟩
    · refine List.pairwise_cons.mpr ⟨fun b member => ?_, ih later⟩
      rcases List.mem_cons.mp ((perm_insertStation a xs).mem_iff.mp member) with rfl | old
      · exact not_lt.mp before
      · exact least b old

/-- A window makes the announcements that were pending, and no other. -/
theorem perm_foldr_insertStation (xs : List (Nat × Nat)) : (xs.foldr insertStation []).Perm xs := by
  induction xs with
  | nil => exact .refl _
  | cons a xs ih => exact (perm_insertStation a _).trans (ih.cons a)

theorem pairwise_foldr_insertStation (xs : List (Nat × Nat)) : (xs.foldr insertStation []).Pairwise (fun a b => station a ≤ station b) := by
  induction xs with
  | nil => exact .nil
  | cons a xs ih => exact pairwise_insertStation ih

/-! #### Heads (R305, R313, R315) -/

theorem headState_head (head : sp.state = .head) : headState s sp = .eligible ↔ depsMet s sp = true ∧ leaseActive s sp = true := by
  simp only [headState, head, ← Bool.and_eq_true]
  cases depsMet s sp && leaseActive s sp <;> decide

theorem headState_eligible (eligible : sp.state = .eligible) : headState s sp = .eligible ↔ depsMet s sp = true := by
  simp only [headState, eligible]
  cases depsMet s sp <;> decide

theorem headState_other (notHead : sp.state ≠ .head) (notEligible : sp.state ≠ .eligible) : headState s sp = sp.state := by
  unfold headState
  cases state : sp.state
  case head => exact absurd state notHead
  case eligible => exact absurd state notEligible
  all_goals rfl

/-- Settles O55: each event for the course in the issue unit (`atCourse_here`), a window by the order of `insertStation`, and heads by `headState`. -/
theorem scheduleSteps : Obligations.ScheduleSteps := by
  refine ⟨fun s r rest n => ⟨?issue, ?asks, ?passes, ?rest, ?nothing, ?lands⟩, fun s die p => ⟨?decides, ?dead, ?creates, ?waits, ?window, ?listed, ?ordered⟩,
    fun s sp => ⟨headState_head, headState_eligible, headState_other⟩⟩
  case issue => exact fun aside => if_pos aside
  case asks => exact fun harvest live nothing => execSetAside_asks harvest live nothing n
  case passes => exact fun cannot => execSetAside_passes cannot n
  case rest => exact execSetAsidePassesIssue_here
  case nothing => exact execFixedLatencyResult_none
  case lands => exact execFixedLatencyResult_lands
  case decides => exact fun alive => congrArg Host.Outcome.next (if_neg (by rw [alive]; decide))
  case dead => exact fun dead => congrArg Host.Outcome.next (if_pos dead)
  case creates => exact execPierPlacement_creates
  case waits => exact execPierPlacement_waits
  case window => rfl
  case listed => exact fun a => (perm_foldr_insertStation s.announced).mem_iff
  case ordered => exact pairwise_foldr_insertStation s.announced

end Sys2Proof.Machine
end

section
/-! ### Results of the integer instructions (R101, R136, R141 to R144) -/
namespace Sys2Proof.Machine

open Sys2Proof.Claims

variable {s : State} {x : Ops} {maj n : Nat} {srcs : List (STy × Opd)} {f g : Nat → Nat}

/-! #### What an instruction without a cause answers -/

/-- An instruction without a cause writes in each participating lane the value that its function has there. -/
theorem alu_gives (clear : Clear s maj x srcs n) (value : ∀ i, f i = g i) : alu s x maj srcs n f = .next (wrote s x n g) := by
  rw [alu_clear clear, funext value]

/-- A uniform source that is neither a value of the course nor a scalar register is one that `movi` takes (R139, R142). -/
theorem execMovi_clear (clear : Clear s 0x21 x [(itType x.it, x.a)] (itRegs x.it)) (uniform : uniSub x.a = none)
    (constant : ∀ o ∈ [Opd.cid, .bid, .pier, .imask, .ncourse, .nbond], x.a ≠ o) (vector : ∀ r, x.a ≠ .s r) :
    execMovi x s = .next (wrote s x (itRegs x.it) (readOpd s x (itType x.it) x.a)) := by
  obtain ⟨noClass0, noClass1, noClass2⟩ := clear
  rw [execMovi, issue_clear _ noClass0 ?taken noClass2]
  case taken =>
    refine minSub_none _ (List.forall_mem_cons.mpr ⟨noClass1, List.forall_mem_singleton.mpr ?_⟩)
    cases source : x.a
    case imm | lit | zero | one | mone | two | hole | resv | short => rfl
    case v | o | l | lane => rw [source] at uniform; cases uniform
    case s r => exact absurd source (vector r)
    case cid | bid | pier | imask | ncourse | nbond => simp [source] at constant
  rfl

/-! #### Exact results of an element -/

theorem ite_lt_eq_min (p q : Int) : (if q < p then q else p) = min p q := by rw [min_comm, min_def_lt]

theorem ite_lt_eq_max (p q : Int) : (if p < q then q else p) = max p q := (max_def_lt p q).symm

theorem foldl_add_eq_sum (l : List Nat) (g : Nat → Nat) : l.foldl (fun acc k => acc + g k) 0 = (l.map g).sum := by
  rw [foldl_add_sum, Nat.zero_add]

/-- Settles O10: each instruction is an `alu` of its function, which writes `min`, `max`, the magnitude and the sum in its own way. -/
theorem integerResults : Obligations.IntegerResults := by
  intro x s
  refine ⟨?mov, execMovi_clear, ?add, ?sub, ?mul, ?mulhi, fun clear narrow => ?mad, fun clear wide => ?madWide, fun clear => ?min, fun clear => ?max,
    fun clear => ?abs, ?neg, fun clear => ?sad, fun clear => ?clamp⟩
  case mov | add | sub | mul | mulhi | neg => exact alu_clear
  case mad => exact (if_neg narrow).trans (alu_clear clear)
  case madWide => exact (if_pos wide).trans (alu_clear clear)
  case min => exact alu_gives clear fun i => by simp only [elems2, ite_lt_eq_min]
  case max => exact alu_gives clear fun i => by simp only [elems2, ite_lt_eq_max]
  case abs => exact alu_gives clear fun i => by simp only [Int.natCast_natAbs]
  case sad => exact alu_gives clear fun i => by simp only [foldl_add_eq_sum, wordTy, readU]
  case clamp => exact alu_gives clear fun i => by simp only [ite_lt_eq_max, ite_lt_eq_min]

end Sys2Proof.Machine
end

section
/-! ### Results of the logic, shift and bit-field instructions (R142, R144) -/
namespace Sys2Proof.Machine

open Sys2Proof.Claims

/-- Settles O11: each instruction is an `alu` of its function; `bfrev` and `prmt` add up what their bits and bytes are worth. -/
theorem bitResults : Obligations.BitResults := by
  intro x s
  refine ⟨?and, ?or, ?xor, ?andn, ?not, ?shl, ?shr, ?sar, ?rot, ?bfe, ?bfi, ?bfrev, ?popc, ?clz, ?ctz, ?sext, ?prmt⟩
  case bfrev | prmt => exact fun clear => alu_gives clear fun i => foldl_add_eq_sum _ _
  all_goals exact alu_clear

end Sys2Proof.Machine
end

section
/-! ### Results of `lea`, `dp4a`, `sel`, `addc`, `subb` and `cmp` (R101, R142 to R144) -/
namespace Sys2Proof.Machine

open Sys2Proof.Claims

variable {s : State} {x : Ops} {maj : Nat} {f : Nat → Nat → Nat → Nat × Bool}

theorem execSel_clear (noClass0 : class0 s 0x3E x = none) (noClass1 : aluSub1 s x [(itType x.it, x.a), (itType x.it, x.b)] (itRegs x.it) = none)
    (scalar : opdIsS x.d = true → x.opx = 7)
    (noClass2 : class2 s x (aluReads [(itType x.it, x.a), (itType x.it, x.b)] ++ predRef (x.opx % 8)) (opdRefs x.d (itRegs x.it)) = none) :
    execSel x s = .next (wrote s x (itRegs x.it) (fun i =>
      if xor (s.cur.pred (x.opx % 8) i) (decide (x.opx / 8 % 2 = 1)) then readOpd s x (itType x.it) x.a i else readOpd s x (itType x.it) x.b i)) := by
  have always : (opdIsS x.d && decide (x.opx ≠ 7)) = false := by simpa using scalar
  rw [execSel, issue_clear _ noClass0 ?taken noClass2]
  case taken => exact minSub_none _ (List.forall_mem_cons.mpr ⟨noClass1, List.forall_mem_singleton.mpr (by rw [always]; rfl)⟩)
  rfl

/-- The carries or borrows of some lanes have been written to predicate C after their results. -/
def carried (s : State) (x : Ops) (f : Nat → Nat) (g : Nat → Bool) : State :=
  noEligible ((s.upd (fun c => (lanes s x).foldl (fun c i => c.setPred x.opx i (g i))
    (c.writeLanes x.d 1 (opdPushes x.d) ((lanes s x).map (fun i => (i, f i)))))).pass x)

/-- What a lane's words and its predicate C give: a word and a carry or borrow (R143). -/
def linked (s : State) (x : Ops) (f : Nat → Nat → Nat → Nat × Bool) (i : Nat) : Nat × Bool :=
  f (readU s x x.a i) (readU s x x.b i) (if s.cur.pred x.opx i then 1 else 0)

/-- `addc` and `subb` without a cause: a predicate that can be written, and no scalar destination (R101, R143). -/
theorem carryOut_clear (noClass0 : class0 s maj x = none) (noClass1 : aluSub1 s x [(countTy, x.a), (countTy, x.b)] 1 = none) (writable : x.opx ≠ 7)
    (vector : opdIsS x.d = false)
    (noClass2 : class2 s x (aluReads [(countTy, x.a), (countTy, x.b)] ++ predRef x.opx) (opdRefs x.d 1 ++ predRef x.opx) = none) :
    carryOut s x maj f = .next (carried s x (fun i => (linked s x f i).1) (fun i => (linked s x f i).2)) := by
  rw [carryOut, issue_clear _ noClass0 ?taken noClass2]
  case taken =>
    refine minSub_none _ (List.forall_mem_cons.mpr ⟨noClass1, List.forall_mem_cons.mpr ⟨?_, List.forall_mem_singleton.mpr ?_⟩⟩)
    · rw [decide_eq_false writable]; rfl
    · rw [vector]; rfl
  rfl

/-- `dp4a` without a cause, for the type of its second source: c and d are signed when either type is (R143). -/
theorem execDp4a_clear {second : Nat} {signed : Bool} (type : second = if x.opx = 1 then 7 else x.it) (sign : signed = (itSigned x.it || itSigned second))
    (clear : Clear s 0x2E x [(itType x.it, x.a), (itType x.it, x.b), (.int false signed, x.c)] 1) :
    execDp4a x s = .next (wrote s x 1 (fun i => fitElem (if signed then 0 else 1) (satOf x)
      (elemOf (if signed then 0 else 1) (readOpd s x (.int false signed) x.c i) 0 + (List.range 4).foldl (fun acc k => acc +
        elemOf x.it (readOpd s x (itType x.it) x.a i) k * elemOf second (readOpd s x (itType x.it) x.b i) k) 0))) := by
  have unsigned : (!itSigned x.it && !itSigned second) = !signed := by rw [sign, Bool.not_or]
  have word : (if !signed then 1 else 0) = if signed then 0 else 1 := by cases signed <;> rfl
  subst type
  simp only [execDp4a, decide_eq_true_eq, unsigned, word, Bool.not_not]
  exact alu_clear clear

/-- The four products of `dp4a`, added up from the lowest byte. -/
theorem foldl_range_four (h : Nat → Int) : (List.range 4).foldl (fun acc k => acc + h k) 0 = h 0 + h 1 + h 2 + h 3 := by
  simp [List.range_succ]

theorem condHolds_one (p q : Int) : condHolds 1 p q = decide (p ≠ q) := (decide_not (p := p = q)).symm

/-- Whether the condition of `cmp` holds in a lane (R142 Table 6). -/
def compares (s : State) (x : Ops) (i : Nat) : Bool :=
  condHolds x.cond (elemOf x.it (readOpd s x (itType x.it) x.a i) 0) (elemOf x.it (readOpd s x (itType x.it) x.b i) 0)

theorem execCmp_clear (noClass0 : class0 s 0x3F x = none) (clearA : srcSub s x (itType x.it) x.a = none)
    (clearB : srcSub s x (itType x.it) x.b = none) (clearD : predSub x x.d = none)
    (noClass2 : class2 s x (aluReads [(itType x.it, x.a), (itType x.it, x.b)]) (predDst x.d) = none) :
    execCmp x s = .next (wrotePred s x (compares s x)) :=
  aluPred_clear noClass0 (List.forall_mem_cons.mpr ⟨clearA, List.forall_mem_singleton.mpr clearB⟩) clearD noClass2

/-- Settles O12: `dp4a` adds up its four products, and `cmp` writes what `condHolds` says of each condition. -/
theorem mixedResults : Obligations.MixedResults := by
  refine ⟨fun x s => ⟨alu_clear, fun second type clear => ?dp4a, execSel_clear, ?addc, ?subb⟩,
    fun x s noClass0 clearA clearB clearD noClass2 => ?cmp⟩
  case dp4a => exact (execDp4a_clear type rfl clear).trans (by simp only [foldl_range_four])
  case addc => exact carryOut_clear (f := fun a b p => ((a + b + p) % 2 ^ 32, decide (2 ^ 32 ≤ a + b + p)))
  case subb => exact carryOut_clear (f := fun a b p => (ofInt 32 ((a : Int) - (b : Int) - (p : Int)), decide (a < b + p)))
  case cmp =>
    have compared : exec (.cmp x) s = .next (wrotePred s x (compares s x)) := execCmp_clear noClass0 clearA clearB clearD noClass2
    unfold compares at compared
    refine ⟨fun cond => ?eq, fun cond => ?ne, fun cond => ?lt, fun cond => ?le, fun cond => ?gt, fun cond => ?ge⟩
    all_goals rw [compared, cond]
    case ne => simp only [condHolds_one]
    all_goals rfl

end Sys2Proof.Machine
end

section
/-! ### Elements of packed values and linked carries (R134, R141, R143) -/
namespace Sys2Proof.Machine

variable {it k n w : Nat} {f : Nat → Nat} {g : Nat → Int} {v : Int}

/-! #### Elements side by side -/

/-- Values of `w` bits each, side by side from the lowest. -/
def sideBySide (w : Nat) (f : Nat → Nat) (n : Nat) : Nat := (List.range n).foldl (fun acc k => acc + f k * 2 ^ (w * k)) 0

theorem elems_eq (it : Nat) (f : Nat → Nat) : elems it f = sideBySide (itWidth it) f (itElems it) := rfl

theorem sideBySide_succ (w : Nat) (f : Nat → Nat) (n : Nat) : sideBySide w f (n + 1) = sideBySide w f n + f n * 2 ^ (w * n) := by
  simp only [sideBySide, List.range_succ, List.foldl_append, List.foldl_cons, List.foldl_nil]

section
variable (small : ∀ k, f k < 2 ^ w)
include small

theorem sideBySide_lt (n : Nat) : sideBySide w f n < 2 ^ (w * n) := by
  induction n with
  | zero => exact Nat.one_pos
  | succ n ih =>
    rw [sideBySide_succ, Nat.mul_succ, Nat.pow_add]
    calc sideBySide w f n + f n * 2 ^ (w * n) < 2 ^ (w * n) + f n * 2 ^ (w * n) := Nat.add_lt_add_right ih _
      _ = 2 ^ (w * n) * (f n + 1) := by ring
      _ ≤ 2 ^ (w * n) * 2 ^ w := Nat.mul_le_mul_left _ (small n)

/-- Each value stands where it was put, whatever the others are. -/
theorem bits_sideBySide (inside : k < n) : bits (sideBySide w f n) (w * k) w = f k := by
  induction n with
  | zero => cases inside
  | succ n ih =>
    rw [bits, sideBySide_succ]
    rcases Nat.lt_succ_iff_lt_or_eq.mp inside with below | rfl
    · have above : f n * 2 ^ (w * n) = f n * 2 ^ (w * (n - k - 1)) * 2 ^ w * 2 ^ (w * k) := by
        have places : w * n = w * (n - k - 1) + w + w * k := by
          rw [← Nat.mul_succ, ← Nat.mul_add]
          congr 1
          omega
        rw [places, Nat.pow_add, Nat.pow_add]
        ring
      rw [above, Nat.add_mul_div_right _ _ (Nat.two_pow_pos _), Nat.add_mul_mod_self_right]
      exact ih below
    · rw [Nat.add_mul_div_right _ _ (Nat.two_pow_pos _), Nat.div_eq_of_lt (sideBySide_lt small k), Nat.zero_add, Nat.mod_eq_of_lt (small k)]

end

/-! #### The number that an element holds -/

theorem natCast_ofInt (w : Nat) (v : Int) : ((ofInt w v : Nat) : Int) = v % ((2 ^ w : Nat) : Int) :=
  Int.toNat_of_nonneg (Int.emod_nonneg _ (by positivity))

theorem ofInt_lt (w : Nat) (v : Int) : ofInt w v < 2 ^ w := by
  have below := Int.emod_lt_of_pos v (b := ((2 ^ w : Nat) : Int)) (by positivity)
  rw [← natCast_ofInt] at below
  exact_mod_cast below

/-- Two's complement is the balanced remainder. -/
theorem toInt_eq_bmod (w v : Nat) : toInt w v = (v : Int).bmod (2 ^ w) := by
  have remainder : ((v % 2 ^ w : Nat) : Int) = (v : Int) % ((2 ^ w : Nat) : Int) := Int.natCast_emod _ _
  simp only [toInt, Int.bmod, remainder]
  split_ifs <;> omega

/-- The number of an element type's range that a number is modulo 2^w (R134, R141). -/
def wrapped (it : Nat) (v : Int) : Int := if itSigned it then v.bmod (2 ^ itWidth it) else v % ((2 ^ itWidth it : Nat) : Int)

theorem fitElem_lt (it : Nat) (sat : Bool) (v : Int) : fitElem it sat v < 2 ^ itWidth it := ofInt_lt _ _

/-- Each element of a result is its own number, fitted to the type. -/
theorem elemOf_elems_fitElem (sat : Bool) (inside : k < itElems it) : elemOf it (elems it (fun j => fitElem it sat (g j))) k =
    wrapped it (if sat then clampI (itRange it).1 (itRange it).2 (g k) else g k) := by
  rw [elemOf, elems_eq, bits_sideBySide (fun j => fitElem_lt it sat (g j)) inside, fitElem, toInt_eq_bmod, natCast_ofInt, Int.emod_bmod, wrapped]

theorem itWidth_pos (it : Nat) : 0 < itWidth it := by
  unfold itWidth
  split <;> decide

/-- The range of an element type: 2^w numbers from its lowest (R134). -/
theorem itRange_eq (it : Nat) : itRange it =
    if itSigned it then (-(((2 ^ itWidth it : Nat) : Int) / 2), ((2 ^ itWidth it : Nat) : Int) / 2 - 1) else (0, ((2 ^ itWidth it : Nat) : Int) - 1) := by
  have half : ((2 ^ itWidth it : Nat) : Int) / 2 = ((2 ^ (itWidth it - 1) : Nat) : Int) := by
    rw [← Nat.two_pow_pred_mul_two (itWidth_pos it)]
    omega
  simp only [itRange, half]

theorem wrapped_range (it : Nat) (v : Int) : (itRange it).1 ≤ wrapped it v ∧ wrapped it v ≤ (itRange it).2 := by
  rw [itRange_eq]
  have even := Nat.two_pow_pred_mul_two (itWidth_pos it)
  have positive := Nat.two_pow_pos (itWidth it)
  unfold wrapped
  split_ifs
  · have least := Int.le_bmod (x := v) positive
    have greatest := Int.bmod_lt (x := v) positive
    dsimp only
    omega
  · have least := Int.emod_nonneg v (b := ((2 ^ itWidth it : Nat) : Int)) (by omega)
    have greatest := Int.emod_lt_of_pos v (b := ((2 ^ itWidth it : Nat) : Int)) (by omega)
    dsimp only
    omega

theorem wrapped_congr (it : Nat) (v : Int) : (wrapped it v - v) % ((2 ^ itWidth it : Nat) : Int) = 0 := by
  unfold wrapped
  split_ifs
  · exact Int.emod_eq_zero_of_dvd Int.dvd_bmod_sub_self
  · exact Int.emod_eq_zero_of_dvd Int.dvd_emod_sub_self

/-- A number of the range is its own wrapped number. -/
theorem wrapped_of_range (least : (itRange it).1 ≤ v) (greatest : v ≤ (itRange it).2) : wrapped it v = v := by
  rw [itRange_eq] at least greatest
  have even := Nat.two_pow_pred_mul_two (itWidth_pos it)
  unfold wrapped
  split_ifs at least greatest ⊢
  · exact Int.bmod_eq_of_le least (by dsimp only at greatest; omega)
  · exact Int.emod_eq_of_lt least (by dsimp only at greatest; omega)

theorem clampI_eq {lo hi : Int} (ordered : lo ≤ hi) (v : Int) : clampI lo hi v = max lo (min v hi) := by
  unfold clampI
  split_ifs <;> omega

/-- Settles O13: an element is read back as it was put (`bits_sideBySide`) and holds the remainder in its type's range; the words are linear arithmetic. -/
theorem elementsExact : Obligations.ElementsExact := by
  refine ⟨fun it g k _ inside => ?elements, fun a0 a1 b0 b1 _ _ _ _ => ?linked⟩
  case elements =>
    have ordered : (itRange it).1 ≤ (itRange it).2 := (wrapped_range it 0).1.trans (wrapped_range it 0).2
    have least := le_max_left (itRange it).1 (min (g k) (itRange it).2)
    have greatest := max_le ordered (min_le_right (g k) (itRange it).2)
    simp only [elemOf_elems_fitElem _ inside, if_true, Bool.false_eq_true, if_false, clampI_eq ordered, wrapped_of_range least greatest]
    exact ⟨trivial, wrapped_congr it (g k), wrapped_range it (g k)⟩
  case linked =>
    simp only [ofInt]
    split_ifs <;> omega

end Sys2Proof.Machine
end

section
/-! ### Results of the floating instructions (R145 to R148) -/
namespace Sys2Proof.Machine

open Sys2Proof.Claims

/-- Settles O14: each instruction is a `flt` of its function. -/
theorem floatResults : Obligations.FloatResults := by
  intro x s
  refine ⟨?fadd, ?fsub, ?fmul, ?ffma, ?fmin, ?fmax, ?fclass, ?frcp, ?frsq, ?fsqrt, ?fdiv, ?fexp2, ?flog2, ?fsin, ?fcos, ?ftanh, ?fsigm, ?fscale, ?ffrac,
    ?frnd⟩
  all_goals exact flt_clear

end Sys2Proof.Machine
end

section
/-! ### Results of conversions, packing, dot products and float compares (R78, R81, R82, R149 to R151, R321) -/
namespace Sys2Proof.Machine

open Sys2Proof.Claims

variable {s : State} {x : Ops} {d : Cells 32} {a : Aside} {i : Nat} {g : Nat → FRes}

/-! #### What a `cvt` draws (R78, R81, R82) -/

theorem drawnSeeds_fresh (fresh : s.iss.drawn = none) (lane : i < 32) : Cells.get (drawnSeeds s) i = xorshift (Cells.get s.cur.srseed i) := by
  rw [drawnSeeds, fresh]
  simp only [Cells.setAll, List.foldl_map]
  rw [Cells.get_foldl allLanes (fun i => xorshift (Cells.get s.cur.srseed i)) [] i rfl]
  exact if_pos (List.mem_range.mpr lane)

theorem drawnSeeds_kept (kept : s.iss.drawn = some d) : drawnSeeds s = d := by rw [drawnSeeds, kept]

theorem drawSeeds_kept (kept : s.iss.drawn = some d) : drawSeeds s x = s := by rw [drawSeeds, kept]

theorem drawSeeds_alone (fresh : s.iss.drawn = none) (alone : s.cur.aside = none) :
    drawSeeds s x = s.upd (fun c => c.advanceSeeds (drawLanes s x)) := by
  simp only [drawSeeds, fresh, State.upd, Course.advanceSeeds, alone]

/-- An instruction set aside keeps what it drew for its remaining passes (R82, R321). -/
theorem drawSeeds_aside (fresh : s.iss.drawn = none) (aside : s.cur.aside = some a) :
    drawSeeds s x = s.upd (fun c => { c.advanceSeeds (drawLanes s x) with aside := some { a with drawn := drawnSeeds s } }) := by
  simp only [drawSeeds, fresh, State.upd, Course.advanceSeeds, aside]

theorem drawSeeds_fpm (s : State) (x : Ops) : (drawSeeds s x).cur.fpm = s.cur.fpm := by
  unfold drawSeeds
  split <;> rfl

/-! #### What `cvt` and `fcmp` answer (R149, R150) -/

/-- The mode of a conversion (R103, R150). -/
abbrev cvtMode (s : State) (x : Ops) : FMode := fpMode s.cur.fpm x.rnd (cvtSat s x)

/-- The source of `cvt` in a lane. -/
abbrev cvtSrc (s : State) (x : Ops) (i : Nat) : Nat := readOpd s x (cvtType x.mid4) x.a i

theorem lt_of_mem_fltLanes (member : i ∈ fltLanes s x) : i < 32 := by
  unfold fltLanes at member
  split_ifs at member
  · exact lt_of_mem_lanes (List.mem_of_mem_take member)
  · exact lt_of_mem_lanes member

section
variable (clear : Clear s 0x65 x [(cvtType x.mid4, x.a)] (fmtRegs x.hi4)) (quiet : Quiet s ((fltLanes s x).map (fun i => (i, g i))))
include clear quiet

theorem execCvt_rounds (rounds : x.rnd ≠ 5) (value : g = fun i => convert x.mid4 x.hi4 (cvtMode s x) (cvtSrc s x i)) :
    execCvt x s = .next (floatedTo s x (fmtRegs x.hi4) ((fltLanes s x).map (fun i => (i, g i)))) := by
  obtain ⟨noClass0, noClass1, noClass2⟩ := clear
  rw [execCvt, issue_clear _ noClass0 ?taken noClass2]
  case taken => simp only [noClass1, rounds, decide_false, Bool.false_and]; rfl
  subst value
  simp only [rounds, decide_false]
  exact fltDone_quiet rfl quiet

/-- Stochastic rounding uses each participating lane's drawn state, and draws for all lanes of the instruction (R78, R81). -/
theorem execCvt_draws (draws : x.rnd = 5) (vector : opdIsS x.d = false)
    (value : ∀ i < 32, g i = convertSr x.mid4 x.hi4 (cvtMode s x) (Cells.get (drawnSeeds s) i) (cvtSrc s x i)) :
    execCvt x s = .next (floatedTo (drawSeeds s x) x (fmtRegs x.hi4) ((fltLanes s x).map (fun i => (i, g i)))) := by
  obtain ⟨noClass0, noClass1, noClass2⟩ := clear
  rw [execCvt, issue_clear _ noClass0 ?taken noClass2]
  case taken => simp only [noClass1, vector, Bool.and_false]; rfl
  have results : (fltLanes s x).map (fun i => (i, g i)) =
      (fltLanes s x).map (fun i => (i, convertSr x.mid4 x.hi4 (cvtMode s x) (Cells.get (drawnSeeds s) i) (cvtSrc s x i))) :=
    List.map_congr_left fun i member => by rw [value i (lt_of_mem_fltLanes member)]
  rw [results] at quiet ⊢
  simp only [draws, decide_true, if_true]
  rw [cvtMode, draws] at quiet ⊢
  exact fltDone_quiet (drawSeeds_fpm s x) quiet

end

/-- The result of `fcmp` in a lane: 1 where its condition holds, and the exceptions it raises (R149). -/
def fcmpRes (s : State) (x : Ops) (i : Nat) : FRes :=
  let r := fCmp x.mid4 x.hi4 (fmtOf x.hi4) (arith s x) (readOpd s x (.flt x.hi4) x.a i) (readOpd s x (.flt x.hi4) x.b i)
  { bits := if r.1 then 1 else 0, flags := r.2 }

theorem execFcmp_clear (noClass0 : class0 s 0x56 x = none) (clearA : srcSub s x (.flt x.hi4) x.a = none)
    (clearB : srcSub s x (.flt x.hi4) x.b = none) (clearD : predSub x x.d = none)
    (noClass2 : class2 s x (aluReads [(.flt x.hi4, x.a), (.flt x.hi4, x.b)]) (predDst x.d) = none)
    (quiet : Quiet s ((lanes s x).map (fun i => (i, fcmpRes s x i)))) :
    execFcmp x s = .next (floated s x ((lanes s x).map (fun i => (i, fcmpRes s x i)))
      (fun c vs => c.writePred x.d (vs.map (fun v => (v.1, decide (v.2 = 1)))))) := by
  rw [execFcmp, issue_clear _ noClass0 ?taken noClass2]
  case taken => exact minSub_none _ (by simp [clearA, clearB, clearD])
  exact fltDone_quiet rfl quiet

/-- Settles O15: `cvt` by its three kinds of draw, the packing instructions and `fdot2` as a `flt` of their functions, and `fcmp`. -/
theorem conversionResults : Obligations.ConversionResults := by
  intro x s
  refine ⟨fun g value rounds clear quiet => execCvt_rounds clear quiet rounds value, fun g value stochastic quiet fresh => ?draws,
    fun g d kept value stochastic quiet => ?kept, fun g value => ?fpack, fun g value => ?funpack, fun g value => ?fdot2, fun rs value => ?fcmp⟩
  case draws =>
    obtain ⟨draws, vector, clear⟩ := stochastic
    have drawn : execCvt x s = _ := execCvt_draws clear quiet draws vector fun i lane => by rw [value, drawnSeeds_fresh fresh lane]
    refine ⟨fun alone => ?_, fun a aside => ⟨drawnSeeds s, fun i lane => drawnSeeds_fresh fresh lane, ?_⟩⟩
    · rw [drawSeeds_alone fresh alone] at drawn
      exact drawn
    · rw [drawSeeds_aside fresh aside] at drawn
      exact drawn
  case kept =>
    obtain ⟨draws, vector, clear⟩ := stochastic
    have drawn : execCvt x s = _ := execCvt_draws clear quiet draws vector fun i lane => by rw [value, drawnSeeds_kept kept]
    rw [drawSeeds_kept kept] at drawn
    exact drawn
  case fpack => subst value; exact flt_clear
  case funpack => subst value; exact flt_clear
  case fdot2 => subst value; exact flt_clear
  case fcmp => subst value; exact execFcmp_clear

end Sys2Proof.Machine
end

section
/-! ### Results of the lane instructions (R152 to R156) -/
namespace Sys2Proof.Machine

open Sys2Proof.Claims

variable {s : State} {x : Ops} {maj n : Nat} {srcs : List (STy × Opd)} {scl : Bool} {preds : List RegRef} {f : List Nat → Nat → Nat}

/-! #### Masks of lanes (R155) -/

/-- The lanes of a list that meet a test, as a mask. -/
theorem foldl_mask (p : Nat → Prop) [DecidablePred p] (ls : List Nat) :
    ls.foldl (fun acc i => if p i then acc + 2 ^ i else acc) 0 = ((ls.filter (fun i => p i)).map (fun i => 2 ^ i)).sum := by
  rw [← foldl_add_eq_sum, List.foldl_filter]
  simp only [decide_eq_true_eq]

theorem voteMask_eq (s : State) (x : Ops) (ls : List Nat) : voteMask s x ls = ((ls.filter (voteOf s x)).map (fun i => 2 ^ i)).sum := by
  rw [voteMask, foldl_mask]
  simp only [Bool.decide_eq_true]

/-! #### Folds (R156 Table 12) -/

/-- A fold goes on by one step, and keeps the exceptions raised before. -/
theorem redFold_append (op : Nat) (md : FMode) (vs : List Nat) (q : Nat) : redFold op md (vs ++ [q]) =
    { bits := (redStep op md (redFold op md vs).bits q).bits, flags := Nat.lor (redFold op md vs).flags (redStep op md (redFold op md vs).bits q).flags } := by
  rw [redFold, List.foldl_append]
  rfl

/-! #### What the shared operations answer (R152, R155) -/

/-- No cause of class 0, 1 or 2 applies to a lane instruction (R102): a scalar destination is one that it allows (R152). -/
abbrev LaneClear (s : State) (x : Ops) (maj : Nat) (srcs : List (STy × Opd)) (n : Nat) (scl : Bool) (preds : List RegRef) : Prop :=
  class0 s maj x = none ∧ (∀ p ∈ srcs, srcSub s x p.1 p.2 = none) ∧ dstSub s.cur x n x.d = none ∧ (opdIsS x.d = true → scl = true) ∧
    class2 s x (aluReads srcs ++ preds) (opdRefs x.d n) = none

theorem lane_gives {ex : Option Nat} {g : Nat → Nat} (clear : LaneClear s x maj srcs n scl preds) (extra : ex = none)
    (value : ∀ i, f (lanes s x) i = g i) : lane s x maj srcs n scl ex preds f = .next (wrote s x n g) := by
  obtain ⟨noClass0, sources, dest, place, noClass2⟩ := clear
  rw [lane_clear noClass0 sources dest place noClass2 extra, funext value]

section
variable {vote : List Nat → Bool}

/-- A vote with PD writes a predicate destination (R155). -/
theorem laneVote_pred (pd : x.bit 4 = true) (noClass0 : class0 s maj x = none) (clearD : predSub x x.d = none)
    (noClass2 : class2 s x (predRef (x.low4 % 8)) (predDst x.d) = none) : laneVote s x maj vote = .next (wrotePred s x (fun _ => vote (lanes s x))) := by
  rw [laneVote, if_pos pd, issue_clear _ noClass0 clearD noClass2]
  rfl

/-- A vote without PD writes 1 or 0 (R155). -/
theorem laneVote_word (word : x.bit 4 = false) (clear : LaneClear s x maj [] 1 true (predRef (x.low4 % 8))) :
    laneVote s x maj vote = .next (wrote s x 1 (fun _ => if vote (lanes s x) then 1 else 0)) := by
  rw [laneVote, word, if_neg Bool.false_ne_true]
  exact lane_gives clear rfl fun _ => rfl

end

/-- The type of the sources of a fold (R156). -/
abbrev foldTy (x : Ops) : STy := if 8 ≤ x.low4 then .flt 0 else .int false false

/-- The fold of some lanes' sources in each participating lane. -/
abbrev foldResults (s : State) (x : Ops) (sel : List Nat → Nat → List Nat) : List (Nat × FRes) :=
  (lanes s x).map (fun i => (i, redFold x.low4 (foldMode s) ((sel (lanes s x) i).map (fun j => readOpd s x (foldTy x) x.a j))))

/-- `lred` and `lscan` without a cause and without a trap-enabled exception (R152, R156). -/
theorem laneFold_clear {sel : List Nat → Nat → List Nat} (noClass0 : class0 s maj x = none) (clearA : srcSub s x (foldTy x) x.a = none)
    (clearD : dstSub s.cur x 1 x.d = none) (place : opdIsS x.d = true → scl = true)
    (noClass2 : class2 s x (opdRefs x.a 1) (opdRefs x.d 1) = none) (quiet : Quiet s (foldResults s x sel)) :
    laneFold s x maj scl sel = .next (floatedTo s x 1 (foldResults s x sel)) := by
  have allowed : (opdIsS x.d && !scl) = false := by simpa using place
  simp only [laneFold, decide_eq_true_eq]
  rw [issue_clear _ noClass0 ?taken noClass2]
  case taken => exact minSub_none _ (by simp [clearA, clearD, allowed, subIf])
  exact fltDone_quiet rfl quiet

/-- Settles O17: each instruction is a `lane`, a `laneVote` or a `laneFold` of its function, and a fold goes on by its steps. -/
theorem laneResults : Obligations.LaneResults := by
  intro x s
  refine ⟨fun clear => ?shfl, fun clear uniform notMask => ?bcast, fun clear => ?lfirst, fun clear => ?lperm, fun clear => ?lbal, laneVote_word,
    laneVote_word, laneVote_pred, laneVote_pred, fun clear => ?lmatch, fun sel i maj fold => ?fold, fun op md vs p q small => ?steps⟩
  case shfl =>
    change execShfl x s = _
    rw [execShfl]
    exact lane_gives clear rfl fun i => rfl
  case bcast =>
    change execBcast x s = _
    rw [execBcast]
    exact lane_gives clear (by simp [uniform, notMask, subIf]) fun i => rfl
  case lfirst =>
    change execLfirst x s = _
    rw [execLfirst]
    exact lane_gives clear rfl fun i => rfl
  case lperm =>
    change execLperm x s = _
    rw [execLperm]
    refine lane_gives clear rfl fun i => ?_
    dsimp only [readU]
    cases (List.filter (fun j => readOpd s x (.int false false) x.b j % 32 == i) (lanes s x)).getLast? <;> rfl
  case lbal =>
    change execLbal x s = _
    rw [execLbal]
    exact lane_gives clear rfl fun _ => voteMask_eq s x (lanes s x)
  case lmatch =>
    change execLmatch x s = _
    rw [execLmatch]
    exact lane_gives clear rfl fun i => foldl_mask _ _
  case fold =>
    intro ty rs noClass0 clearA clearD noClass2 quiet
    rcases fold with ⟨rfl, rfl, rfl⟩ | ⟨rfl, rfl, vector, rfl⟩
    · change execLred x s = _
      rw [execLred]
      exact laneFold_clear noClass0 clearA clearD (fun _ => rfl) noClass2 quiet
    · change execLscan x s = _
      rw [execLscan]
      exact laneFold_clear noClass0 clearA clearD (fun scalar => absurd (vector.symm.trans scalar) Bool.false_ne_true) noClass2 quiet
  case steps =>
    rw [redFold_append]
    refine ⟨?_, rfl, rfl, fun integer => ?_, fun sum => ?_, fun least => ?_, fun greatest => ?_⟩
    · interval_cases op <;> rfl
    · interval_cases op <;> rfl
    all_goals subst op; rfl

end Sys2Proof.Machine
end

section
/-! ### What reset leaves (R173, R175, R378, R414, R431, R464, R486) -/
namespace Sys2Proof.Machine

/-- Settles O7: the definition of reset gives each value, die by die. -/
theorem resetValues : Obligations.ResetValues := by
  refine ⟨rfl, rfl, rfl, rfl, fun d die => ?_⟩
  obtain rfl | rfl : d = 0 ∨ d = 1 := by omega
  · decide
  · decide

end Sys2Proof.Machine
end

section
/-! ### Transfers and their lane faults (R102, R158, R159, R179 to R181) -/
namespace Sys2Proof.Machine

open Sys2Proof.Claims

variable {s : State} {x : Ops} {fs : List LaneFault} {dest : Nat → Nat} {stack : Course → Nat → Course} {bad : Nat → Option (Nat × Nat)} {i cause addr : Nat}

/-- The transfer of a lane that goes to a target unless it has a cause. -/
def xferOf (target : Nat) (bad : Option (Nat × Nat)) : Xfer := bad.elim (.goto target) fun p => .fault p.1 p.2

theorem xferOf_eq_goto {target : Nat} (h : bad i = none) : xferOf target (bad i) = .goto target := by rw [h]; rfl

theorem xferOf_eq_fault {target : Nat} (h : bad i = some (cause, addr)) : xferOf target (bad i) = .fault cause addr := by rw [h]; rfl

theorem xferFault_xferOf (i target : Nat) (bad : Option (Nat × Nat)) :
    xferFault i (xferOf target bad) = bad.map fun p => { lane := i, cause := p.1, addr := p.2 } := by
  cases bad <;> rfl

/-! #### Sets of lanes by a test -/

/-- The set bits of a sum of distinct powers of two, and its bound. -/
theorem testBit_foldl_two_pow (f : Nat → Bool) (n i : Nat) :
    ((List.range n).foldl (fun acc i => if f i then acc + 2 ^ i else acc) 0 < 2 ^ n) ∧
    ((List.range n).foldl (fun acc i => if f i then acc + 2 ^ i else acc) 0).testBit i = (decide (i < n) && f i) := by
  induction n with
  | zero => simp
  | succ n ih =>
    obtain ⟨bound, bit⟩ := ih
    rw [List.range_succ, List.foldl_append, List.foldl_cons, List.foldl_nil, Nat.pow_succ]
    generalize (List.range n).foldl (fun acc i => if f i then acc + 2 ^ i else acc) 0 = sum at bound bit ⊢
    split_ifs with top
    · refine ⟨by omega, ?_⟩
      rw [Nat.add_comm]
      rcases Nat.lt_trichotomy i n with below | rfl | above
      · rw [Nat.testBit_two_pow_add_gt below, bit, decide_eq_true below, decide_eq_true (Nat.lt_succ_of_lt below)]
      · rw [Nat.testBit_two_pow_add_eq, Nat.testBit_lt_two_pow bound, decide_eq_true (Nat.lt_succ_self i), top]
        rfl
      · rw [decide_eq_false (by omega), Nat.testBit_lt_two_pow]
        · rfl
        · have := Nat.pow_le_pow_right (n := 2) (by decide) above
          rw [Nat.pow_succ] at this
          omega
    · refine ⟨by omega, ?_⟩
      rw [bit]
      by_cases own : i = n
      · simp [own, top]
      · rw [decide_eq_decide.mpr (show i < n ↔ i < n + 1 by omega)]

theorem getLsbD_ofFn (f : Nat → Bool) (lane : i < 32) : (LaneSet.ofFn f).getLsbD i = f i := by
  rw [LaneSet.ofFn, BitVec.getLsbD_ofNat, allLanes, (testBit_foldl_two_pow f 32 i).2, decide_eq_true lane, Bool.true_and, Bool.true_and]

/-! #### What a transfer leaves -/

/-- The faults of the lanes of a list that have a cause. -/
def transferFaults (ls : List Nat) (bad : Nat → Option (Nat × Nat)) : List LaneFault :=
  ls.filterMap fun i => (bad i).map fun p => { lane := i, cause := p.1, addr := p.2 }

/-- A lane of a set that is not among its faulting ones has no cause. -/
theorem bad_eq_none_of_mem {m : LaneSet} (good : i ∈ LaneSet.toList (m &&& ~~~ faultSet (transferFaults (LaneSet.toList m) bad))) : bad i = none := by
  rw [toList_mem, BitVec.getLsbD_and, BitVec.getLsbD_not, Bool.and_eq_true, Bool.and_eq_true, faultSet] at good
  obtain ⟨lane, member, -, faultless⟩ := good
  rw [getLsbD_ofFn _ lane, Bool.not_eq_true', List.any_eq_false] at faultless
  cases cause : bad i with
  | none => rfl
  | some p =>
    have listed : { lane := i, cause := p.1, addr := p.2 } ∈ transferFaults (LaneSet.toList m) bad :=
      List.mem_filterMap.mpr ⟨i, (toList_mem m i).mpr ⟨lane, member⟩, by rw [cause]; rfl⟩
    exact absurd (beq_self_eq_true i) (faultless _ listed)

theorem Course.jump_congr (c : Course) {m : LaneSet} {f g : Nat → Nat} (same : ∀ i ∈ LaneSet.toList m, f i = g i) : c.jump m f = c.jump m g := by
  unfold Course.jump Course.setPcs
  rw [foldl_congr_mem _ _ (fun p i => Cells.set p i (BitVec.ofNat 53 (g i))) (fun i listed p => by rw [same i listed])]

theorem transfer_sent (s : State) (x : Ops) (dest : Nat → Nat) (stack : Course → Nat → Course) (bad : Nat → Option (Nat × Nat)) :
    transfer s x (partLanes s x) (fun i => xferOf (dest i) (bad i)) stack = .next (sent s x dest stack bad) := by
  simp only [transfer, sent, xferFault_xferOf, lanes]
  congr 4
  funext c
  exact Course.jump_congr _ fun i good => by rw [xferOf_eq_goto (bad_eq_none_of_mem good)]; rfl

/-- Without a cause in any lane, all of them have moved. -/
theorem sent_moved (clear : ∀ i ∈ lanes s x, bad i = none) : sent s x dest stack bad = moved s x dest stack :=
  Host.Outcome.next.inj ((transfer_sent s x dest stack bad).symm.trans
    (transfer_goto s x _ dest stack fun i member => xferOf_eq_goto (clear i member)))

/-- A lane that faults alone outside hold mode has the course trap (R163, R421). -/
theorem sent_fault (alone : lanes s x = [i]) (whole : s.iss.mask = partLanes s x) (mode : s.cur.holdMode = false) (fault : bad i = some (cause, addr)) :
    sent s x dest stack bad = noEligible (raise
      (s.upd (fun c => { c with faults := Cells.set c.faults i (BitVec.ofNat 64 (2 ^ 63 + cause * 2 ^ 53 + addr % 2 ^ 53)) }))
      cause (LaneSet.only i) s.iss.pc 0 (LaneSet.only i)) :=
  Host.Outcome.next.inj ((transfer_sent s x dest stack bad).symm.trans
    (transfer_fault s x _ stack i cause addr alone whole mode (xferOf_eq_fault fault)))

/-! #### Where each transfer goes (R179 to R181) -/

/-- The target of `bra` and `call` (R179). -/
def nearTarget (s : State) (x : Ops) : Int := s.iss.pc + 4 * jumpOff x

/-- The cause of a near target (R179). -/
def beyondCause (s : State) (x : Ops) : Option (Nat × Nat) :=
  if nearTarget s x < 0 ∨ (Config.vaLimit : Int) ≤ nearTarget s x then some (0x4C, ofInt 53 (nearTarget s x)) else none

/-- The cause of a lane's target in registers (R180). -/
def targetCause (s : State) (x : Ops) (i : Nat) : Option (Nat × Nat) :=
  if readBase s x x.a i % 4 ≠ 0 then some (0x3F, readBase s x x.a i % 2 ^ 53)
  else if Config.vaLimit ≤ readBase s x x.a i then some (0x4C, readBase s x x.a i % 2 ^ 53) else none

/-- The cause of a call from depth 8 (R159). -/
def deepCause (s : State) (i : Nat) : Option (Nat × Nat) := if (Cells.get s.cur.depth i).toNat = 8 then some (0xB3, 0) else none

/-- The cause of a `ret` at depth 0 (R159). -/
def bareCause (s : State) (i : Nat) : Option (Nat × Nat) := if (Cells.get s.cur.depth i).toNat = 0 then some (0xB4, 0) else none

/-- The return address on top of a lane's stack (R159). -/
def topReturn (s : State) (i : Nat) : Nat := (Cells.get s.cur.rstack (8 * i + (Cells.get s.cur.depth i).toNat - 1)).toNat

theorem jumpTo_eq (s : State) (x : Ops) : jumpTo s x = xferOf (nearTarget s x).toNat (beyondCause s x) := by
  unfold jumpTo beyondCause nearTarget
  by_cases beyond : (s.iss.pc : Int) + 4 * jumpOff x < 0 ∨ (Config.vaLimit : Int) ≤ s.iss.pc + 4 * jumpOff x
  · rw [if_pos beyond]
    exact if_pos (by simpa using beyond)
  · rw [if_neg beyond]
    exact if_neg (by simpa using beyond)

theorem jumpTarget_eq (s : State) (x : Ops) (i : Nat) : jumpTarget s x i = xferOf (readBase s x x.a i) (targetCause s x i) := by
  unfold jumpTarget targetCause
  dsimp only
  split_ifs <;> rfl

/-- Of several causes the lower class counts (R102): that of the target before that of the depth. -/
theorem calling_eq (s : State) (i target : Nat) (bad : Option (Nat × Nat)) : calling s i (xferOf target bad) = xferOf target (bad.or (deepCause s i)) := by
  cases bad with
  | some p => rfl
  | none =>
    unfold deepCause
    by_cases deep : (Cells.get s.cur.depth i).toNat = 8
    · rw [if_pos deep]
      exact if_pos deep
    · rw [if_neg deep]
      exact if_neg deep

theorem returning_eq (s : State) (i : Nat) :
    (if (Cells.get s.cur.depth i).toNat = 0 then Xfer.fault 0xB4 0 else .goto (topReturn s i)) = xferOf (topReturn s i) (bareCause s i) := by
  unfold bareCause
  split_ifs <;> rfl

/-! #### What each transfer answers -/

theorem execBra_free (free : Free s 0x01 x none [] []) :
    execBra x s = .next (sent s x (fun _ => (nearTarget s x).toNat) (fun c _ => c) (fun _ => beyondCause s x)) := by
  rw [execBra, issue_free _ free, jumpTo_eq, transfer_sent]

theorem execCall_free (free : Free s 0x03 x none [] []) : execCall x s = .next (sent s x (fun _ => (nearTarget s x).toNat)
    (fun c i => c.pushRet i (s.iss.pc + x.len)) (fun i => (beyondCause s x).or (deepCause s i))) := by
  rw [execCall, issue_free _ free, jumpTo_eq]
  simp only [calling_eq, transfer_sent]

theorem execBrx_free (free : Free s 0x02 x (targetSub s x) (opdRefs x.a 2) []) :
    execBrx x s = .next (sent s x (readBase s x x.a) (fun c _ => c) (targetCause s x)) := by
  rw [execBrx, issue_free _ free, funext (jumpTarget_eq s x), transfer_sent]

theorem execCalli_free (free : Free s 0x04 x (targetSub s x) (opdRefs x.a 2) []) : execCalli x s = .next (sent s x (readBase s x x.a)
    (fun c i => c.pushRet i (s.iss.pc + x.len)) (fun i => (targetCause s x i).or (deepCause s i))) := by
  rw [execCalli, issue_free _ free]
  simp only [jumpTarget_eq, calling_eq, transfer_sent]

theorem execRet_free (free : Free s 0x05 x none [] []) :
    execRet x s = .next (sent s x (topReturn s) (fun c i => c.popRet i) (bareCause s)) := by
  rw [execRet, issue_free _ free, ← transfer_sent]
  exact congrArg (transfer s x _ · _) (funext (returning_eq s))

/-- Settles O18: every transfer is a `transfer` by its target and its cause in each lane (`xferOf`), which leaves the lanes as `sent` says. -/
theorem transferResults : Obligations.TransferResults := by
  refine ⟨fun x s => ⟨fun free => ?nop, execBra_free, execCall_free, execBrx_free, execCalli_free, execRet_free⟩,
    fun x s dest stack bad => ⟨sent_moved, fun i cause addr => sent_fault⟩⟩
  case nop =>
    change execNop x s = _
    rw [execNop, issue_free _ free, done_passed]

end Sys2Proof.Machine
end

section
/-! ### Masks (R161, R163, R184) -/
namespace Sys2Proof.Machine

open Sys2Proof.Claims

variable {s : State} {x : Ops} {c d : Course} {m : LaneSet} {body : LaneSet → Out} {maj i j k : Nat}

/-! #### What each mask instruction answers -/

/-- The course with the enrolled lanes of a mask written. -/
def Course.enrol (c : Course) (k : Nat) (e : Word) : Course := { c with enr := Cells.set c.enr k e }

/-- Some lanes wait at their `waitm` on a mask, the others of the subset have passed it, and the mask is released if it may be (R161). -/
def Course.waitAt (c : Course) (subset w : LaneSet) (k len : Nat) : Course :=
  let c := c.advance (subset &&& ~~~ w) len
  ({ c with waitm := Cells.set c.waitm k (Cells.get c.waitm k ||| w)
            waitLen := (LaneSet.toList w).foldl (fun y i => Cells.set y i (BitVec.ofNat 4 len)) c.waitLen }).releaseMask k

/-- A mask instruction that no cause stops acts on its participating lanes (R163). -/
theorem maskOp_acts (freely : partLanes s x = 0 ∨ heldMask s x.low4 = false) (free : Free s maj x none [] []) :
    maskOp s x maj body = body (partLanes s x) := by
  rcases freely with idle | unheld
  · rw [maskOp, issue_free _ free, idle]
    rfl
  · exact maskOp_free body free unheld

section
variable (freely : partLanes s x = 0 ∨ heldMask s x.low4 = false)
include freely

theorem execJoin_acts (free : Free s 0x06 x none [] []) :
    execJoin x s = .next (passed (s.upd (fun c => c.enrol x.low4 (Cells.get c.enr x.low4 ||| partLanes s x))) x) := by
  rw [execJoin, maskOp_acts freely free, done_passed]
  rfl

theorem execLeave_acts (free : Free s 0x07 x none [] []) : execLeave x s = .next (noEligible
    (((s.upd (fun c => c.enrol x.low4 (Cells.get c.enr x.low4 &&& ~~~ partLanes s x))).pass x).upd (fun c => c.releaseMask x.low4))) := by
  rw [execLeave, maskOp_acts freely free]
  rfl

theorem execWaitm_acts (free : Free s 0x08 x none [] []) : execWaitm x s = .next (noEligible (s.upd (fun c =>
    c.waitAt s.iss.mask (partLanes s x &&& Cells.get s.cur.enr x.low4) x.low4 x.len))) := by
  rw [execWaitm, maskOp_acts freely free]
  rfl

end

section
variable (held : heldMask s x.low4 = true) (part : partLanes s x ≠ 0)
include held part

/-- On m11 in hold mode the subset traps (R163). -/
theorem execJoin_held (free : Free s 0x06 x none [] []) : execJoin x s = trapOut s 0xB1 := maskOp_held _ free held part

theorem execLeave_held (free : Free s 0x07 x none [] []) : execLeave x s = trapOut s 0xB1 := maskOp_held _ free held part

theorem execWaitm_held (free : Free s 0x08 x none [] []) : execWaitm x s = trapOut s 0xB1 := maskOp_held _ free held part

end

/-- No cause of class 0, 1 or 2 applies to `mput` where it issues. -/
abbrev MputFree (s : State) (x : Ops) : Prop :=
  Free s 0x0A x (minSub [srcSub s x (.int false false) x.a, uniSub x.a]) (opdRefs x.a 1) []

/-- The set that `mput` writes. -/
abbrev mputSet (s : State) (x : Ops) : Word := BitVec.ofNat 32 (readU s x x.a 0)

theorem execMput_free (free : MputFree s x) : execMput x s =
    if partLanes s x = 0 then done s x
    else if heldMask s x.low4 then
      done (s.upd (fun c => { c with enr := Cells.set c.enr 11 (Cells.get c.enr 11 &&& mputSet s x), caught := c.caught &&& mputSet s x })) x
    else if Cells.get s.cur.waitm x.low4 ≠ 0 then trapOut s 0xB2
    else done (s.upd (fun c =>
      { c with enr := Cells.set c.enr x.low4 (mputSet s x), caught := if x.low4 = 11 then c.caught &&& mputSet s x else c.caught })) x := by
  rw [execMput, issue_free _ free]

section
variable (free : MputFree s x)
include free

theorem execMput_idle (idle : partLanes s x = 0) : execMput x s = .next (passed s x) := by
  rw [execMput_free free, if_pos idle, done_passed]

variable (part : partLanes s x ≠ 0)
include part

theorem execMput_held (held : heldMask s x.low4 = true) : execMput x s = .next (passed (s.upd (fun c =>
    { c with enr := Cells.set c.enr 11 (Cells.get c.enr 11 &&& mputSet s x), caught := c.caught &&& mputSet s x })) x) := by
  rw [execMput_free free, if_neg part, if_pos held, done_passed]

variable (unheld : heldMask s x.low4 = false)
include unheld

theorem execMput_unheld : execMput x s =
    if Cells.get s.cur.waitm x.low4 ≠ 0 then trapOut s 0xB2
    else done (s.upd (fun c =>
      { c with enr := Cells.set c.enr x.low4 (mputSet s x), caught := if x.low4 = 11 then c.caught &&& mputSet s x else c.caught })) x := by
  rw [execMput_free free, if_neg part, unheld, if_neg Bool.false_ne_true]

theorem execMput_writes (empty : Cells.get s.cur.waitm x.low4 = 0) : execMput x s = .next (passed (s.upd (fun c =>
    { c with enr := Cells.set c.enr x.low4 (mputSet s x), caught := if x.low4 = 11 then c.caught &&& mputSet s x else c.caught })) x) := by
  rw [execMput_unheld free part unheld, if_neg (not_not.mpr empty), done_passed]

theorem execMput_waiting (waiting : Cells.get s.cur.waitm x.low4 ≠ 0) : execMput x s = trapOut s 0xB2 := by
  rw [execMput_unheld free part unheld, if_pos waiting]

end

/-! #### The release of a mask (R161) -/

/-- Some lanes pass the instruction that they wait at, each by its length. -/
def Course.passEach (c : Course) (ls : List Nat) : Course := ls.foldl (fun c i => c.advance1 i (Cells.get c.waitLen i).toNat) c

/-- Passing changes nothing but the places of lanes. -/
theorem Course.unplaced_passEach (c : Course) (ls : List Nat) : (c.passEach ls).unplaced = c.unplaced := by
  induction ls generalizing c with
  | nil => rfl
  | cons i ls ih => rw [Course.passEach, List.foldl_cons, ← Course.passEach, ih, Course.unplaced_advance1]

theorem Course.pcOf_passEach {ls : List Nat} (wf : Cells.wf c.pc = true) (distinct : ls.Nodup) (i : Nat) :
    (c.passEach ls).pcOf i = if i ∈ ls then (c.pcOf i + (Cells.get c.waitLen i).toNat) % 2 ^ 53 else c.pcOf i := by
  induction ls generalizing c with
  | nil => rfl
  | cons j ls ih =>
    obtain ⟨fresh, distinct⟩ := List.nodup_cons.mp distinct
    have kept : Cells.wf (c.advance1 j (Cells.get c.waitLen j).toNat).pc = true := by rw [Course.pc_advance1]; exact Cells.wf_set _ _ _ wf
    have lengths : (c.advance1 j (Cells.get c.waitLen j).toNat).waitLen = c.waitLen :=
      (congrArg Course.waitLen (c.unplaced_advance1 j _) :)
    rw [Course.passEach, List.foldl_cons, ← Course.passEach, ih kept distinct, Course.pcOf_advance1 wf, lengths]
    by_cases own : i = j
    · subst own
      simp [fresh]
    · simp [own]

/-- The lanes of a mask that are live. -/
def Course.enrolled (c : Course) (k : Nat) : LaneSet := Cells.get c.enr k &&& c.live

/-- All enrolled live lanes of a mask wait on it. -/
abbrev Course.complete (c : Course) (k : Nat) : Prop := Cells.get c.waitm k ≠ 0 ∧ Cells.get c.waitm k = c.enrolled k

/-- The course of a mask whose enrolled live lanes have all passed their `waitm`. -/
def Course.passMask (c : Course) (k : Nat) : Course := (c.enrol k (c.enrolled k)).passEach (LaneSet.toList (Cells.get c.waitm k))

theorem Course.passMask_enr (c : Course) (k : Nat) : (c.passMask k).enr = Cells.set c.enr k (c.enrolled k) :=
  (congrArg Course.enr (Course.unplaced_passEach _ _) :)

theorem Course.passMask_waitm (c : Course) (k : Nat) : (c.passMask k).waitm = c.waitm := (congrArg Course.waitm (Course.unplaced_passEach _ _) :)

theorem Course.releaseMask_complete (complete : c.complete k) : c.releaseMask k =
    { c.passMask k with enr := Cells.set (c.passMask k).enr k 0, waitm := Cells.set (c.passMask k).waitm k 0
                        waitLen := (LaneSet.toList (Cells.get c.waitm k)).foldl (fun y i => Cells.set y i 0) (c.passMask k).waitLen } := by
  obtain ⟨some, all⟩ := complete
  refine if_pos ?_
  rw [decide_eq_true some, Bool.true_and, beq_iff_eq]
  exact all

theorem Course.releaseMask_waits (waits : ¬ c.complete k) : c.releaseMask k = c.enrol k (c.enrolled k) :=
  if_neg (by simpa [Course.complete, Course.enrolled] using waits)

theorem Course.get_enr_releaseMask (wf : Cells.wf c.enr = true) (k j : Nat) : Cells.get (c.releaseMask k).enr j =
    if j = k then (if c.complete k then 0 else c.enrolled k) else Cells.get c.enr j := by
  by_cases complete : c.complete k
  · rw [Course.releaseMask_complete complete, if_pos complete, Course.passMask_enr, Cells.get_set _ _ _ _ (Cells.wf_set _ _ _ wf),
      Cells.get_set _ _ _ _ wf]
    split_ifs <;> rfl
  · rw [Course.releaseMask_waits complete, if_neg complete]
    exact Cells.get_set _ _ _ _ wf

theorem Course.get_waitm_releaseMask (wf : Cells.wf c.waitm = true) (k j : Nat) : Cells.get (c.releaseMask k).waitm j =
    if j = k ∧ c.complete k then 0 else Cells.get c.waitm j := by
  by_cases complete : c.complete k
  · rw [Course.releaseMask_complete complete, Course.passMask_waitm, Cells.get_set _ _ _ _ wf]
    exact if_congr (and_iff_left complete).symm rfl rfl
  · rw [Course.releaseMask_waits complete, if_neg fun both => complete both.2]
    rfl

/-- Each lane of a released mask has passed its `waitm`. -/
theorem Course.pcOf_releaseMask (wf : Cells.wf c.pc = true) (complete : c.complete k) (lane : i < 32) : (c.releaseMask k).pcOf i =
    if (Cells.get c.waitm k).getLsbD i then (c.pcOf i + (Cells.get c.waitLen i).toNat) % 2 ^ 53 else c.pcOf i := by
  rw [Course.releaseMask_complete complete]
  refine (Course.pcOf_passEach (c := c.enrol k (c.enrolled k)) wf (toList_nodup _) i).trans ?_
  simp only [toList_mem, lane, true_and]
  rfl

/-- Settles O20: `join`, `leave` and `waitm` act by `maskOp`, `mput` by its own cases (`execMput_free`), and a mask releases where it is complete. -/
theorem maskResults : Obligations.MaskResults := by
  refine ⟨fun x s => ⟨fun freely free => ?join, fun freely free => ?leave, fun freely free => ?waitm, fun i maj which free part held => ?held,
    fun free => ?mget, execMput_writes, execMput_waiting, execMput_held, execMput_idle⟩,
    fun c k enr waitm => ⟨fun held all => ?complete, fun waits => ?waits, fun j other => ?others⟩⟩
  case join => exact execJoin_acts freely free
  case leave => exact execLeave_acts freely free
  case waitm => exact execWaitm_acts freely free
  case held =>
    rcases which with ⟨rfl, rfl⟩ | ⟨rfl, rfl⟩ | ⟨rfl, rfl⟩
    · exact execJoin_held held part free
    · exact execLeave_held held part free
    · exact execWaitm_held held part free
  case mget =>
    change execMget x s = _
    rw [execMget, issue_free _ free, done_passed]
    rfl
  case complete =>
    have complete : c.complete k := ⟨held, all⟩
    rw [Course.get_enr_releaseMask enr, Course.get_waitm_releaseMask waitm, if_pos rfl, if_pos complete, if_pos ⟨rfl, complete⟩]
    exact ⟨rfl, rfl, fun pcs i => Course.pcOf_releaseMask pcs complete⟩
  case waits =>
    have incomplete : ¬ c.complete k := fun complete => waits.elim complete.1 (· complete.2)
    rw [Course.get_enr_releaseMask enr, Course.get_waitm_releaseMask waitm, if_pos rfl, if_neg incomplete, if_neg fun both => incomplete both.2,
      Course.releaseMask_waits incomplete]
    exact ⟨rfl, rfl, rfl⟩
  case others =>
    rw [Course.get_enr_releaseMask enr, Course.get_waitm_releaseMask waitm, if_neg other, if_neg fun both => other both.1]
    exact ⟨rfl, rfl⟩

end Sys2Proof.Machine
end

section
/-! ### `trap` and `rett` (R188, R189) -/
namespace Sys2Proof.Machine

open Sys2Proof.Claims

variable {s : State} {x : Ops} {c : Course} {k : Nat}

/-- The ring that `trap n` goes to (R188). -/
abbrev trapRing (x : Ops) : Nat := if x.low4 < 8 then 1 else if x.low4 < 12 then 2 else 3

/-- The course has trapped with its PCs after the instruction (R188). -/
def trapped (s : State) (x : Ops) (cause : Nat) : State := raise (s.pass x) cause (partLanes s x) s.iss.pc 0 0

theorem execTrap_free (free : Free s 0x12 x none [] []) : execTrap x s =
    if partLanes s x = 0 then done s x
    else if s.cur.rgnOpen then trapOut s 0x103
    else .next (trapped s x (if s.cur.ring < trapRing x then 0x120 + x.low4 else 0x134)) := by
  rw [execTrap, issue_free _ free]
  rfl

section
variable (free : Free s 0x12 x none [] []) (part : partLanes s x ≠ 0)
include free part

theorem execTrap_open (opened : s.cur.rgnOpen = true) : execTrap x s = trapOut s 0x103 := by
  rw [execTrap_free free, if_neg part, if_pos opened]

theorem execTrap_closed (closed : s.cur.rgnOpen = false) :
    execTrap x s = .next (trapped s x (if s.cur.ring < trapRing x then 0x120 + x.low4 else 0x134)) := by
  rw [execTrap_free free, if_neg part, closed, if_neg Bool.false_ne_true]

end

/-- The cause of `rett`, if one applies (R189). -/
def rettSub (c : Course) : Option Nat :=
  minSub [subIf (!c.reconverged) 0xB5, subIf (c.ring = 0) 0x132, subIf (c.ring = 1 && !c.frameBusy) 0x137]

theorem execRett_trap (free : Free s 0x13 x none [] []) (cause : rettSub s.cur = some k) : execRett x s = trapOut s k := by
  rw [rettSub] at cause
  simp only [execRett, issue_free _ free, cause]

theorem execRett_clear (free : Free s 0x13 x none [] []) (clear : rettSub s.cur = none) : execRett x s =
    if s.cur.ops.any (fun o => o.ring == s.cur.ring && o.holdsLater) then stallIssue s else .next (returnTrap s) := by
  rw [rettSub] at clear
  simp only [execRett, issue_free _ free, clear]

theorem rettSub_clear (joined : c.reconverged = true) (handler : c.ring ≠ 0) (served : c.ring = 1 → c.frameBusy = true) : rettSub c = none := by
  have none1 : (decide (c.ring = 1) && !c.frameBusy) = false := by simpa using served
  rw [rettSub, joined, decide_eq_false handler, none1]
  rfl

theorem rettSub_apart (apart : c.reconverged = false) : rettSub c = some 0xB5 := by
  rw [rettSub, apart]
  refine minSub_lowest (List.forall_mem_cons.mpr ⟨fun n h => ?_, List.forall_mem_singleton.mpr fun n h => ?_⟩)
  all_goals rw [eq_of_subIf_eq_some h]; decide

theorem rettSub_program (joined : c.reconverged = true) (program : c.ring = 0) : rettSub c = some 0x132 := by
  rw [rettSub, joined, program]
  rfl

theorem rettSub_unserved (joined : c.reconverged = true) (handler : c.ring = 1) (idle : c.frameBusy = false) : rettSub c = some 0x137 := by
  rw [rettSub, joined, handler, idle]
  rfl

/-- Settles O24: `trap` by its open region and its ring, and `rett` by `rettSub`, the lowest cause that applies. -/
theorem trapAndReturn : Obligations.TrapAndReturn := by
  refine ⟨fun x s free => ⟨fun part closed below => ?above, fun part closed reached => ?lower, execTrap_open free, fun idle => ?idle⟩,
    fun x s free => ⟨fun joined handler served settled => ?returns, fun joined handler served waits => ?stalls,
      fun apart => execRett_trap free (rettSub_apart apart), fun joined program => execRett_trap free (rettSub_program joined program),
      fun joined handler unserved => execRett_trap free (rettSub_unserved joined handler unserved)⟩⟩
  case above =>
    refine (execTrap_closed free part closed).trans ?_
    rw [if_pos below, trapped]
  case lower =>
    refine (execTrap_closed free part closed).trans ?_
    rw [if_neg (not_lt.mpr reached), trapped]
  case idle =>
    refine (execTrap_free free).trans ?_
    rw [if_pos idle, done_passed]
  case returns =>
    refine (execRett_clear free (rettSub_clear joined handler served)).trans ?_
    rw [settled, if_neg Bool.false_ne_true]
  case stalls =>
    refine (execRett_clear free (rettSub_clear joined handler served)).trans ?_
    rw [waits, if_pos rfl]

end Sys2Proof.Machine
end

section
/-! ### Fields of a block (R192, R419) -/
namespace Sys2Proof.Machine

variable {fs hs : Fields} {raw off size v i k n top w : Nat} {f : Nat → Nat}

/-! #### Fields that do not meet -/

/-- Two fields have no byte in common. -/
abbrev Apart (f g : Nat × Nat × Nat) : Prop := f.1 + f.2.1 ≤ g.1 ∨ g.1 + g.2.1 ≤ f.1

/-- The number of numbers without a common bit: their sum has the bits of both. -/
theorem add_eq_or_of_and {x y : Nat} (disjoint : x &&& y = 0) : x + y = x ||| y := by
  have bound : x + y < 2 ^ (x + y) := Nat.lt_two_pow_self
  have sum := BitVec.add_eq_or_of_and_eq_zero (BitVec.ofNat (x + y) x) (BitVec.ofNat (x + y) y) (by
    rw [← BitVec.ofNat_and, disjoint])
  have sum := congrArg BitVec.toNat sum
  rwa [← BitVec.ofNat_or, ← BitVec.ofNat_add, BitVec.toNat_ofNat, BitVec.toNat_ofNat, Nat.mod_eq_of_lt bound, Nat.mod_eq_of_lt] at sum
  exact Nat.or_lt_two_pow (by omega) (by omega)

theorem packFields_eq_sum (fs : Fields) : packFields fs = (fs.map fun f => f.2.2 % 2 ^ (8 * f.2.1) * 2 ^ (8 * f.1)).sum := by
  rw [packFields, List.sum_eq_foldl, List.foldl_map]

theorem packFields_cons (f : Nat × Nat × Nat) (fs : Fields) :
    packFields (f :: fs) = f.2.2 % 2 ^ (8 * f.2.1) * 2 ^ (8 * f.1) + packFields fs := by
  simp only [packFields_eq_sum, List.map_cons, List.sum_cons]

theorem packFields_append (fs hs : Fields) : packFields (fs ++ hs) = packFields fs + packFields hs := by
  simp only [packFields_eq_sum, List.map_append, List.sum_append]

/-- A field has a bit of the block. -/
def HasBit (k : Nat) (f : Nat × Nat × Nat) : Prop := 8 * f.1 ≤ k ∧ k < 8 * (f.1 + f.2.1) ∧ f.2.2.testBit (k - 8 * f.1) = true

theorem testBit_field (f : Nat × Nat × Nat) (k : Nat) : (f.2.2 % 2 ^ (8 * f.2.1) * 2 ^ (8 * f.1)).testBit k = true ↔ HasBit k f := by
  rw [Nat.mul_comm, Nat.testBit_two_pow_mul, Nat.testBit_mod_two_pow]
  simp only [HasBit, Bool.and_eq_true, decide_eq_true_eq]
  exact and_congr_right fun lo => and_congr_left' (by omega)

theorem HasBit.not_apart {f g : Nat × Nat × Nat} (bf : HasBit k f) (bg : HasBit k g) : ¬ Apart f g := by
  obtain ⟨loF, hiF, -⟩ := bf
  obtain ⟨loG, hiG, -⟩ := bg
  rintro (below | above) <;> omega

/-- The bits of a block are those of its fields. -/
theorem testBit_packFields (tidy : fs.Pairwise Apart) (k : Nat) : (packFields fs).testBit k = true ↔ ∃ f ∈ fs, HasBit k f := by
  induction fs generalizing k with
  | nil => simp [packFields]
  | cons f fs ih =>
    obtain ⟨apart, tidy⟩ := List.pairwise_cons.mp tidy
    have disjoint : f.2.2 % 2 ^ (8 * f.2.1) * 2 ^ (8 * f.1) &&& packFields fs = 0 := by
      refine Nat.eq_of_testBit_eq fun j => ?_
      rw [Nat.testBit_and, Nat.zero_testBit, Bool.and_eq_false_iff, ← Bool.not_eq_true, ← Bool.not_eq_true, testBit_field, ih tidy, ← not_and_or]
      rintro ⟨own, g, member, other⟩
      exact own.not_apart other (apart g member)
    rw [packFields_cons, add_eq_or_of_and disjoint, Nat.testBit_or, Bool.or_eq_true, testBit_field, ih tidy, List.exists_mem_cons_iff]

theorem testBit_fieldAt (raw off size j : Nat) : (fieldAt raw off size).testBit j = (decide (j < 8 * size) && raw.testBit (8 * off + j)) := by
  rw [fieldAt, Nat.testBit_mod_two_pow, Nat.testBit_div_two_pow, Nat.add_comm j]

/-- A field is read back as it was put. -/
theorem fieldAt_of_mem (tidy : fs.Pairwise Apart) (member : (off, size, v) ∈ fs) : fieldAt (packFields fs) off size = v % 2 ^ (8 * size) := by
  have symmetric : Std.Symm Apart := ⟨fun _ _ => Or.symm⟩
  refine Nat.eq_of_testBit_eq fun j => Bool.eq_iff_iff.mpr ?_
  rw [testBit_fieldAt, Nat.testBit_mod_two_pow, Bool.and_eq_true, Bool.and_eq_true, testBit_packFields tidy, decide_eq_true_eq]
  refine and_congr_right fun inside => ⟨?_, fun bit => ⟨_, member, by omega, by dsimp only; omega, ?_⟩⟩
  · rintro ⟨g, listed, bit⟩
    have own : (off, size, v) = g := by
      by_contra other
      have apart := tidy.forall member listed other
      obtain ⟨lo, hi, -⟩ := bit
      dsimp only [Apart] at apart
      omega
    subst own
    simpa using bit.2.2
  · simpa using bit

/-- Bytes of which no field has any read zero. -/
theorem fieldAt_gap (tidy : fs.Pairwise Apart) (free : ∀ f ∈ fs, Apart f (off, size, 0)) : fieldAt (packFields fs) off size = 0 := by
  refine Nat.eq_of_testBit_eq fun j => ?_
  rw [testBit_fieldAt, Nat.zero_testBit, Bool.and_eq_false_iff, ← Bool.not_eq_true, ← Bool.not_eq_true, ← not_and_or, testBit_packFields tidy,
    decide_eq_true_eq]
  rintro ⟨inside, g, listed, lo, hi, -⟩
  have apart := free g listed
  dsimp only [Apart] at apart
  omega

/-- Bits above a field do not matter to it. -/
theorem fieldAt_mod (below : off + size ≤ top) (raw : Nat) : fieldAt (raw % 2 ^ (8 * top)) off size = fieldAt raw off size := by
  refine Nat.eq_of_testBit_eq fun j => ?_
  rw [testBit_fieldAt, testBit_fieldAt, Nat.testBit_mod_two_pow]
  by_cases inside : j < 8 * size
  · rw [decide_eq_true (show 8 * off + j < 8 * top by omega), Bool.true_and]
  · rw [decide_eq_false inside, Bool.false_and, Bool.false_and]

/-- Fields that stand above do not matter to one below, even where they meet each other. -/
theorem fieldAt_append (below : off + size ≤ top) (above : ∀ f ∈ hs, top ≤ f.1) :
    fieldAt (packFields (fs ++ hs)) off size = fieldAt (packFields fs) off size := by
  have multiple : 2 ^ (8 * top) ∣ packFields hs := by
    rw [packFields_eq_sum]
    refine List.dvd_sum fun y listed => ?_
    obtain ⟨f, member, rfl⟩ := List.mem_map.mp listed
    exact Dvd.dvd.mul_left (Nat.pow_dvd_pow 2 (by have := above f member; omega)) _
  rw [← fieldAt_mod below, packFields_append, Nat.add_mod, Nat.mod_eq_zero_of_dvd multiple, Nat.add_zero, Nat.mod_mod, fieldAt_mod below]

/-- A word fits a field that is no shorter. -/
theorem toNat_mod_of_le (v : BitVec w) (fits : w ≤ n) : v.toNat % 2 ^ n = v.toNat :=
  Nat.mod_eq_of_lt (Nat.lt_of_lt_of_le v.isLt (Nat.pow_le_pow_right (by decide) fits))

/-! #### Layouts: arrays that do not meet -/

/-- A stretch of a block: entries of one size side by side. -/
structure Stretch where
  off : Nat
  size : Nat
  count : Nat
  entry : Nat → Nat

/-- Its fields. -/
def Stretch.fields (a : Stretch) : Fields := arrayField a.off a.size a.count a.entry

/-- A field as a stretch of one entry. -/
def Stretch.one (f : Nat × Nat × Nat) : Stretch := { off := f.1, size := f.2.1, count := 1, entry := fun _ => f.2.2 }

/-- The bytes of a stretch: its offset and its length. -/
def Stretch.extent (a : Stretch) : Nat × Nat := (a.off, a.size * a.count)

/-- Two extents have no byte in common. -/
abbrev ExtentsApart (e g : Nat × Nat) : Prop := e.1 + e.2 ≤ g.1 ∨ g.1 + g.2 ≤ e.1

/-- The fields of some stretches. -/
def layout (as : List Stretch) : Fields := as.flatMap Stretch.fields

theorem layout_append (as bs : List Stretch) : layout (as ++ bs) = layout as ++ layout bs := List.flatMap_append

theorem layout_ones (fs : Fields) : layout (fs.map Stretch.one) = fs := by
  rw [layout, List.flatMap_map]
  exact List.flatMap_singleton' fs

theorem Stretch.mem_fields {a : Stretch} {f : Nat × Nat × Nat} : f ∈ a.fields ↔ ∃ i < a.count, f = (a.off + a.size * i, a.size, a.entry i) := by
  simp only [Stretch.fields, arrayField, List.mem_map, List.mem_range, eq_comm (a := f)]

/-- The fields of a stretch stand within its extent. -/
theorem Stretch.within {a : Stretch} {f : Nat × Nat × Nat} (member : f ∈ a.fields) : a.off ≤ f.1 ∧ f.1 + f.2.1 ≤ a.off + a.size * a.count := by
  obtain ⟨i, inside, rfl⟩ := Stretch.mem_fields.mp member
  have := Nat.mul_le_mul_left a.size inside
  rw [Nat.mul_succ] at this
  dsimp only
  omega

theorem Stretch.fields_apart {a b : Stretch} (apart : ExtentsApart a.extent b.extent) {f g : Nat × Nat × Nat} (mf : f ∈ a.fields) (mg : g ∈ b.fields) :
    Apart f g := by
  have := Stretch.within mf
  have := Stretch.within mg
  dsimp only [ExtentsApart, Stretch.extent, Apart] at apart ⊢
  omega

theorem Stretch.fields_tidy (a : Stretch) : a.fields.Pairwise Apart := by
  rw [Stretch.fields, arrayField, List.pairwise_map]
  refine List.pairwise_lt_range.imp fun {i j} below => .inl ?_
  have := Nat.mul_le_mul_left a.size below
  rw [Nat.mul_succ] at this
  dsimp only
  omega

theorem layout_tidy {as : List Stretch} (apart : (as.map Stretch.extent).Pairwise ExtentsApart) : (layout as).Pairwise Apart := by
  rw [List.pairwise_map] at apart
  refine List.pairwise_flatMap.mpr ⟨fun a _ => a.fields_tidy, apart.imp fun each f mf g mg => Stretch.fields_apart each mf mg⟩

section
variable {as : List Stretch} (apart : (as.map Stretch.extent).Pairwise ExtentsApart)
include apart

/-- An entry of a stretch is read back as it was put. -/
theorem fieldAt_layout (member : { off := off, size := size, count := n, entry := f } ∈ as) (inside : i < n) :
    fieldAt (packFields (layout as)) (off + size * i) size = f i % 2 ^ (8 * size) :=
  fieldAt_of_mem (layout_tidy apart) (List.mem_flatMap.mpr ⟨_, member, Stretch.mem_fields.mpr ⟨i, inside, rfl⟩⟩)

theorem fieldAt_layout_one (member : Stretch.one (off, size, v) ∈ as) : fieldAt (packFields (layout as)) off size = v % 2 ^ (8 * size) :=
  fieldAt_layout (i := 0) apart member Nat.one_pos

end

/-- Bytes outside every stretch read zero. -/
theorem fieldAt_layout_gap {as : List Stretch} (apart : ((off, size) :: as.map Stretch.extent).Pairwise ExtentsApart) :
    fieldAt (packFields (layout as)) off size = 0 := by
  obtain ⟨clear, apart⟩ := List.pairwise_cons.mp apart
  refine fieldAt_gap (layout_tidy apart) fun f listed => ?_
  obtain ⟨a, member, mf⟩ := List.mem_flatMap.mp listed
  have := Stretch.within mf
  have := clear _ (List.mem_map_of_mem member)
  dsimp only [ExtentsApart, Stretch.extent, Apart] at this ⊢
  omega

end Sys2Proof.Machine
end

section
/-! ### Control blocks (R192 to R195) -/
namespace Sys2Proof.Machine

open Sys2Proof.Claims

variable {s t u : State} {x : Ops} {c : Course} {b resume i j k n w maj : Nat}

/-! #### What a block holds (R192 Table 14) -/

/-- The fields of a control block. -/
def controlFields (c : Course) (resume : Nat) : Fields :=
  [(0, 4, 1), (4, 4, c.live.toNat), (8, 8, resume), (0x5C, 4, c.fpm.toNat), (0x60, 4, c.lfmode.toNat), (0x68, 8, c.rgnWord)]

/-- The stretches of a control block: its fields, the masks, the predicates, the depths, the seeds and the return stacks. -/
def controlStretches (c : Course) (resume : Nat) : List Stretch := (controlFields c resume).map Stretch.one ++
  [{ off := 0x10, size := 4, count := 12, entry := fun k => (Cells.get c.enr k).toNat },
   { off := 0x40, size := 4, count := 7, entry := fun k => (Cells.get c.p k).toNat },
   { off := 0x70, size := 1, count := 32, entry := fun i => (Cells.get c.depth i).toNat },
   { off := 0x100, size := 4, count := 32, entry := fun i => (Cells.get c.srseed i).toNat },
   { off := 0x200, size := 8, count := 256,
     entry := fun k => if k % 8 < (Cells.get c.depth (k / 8)).toNat then (Cells.get c.rstack k).toNat else 0 }]

theorem controlBlock_eq (c : Course) (resume : Nat) : controlBlock c resume = packFields (layout (controlStretches c resume)) := by
  rw [controlStretches, layout_append, layout_ones, controlBlock]
  simp only [layout, Stretch.fields, List.flatMap_cons, List.flatMap_nil, List.append_nil, List.append_assoc, controlFields]

/-- The bytes of a control block that hold something. -/
def controlExtents : List (Nat × Nat) :=
  [(0, 4), (4, 4), (8, 8), (0x5C, 4), (0x60, 4), (0x68, 8), (0x10, 48), (0x40, 28), (0x70, 32), (0x100, 128), (0x200, 2048)]

theorem extent_controlStretches (c : Course) (resume : Nat) : (controlStretches c resume).map Stretch.extent = controlExtents := by
  simp only [controlStretches, controlFields, controlExtents, List.map_cons, List.map_nil, Stretch.extent, Stretch.one, List.cons_append,
    List.nil_append, Nat.reduceMul]

/-- An entry of a control block is read back as it was put: `n` is the place of its stretch. -/
theorem fieldAt_controlBlock {off size count : Nat} {f : Nat → Nat} (n : Nat)
    (listed : (controlStretches c resume)[n]? = some { off := off, size := size, count := count, entry := f }) (inside : i < count) :
    fieldAt (controlBlock c resume) (off + size * i) size = f i % 2 ^ (8 * size) := by
  rw [controlBlock_eq]
  exact fieldAt_layout (by rw [extent_controlStretches]; decide) (List.mem_of_getElem? listed) inside

theorem fieldAt_controlBlock_one {off size v : Nat} (n : Nat) (listed : (controlStretches c resume)[n]? = some (Stretch.one (off, size, v))) :
    fieldAt (controlBlock c resume) off size = v % 2 ^ (8 * size) := by
  rw [controlBlock_eq]
  exact fieldAt_layout_one (by rw [extent_controlStretches]; decide) (List.mem_of_getElem? listed)

/-- The zero fields of Table 14. -/
theorem fieldAt_controlBlock_gap {off size : Nat} (apart : ((off, size) :: controlExtents).Pairwise ExtentsApart) :
    fieldAt (controlBlock c resume) off size = 0 := by
  rw [controlBlock_eq]
  exact fieldAt_layout_gap (by rwa [extent_controlStretches])

section
variable (c resume)

theorem controlBlock_kind : fieldAt (controlBlock c resume) 0 4 = 1 := fieldAt_controlBlock_one 0 rfl

theorem controlBlock_live : fieldAt (controlBlock c resume) 4 4 = c.live.toNat := (fieldAt_controlBlock_one 1 rfl).trans (Nat.mod_eq_of_lt c.live.isLt)

theorem controlBlock_resume : fieldAt (controlBlock c resume) 8 8 = resume % 2 ^ 64 := fieldAt_controlBlock_one 2 rfl

theorem controlBlock_fpm : fieldAt (controlBlock c resume) 0x5C 4 = c.fpm.toNat := (fieldAt_controlBlock_one 3 rfl).trans (Nat.mod_eq_of_lt c.fpm.isLt)

theorem controlBlock_rgn : fieldAt (controlBlock c resume) 0x68 8 = c.rgnWord % 2 ^ 64 := fieldAt_controlBlock_one 5 rfl

theorem controlBlock_enr (inside : k < 12) : fieldAt (controlBlock c resume) (0x10 + 4 * k) 4 = (Cells.get c.enr k).toNat :=
  (fieldAt_controlBlock 6 rfl inside).trans (Nat.mod_eq_of_lt (Cells.get c.enr k).isLt)

theorem controlBlock_p (inside : k < 7) : fieldAt (controlBlock c resume) (0x40 + 4 * k) 4 = (Cells.get c.p k).toNat :=
  (fieldAt_controlBlock 7 rfl inside).trans (Nat.mod_eq_of_lt (Cells.get c.p k).isLt)

theorem controlBlock_depth (lane : i < 32) : fieldAt (controlBlock c resume) (0x70 + i) 1 = (Cells.get c.depth i).toNat := by
  have read := fieldAt_controlBlock (c := c) (resume := resume) 8 rfl lane
  rw [Nat.one_mul] at read
  exact read.trans (toNat_mod_of_le _ (by decide))

theorem controlBlock_return (inside : k < 256) : fieldAt (controlBlock c resume) (0x200 + 8 * k) 8 =
    (if k % 8 < (Cells.get c.depth (k / 8)).toNat then (Cells.get c.rstack k).toNat else 0) % 2 ^ 64 :=
  fieldAt_controlBlock 10 rfl inside

theorem controlBlock_rstack (lane : i < 32) (used : j < (Cells.get c.depth i).toNat) (depth : (Cells.get c.depth i).toNat ≤ 8) :
    fieldAt (controlBlock c resume) (0x200 + 8 * (8 * i + j)) 8 = (Cells.get c.rstack (8 * i + j)).toNat := by
  have own : (8 * i + j) / 8 = i := by omega
  have place : (8 * i + j) % 8 = j := by omega
  rw [controlBlock_return c resume (by omega), own, place, if_pos used, toNat_mod_of_le _ (by decide)]

end

/-! #### What `ctxsv` stores passes the checks of `ctxld` (R194) -/

theorem Course.rgnWord_of_closed (closed : c.rgnOpen = false) : c.rgnWord = c.restarts * 2 ^ 53 + c.rgnPc / 4 * 4 := by
  rw [Course.rgnWord, closed, if_neg Bool.false_ne_true, Nat.add_zero]

theorem controlOk_controlBlock (closed : c.rgnOpen = false) (mode : c.fpm.toNat % 8 ≤ 4) (depths : ∀ i, (Cells.get c.depth i).toNat ≤ 8)
    (aligned : ∀ k, (Cells.get c.rstack k).toNat % 4 = 0) (resume : Nat) : controlOk c (controlBlock c resume) = true := by
  have region : c.rgnWord % 2 ^ 64 % 2 = 0 := by
    rw [Course.rgnWord_of_closed closed]
    omega
  have returns (i : Nat) (lane : i ∈ allLanes) : (decide ((Cells.get c.depth i).toNat ≤ 8) && (List.range (Cells.get c.depth i).toNat).all fun j =>
      decide (fieldAt (controlBlock c resume) (0x200 + 64 * i + 8 * j) 8 < 2 ^ 53) &&
        fieldAt (controlBlock c resume) (0x200 + 64 * i + 8 * j) 8 % 4 == 0) = true := by
    rw [Bool.and_eq_true, decide_eq_true_eq, List.all_eq_true]
    refine ⟨depths i, fun j used => ?_⟩
    rw [show 0x200 + 64 * i + 8 * j = 0x200 + 8 * (8 * i + j) by ring,
      controlBlock_rstack c resume (List.mem_range.mp lane) (List.mem_range.mp used) (depths i), Bool.and_eq_true, decide_eq_true_eq, beq_iff_eq]
    exact ⟨(Cells.get c.rstack (8 * i + j)).isLt, aligned _⟩
  have lanes : (allLanes.all fun i => decide (fieldAt (controlBlock c resume) (0x70 + i) 1 ≤ 8) &&
      (List.range (fieldAt (controlBlock c resume) (0x70 + i) 1)).all fun j =>
        decide (fieldAt (controlBlock c resume) (0x200 + 64 * i + 8 * j) 8 < 2 ^ 53) &&
          fieldAt (controlBlock c resume) (0x200 + 64 * i + 8 * j) 8 % 4 == 0) = true := by
    refine List.all_eq_true.mpr fun i lane => ?_
    rw [controlBlock_depth c resume (List.mem_range.mp lane)]
    exact returns i lane
  rw [controlOk, controlBlock_kind, controlBlock_live, controlBlock_rgn, controlBlock_fpm, fieldAt_controlBlock_gap (by decide),
    fieldAt_controlBlock_gap (by decide), fieldAt_controlBlock_gap (by decide), region, decide_eq_true mode, lanes]
  simp only [beq_self_eq_true, Bool.and_true]

/-! #### What `ctxld` restores (R194) -/

theorem get_cellsFrom (w n : Nat) (f : Nat → Nat) (k : Nat) : Cells.get (cellsFrom w n f) k = if k < n then BitVec.ofNat w (f k) else 0 := by
  rw [cellsFrom, Cells.setAll, List.foldl_map]
  refine (Cells.get_foldl (List.range n) (fun i => BitVec.ofNat w (f i)) [] k rfl).trans ?_
  simp only [List.mem_range]
  rfl

/-- A cell read back from a field that holds a word of its width. -/
theorem get_cellsFrom_toNat {f : Nat → Nat} {v : BitVec w} (inside : k < n) (value : f k = v.toNat) : Cells.get (cellsFrom w n f) k = v := by
  rw [get_cellsFrom, if_pos inside, value, BitVec.ofNat_toNat, BitVec.setWidth_eq]

/-- The course without its seeds. -/
def Course.seedless (c : Course) : Course := { c with srseed := [] }

theorem Course.seedless_setSeeds (c : Course) (ls : List Nat) (f : Nat → Nat) : (ls.foldl (fun c i => c.setSeed i (f i)) c).seedless = c.seedless := by
  induction ls generalizing c with
  | nil => rfl
  | cons i ls ih => rw [List.foldl_cons, ih, Course.setSeed, Course.seedless, Course.seedless]

/-- The course as a control block gives it, but for seeds and the places of its lanes. -/
def Course.controlled (c : Course) (b : Nat) : Course :=
  { c with
      enr := cellsFrom 32 12 (fun k => fieldAt b (0x10 + 4 * k) 4), waitm := [], waitLen := []
      p := cellsFrom 32 7 (fun k => fieldAt b (0x40 + 4 * k) 4), fpm := BitVec.ofNat 32 (Nat.land (fieldAt b 0x5C 4) 0x001F1F3F)
      lfmode := BitVec.ofNat 32 (fieldAt b 0x60 4 % 2), caught := 0, rgnPc := bits (fieldAt b 0x68 8) 2 51 * 4, rgnOpen := false
      restarts := bits (fieldAt b 0x68 8) 53 11, depth := cellsFrom 4 32 (fun i => fieldAt b (0x70 + i) 1)
      rstack := cellsFrom 53 256 (fun k => if k % 8 < fieldAt b (0x70 + k / 8) 1 then fieldAt b (0x200 + 8 * k) 8 else 0) }

/-- The course with the seeds of a control block. -/
def Course.seeded (c : Course) (b : Nat) : Course := allLanes.foldl (fun c i => c.setSeed i (fieldAt b (0x100 + 4 * i) 4)) c

theorem Course.seedless_seeded (c : Course) (b : Nat) : (c.seeded b).seedless = c.seedless := Course.seedless_setSeeds c allLanes _

/-- What seeds do not change. -/
theorem Course.keeps_seeded {α : Type} (g : Course → α) (seedless : ∀ c, g c.seedless = g c) (c : Course) (b : Nat) : g (c.seeded b) = g c := by
  rw [← seedless, Course.seedless_seeded, seedless]

theorem Course.unplaced_jump (c : Course) (m : LaneSet) (f : Nat → Nat) : (c.jump m f).unplaced = c.unplaced := rfl

theorem loadControl_eq (c : Course) (b : Nat) :
    loadControl c b = ((c.controlled b).seeded b).jump ((c.controlled b).seeded b).live (fun _ => bits (fieldAt b 8 8) 2 51 * 4) := by
  rw [loadControl, Course.seeded, Course.controlled]

/-- What of the course neither seeds nor the places of lanes change, a loaded block gives. -/
theorem loadControl_keeps {α : Type} (g : Course → α) (unplaced : ∀ c, g c.unplaced = g c) (seedless : ∀ c, g c.seedless = g c) (c : Course) (b : Nat) :
    g (loadControl c b) = g (c.controlled b) := by
  rw [← unplaced, loadControl_eq, Course.unplaced_jump, unplaced, Course.keeps_seeded g seedless]

section
variable (c : Course) (b : Nat)

theorem loadControl_enr : (loadControl c b).enr = cellsFrom 32 12 (fun k => fieldAt b (0x10 + 4 * k) 4) := by
  rw [loadControl_keeps Course.enr (fun _ => rfl) (fun _ => rfl), Course.controlled]

theorem loadControl_p : (loadControl c b).p = cellsFrom 32 7 (fun k => fieldAt b (0x40 + 4 * k) 4) := by
  rw [loadControl_keeps Course.p (fun _ => rfl) (fun _ => rfl), Course.controlled]

theorem loadControl_fpm : (loadControl c b).fpm = BitVec.ofNat 32 (Nat.land (fieldAt b 0x5C 4) 0x001F1F3F) := by
  rw [loadControl_keeps Course.fpm (fun _ => rfl) (fun _ => rfl), Course.controlled]

theorem loadControl_depth : (loadControl c b).depth = cellsFrom 4 32 (fun i => fieldAt b (0x70 + i) 1) := by
  rw [loadControl_keeps Course.depth (fun _ => rfl) (fun _ => rfl), Course.controlled]

theorem loadControl_rstack : (loadControl c b).rstack =
    cellsFrom 53 256 (fun k => if k % 8 < fieldAt b (0x70 + k / 8) 1 then fieldAt b (0x200 + 8 * k) 8 else 0) := by
  rw [loadControl_keeps Course.rstack (fun _ => rfl) (fun _ => rfl), Course.controlled]

end

/-- The live lanes go to the resume address. -/
theorem loadControl_pcOf (wf : Cells.wf c.pc = true) (b : Nat) (lane : i < 32) (live : c.live.getLsbD i = true) :
    (loadControl c b).pcOf i = bits (fieldAt b 8 8) 2 51 * 4 % 2 ^ 53 := by
  have pcs : ((c.controlled b).seeded b).pc = c.pc := Course.keeps_seeded Course.pc (fun _ => rfl) _ b
  have lanes : ((c.controlled b).seeded b).live = c.live := Course.keeps_seeded Course.live (fun _ => rfl) _ b
  rw [loadControl_eq, Course.pcOf_jump _ _ (by rw [pcs, wf]) lane, lanes, if_pos live]

/-- Settles O29: the fields of a control block are read back as they were put (`fieldAt_layout`), so that its checks pass and its cells come back. -/
theorem controlRoundTrip : Obligations.ControlRoundTrip := by
  intro c resume closed mode restarts regionPc below aligned depths returns
  refine ⟨controlOk_controlBlock closed mode depths returns resume, fun k inside => ?enr, fun k inside => ?p, fun i lane => ?depth,
    fun i j lane used => ?rstack, fun i lane live pcs => ?pc, ?fpm⟩
  case enr =>
    rw [loadControl_enr]
    exact get_cellsFrom_toNat inside (controlBlock_enr c resume inside)
  case p =>
    rw [loadControl_p]
    exact get_cellsFrom_toNat inside (controlBlock_p c resume inside)
  case depth =>
    rw [loadControl_depth]
    exact get_cellsFrom_toNat lane (controlBlock_depth c resume lane)
  case rstack =>
    rw [loadControl_rstack]
    have depth := depths i
    refine get_cellsFrom_toNat (by omega) ?_
    have own : (8 * i + j) / 8 = i := by omega
    have place : (8 * i + j) % 8 = j := by omega
    rw [own, place, controlBlock_depth c resume lane, if_pos used, controlBlock_rstack c resume lane used depth]
  case pc =>
    have address : bits (fieldAt (controlBlock c resume) 8 8) 2 51 * 4 % 2 ^ 53 = resume := by
      rw [controlBlock_resume, bits]
      omega
    exact (loadControl_pcOf pcs _ lane live).trans address
  case fpm =>
    rw [loadControl_fpm, controlBlock_fpm]

/-! #### What `ctxsv` and `ctxld` answer (R192, R195) -/

/-- The class-1 sub-code of their operands, if one applies. -/
abbrev controlSub (s : State) (x : Ops) : Option Nat := minSub [scalarBaseSub s x x.a, srcSub s x (.int false true) x.c, uniSub x.c]

/-- The cause that they meet at issue, if one applies. -/
def controlCause (s : State) (x : Ops) : Option Nat :=
  minSub [subIf (addr64 s x 0 % 256 ≠ 0) 0x3E, subIf (Config.vaLimit < addr64 s x 0 + 2560) 0x40, subIf (!(s.cur.reconverged && s.cur.quiet)) 0xB6,
    subIf s.cur.rgnOpen 0x103, subIf (s.cur.ring = 0) 0x133]

/-- No cause of class 0, 1 or 2 applies where they issue. -/
abbrev ControlFree (s : State) (maj : Nat) (x : Ops) : Prop := Free s maj x (controlSub s x) (opdRefs x.a 2 ++ opdRefs x.c 1) []

/-- Accesses of the course are unfinished. -/
abbrev accessing (s : State) : Bool := s.cur.ops.any (fun o => o.isAccess)

section
variable {kind : Nat} {use : Use} {body : State → Nat → Out} (free : ControlFree s maj x)
include free

theorem controlOp_cause (cause : controlCause s x = some k) :
    controlOp s x maj kind use body = .next (raise s k s.cur.live s.iss.pc (if k < 0x50 then addr64 s x 0 else 0) 0) := by
  rw [controlCause] at cause
  rw [controlOp, issue_free _ free]
  simp only [cause]

variable (clear : controlCause s x = none)
include clear

theorem controlOp_stalls (busy : accessing s = true) : controlOp s x maj kind use body = stallIssue s := by
  rw [controlCause] at clear
  rw [controlOp, issue_free _ free]
  simp only [clear]
  rw [if_pos busy]

/-- Where every line of the block can be accessed, the block is stored or loaded. -/
theorem controlOp_ready (idle : accessing s = false) (lines : checkBlock s use (addr64 s x 0) 20 = (t, .ok)) :
    controlOp s x maj kind use body = body t (addr64 s x 0) := by
  rw [controlCause] at clear
  rw [controlOp, issue_free _ free]
  simp only [clear, lines]
  exact if_neg (ne_true_of_eq_false idle)

end

/-- A base that is no scalar pair takes sub-code 12, where its specifier is valid (R101, R192). -/
theorem scalarBaseSub_vector {o : Opd} (spec : specSub x o = none) (group : groupSub s.cur o 2 = none) (vector : opdIsS o = false) :
    scalarBaseSub s x o = some 12 := by
  rw [scalarBaseSub, spec, group, vector]
  rfl

theorem controlOp_vector {kind : Nat} {use : Use} {body : State → Nat → Out} (clear0 : class0 s maj x = none) (base : scalarBaseSub s x x.a = some 12)
    (offset : srcSub s x (.int false true) x.c = none) (uniform : uniSub x.c = none) : controlOp s x maj kind use body = trapOut s 0x1C := by
  have sub : minSub [scalarBaseSub s x x.a, srcSub s x (.int false true) x.c, uniSub x.c] = some 12 := by
    rw [base, offset, uniform]
    rfl
  rw [controlOp, sub, issue_class1 _ _ clear0]
  rfl

theorem execCtxsv_stores (free : ControlFree s 0x16 x) (clear : controlCause s x = none) (idle : accessing s = false)
    (lines : checkBlock s .write (addr64 s x 0) 20 = (t, .ok))
    (stored : storeLines t (addr64 s x 0) (controlBlock t.cur (t.iss.pc + x.len)) 20 = (u, none)) : execCtxsv x s = .next (passed u x) := by
  rw [execCtxsv, controlOp_ready free clear idle lines, stored]
  rfl

section
variable (free : ControlFree s 0x17 x) (clear : controlCause s x = none) (idle : accessing s = false)
  (lines : checkBlock s .read (addr64 s x 0) 20 = (t, .ok))
include free clear idle lines

theorem execCtxld_loaded (loaded : loadLines t (addr64 s x 0) 20 = (u, .data b)) : execCtxld x s =
    if controlOk u.cur b then .next (noEligible (u.upd (fun c => loadControl c b))) else trapOut u 0xB7 := by
  simp only [execCtxld, controlOp_ready free clear idle lines, loaded]

theorem execCtxld_loads (loaded : loadLines t (addr64 s x 0) 20 = (u, .data b)) (okay : controlOk u.cur b = true) :
    execCtxld x s = .next (noEligible (u.upd (fun c => loadControl c b))) := by
  rw [execCtxld_loaded free clear idle lines loaded, if_pos okay]

theorem execCtxld_refuses (loaded : loadLines t (addr64 s x 0) 20 = (u, .data b)) (bad : controlOk u.cur b = false) :
    execCtxld x s = trapOut u 0xB7 := by
  rw [execCtxld_loaded free clear idle lines loaded, bad, if_neg Bool.false_ne_true]

theorem execCtxld_poison (loaded : loadLines t (addr64 s x 0) 20 = (u, .poison)) :
    execCtxld x s = .next (raise u 0x150 u.cur.live u.iss.pc 0 0) := by
  simp only [execCtxld, controlOp_ready free clear idle lines, loaded]

end

/-- Settles O28: what both share is `controlOp`, by its lowest cause (`controlCause`) and the accesses outstanding; then each acts on its block. -/
theorem controlTransfer : Obligations.ControlTransfer := by
  intro x s t u
  refine ⟨fun free ready => execCtxsv_stores free ready.1 ready.2, fun b free ready => execCtxld_loads free ready.1 ready.2,
    fun b free ready => execCtxld_refuses free ready.1 ready.2, fun free ready => execCtxld_poison free ready.1 ready.2,
    fun i maj which => ?both⟩
  have shared : ∃ kind use body, exec i s = controlOp s x maj kind use body := by
    rcases which with ⟨rfl, rfl⟩ | ⟨rfl, rfl⟩
    · exact ⟨_, _, _, execCtxsv.eq_def x s⟩
    · exact ⟨_, _, _, execCtxld.eq_def x s⟩
  obtain ⟨kind, use, body, shared⟩ := shared
  rw [shared]
  exact ⟨fun free k => controlOp_cause free, controlOp_stalls,
    fun clear0 spec group vector offset uniform => controlOp_vector clear0 (scalarBaseSub_vector spec group vector) offset uniform⟩

end Sys2Proof.Machine
end

section
/-! ### What a return from ring 1 restores (R162, R189, R429) -/
namespace Sys2Proof.Machine

variable {s u : State} {c : Course} {raw va i j k : Nat}

/-! #### Eligible lanes (R36) -/

theorem Course.getLsbD_waiting (c : Course) (i : Nat) :
    c.waiting.getLsbD i = (List.range 12).any (fun k => (Cells.get c.waitm k).getLsbD i) := by
  have folded (ks : List Nat) (w : LaneSet) : (ks.foldl (fun acc k => acc ||| Cells.get c.waitm k) w).getLsbD i =
      (w.getLsbD i || ks.any (fun k => (Cells.get c.waitm k).getLsbD i)) := by
    induction ks generalizing w with
    | nil => exact (Bool.or_false _).symm
    | cons k ks ih => rw [List.foldl_cons, ih, BitVec.getLsbD_or, List.any_cons, Bool.or_assoc]
  rw [Course.waiting, folded, show (0 : LaneSet).getLsbD i = false from BitVec.getLsbD_zero, Bool.false_or]

theorem Course.waits_iff (c : Course) (i : Nat) : c.waiting.getLsbD i = true ↔ ∃ k < 12, (Cells.get c.waitm k).getLsbD i = true := by
  simp only [Course.getLsbD_waiting, List.any_eq_true, List.mem_range]

/-- A lane that the lane-fault mode holds is enrolled in m11 (R163). -/
theorem Course.enrolled_of_held11 (held : c.held11.getLsbD i = true) : (Cells.get c.enr 11).getLsbD i = true := by
  unfold Course.held11 at held
  split_ifs at held
  · exact held
  · rw [BitVec.getLsbD_and, Bool.and_eq_true] at held
    exact held.1

theorem Course.eligible_of_free (lane : i < 32) (live : c.live.getLsbD i = true) (unheld : (Cells.get c.enr 11).getLsbD i = false)
    (free : ∀ k < 12, (Cells.get c.waitm k).getLsbD i = false) : c.eligible ≠ 0 := by
  have waits : c.waiting.getLsbD i = false := by
    rw [← Bool.not_eq_true, Course.waits_iff]
    rintro ⟨k, inside, waits⟩
    exact Bool.noConfusion ((free k inside).symm.trans waits)
  have held : c.held11.getLsbD i = false := by
    rw [← Bool.not_eq_true]
    exact fun held => Bool.noConfusion (unheld.symm.trans (Course.enrolled_of_held11 held))
  have eligible : c.eligible.getLsbD i = true := by
    rw [Course.eligible, BitVec.getLsbD_and, BitVec.getLsbD_and, BitVec.getLsbD_not, BitVec.getLsbD_not, live, waits, held, decide_eq_true lane]
    rfl
  intro none
  rw [none] at eligible
  exact Bool.noConfusion (BitVec.getLsbD_zero.symm.trans eligible)

/-- Where every live lane waits for some mask, none is eligible. -/
theorem Course.eligible_of_waiting (waits : ∀ i, c.live.getLsbD i = true → ∃ k < 12, (Cells.get c.waitm k).getLsbD i = true) : c.eligible = 0 := by
  refine BitVec.eq_of_getLsbD_eq fun i lane => ?_
  rw [Course.eligible, BitVec.getLsbD_and, BitVec.getLsbD_and, BitVec.getLsbD_not]
  cases live : c.live.getLsbD i with
  | false => exact BitVec.getLsbD_zero.symm
  | true =>
    rw [(Course.waits_iff c i).mpr (waits i live), Bool.not_true, Bool.and_false, Bool.and_false, Bool.false_and]
    exact BitVec.getLsbD_zero.symm

/-- A live course of which no lane is eligible traps as a whole (R162). -/
theorem noEligible_raises (life : s.cur.life = .live) (live : s.cur.live ≠ 0) (blocked : s.cur.eligible = 0) (pend : s.cur.pend = [])
    (running : s.cur.stopRing = none) : noEligible s = raise s 0xB0 s.cur.live s.iss.pc 0 0 := by
  unfold noEligible noEligibleAt
  dsimp only
  rw [decide_eq_true life, decide_eq_true live, decide_eq_true blocked, pend, running, List.isEmpty_nil, Option.isNone_none]
  rfl

/-! #### The course that returns -/

/-- The course as its frame gives it. -/
def Course.resumed (c : Course) (u : State) (raw : Nat) : Course :=
  { restoreCourse u c raw with ring := fieldAt raw 3 1 % 4, stopRing := none, stepping := bitAt (fieldAt raw 7 1) 0, stepped := false }

/-- The course as its frame and the state below its handler give it. -/
def Course.returned (c : Course) (u : State) (raw : Nat) : Course :=
  { c.resumed u raw with
      frameBusy := false, wait := (c.resumed u raw).waitBelow, waitBelow := none, caught := (c.resumed u raw).caughtBelow, caughtBelow := 0 }

section
variable (settled : s.cur.ops = []) (read : readBlock s { s.cur.acc with ring := 2 } s.cur.frameBase 32 = (u, raw))
  (okay : frameOkay u s.cur raw s.cur.live.toNat [] = true) (stays : fieldAt raw 6 1 ≠ 1)
include settled read okay stays

/-- Without unfinished operations, a frame that passes its checks resumes the course (R429). -/
theorem resumeFrame_resumes : resumeFrame s 0 s.cur.frameBase = ({ u with cur := s.cur.resumed u raw }, true) := by
  have entries : entriesOf s.cur.ops 0 0 = [] := by rw [settled, entriesOf]
  fun_cases resumeFrame s 0 s.cur.frameBase with
  | case1 c ents t r found bad =>
    obtain ⟨rfl, rfl⟩ := Prod.mk.inj (read.symm.trans found)
    rw [show ents = [] from entries, okay] at bad
    exact absurd bad Bool.false_ne_true
  | case2 c ents t r found good ends =>
    obtain ⟨rfl, rfl⟩ := Prod.mk.inj (read.symm.trans found)
    exact absurd ends stays
  | case3 c ents t r found good goes c1 =>
    obtain ⟨rfl, rfl⟩ := Prod.mk.inj (read.symm.trans found)
    have alone : c1 = restoreCourse u s.cur raw := congrArg (reinjectAll (restoreCourse u s.cur raw) raw · 0) entries
    rw [alone, Course.resumed]

theorem returnTrap_restores (handler : s.cur.ring = 1) : returnTrap s = noEligible { u with cur := s.cur.returned u raw } := by
  simp only [returnTrap, if_pos handler, resumeFrame_resumes settled read okay stays, State.upd, Course.returned]

end

section
variable (c u raw)

theorem Course.returned_pc : (c.returned u raw).pc = cellsFrom 53 32 (fun i => fieldAt raw (0x40 + 8 * i) 8) := by
  rw [Course.returned, Course.resumed, restoreCourse]
theorem Course.returned_enr : (c.returned u raw).enr = cellsFrom 32 12 (fun k => fieldAt raw (0x140 + 4 * k) 4) := by
  rw [Course.returned, Course.resumed, restoreCourse]
theorem Course.returned_waitm : (c.returned u raw).waitm = cellsFrom 32 12 (fun k => fieldAt raw (0x170 + 4 * k) 4) := by
  rw [Course.returned, Course.resumed, restoreCourse]
theorem Course.returned_p : (c.returned u raw).p = cellsFrom 32 7 (fun k => fieldAt raw (0x1A0 + 4 * k) 4) := by
  rw [Course.returned, Course.resumed, restoreCourse]
theorem Course.returned_depth : (c.returned u raw).depth = cellsFrom 4 32 (fun i => bits (fieldAt raw (0x1E0 + i / 2) 1) (4 * (i % 2)) 4) := by
  rw [Course.returned, Course.resumed, restoreCourse]
theorem Course.returned_rstack : (c.returned u raw).rstack = cellsFrom 53 256 (fun k => fieldAt raw (0x800 + 8 * k) 8) := by
  rw [Course.returned, Course.resumed, restoreCourse]
theorem Course.returned_lfmode :
    (c.returned u raw).lfmode = BitVec.ofNat 32 (c.lfmode.toNat / 2 * 2 + bits (fieldAt raw 7 1) 3 1) := by
  rw [Course.returned, Course.resumed, restoreCourse]

/-- What of the course no frame gives. -/
theorem Course.returned_keeps : (c.returned u raw).v = c.v ∧ (c.returned u raw).s = c.s ∧ (c.returned u raw).o = c.o ∧ (c.returned u raw).l = c.l ∧
    (c.returned u raw).live = c.live ∧ (c.returned u raw).fpm = c.fpm ∧ (c.returned u raw).srseed = c.srseed ∧ (c.returned u raw).life = c.life ∧
    (c.returned u raw).pend = c.pend := by
  rw [Course.returned, Course.resumed, restoreCourse]
  exact ⟨rfl, rfl, rfl, rfl, rfl, rfl, rfl, rfl, rfl⟩

/-- What the return itself decides. -/
theorem Course.returned_state : (c.returned u raw).ring = fieldAt raw 3 1 % 4 ∧ (c.returned u raw).frameBusy = false ∧
    (c.returned u raw).wait = c.waitBelow ∧ (c.returned u raw).waitBelow = none ∧ (c.returned u raw).stopRing = none := by
  rw [Course.returned, Course.resumed, restoreCourse]
  exact ⟨rfl, rfl, rfl, rfl, rfl⟩

end

/-- A cell that a frame's field gives, as a number. -/
theorem toNat_get_cellsFrom {w n : Nat} (f : Nat → Nat) (inside : k < n) : (Cells.get (cellsFrom w n f) k).toNat = f k % 2 ^ w := by
  rw [get_cellsFrom, if_pos inside, BitVec.toNat_ofNat]

/-- A bit of a cell that a frame's field gives. -/
theorem getLsbD_get_cellsFrom {n : Nat} (f : Nat → Nat) (inside : k < n) (lane : i < 32) :
    (Cells.get (cellsFrom 32 n f) k).getLsbD i = (f k).testBit i := by
  rw [get_cellsFrom, if_pos inside, BitVec.getLsbD_ofNat, decide_eq_true lane, Bool.true_and]

theorem fieldAt_lt (raw off size : Nat) : fieldAt raw off size < 2 ^ (8 * size) := Nat.mod_lt _ (Nat.two_pow_pos _)

/-- A word of 32 bits that a frame's field gives. -/
theorem toNat_get_cellsFrom_word {n : Nat} (at_ : Nat → Nat) (inside : k < n) :
    (Cells.get (cellsFrom 32 n (fun k => fieldAt raw (at_ k) 4)) k).toNat = fieldAt raw (at_ k) 4 :=
  (toNat_get_cellsFrom _ inside).trans (Nat.mod_eq_of_lt (fieldAt_lt raw (at_ k) 4))

theorem Course.returned_holdMode (c : Course) (u : State) (raw : Nat) : (c.returned u raw).holdMode = bitAt (fieldAt raw 7 1) 3 := by
  rw [Course.holdMode, Course.returned_lfmode, BitVec.getLsbD_ofNat, decide_eq_true (by decide), Bool.true_and, Nat.testBit_zero, bitAt,
    Nat.testBit_eq_decide_div_mod_eq, bits]
  exact decide_eq_decide.mpr (by omega)

/-- Settles O26: the course returns as `Course.returned` (`returnTrap_restores`), whose cells are the frame's fields, and traps where none is eligible. -/
theorem returnRestores : Obligations.ReturnRestores := by
  intro s u raw handler settled read okay stays
  have returns := returnTrap_restores settled read okay stays handler
  obtain ⟨v, scalars, o, l, live, fpm, seeds, life, pend⟩ := Course.returned_keeps u s.cur raw
  obtain ⟨ring, busy, wait, below, running⟩ := Course.returned_state u s.cur raw
  have waits {i k : Nat} (lane : i < 32) (inside : k < 12) : (Cells.get (s.cur.returned u raw).waitm k).getLsbD i =
      (fieldAt raw (0x170 + 4 * k) 4).testBit i := by
    rw [Course.returned_waitm]
    exact getLsbD_get_cellsFrom _ inside lane
  refine ⟨fun free => ?restores, fun blocked lane running1 clear => ?traps⟩
  case restores =>
    obtain ⟨i, lane, alive, unheld, unblocked⟩ := free
    have eligible : (s.cur.returned u raw).eligible ≠ 0 := by
      refine Course.eligible_of_free lane (by rwa [live]) ?_ fun k inside => (waits lane inside).trans (unblocked k inside)
      rw [Course.returned_enr, getLsbD_get_cellsFrom _ (by decide) lane]
      exact unheld
    have landed := returns.trans (noEligible_of { u with cur := s.cur.returned u raw } eligible)
    dsimp only
    rw [landed]
    refine ⟨ring, busy, wait, below, v, scalars, o, l, live, fpm, seeds, Course.returned_holdMode s.cur u raw,
      fun i lane => ⟨?pc, ?depth, fun j inside => ?rstack⟩, fun k inside => ⟨?enr, ?waitm⟩, fun k inside => ?p⟩
    case pc =>
      dsimp only
      rw [Course.pcOf, Course.returned_pc, toNat_get_cellsFrom _ lane]
    case depth =>
      dsimp only
      rw [Course.returned_depth, toNat_get_cellsFrom _ lane]
      exact Nat.mod_eq_of_lt (Nat.mod_lt _ (by decide))
    case rstack =>
      dsimp only
      rw [Course.returned_rstack, toNat_get_cellsFrom _ (show 8 * i + j < 256 by omega), show 0x800 + 8 * (8 * i + j) = 0x800 + 64 * i + 8 * j by ring]
    case enr =>
      dsimp only
      rw [Course.returned_enr, toNat_get_cellsFrom_word _ inside]
    case waitm =>
      dsimp only
      rw [Course.returned_waitm, toNat_get_cellsFrom_word _ inside]
    case p =>
      dsimp only
      rw [Course.returned_p, toNat_get_cellsFrom_word _ inside]
  case traps =>
    have ineligible : (s.cur.returned u raw).eligible = 0 := by
      refine Course.eligible_of_waiting fun i alive => ?_
      rw [live] at alive
      obtain ⟨k, inside, held⟩ := blocked i alive
      exact ⟨k, inside, (waits (BitVec.lt_of_getLsbD alive) inside).trans held⟩
    have trapped := noEligible_raises (s := { u with cur := s.cur.returned u raw }) (life.trans running1) (by rwa [live]) ineligible (pend.trans clear) running
    refine ⟨{ u with cur := s.cur.returned u raw }, live, ?_⟩
    dsimp only at trapped ⊢
    rw [returns, trapped, live]

end Sys2Proof.Machine
end

section
/-! ### What writes at home leave of the course (R209, R228, R257, R259) -/
namespace Sys2Proof.Machine

variable {s t : State} {α : Type} {k n v va pa level la dev : Nat} {a : Acc} {l : Line} {m : BitVec 128} {d : BitVec 1024} {p : BitVec 2}

/-- What the memory system leaves as it was of the course in the issue unit and of the vectors: all but the peers that the course has written (R259). -/
def State.seat (s : State) : Course × Cells 64 := ({ s.cur with peers := 0 }, s.tvec1)

/-! Each function of the memory system keeps the seat: `seat_f` says it of `f`, in the order of the model's files. -/

theorem seat_of_fields (cur : t.cur = s.cur) (tvec1 : t.tvec1 = s.tvec1) : t.seat = s.seat := by rw [State.seat, State.seat, cur, tvec1]

theorem seat_ite {c : Prop} [Decidable c] {x y : State} (hx : x.seat = s.seat) (hy : y.seat = s.seat) : (if c then x else y).seat = s.seat := by
  split
  · exact hx
  · exact hy

theorem seat_ite_fst {c : Prop} [Decidable c] {x y : State × α} (hx : x.1.seat = s.seat) (hy : y.1.seat = s.seat) : (if c then x else y).1.seat = s.seat := by
  split
  · exact hx
  · exact hy

theorem seat_foldl {f : State → α → State} (hf : ∀ s x, (f s x).seat = s.seat) (xs : List α) (s : State) : (xs.foldl f s).seat = s.seat := by
  induction xs generalizing s with
  | nil => rfl
  | cons x xs ih => exact (ih _).trans (hf s x)

/-- The state of a result that is known. -/
theorem seat_of_eq {x : State × α} {r : α} (h : x.1.seat = s.seat) (e : x = (t, r)) : t.seat = s.seat := by
  subst e
  exact h

/-! #### Tables, physical memory and packets -/

theorem seat_sectorSettle (s : State) (k : Nat) (whole : Bool) : (sectorSettle s k whole).seat = s.seat := by
  unfold sectorSettle
  exact seat_ite rfl (seat_of_fields rfl rfl)

theorem seat_settleFor (s : State) (pa n : Nat) : (settleFor s pa n).seat = s.seat := seat_ite rfl (seat_foldl (fun s k => seat_sectorSettle s k _) _ s)
theorem seat_physWrite (s : State) (pa n v : Nat) : (physWrite s pa n v).seat = s.seat := seat_ite (seat_settleFor s pa n) rfl
theorem seat_fillWalk (s : State) (asid va table level : Nat) : (fillWalk s asid va table level).seat = s.seat := seat_ite rfl rfl

theorem seat_fillWalks (s : State) (asid va table level : Nat) : (fillWalks s asid va table level).seat = s.seat := by
  fun_induction fillWalks with
  | case1 | case2 => rfl
  | case3 _ _ _ _ _ ih => exact ih.trans (seat_fillWalk ..)

theorem seat_fillTlb (s : State) (a : Acc) (va : Nat) : (fillTlb s a va).seat = s.seat := by
  fun_cases fillTlb s a va with
  | case1 | case3 => rfl
  | case2 => exact seat_fillWalks ..

theorem seat_perfAdd (s : State) (tenant off n : Nat) : (perfAdd s tenant off n).seat = s.seat := seat_ite rfl (seat_ite rfl rfl)
theorem seat_sendPkt (s : State) (p : Packet) : (sendPkt s p).seat = s.seat := seat_perfAdd ..
theorem seat_postWr (s : State) (vf dev : Nat) (p : Packet) : (postWr s vf dev p).seat = s.seat := seat_ite (seat_sendPkt s p) rfl

theorem seat_invalidateSharers (s : State) (l : Line) (writer : Option Nat) : (invalidateSharers s l writer).seat = s.seat :=
  seat_ite rfl (seat_foldl seat_sendPkt _ _)

/-! #### HBM and L2 -/

theorem seat_hbmPutLine (s : State) (pa : Nat) (m : BitVec 128) (d : BitVec 1024) (p : BitVec 2) (crc : BitVec 32) :
    (hbmPutLine s pa m d p crc).seat = s.seat := by
  have settled : (if s.hmeta.isEmpty then s
      else [0, 1].foldl (fun s k => if m &&& byteMask (64 * k) 64 = 0 then s else sectorSettle s (pa / 64 + k) (covers m (byteMask (64 * k) 64))) s).seat =
      s.seat := seat_ite rfl (seat_foldl (fun s k => seat_ite rfl (seat_sectorSettle s _ _)) _ s)
  unfold hbmPutLine
  refine seat_ite rfl (seat_ite ?_ ?_)
  · exact settled
  · refine (seat_foldl (fun s k => ?_) [0, 1] _).trans settled
    exact seat_ite rfl rfl

theorem seat_countCorrection (s : State) (unit bank : Nat) : (countCorrection s unit bank).seat = s.seat := seat_ite rfl rfl

theorem seat_readRowOf (s : State) (unit d y : Nat) : (readRowOf s unit d y).1.seat = s.seat := by
  fun_cases readRowOf s unit d y with
  | case1 | case3 | case4 => rfl
  | case2 => exact seat_countCorrection ..

theorem seat_readLine (s : State) (unit : Nat) (l : Line) : (readLine s unit l).1.seat = s.seat := by
  fun_cases readLine s unit l with
  | case1 => rfl
  | case2 _ _ _ e | case3 _ _ _ e => exact seat_of_eq (seat_readRowOf ..) e

theorem seat_takeBucket (s : State) (tenant : Nat) (harvest : Bool) (la : Nat) : (takeBucket s tenant harvest la).seat = s.seat := seat_perfAdd ..

theorem seat_l2WriteBack (s : State) (l : Line) : (l2WriteBack s l).seat = s.seat := by
  fun_cases l2WriteBack s l with
  | case1 | case3 => rfl
  | case2 => exact (seat_hbmPutLine ..).trans ((seat_takeBucket ..).trans (seat_readLine ..))

theorem seat_l2Evict (s : State) (l : Line) : (l2Evict s l).seat = s.seat :=
  (seat_invalidateSharers _ l none).trans (seat_ite rfl (seat_l2WriteBack s l))

theorem seat_l2Fill (s : State) (a : Acc) (l : Line) : (l2Fill s a l).1.seat = s.seat := by
  fun_cases l2Fill s a l with
  | case1 => rfl
  | case2 _ victim _ t =>
    cases victim with
    | none => rfl
    | some x => exact seat_l2Evict s x

theorem seat_homeGet0 (s : State) (a : Acc) (va : Nat) (u : Use) : (homeGet0 s a va u).1.seat = s.seat := by
  have mismatch {hit : Option Line} {as : Nat} :
      (match hit, l2Find s as (lineOf va) with | none, some _ => l2Drop s as (lineOf va) | _, _ => s).seat = s.seat := by
    split <;> rfl
  fun_cases homeGet0 s a va u with
  | case1 | case2 | case3 => exact mismatch
  | case4 => exact (seat_perfAdd ..).trans ((seat_readLine ..).trans mismatch)
  | case5 | case6 => exact (seat_readLine ..).trans mismatch
  | case7 => exact (seat_takeBucket _ a.tenant a.harvest (lineOf va)).trans ((seat_readLine ..).trans mismatch)
  | case8 => exact (seat_perfAdd ..).trans mismatch
  | case9 | case10 | case11 => exact (seat_fillTlb ..).trans ((seat_perfAdd ..).trans mismatch)
  | case12 => exact (seat_l2Fill ..).trans ((seat_takeBucket ..).trans ((seat_fillTlb ..).trans ((seat_perfAdd ..).trans mismatch)))

theorem seat_homePut (s : State) (l : Line) (held : Bool) (m : BitVec 128) : (homePut s l held m).seat = s.seat := by
  fun_cases homePut s l held m with
  | case1 | case3 => rfl
  | case2 => exact (seat_hbmPutLine ..).trans (seat_takeBucket ..)

/-! #### Rings and events -/

theorem seat_ringStore (s : State) (asid va n v : Nat) : (ringStore s asid va n v).seat = s.seat := by
  fun_cases ringStore s asid va n v with
  | case1 _ _ _ _ e => exact (seat_homePut ..).trans (seat_of_eq (seat_homeGet0 ..) e)
  | case2 _ _ _ _ e => exact seat_of_eq (seat_homeGet0 ..) e

theorem seat_physHomeWrite (s : State) (pa n v : Nat) : (physHomeWrite s pa n v).seat = s.seat := seat_physWrite ..

theorem seat_ringPut (s : State) (r : Ring) : (ringPut s r).seat = s.seat :=
  (seat_physHomeWrite ..).trans ((seat_physHomeWrite ..).trans (seat_physHomeWrite ..))

theorem seat_ringAppend (s : State) (k : RingKind) (mk : Nat → Nat) : (ringAppend s k mk).1.seat = s.seat := by
  fun_cases ringAppend s k mk with
  | case1 | case2 => rfl
  | case3 => exact seat_ringPut ..
  | case4 => exact (seat_ringPut ..).trans (seat_ringStore ..)

theorem seat_postDie (s : State) (die : Nat) (e : Event) : (postDie s die e).seat = s.seat := seat_ringAppend ..

theorem seat_postRetired (s : State) : (postRetired s).seat = s.seat := seat_ite rfl (seat_foldl (fun s _ => seat_postDie s _ _) _ _)

theorem seat_dropMismatch (s : State) (asid tenant la : Nat) : (dropMismatch s asid tenant la).seat = s.seat := by
  fun_cases dropMismatch s asid tenant la with
  | case1 | case3 => rfl
  | case2 => exact seat_postDie ..

theorem seat_homeGet (s : State) (a : Acc) (va : Nat) (u : Use) : (homeGet s a va u).1.seat = s.seat :=
  seat_ite_fst (seat_dropMismatch ..) ((seat_postRetired _).trans ((seat_homeGet0 ..).trans (seat_dropMismatch ..)))

/-! #### Writes at home -/

theorem seat_logDirty (s : State) (asid va : Nat) : (logDirty s asid va).seat = s.seat := by
  refine seat_foldl (fun s v => seat_ite rfl ?_) _ s
  split
  · rfl
  · refine seat_ite rfl ?_
    dsimp only
    split
    next e =>
      have appended := seat_of_eq (seat_ringAppend ..) e
      exact appended
    next e =>
      have appended := seat_of_eq (seat_ringAppend ..) e
      exact (seat_postDie ..).trans appended

theorem seat_notifyHost (s : State) (asid va : Nat) : (notifyHost s asid va).seat = s.seat := by
  refine seat_foldl (fun s v => ?_) s.vfs s
  exact seat_ite rfl (seat_ite (seat_of_fields rfl rfl) (seat_ite rfl (seat_of_fields rfl rfl)))

theorem seat_afterWrite (s : State) (asid la : Nat) (m : BitVec 128) : (afterWrite s asid la m).seat = s.seat :=
  (seat_foldl (fun s _ => seat_notifyHost s asid _) _ _).trans (seat_logDirty ..)

theorem seat_homeWrite (s : State) (a : Acc) (la : Nat) (m : BitVec 128) (d : BitVec 1024) (p : BitVec 2) (writer : Option Nat) :
    (homeWrite s a la m d p writer).1.seat = s.seat := by
  fun_cases homeWrite s a la m d p writer with
  | case1 _ _ _ e => exact (seat_postWr ..).trans ((seat_homePut ..).trans (seat_of_eq (seat_homeGet ..) e))
  | case2 _ _ _ e => exact (seat_afterWrite ..).trans ((seat_invalidateSharers ..).trans ((seat_homePut ..).trans (seat_of_eq (seat_homeGet ..) e)))
  | case3 _ _ e => exact (seat_postWr ..).trans (seat_of_eq (seat_homeGet ..) e)
  | case4 _ _ _ _ e => exact seat_of_eq (seat_homeGet ..) e

/-! #### L1 lines and frames -/

/-- A course that has written a peer notes it, and nothing else (R259). -/
theorem seat_notePeers (s : State) (owners : List Nat) (dev : Option Nat) : (notePeers s owners dev).seat = s.seat := by
  cases dev with
  | none => rfl
  | some d =>
    rw [notePeers, State.seat, State.seat]
    dsimp only
    split <;> rfl

theorem seat_readL1 (s : State) (l : Line) : (readL1 s l).1.seat = s.seat := seat_ite_fst rfl ((seat_postRetired _).trans (seat_readLine ..))

theorem seat_l1WriteBack (s : State) (l : Line) : (l1WriteBack s l).1.seat = s.seat := by
  fun_cases l1WriteBack s l with
  | case1 => rfl
  | case2 _ _ _ e => exact seat_of_eq ((seat_homeWrite ..).trans (seat_readL1 ..)) e
  | case3 _ _ _ _ _ e => exact (seat_notePeers ..).trans (seat_of_eq ((seat_homeWrite ..).trans (seat_readL1 ..)) e)
  | case4 _ _ _ _ _ _ e => exact seat_of_eq ((seat_homeWrite ..).trans (seat_readL1 ..)) e

theorem seat_cleanL1 (s : State) (l : Line) : (cleanL1 s l).seat = s.seat := rfl

theorem seat_endPin (s : State) (asid la : Nat) : (endPin s asid la).seat = s.seat := by
  fun_cases endPin s asid la with
  | case1 | case3 => rfl
  | case2 _ _ core _ t =>
    have cleaned : t.seat = s.seat := by
      subst t
      split
      · exact (seat_cleanL1 ..).trans (seat_l1WriteBack ..)
      · rfl
    exact cleaned

theorem seat_l1Stale (s : State) (core asid la : Nat) : (l1Stale s core asid la).seat = s.seat := rfl

theorem seat_writeBlock (s : State) (a : Acc) (va v n : Nat) : (writeBlock s a va v n).seat = s.seat := by
  fun_induction writeBlock s a va v n with
  | case1 => rfl
  | case2 s va v k la s1 s2 ih =>
    have written : s1.seat = s.seat := by
      subst s1
      split
      next e => exact (seat_homeWrite ..).trans ((seat_endPin ..).trans (seat_of_eq (seat_homeWrite ..) e))
      next e => exact seat_of_eq (seat_homeWrite ..) e
    have staled : s2.seat = s1.seat := by
      subst s2
      split
      · exact seat_l1Stale ..
      · rfl
    exact ih.trans (staled.trans written)

/-- Writing a frame leaves the course as it was, but for the peers that it has written. -/
theorem seat_writeFrame (s : State) (c : Course) (va v : Nat) : (writeFrame s c va v).seat = s.seat := seat_writeBlock ..

end Sys2Proof.Machine
end

section
/-! ### What a frame holds (R419) -/
namespace Sys2Proof.Machine

variable {c : Course} {w : FrameWhy} {i k v off size count : Nat}

/-- The fault record that a frame holds of a lane (R421). -/
def frameRecord (c : Course) (w : FrameWhy) (i : Nat) : Nat := if (w.recs ||| c.held11).getLsbD i then (Cells.get c.faults i).toNat else 0

/-- The fields of a frame that are no arrays, but for those of its groups and entries. -/
def frameHead (c : Course) (w : FrameWhy) : Fields :=
  [(0, 2, 1), (2, 1, w.kind), (3, 1, c.ring), (4, 2, w.cause),
   (7, 1, (if c.wait.isSome then 2 else 0) + (if (parkPart c).isSome then 4 else 0) + (if c.holdMode then 8 else 0)), (8, 8, w.tpc),
   (0x10, 4, c.live.toNat), (0x14, 4, w.lanes.toNat), (0x18, 4, (LaneSet.ofFn (fun i => frameRecord c w i ≠ 0)).toNat), (0x1C, 4, c.fpm.toNat),
   (0x20, 8, c.rgnWord), (0x28, 8, w.info), (0x3C, 1, (entriesOf c.ops c.ring 0).length), (0x3D, 1, (groupsOf c).length), (0x3E, 2, c.peers.toNat),
   (0x1BC, 4, parkLanes c), (0x1F0, 8, (parkPart c).getD 0), (0x1F8, 4, sleepLeft c)]

/-- The arrays of a frame. -/
def frameArrays (c : Course) (w : FrameWhy) : List Stretch :=
  [{ off := 0x40, size := 8, count := 32, entry := fun i => c.pcOf i },
   { off := 0x200, size := 4, count := 32, entry := fun i => (Cells.get c.srseed i).toNat },
   { off := 0x280, size := 8, count := 32, entry := frameRecord c w },
   { off := 0x1E0, size := 1, count := 16, entry := fun j => (Cells.get c.depth (2 * j)).toNat + 16 * (Cells.get c.depth (2 * j + 1)).toNat },
   { off := 0x800, size := 8, count := 256,
     entry := fun k => if k % 8 < (Cells.get c.depth (k / 8)).toNat then (Cells.get c.rstack k).toNat else 0 },
   { off := 0x1C0, size := 1, count := 32, entry := fun i => if Cells.get c.chead i = 0 then 0 else 0x80 + (Cells.get c.cdist i).toNat },
   { off := 0x140, size := 4, count := 12, entry := fun k => (Cells.get c.enr k).toNat },
   { off := 0x170, size := 4, count := 12, entry := fun k => (Cells.get c.waitm k).toNat },
   { off := 0x1A0, size := 4, count := 7, entry := fun k => (Cells.get c.p k).toNat },
   { off := 0x380, size := 1, count := 64, entry := fun r => (twoFlags (Cells.get c.sguard r)).1 + 16 * (twoFlags (Cells.get c.sguard r)).2 },
   { off := 0x30, size := 1, count := 12, entry := fun k => (Cells.get c.flags k).toNat }]

/-- The stretches of a frame below its guard groups, its return stacks among them. -/
def frameStretches (c : Course) (w : FrameWhy) : List Stretch := (frameHead c w).map Stretch.one ++ frameArrays c w

/-- A frame of a trap is these stretches and, above, its guard groups, its entries and their payloads, which are as many as there are. -/
theorem buildFrame_eq (own : w.kind ≠ 4) :
    ∃ above, buildFrame c w = packFields (layout (frameStretches c w) ++ above) ∧ ∀ f ∈ above, 0x3C0 ≤ f.1 := by
  refine ⟨?above, ?frame, ?higher⟩
  case frame =>
    rw [frameStretches, layout_append, layout_ones]
    unfold buildFrame
    simp only [own, if_false, decide_false, Bool.false_and, Bool.false_or]
    simp only [frameHead, frameArrays, layout, Stretch.fields, List.flatMap_cons, List.flatMap_nil, List.append_nil, List.append_assoc, decide_eq_true_eq]
    rfl
  case higher =>
    intro f listed
    simp only [List.mem_append, List.mem_flatMap, List.mem_map, List.mem_range] at listed
    obtain ⟨j, -, group⟩ | ⟨j, -, rfl⟩ | ⟨e, -, rfl⟩ := listed
    · split at group
      · simp only [List.mem_cons, List.not_mem_nil, or_false] at group
        obtain rfl | rfl | rfl | rfl | rfl := group <;> dsimp only <;> omega
      · exact absurd group List.not_mem_nil
    · split <;> dsimp only <;> omega
    · dsimp only
      omega

/-- Where the stretches stand. -/
def frameExtents : List (Nat × Nat) :=
  [(0, 2), (2, 1), (3, 1), (4, 2), (7, 1), (8, 8), (0x10, 4), (0x14, 4), (0x18, 4), (0x1C, 4), (0x20, 8), (0x28, 8), (0x3C, 1), (0x3D, 1), (0x3E, 2),
   (0x1BC, 4), (0x1F0, 8), (0x1F8, 4), (0x40, 256), (0x200, 128), (0x280, 256), (0x1E0, 16), (0x800, 2048), (0x1C0, 32), (0x140, 48), (0x170, 48),
   (0x1A0, 28), (0x380, 64), (0x30, 12)]

theorem extent_frameStretches (c : Course) (w : FrameWhy) : (frameStretches c w).map Stretch.extent = frameExtents := by
  simp only [frameStretches, frameHead, frameArrays, frameExtents, List.map_cons, List.map_nil, Stretch.extent, Stretch.one, List.cons_append,
    List.nil_append, Nat.reduceMul]

section
variable (own : w.kind ≠ 4)
include own

/-- An entry of a frame below its guard groups is read back as it was put: `n` is the place of its stretch. -/
theorem fieldAt_buildFrame {f : Nat → Nat} (n : Nat)
    (listed : (frameStretches c w)[n]? = some { off := off, size := size, count := count, entry := f }) (low : off + size * count ≤ 0x3C0)
    (inside : i < count) : fieldAt (buildFrame c w) (off + size * i) size = f i % 2 ^ (8 * size) := by
  obtain ⟨above, frame, higher⟩ := buildFrame_eq (c := c) own
  have entry := Nat.mul_le_mul_left size inside
  rw [Nat.mul_succ] at entry
  rw [frame, fieldAt_append (by omega) higher]
  exact fieldAt_layout (by rw [extent_frameStretches]; decide) (List.mem_of_getElem? listed) inside

theorem fieldAt_buildFrame_one (n : Nat) (listed : (frameStretches c w)[n]? = some (Stretch.one (off, size, v))) (low : off + size ≤ 0x3C0) :
    fieldAt (buildFrame c w) off size = v % 2 ^ (8 * size) :=
  fieldAt_buildFrame (i := 0) own n listed ((Nat.mul_one size).symm ▸ low) Nat.one_pos

variable (c)

theorem buildFrame_version : fieldAt (buildFrame c w) 0 2 = 1 := fieldAt_buildFrame_one own 0 rfl (by decide)
theorem buildFrame_kind : fieldAt (buildFrame c w) 2 1 = w.kind % 2 ^ 8 := fieldAt_buildFrame_one own 1 rfl (by decide)
theorem buildFrame_cause : fieldAt (buildFrame c w) 4 2 = w.cause % 2 ^ 16 := fieldAt_buildFrame_one own 3 rfl (by decide)
theorem buildFrame_tpc : fieldAt (buildFrame c w) 8 8 = w.tpc % 2 ^ 64 := fieldAt_buildFrame_one own 5 rfl (by decide)

theorem buildFrame_live : fieldAt (buildFrame c w) 0x10 4 = c.live.toNat :=
  (fieldAt_buildFrame_one own 6 rfl (by decide)).trans (Nat.mod_eq_of_lt c.live.isLt)

theorem buildFrame_lanes : fieldAt (buildFrame c w) 0x14 4 = w.lanes.toNat :=
  (fieldAt_buildFrame_one own 7 rfl (by decide)).trans (Nat.mod_eq_of_lt w.lanes.isLt)

theorem buildFrame_fpm : fieldAt (buildFrame c w) 0x1C 4 = c.fpm.toNat :=
  (fieldAt_buildFrame_one own 9 rfl (by decide)).trans (Nat.mod_eq_of_lt c.fpm.isLt)

theorem buildFrame_info : fieldAt (buildFrame c w) 0x28 8 = w.info % 2 ^ 64 := fieldAt_buildFrame_one own 11 rfl (by decide)

theorem buildFrame_pc (lane : i < 32) : fieldAt (buildFrame c w) (0x40 + 8 * i) 8 = c.pcOf i :=
  (fieldAt_buildFrame own 18 rfl (by decide) lane).trans (toNat_mod_of_le _ (by decide))

theorem buildFrame_enr (inside : k < 12) : fieldAt (buildFrame c w) (0x140 + 4 * k) 4 = (Cells.get c.enr k).toNat :=
  (fieldAt_buildFrame own 24 rfl (by decide) inside).trans (Nat.mod_eq_of_lt (Cells.get c.enr k).isLt)

theorem buildFrame_p (inside : k < 7) : fieldAt (buildFrame c w) (0x1A0 + 4 * k) 4 = (Cells.get c.p k).toNat :=
  (fieldAt_buildFrame own 26 rfl (by decide) inside).trans (Nat.mod_eq_of_lt (Cells.get c.p k).isLt)

end

end Sys2Proof.Machine
end

section
/-! ### Taking a trap to ring 1 (R391, R419, R424 to R427) -/
namespace Sys2Proof.Machine

open Sys2Proof.Claims

variable {s t : State} {cause tpc info : Nat} {ls recs : LaneSet}

/-- What the seat holds of the course, peers aside. -/
theorem cur_of_seat {α : Type} (g : Course → α) (peerless : ∀ c, g { c with peers := 0 } = g c) (same : t.seat = s.seat) : g t.cur = g s.cur := by
  rw [← peerless t.cur, ← peerless s.cur]
  exact congrArg (fun p => g p.1) same

theorem tvec1_of_seat (same : t.seat = s.seat) : t.tvec1 = s.tvec1 := congrArg Prod.snd same

/-- A course as its frame finds it: its `sleep` settled, the trap taken off its list, and an entry for each of its operations (R424). -/
def Course.framed (c : Course) (w : Option Wait) : Course :=
  { c with wait := w, stepping := false, stepped := false, pend := [], ops := (assignEntries c.ops c.ring 0 0).1, asideAt := none }

/-- The state in which the frame of a trap is written. -/
def atFrame (s : State) (w : Option Wait) (n : Nat) : State := { s with cur := s.cur.framed w, fresh := n }

/-- Why the frame of a trap is written. -/
def Trap.why (t : Trap) : FrameWhy := { kind := 0, cause := t.cause, tpc := t.tpc, lanes := t.lanes, info := t.info, recs := t.recs }

/-- The course at the entry of its handler (R424, R427). -/
def Course.enterHandler (c : Course) (entry : Nat) : Course :=
  { (c.setPcs c.live (fun _ => entry)) with
    ring := 1, frameBusy := true, waitBelow := c.wait, wait := none, caughtBelow := c.caught, caught := 0, enr := [], waitm := [], waitLen := [],
    chead := [], cdist := [], depth := [], flags := [], vguard := [], pguard := [], sguard := [], heldLanes := 0 }

/-- The course once its trap is taken: the records of the lanes that are not held have gone to the frame. -/
def Course.dropRecords (c : Course) (recs held : LaneSet) : Course :=
  { c with away := true, faults := recs.toList.foldl (fun f i => if held.getLsbD i then f else Cells.set f i 0) c.faults }

/-- The clk that a `sleep` still has to run are a free value (R186). -/
theorem settleSleep_wait (s : State) : ∃ w n, settleSleep s = { s with cur := { s.cur with wait := w }, fresh := n } ∧
    ((∀ k, s.cur.wait ≠ some (.sleep k)) → w = s.cur.wait) ∧ ∀ k, s.cur.wait = some (.sleep k) → ∃ j, w = some (.sleep j) := by
  fun_cases settleSleep s with
  | case1 k asleep => exact ⟨_, _, rfl, fun awake => absurd asleep (awake k), fun _ _ => ⟨_, rfl⟩⟩
  | case2 awake => exact ⟨_, _, rfl, fun _ => rfl, fun k asleep => absurd asleep (awake k)⟩

/-- A trap that nothing prevents is taken at once (R424). -/
theorem raise_taken (class5 : cause / 16 ≠ 5) (live : s.cur.life = .live) (clear : s.cur.pend = []) (running : s.cur.stopRing = none)
    (seated : s.cur.aside = none) (entries : (assignEntries s.cur.ops s.cur.ring 0 0).2 = true) :
    ∃ w n, raise s cause ls tpc info recs =
        (routeTrap (atFrame s w n) (targetRing cause s.cur.ring)
          { cause := cause, lanes := ls, tpc := tpc, info := info, ring := s.cur.ring, recs := recs } 3).upd (·.dropRecords recs (s.cur.framed w).held11) ∧
      ((∀ k, s.cur.wait ≠ some (.sleep k)) → w = s.cur.wait) ∧ ∀ k, s.cur.wait = some (.sleep k) → ∃ j, w = some (.sleep j) := by
  obtain ⟨w, n, settled, awake, asleep⟩ := settleSleep_wait (s.upd (fun c =>
    { c with
        stepping := false, stepped := false,
        pend := c.pend ++ [{ cause := cause, lanes := ls, tpc := tpc, info := info, ring := c.ring, recs := recs }] }))
  refine ⟨w, n, ?_, awake, asleep⟩
  rw [raise_eq s cause ls tpc info recs class5]
  unfold takePending
  rw [settled]
  simp only [State.upd, clear, List.nil_append]
  rw [if_neg]
  · rfl
  · simp [live, running, seated, entries]

/-- A trap to ring 1 whose vector is VALID and whose frame's page is local (R424). -/
theorem routeTrap_ring1 (below : s.cur.ring = 0) (valid : (vectorOf s s.cur 1).getLsbD 0 = true) (page : inHaltPage s s.cur.tenant s.cur.frameBase = false)
    (near : ∃ a b, translate s { s.cur.acc with ring := 1 } s.cur.frameBase .write = .loc a b) (tr : Trap) (fuel : Nat) :
    routeTrap s 1 tr fuel =
      (writeFrame s s.cur s.cur.frameBase (buildFrame s.cur tr.why)).upd (·.enterHandler (vectorEntry (vectorOf s s.cur 1))) := by
  obtain ⟨a, b, near⟩ := near
  have vectors := tvec1_of_seat (seat_writeFrame s s.cur s.cur.frameBase (buildFrame s.cur tr.why))
  unfold routeTrap
  rw [if_neg (by omega), if_neg (by decide), if_pos valid, if_pos rfl, trapRing1, near, page, vectorOf, ← vectors]
  rfl

/-- Taking a trap to ring 1 at once: its frame is written and the course goes to the entry of its handler. -/
theorem raise_enters (class5 : cause / 16 ≠ 5) (live : s.cur.life = .live) (clear : s.cur.pend = []) (running : s.cur.stopRing = none)
    (seated : s.cur.aside = none) (entries : (assignEntries s.cur.ops s.cur.ring 0 0).2 = true) (target : targetRing cause s.cur.ring = 1)
    (below : s.cur.ring = 0) (valid : (vectorOf s s.cur 1).getLsbD 0 = true) (page : inHaltPage s s.cur.tenant s.cur.frameBase = false)
    (near : ∃ a b, translate s { s.cur.acc with ring := 1 } s.cur.frameBase .write = .loc a b) :
    ∃ w n u held, u = writeFrame (atFrame s w n) (s.cur.framed w) s.cur.frameBase
        (buildFrame (s.cur.framed w) { kind := 0, cause := cause, tpc := tpc, lanes := ls, info := info, recs := recs }) ∧
      raise s cause ls tpc info recs = (u.upd (·.enterHandler (vectorEntry (vectorOf s s.cur 1)))).upd (·.dropRecords recs held) ∧
      ((∀ k, s.cur.wait ≠ some (.sleep k)) → w = s.cur.wait) ∧ ∀ k, s.cur.wait = some (.sleep k) → ∃ j, w = some (.sleep j) := by
  obtain ⟨w, n, taken, settled⟩ := raise_taken (tpc := tpc) (info := info) (ls := ls) (recs := recs) class5 live clear running seated entries
  rw [target, routeTrap_ring1 (s := atFrame s w n) below valid page near] at taken
  exact ⟨w, n, _, _, rfl, taken, settled⟩

/-- Settles O25: the trap is taken at once (`raise_enters`), the fields of its frame are those that `buildFrame_eq` lays out, and writing the frame leaves
the course in its seat (`seat_writeFrame`). -/
theorem trapEntry : Obligations.TrapEntry := by
  intro s cause ls recs tpc info class5 live clear running seated entries target below valid page near
  obtain ⟨w, n, u, held, written, entered, awake, asleep⟩ := raise_enters (tpc := tpc) (info := info) (ls := ls) (recs := recs)
    class5 live clear running seated entries target below valid page near
  have same : u.seat = (atFrame s w n).seat := written ▸ seat_writeFrame ..
  have kept {α : Type} (g : Course → α) (peerless : ∀ c, g { c with peers := 0 } = g c) : g u.cur = g (s.cur.framed w) := cur_of_seat g peerless same
  have own : (0 : Nat) ≠ 4 := by decide
  dsimp only
  rw [entered]
  refine ⟨⟨atFrame s w n, s.cur.framed w, buildFrame (s.cur.framed w) ⟨0, cause, tpc, ls, info, recs⟩, ?device, rfl,
    buildFrame_version _ own, buildFrame_kind _ own, buildFrame_cause _ own, buildFrame_tpc _ own, buildFrame_live _ own,
    buildFrame_lanes _ own, buildFrame_info _ own, buildFrame_fpm _ own, fun i lane => buildFrame_pc _ own lane,
    fun k inside => buildFrame_enr _ own inside, fun k inside => buildFrame_p _ own inside⟩, ?awake, ?asleep,
    rfl, rfl, rfl, rfl, rfl, rfl, rfl, rfl, rfl, rfl, rfl, kept (·.live) fun _ => rfl, kept (·.v) fun _ => rfl, kept (·.s) fun _ => rfl,
    kept (·.p) fun _ => rfl, kept (·.l) fun _ => rfl, kept (·.o) fun _ => rfl, kept (·.fpm) fun _ => rfl,
    kept (·.srseed) fun _ => rfl, kept (·.frameBase) fun _ => rfl, fun wf i lane alive => ?entry⟩
  case device => rw [← written]; rfl
  case awake => exact fun wakes => (kept (·.wait) fun _ => rfl).trans (awake wakes)
  case asleep =>
    intro k sleeps
    obtain ⟨j, left⟩ := asleep k sleeps
    exact ⟨j, (kept (·.wait) fun _ => rfl).trans left⟩
  case entry =>
    have pcs : u.cur.pc = s.cur.pc := kept (·.pc) fun _ => rfl
    have lanes : u.cur.live = s.cur.live := kept (·.live) fun _ => rfl
    exact (Course.pcOf_setPcs u.cur.live _ (pcs ▸ wf) lane (lanes ▸ alive)).trans (Nat.mod_eq_of_lt (vectorEntry_lt _))

end Sys2Proof.Machine
end

section
/-! ### Accesses to scratchpad at issue (R102, R211, R241 to R249) -/
namespace Sys2Proof.Machine

open Sys2Proof.Claims

variable {s : State} {x : Ops} {maj n size z a : Nat} {u : Use} {k : OpKind} {dat : Nat → Nat} {now : Bool} {m : LaneSet}

/-! #### The causes of an offset (R102, R241) -/

/-- The lanes whose offset meets a cause, with the lowest that applies. -/
def scratchFaults (size z : Nat) (as : List (Nat × Nat)) : List LaneFault :=
  as.filterMap (fun p => if p.2 % z ≠ 0 then some { lane := p.1, cause := 0x31, addr := p.2 }
    else if size < p.2 + z then some { lane := p.1, cause := 0x41, addr := p.2 } else none)

/-- The lanes whose offset is aligned and inside the scratchpad. -/
def scratchClear (size z : Nat) (as : List (Nat × Nat)) : List (Nat × Nat) := as.filter (fun p => p.2 % z = 0 && p.2 + z ≤ size)

theorem laneCause_misaligned (misaligned : a % z ≠ 0) (scr : Bool) : laneCause size scr z a = some (if scr then 0x31 else 0x30) := if_pos misaligned

theorem laneCause_aligned_scratch (aligned : a % z = 0) : laneCause size true z a = if size < a + z then some 0x41 else none :=
  if_neg (not_not.mpr aligned)

theorem laneCause_aligned_global (aligned : a % z = 0) : laneCause size false z a = if Config.vaLimit ≤ a then some 0x40 else none :=
  if_neg (not_not.mpr aligned)

theorem map_laneCause_scratch {α : Type} (f : Nat → α) :
    (laneCause size true z a).map f = if a % z ≠ 0 then some (f 0x31) else if size < a + z then some (f 0x41) else none := by
  by_cases aligned : a % z = 0
  · rw [laneCause_aligned_scratch aligned, if_neg (not_not.mpr aligned)]
    split <;> rfl
  · rw [laneCause_misaligned aligned, if_pos aligned]
    rfl

theorem laneCause_scratch_isNone : (laneCause size true z a).isNone = (decide (a % z = 0) && decide (a + z ≤ size)) := by
  by_cases aligned : a % z = 0
  · by_cases inside : a + z ≤ size
    · rw [laneCause_aligned_scratch aligned, if_neg (not_lt.mpr inside), decide_eq_true aligned, decide_eq_true inside]; rfl
    · rw [laneCause_aligned_scratch aligned, if_pos (not_le.mp inside), decide_eq_false inside, Bool.and_false]; rfl
  · rw [laneCause_misaligned aligned, decide_eq_false aligned]; rfl

theorem checkLanes_scratch_splits (as : List (Nat × Nat)) :
    checkLanes s true z u as = (s, .ok (scratchFaults (scratchSize s) z as, scratchClear (scratchSize s) z as)) := by
  simp only [checkLanes, map_laneCause_scratch, laneCause_scratch_isNone, if_true]
  rfl

/-! #### What an access to scratchpad answers -/

/-- Where nothing holds an operation, it enters for the lanes that do not fault. -/
theorem issueOpF_enters {pre : List Op} {o : Op} (room : Room s n pre o) (fs : List LaneFault) (after : State → Nat → State) :
    issueOpF s x n pre o fs after = .next (enteredF s x n pre o fs after) := by
  obtain ⟨flags, kept, access, groups⟩ := room
  have unheld : ¬(flagsFull s.cur o.flags || keptFull s.cur o || accessFull s (added pre o)) = true := by simp [flags, kept, access]
  exact (if_neg unheld).trans (if_neg (not_lt.mpr groups))

/-- The operation of an access to scratchpad, for the lanes that meet no cause; only a write has data. -/
def scratchOp (s : State) (x : Ops) (z : Nat) (u : Use) (k : OpKind) (dat : Nat → Nat) : Op :=
  let as := scratchClear (scratchSize s) z (laneAddrs s x true (partLanes s x))
  laneOp s x k as (if u = .write then as.map (fun p => (p.1, dat p.1)) else [])

theorem accessOp_scratch_room (room : Room s n [] (scratchOp s x z u k dat)) :
    accessOp s x true z u n k dat now (partLanes s x) = .next (enteredF s x n [] (scratchOp s x z u k dat)
      (scratchFaults (scratchSize s) z (laneAddrs s x true (partLanes s x))) (tried (if now then 1 else 0))) := by
  rw [← issueOpF_enters room]
  simp only [accessOp, checkLanes_scratch_splits, if_true, List.length_nil, Nat.zero_add]
  rfl

/-- The operand size of an atomic. -/
abbrev atomBytes (x : Ops) : Nat := if x.hint = 5 then 8 else 4

section
variable (free : Free s 0x96 x
  (minSub [addrSub s x true, atomSub s x (atomBytes x), longDst s.cur x (atomBytes x / 4) true false x.d, subIf (opdIsS x.d && false && x.guard ≠ Guard.always) 10])
  (addrRefs x true ++ opdRefs x.b (if x.hi4 = 9 then atomBytes x / 2 else atomBytes x / 4)) [])
include free

theorem execAtoms_accesses (may : s.cur.rgnOpen = false ∨ partLanes s x = 0) : execAtoms x s =
    accessOp s x true (atomBytes x) .write (atomBytes x / 4) (.atomicS (destOf x.d) x.hi4 (atomBytes x)) (atomOpd s x (atomBytes x)) false (partLanes s x) := by
  rw [execAtoms, atomic, issue_free _ free, if_neg]
  rcases may with closed | nobody
  · simp [closed]
  · simp [nobody]

theorem execAtoms_region (opened : s.cur.rgnOpen = true) (someone : partLanes s x ≠ 0) : execAtoms x s = trapOut s 0x103 := by
  rw [execAtoms, atomic, issue_free _ free, if_pos ((Bool.and_eq_true _ _).mpr ⟨opened, decide_eq_true someone⟩)]

end

/-- Settles O32: an access enters for the lanes that `laneCause` gives no cause (`accessOp_scratch_room`), and `laneCause` by alignment, then by bounds. -/
theorem scratchAccesses : Obligations.ScratchAccesses := by
  refine ⟨fun x s => ⟨?lds, ?sts, ?atoms, execAtoms_region⟩, fun size z a => ⟨?misaligned, ?beyond, ?inside, ?far, ?near⟩⟩
  case lds =>
    rintro _ rfl free room
    exact (issue_free _ free).trans (accessOp_scratch_room (u := .read) (dat := fun _ => 0) room)
  case sts =>
    rintro _ rfl free room
    exact (issue_free _ free).trans (accessOp_scratch_room (u := .write) room)
  case atoms =>
    rintro _ rfl free may room
    exact (execAtoms_accesses free may).trans (accessOp_scratch_room (u := .write) room)
  case misaligned => exact fun misaligned => ⟨laneCause_misaligned misaligned true, laneCause_misaligned misaligned false⟩
  case beyond => exact fun aligned beyond => (laneCause_aligned_scratch aligned).trans (if_pos beyond)
  case inside => exact fun aligned inside => (laneCause_aligned_scratch aligned).trans (if_neg (not_lt.mpr inside))
  case far => exact fun aligned far => (laneCause_aligned_global aligned).trans (if_pos far)
  case near => exact fun aligned near => (laneCause_aligned_global aligned).trans (if_neg (not_le.mpr near))

end Sys2Proof.Machine
end

section
/-! ### Loads from scratchpad whose data returns (R211, R243, R246) -/
namespace Sys2Proof.Machine

variable {s : State} {o : Op} {b : Bond} {d : Dest} {p : Op → Bool} {f : State → Op → State} {got vals : List (Nat × Nat)} {r i z off v : Nat}

/-! #### Events of operations -/

/-- The operation that a number finds is acted on by an event for operations of its kind. -/
theorem onOp_here (found : s.cur.ops.find? (fun y => y.seq == o.seq) = some o) (unheld : o.entry ≠ 1) (pending : o.entry ≠ 3) (issued : o.etype ≠ 4)
    (kind : p o = true) : onOp s s.cur.id o.seq p f = .next (f s o) := by
  have acted : s.cur.ops.find? (fun y => y.seq == o.seq && y.entry ≠ 1 && y.entry ≠ 3 && y.etype ≠ 4 && p y) = some o := by
    obtain ⟨-, before, after, split, others⟩ := List.find?_eq_some_iff_append.mp found
    refine List.find?_eq_some_iff_append.mpr ⟨by simp [unheld, pending, issued, kind], before, after, split, fun y earlier => ?_⟩
    have apart : y.seq ≠ o.seq := by simpa using others y earlier
    simp [apart]
  rw [onOp, atCourse_here, acted]

/-! #### What a completed operation leaves -/

theorem Course.dataless_writeDest (c : Course) (d : Dest) (z : Nat) (vals : List (Nat × Nat)) : (c.writeDest d z vals).dataless = c.dataless := by
  cases d with
  | none => rfl
  | scl r => cases vals <;> rfl
  | vec r =>
    induction vals generalizing c with
    | nil => rfl
    | cons p rest ih =>
      refine (ih (if c.live.getLsbD p.1 then c.setVec r p.1 z p.2 else c)).trans ?_
      split <;> rfl

theorem Course.writeDest_lane {c : Course} (live : c.live.getLsbD i = true) : c.writeDest (.vec r) z [(i, v)] = c.setVec r i z v := if_pos live

theorem Course.get_v_setVec_word {c : Course} (wf : Cells.wf c.v = true) (k : Nat) :
    Cells.get (c.setVec r i 4 v).v k = if k = 32 * r + i then BitVec.ofNat 32 v else Cells.get c.v k := by
  have word : (c.setVec r i 4 v).v = Cells.set c.v (32 * r + i) (BitVec.ofNat 32 v) := by simp [Course.setVec, List.range_succ]
  rw [word, Cells.get_set _ _ _ _ wf]

@[simp] theorem unstallQuoin_cur (s : State) (qid : Nat) : (unstallQuoin s qid).cur = s.cur := (apply_ite State.cur _ _ _).trans (ite_self _)
@[simp] theorem unstallQuoin_mem (s : State) (qid : Nat) : (unstallQuoin s qid).mem = s.mem := (apply_ite State.mem _ _ _).trans (ite_self _)
@[simp] theorem unstallQuoin_bonds (s : State) (qid : Nat) : (unstallQuoin s qid).bonds = s.bonds := (apply_ite State.bonds _ _ _).trans (ite_self _)

theorem removeOp_cur (s : State) (seq : Nat) : (removeOp s seq).cur = { s.cur with ops := s.cur.ops.filter (fun o => o.seq ≠ seq) } := unstallQuoin_cur ..
@[simp] theorem removeOp_mem (s : State) (seq : Nat) : (removeOp s seq).mem = s.mem := unstallQuoin_mem ..
@[simp] theorem removeOp_bonds (s : State) (seq : Nat) : (removeOp s seq).bonds = s.bonds := unstallQuoin_bonds ..

theorem toList_only (lane : i < 32) : LaneSet.toList (LaneSet.only i) = [i] := by
  have all : ∀ i < 32, LaneSet.toList (LaneSet.only i) = [i] := by decide
  exact all i lane

theorem ofFn_only (lane : i < 32) : LaneSet.ofFn (fun j => i == j) = LaneSet.only i := by
  simpa [faultSet] using faultSet_one i 0 0 lane

theorem takePending_nil (nothing : s.cur.pend = []) : takePending s = s := by rw [takePending, nothing]

/-- The course has an operation's values in its destination. -/
def Course.takes (c : Course) (o : Op) (vals : List (Nat × Nat)) : Course := c.writeDest o.dest o.unitBytes (vals.map (fun p => (p.1, o.ext p.2)))

theorem Course.dataless_takes (c : Course) (o : Op) (vals : List (Nat × Nat)) : (c.takes o vals).dataless = c.dataless := c.dataless_writeDest ..

theorem dropOpFlags_front (front : o.behind s.cur = false) : dropOpFlags s o = s.upd (fun c => c.dropFlags o.flags) := if_neg (by simp [front])

/-- The state when an operation has left the list, with its values written and its flags counted down. -/
def retired (s : State) (o : Op) (vals : List (Nat × Nat)) : State :=
  (removeOp (s.upd (fun c => c.takes o vals)) o.seq).upd (fun c => c.dropFlags o.flags)

@[simp] theorem retired_mem (s : State) (o : Op) (vals : List (Nat × Nat)) : (retired s o vals).mem = s.mem := removeOp_mem ..
@[simp] theorem retired_bonds (s : State) (o : Op) (vals : List (Nat × Nat)) : (retired s o vals).bonds = s.bonds := removeOp_bonds ..

theorem retired_v (s : State) (o : Op) (vals : List (Nat × Nat)) : (retired s o vals).cur.v = (s.cur.takes o vals).v :=
  (congrArg Course.v (removeOp_cur (s.upd (fun c => c.takes o vals)) o.seq) :)

theorem retired_ops (s : State) (o : Op) (vals : List (Nat × Nat)) : (retired s o vals).cur.ops = s.cur.ops.filter (fun y => y.seq ≠ o.seq) :=
  calc (retired s o vals).cur.ops
    _ = (s.cur.takes o vals).ops.filter (fun y => y.seq ≠ o.seq) := (congrArg Course.ops (removeOp_cur (s.upd (fun c => c.takes o vals)) o.seq) :)
    _ = s.cur.ops.filter (fun y => y.seq ≠ o.seq) := congrArg (List.filter _) (congrArg Course.ops (s.cur.dataless_takes o vals) :)

theorem retired_pend (s : State) (o : Op) (vals : List (Nat × Nat)) : (retired s o vals).cur.pend = s.cur.pend :=
  ((congrArg Course.pend (removeOp_cur (s.upd (fun c => c.takes o vals)) o.seq) :).trans (congrArg Course.pend (s.cur.dataless_takes o vals) :))

/-- An operation that stands behind no frame takes its values and leaves. -/
theorem finishOp_front (entry : o.entry ≠ 2) (front : o.behind s.cur = false) (nothing : s.cur.pend = []) : finishOp s o vals = retired s o vals := by
  have front' : o.behind (removeOp (s.upd (fun c => c.takes o vals)) o.seq).cur = false := by
    rw [removeOp_cur]; exact (congrArg o.behind (s.cur.dataless_takes o vals) :).trans front
  rw [← takePending_nil ((retired_pend s o vals).trans nothing), retired, ← dropOpFlags_front front', finishOp, if_neg entry, front]
  rfl

/-! #### The lanes of an operation that all return -/

/-- The operation when the lanes listed have returned their values. -/
def Op.returned (o : Op) (got : List (Nat × Nat)) : Op :=
  { o with lanes := o.lanes &&& ~~~ LaneSet.ofFn (fun i => got.any (fun p => p.1 == i)), got := o.got ++ got, refused := false, peerWait := false }

/-- The lanes tried, of which each has returned its value. -/
def allReturned (s : State) (got : List (Nat × Nat)) : LaneWork :=
  { s := s, got := got, fs := [], absent := [], refused := false, wait := false, poison := false }

/-- Where every lane of an operation returns, it is finished, unless its kind waits for an acknowledgement. -/
theorem settleOp_returned (running : s.cur.stopped = false) (complete : (o.returned got).lanes = 0)
    (acknowledged : ∀ t (q : Op), q.kind = o.kind → unacked t q = false) :
    settleOp o (allReturned s got) = finishLanes (putOp s (o.returned got)) (o.returned got) := by
  simp only [Op.returned] at complete
  simp [settleOp, allReturned, Op.returned, running, complete, acknowledged]

/-! #### A load of one lane from scratchpad -/

/-- The operation of a load when its one lane has returned. -/
def Op.loaded (o : Op) (i v : Nat) : Op := ({ o with refused := false }).returned [(i, v)]

section
variable (kind : o.kind = .loadS d 4)
include kind

theorem finishLanes_scratchLoad : finishLanes s o = finishOp s o o.values := by
  have unwatched : o.isWatch = false := by simp [Op.isWatch, kind]
  have unordered : o.acq = none := by simp [Op.acq, kind]
  simp [finishLanes, unwatched, unordered]

theorem runOpLanes_scratchLoad (alone : o.lanes = LaneSet.only i) (lane : i < 32) (addrs : o.addrs = [(i, off)]) (found : curBond s = some b)
    (rows : readRows s s.cur.bond off 4 = s) (clean : scratchPoisoned b off 4 = false) :
    runOpLanes s o = settleOp o (allReturned s [(i, scratchRead b off 4)]) := by
  have read : loadSLane s 4 off = (s, .val (scratchRead b off 4)) := by simp [loadSLane, rows, found, clean]
  have width : o.accBytes = 4 := by simp [Op.accBytes, kind, widthBytes]
  simp only [runOpLanes, kind, alone, toList_only lane, width, addrs, runLanes]
  simp [assoc, read, allReturned]

theorem settleOp_scratchLoad (alone : o.lanes = LaneSet.only i) (lane : i < 32) (running : s.cur.stopped = false) :
    settleOp o (allReturned s [(i, v)]) = finishLanes (putOp s (o.returned [(i, v)])) (o.returned [(i, v)]) :=
  settleOp_returned running (by simp [Op.returned, alone, ofFn_only lane]) fun t q same => by simp [unacked, same, kind]

/-- A load that may be performed tries its lanes at once. -/
theorem performOp_scratchLoad (listed : s.cur.ops.find? (fun q => q.seq == o.seq) = some o) (unasked : o.peerWait = false) (unparked : o.parked = none)
    (ready : opReady s s.cur o = true) : performOp s o.seq = runOpLanes s { o with refused := false } := by
  simp [performOp, listed, unasked, unparked, ready, kind, tryLanes, laneLease]

end

section
variable (kind : o.kind = .loadS (.vec r) 4)
include kind

theorem takes_scratchLoad {c : Course} (live : c.live.getLsbD i = true) : c.takes o [(i, v)] = c.setVec r i 4 v := by
  simp [Course.takes, Op.dest, Op.unitBytes, Op.ext, kind, widthBytes, Course.writeDest_lane live]

theorem values_loaded (none : o.got = []) : (o.loaded i v).values = [(i, v)] := by
  simp [Op.values, Op.dest, Op.loaded, Op.returned, kind, none]

theorem get_v_retired_loaded (live : s.cur.live.getLsbD i = true) (wf : Cells.wf s.cur.v = true) (k : Nat) :
    Cells.get (retired (putOp s (o.loaded i v)) (o.loaded i v) [(i, v)]).cur.v k = if k = 32 * r + i then BitVec.ofNat 32 v else Cells.get s.cur.v k := by
  rw [retired_v, takes_scratchLoad (o := o.loaded i v) kind (c := (putOp s (o.loaded i v)).cur) live]
  exact Course.get_v_setVec_word wf k

end

/-- Settles O35: the one lane left reads its word (`runOpLanes_scratchLoad`), so that the load is finished: it is in its register, and off the list. -/
theorem scratchLoadReturns : Obligations.ScratchLoadReturns := by
  intro s o b r i off ops kind entry etype stage unasked unparked alone all got addrs lane ring life running nothing live wf found ready rows clean
  have listed : s.cur.ops.find? (fun q => q.seq == o.seq) = some o := by simp [ops]
  have plain : (o.isPlainLoad && o.entry ≠ 2) = true := by simp [Op.isPlainLoad, Op.isLoad, Op.isAtomic, kind, entry]
  let o' : Op := { o with refused := false }
  let v := scratchRead b off 4
  let q := o.loaded i v
  have front : q.behind s.cur = false := by simp [Op.behind, q, Op.loaded, Op.returned, ring, running, life]
  have gives : exec (.loadDataReturn s.cur.id o.seq) s = .next (retired (putOp s q) q [(i, v)]) :=
    calc exec (.loadDataReturn s.cur.id o.seq) s
      _ = .next (performOp s o.seq) := onOp_here listed (by simp [entry]) (by simp [entry]) (by simp [etype]) plain
      _ = .next (runOpLanes s o') := by rw [performOp_scratchLoad kind listed unasked unparked ready]
      _ = .next (settleOp o' (allReturned s [(i, v)])) := by rw [runOpLanes_scratchLoad (o := o') kind alone lane addrs found rows clean]
      _ = .next (finishLanes (putOp s q) q) := congrArg _ (settleOp_scratchLoad (o := o') kind alone lane (by simp [Course.stopped, life]))
      _ = .next (finishOp (putOp s q) q [(i, v)]) := by rw [finishLanes_scratchLoad (o := q) kind, values_loaded kind got]
      _ = .next (retired (putOp s q) q [(i, v)]) := congrArg _ (finishOp_front (by simp [q, Op.loaded, Op.returned, entry]) front nothing)
  have word := get_v_retired_loaded (v := v) kind live wf
  refine ⟨_, gives, ?_, ?_, fun k other => (word k).trans (if_neg other), retired_mem .., retired_bonds ..⟩
  · simp [retired_ops, putOp, ops, q, Op.loaded, Op.returned]
  · rw [word, if_pos rfl]
    exact (BitVec.toNat_ofNat ..).trans (Nat.mod_eq_of_lt (readNum_lt b.scratch 4 off))

end Sys2Proof.Machine
end

section
/-! ### Events of engine commands (R209, R228, R337, R355, R369) -/
namespace Sys2Proof.Machine

variable {s : State} {o : Op} {w k f pa a n v u : Nat}

/-! #### Requests sent again (R228, R369) -/

/-- A number that only operations not refused bear is not sent again. -/
theorem retryOp_unrefused (others : ∀ y ∈ s.cur.ops, y.seq = o.seq → y.refused = false) : retryOp s s.cur.id o.seq = .next s := by
  rw [retryOp, onOp, atCourse_here, List.find?_eq_none.mpr]
  intro y listed
  by_cases named : y.seq = o.seq <;> simp [named, others y listed]

theorem Op.kind_of_isEngine (engine : o.isEngine = true) : ∃ d maj mi b st u go, o.kind = .engine d maj mi b st u go := by
  cases kind : o.kind <;> simp [Op.isEngine, kind] at engine ⊢

theorem Op.kind_of_isFetch (fetch : o.isFetch = true) : o.kind = .fetch := by
  cases kind : o.kind <;> simp [Op.isFetch, kind] at fetch ⊢

/-! #### What dropping cells and writing a byte leave (R209) -/

theorem Cells.get_filter {cs : Cells w} {lo : Option Nat} (wf : Cells.wfAbove lo cs = true) (q : Nat → Bool) :
    Cells.get (cs.filter (fun kv => q kv.1)) k = if q k then Cells.get cs k else 0 := by
  induction cs generalizing lo with
  | nil => simp [Cells.get]
  | cons kv rest ih =>
    obtain ⟨a, x⟩ := kv
    rw [Cells.wfAbove_cons] at wf
    obtain ⟨-, -, above⟩ := wf
    cases keeps : q a with
    | true =>
      simp only [List.filter_cons, keeps, if_true, Cells.get_cons, ih above]
      by_cases here : a = k
      · simp [← here, keeps]
      · by_cases below : k < a <;> simp [here, below]
    | false =>
      simp only [List.filter_cons, keeps, Bool.false_eq_true, if_false, Cells.get_cons, ih above]
      by_cases here : a = k
      · simp [← here, keeps]
      · by_cases below : k < a
        · simp [here, below, Cells.get_of_wfAbove rest a k above below.le]
        · simp [here, below]

theorem Cells.get_drop {cs : Cells w} (wf : Cells.wf cs = true) (lo hi : Nat) :
    Cells.get (Cells.drop cs lo hi) k = if lo ≤ k ∧ k < hi then 0 else Cells.get cs k := by
  rw [Cells.drop, Cells.get_filter wf (fun k => k < lo || hi ≤ k)]
  by_cases dropped : lo ≤ k ∧ k < hi
  · simp [dropped]
  · rw [if_neg dropped, if_pos (by simp; omega)]

theorem readNum_one (cs : Cells 8) (a : Nat) : readNum cs a 1 = (Cells.get cs a).toNat := by simp [readNum]

section
variable {α : Type} {g : State → α} (blind : ∀ s m x p, g { s with mem := m, hmeta := x, hpoison := p } = g s)
include blind

theorem sectorSettle_keeps (s : State) (k : Nat) (whole : Bool) : g (sectorSettle s k whole) = g s := by
  rw [sectorSettle, apply_ite g]
  exact ite_eq_left_iff.mpr fun _ => blind s _ _ _

theorem settleFor_keeps (s : State) (pa n : Nat) : g (settleFor s pa n) = g s := by
  rw [settleFor, apply_ite g]
  refine ite_eq_left_iff.mpr fun _ => ?_
  exact List.foldlRecOn (motive := fun t => g t = g s) _ _ rfl fun t kept k _ => (sectorSettle_keeps blind t k _).trans kept

/-- What does not look at HBM's cells is as it was after a write. -/
theorem physWrite_keeps (s : State) (pa n v : Nat) : g (physWrite s pa n v) = g s := by
  rw [physWrite, apply_ite g]
  exact ite_eq_right_iff.mpr fun _ => (blind (settleFor s pa n) _ _ _).trans (settleFor_keeps blind s pa n)

end

theorem get_mem_sectorSettle (ok : s.MemOk) (outside : a / 64 ≠ k) (whole : Bool) : Cells.get (sectorSettle s k whole).mem a = Cells.get s.mem a := by
  rw [sectorSettle, apply_ite State.mem, apply_ite (Cells.get · a)]
  refine ite_eq_left_iff.mpr fun _ => ?_
  rw [get_writeNum _ _ _ _ _ ok, if_neg (by omega)]

theorem sectorsOf_one (pa : Nat) : sectorsOf pa 1 = [pa / 64] := by simp [sectorsOf]

/-- A write of a byte reads no sector but its own. -/
theorem get_mem_settleFor_one (ok : s.MemOk) (other : a / 64 ≠ pa / 64 ∨ s.hmeta = []) : Cells.get (settleFor s pa 1).mem a = Cells.get s.mem a := by
  rcases other with outside | sound
  · rw [settleFor, sectorsOf_one, apply_ite State.mem, apply_ite (Cells.get · a)]
    exact ite_eq_left_iff.mpr fun _ => get_mem_sectorSettle ok outside _
  · rw [settleFor, sound]; rfl

theorem get_mem_physWrite_byte (ok : s.MemOk) (inside : pa < Config.hbmBytes) : Cells.get (physWrite s pa 1 v).mem pa = BitVec.ofNat 8 v := by
  rw [physWrite, if_pos (Nat.succ_le_of_lt inside), get_writeNum _ _ _ _ _ ok.settleFor, if_pos (by omega), Nat.sub_self, Nat.pow_zero, Nat.div_one]

theorem get_mem_physWrite_other (ok : s.MemOk) (other : a / 64 ≠ pa / 64 ∨ s.hmeta = [] ∧ a ≠ pa) :
    Cells.get (physWrite s pa 1 v).mem a = Cells.get s.mem a := by
  rw [physWrite, apply_ite State.mem, apply_ite (Cells.get · a)]
  refine ite_eq_right_iff.mpr fun _ => ?_
  have apart : a ≠ pa := by rintro rfl; simp at other
  rw [get_writeNum _ _ _ _ _ ok.settleFor, if_neg (by omega), get_mem_settleFor_one ok (other.imp_right And.left)]

/-! #### A scrub of one frame (R355) -/

/-- The state with every byte of a frame zero and its sectors sound. -/
def zeroed (s : State) (f : Nat) : State :=
  { s with mem := Cells.drop s.mem (2097152 * f) (2097152 * (f + 1)), hpoison := Cells.drop s.hpoison (32768 * f) (32768 * (f + 1)),
           hmeta := Cells.drop s.hmeta (32768 * f) (32768 * (f + 1)) }

/-- The flags of a frame's entry with its SCRUB bit set. -/
def withScrub (b : Nat) : Nat := if bitAt b 2 then b else b + 4

theorem bitAt_withScrub (b : Nat) : bitAt (withScrub b % 2 ^ 8) 2 = true := by
  rw [bitAt, Nat.testBit_mod_two_pow, withScrub]
  cases set : bitAt b 2 with
  | true => simpa [bitAt] using set
  | false => simpa [bitAt, Nat.add_comm b, Nat.testBit_two_pow_add_eq b 2] using set

/-- The state after a unit of a `scrub`. -/
def scrubbed (s : State) (f : Nat) : State :=
  let t := zeroed s f
  physHomeWrite (putFrame t { frameEntry t f with scrub := true }) (framePa t f) 1 (withScrub (physHomeRead t (framePa t f) 1))

theorem scrubUnit_eq (v : Nat) (s : State) (o : Op) (u : Nat) : scrubUnit v s o u = (scrubbed s (fieldAt v 0x10 8 + u), .val 0) := rfl

theorem frameEntry_frame (s : State) (f : Nat) : (frameEntry s f).frame = f := by
  cases found : s.frames.find? (fun e => e.frame == f) with
  | none => simp [frameEntry, found]
  | some e => simpa [frameEntry, found] using List.find?_some found

theorem mem_frames_scrubbed (s : State) (f : Nat) : { frameEntry (zeroed s f) f with scrub := true } ∈ (scrubbed s f).frames := by
  have kept : (scrubbed s f).frames = (putFrame (zeroed s f) { frameEntry (zeroed s f) f with scrub := true }).frames :=
    physWrite_keeps (g := State.frames) (fun _ _ _ _ => rfl) _ _ _ _
  rw [kept]
  exact List.mem_of_find?_eq_some (find?_putWhere (q := fun (x : FrameEntry) => x.frame == (frameEntry (zeroed s f) f).frame) (by simp) _)

theorem scrubbed_cur (s : State) (f : Nat) : (scrubbed s f).cur = s.cur := physWrite_keeps (g := State.cur) (fun _ _ _ _ => rfl) _ _ _ _

theorem bitAt_scrubbed (ok : s.MemOk) (inside : framePa (zeroed s f) f < Config.hbmBytes) :
    bitAt (readNum (scrubbed s f).mem (framePa (zeroed s f) f) 1) 2 = true := by
  have zeroedOk : (zeroed s f).MemOk := Cells.wf_drop _ _ _ ok
  rw [readNum_one]
  refine (congrArg (fun b : Byte => bitAt b.toNat 2) (get_mem_physWrite_byte (s := putFrame (zeroed s f) _) zeroedOk inside)).trans ?_
  exact bitAt_withScrub _

theorem readNum_scrubbed (ok : s.MemOk) (other : a / 64 ≠ framePa (zeroed s f) f / 64 ∨ s.hmeta = [] ∧ a ≠ framePa (zeroed s f) f) :
    readNum (scrubbed s f).mem a 1 = if a / 2097152 = f then 0 else readNum s.mem a 1 := by
  have zeroedOk : (zeroed s f).MemOk := Cells.wf_drop _ _ _ ok
  have sound : s.hmeta = [] → (zeroed s f).hmeta = [] := fun nothing => by simp [zeroed, nothing, Cells.drop]
  have kept : Cells.get (scrubbed s f).mem a = Cells.get (zeroed s f).mem a :=
    get_mem_physWrite_other (s := putFrame (zeroed s f) _) zeroedOk (other.imp_right (And.imp_left sound))
  have dropped : 2097152 * f ≤ a ∧ a < 2097152 * (f + 1) ↔ a / 2097152 = f := by omega
  rw [readNum_one, readNum_one, kept, zeroed, Cells.get_drop ok]
  simp only [dropped, apply_ite BitVec.toNat]
  rfl

/-- What a `scrub` of one frame leaves: every byte of the frame is zero and every other byte outside its entry is kept, and the SCRUB bit is set. -/
theorem scrubUnit_leaves (ok : s.MemOk) :
    let f := fieldAt v 0x10 8 + u
    let entry := framePa (zeroed s f) f
    let t := (scrubUnit v s o u).1
    (∃ e ∈ t.frames, e.frame = f ∧ e.scrub = true) ∧ (entry < Config.hbmBytes → bitAt (readNum t.mem entry 1) 2 = true) ∧
    (∀ a, a / 64 ≠ entry / 64 ∨ (s.hmeta = [] ∧ (a < entry ∨ entry + 8 ≤ a)) →
      readNum t.mem a 1 = if a / 2097152 = f then 0 else readNum s.mem a 1) ∧ t.cur = s.cur := by
  rw [scrubUnit_eq]
  refine ⟨⟨_, mem_frames_scrubbed s _, frameEntry_frame _ _, rfl⟩, bitAt_scrubbed ok, fun a other => readNum_scrubbed ok ?_, scrubbed_cur s _⟩
  exact other.imp_right (And.imp_right fun outside => by omega)

/-! #### Events of an operation that is alone with its number (R228, R337, R369) -/

/-- The events, where no other operation of the course bears the number. -/
theorem engineEvents_of_alone (listed : s.cur.ops.find? (fun y => y.seq == o.seq) = some o) (unheld : o.entry ≠ 1) (pending : o.entry ≠ 3)
    (issued : o.etype ≠ 4) (course : s.cur.id ≠ 0) {i : Instr} (retry : i = .pinRetry s.cur.id o.seq ∨ i = .missSlotRetry s.cur.id o.seq)
    (alone : ∀ y ∈ s.cur.ops, y.seq = o.seq → y = o) :
    let o1 : Op := { o with refused := false }
    let t := putOp s o1
    (o.isEngine = true → exec (.engineCommandStart s.cur.id o.seq) s = .next (engineGo s o)) ∧
    (o.isEngine = true → exec (.engineCommandCompletion s.cur.id o.seq) s = .next (engineComplete s o)) ∧
    (o.isEngine = true → o.refused = true → exec i s = .next (if o.stage = 0 then engineGo t o1 else engineComplete t o1)) ∧
    (o.isFetch = true → o.refused = true → exec i s = .next t) ∧
    (o.isEngine = false → o.isFetch = false → o.refused = true → (∀ d va q, o.kind ≠ .enq d va q) → (∀ d form h rs, o.kind ≠ .lease d form h rs) →
      exec i s = .next (performOp t o.seq)) ∧
    (∀ d va q, o.kind = .enq d va q → o.refused = true → exec i s = .next (if opReady t t.cur o1 then performEnq t o1 va q else t)) ∧
    (∀ d form h rs, o.kind = .lease d form h rs → o.refused = true →
      exec i s = .next (if o.stage = 1 then lrqAdd t o1 ((assoc o.got 0).getD 0) else leaseStep t o1 form h rs)) ∧
    (o.refused = false → exec i s = .next s) := by
  have again : exec i s = retryOp s s.cur.id o.seq := by
    rcases retry with rfl | rfl
    · exact if_neg course
    · rfl
  rw [again]
  refine ⟨onOp_here listed unheld pending issued, onOp_here listed unheld pending issued, fun kind refused => ?_, fun kind refused => ?_,
    fun notEngine notFetch refused notEnq notLease => ?_, fun d va q kind refused => ?_, fun d form h rs kind refused => ?_,
    fun unrefused => retryOp_unrefused fun y member same => alone y member same ▸ unrefused⟩
  all_goals rw [retryOp, onOp_here listed unheld pending issued refused]
  · obtain ⟨_, _, _, _, _, _, _, engine⟩ := Op.kind_of_isEngine kind
    simp only [engine]
  · simp only [Op.kind_of_isFetch kind]
  · cases kind : o.kind
    case engine => simp [Op.isEngine, kind] at notEngine
    case fetch => simp [Op.isFetch, kind] at notFetch
    case enq d va q => exact absurd kind (notEnq d va q)
    case lease d form h rs => exact absurd kind (notLease d form h rs)
    all_goals rfl
  · simp only [kind]
  · simp only [kind]

/-! #### Two operations of one number -/

/-- A fetch numbered 0. -/
def fetchNumbered0 (refused : Bool) : Op := { acquireOp State.reset.cur 0 with kind := .fetch, refused := refused }

/-- A course whose list holds two fetches of one number, of which only the second has been refused. -/
def twoOfOneNumber : State := State.reset.upd (fun c => { c with id := 1, ops := [fetchNumbered0 false, fetchNumbered0 true] })

/-- A retry of that number finds the second, and puts it back in the place of both. -/
theorem pinRetry_twoOfOneNumber : exec (.pinRetry 1 0) twoOfOneNumber = .next (putOp twoOfOneNumber (fetchNumbered0 false)) := rfl

/-- Refutes O47: it says that a retry of a number whose first operation has not been refused changes nothing, and does not ask that the numbers of the list
differ, while `retryOp` looks for an operation that has been refused, and in `twoOfOneNumber` sends the second again. For numbers that differ its events hold
(`engineEvents_of_alone`), and so does all that it says of a `scrub` (`scrubUnit_leaves`). -/
theorem not_engineEvents : ¬ Obligations.EngineEvents := by
  rintro ⟨events, -⟩
  obtain ⟨-, -, -, -, -, -, -, stays⟩ :=
    events twoOfOneNumber (fetchNumbered0 false) (.pinRetry 1 0) rfl (by decide) (by decide) (by decide) (by decide) (.inl rfl)
  have same : putOp twoOfOneNumber (fetchNumbered0 false) = twoOfOneNumber := Host.Outcome.next.inj (pinRetry_twoOfOneNumber.symm.trans (stays rfl))
  exact absurd (congrArg (fun s => s.cur.ops) same) (by decide)

end Sys2Proof.Machine
end

section
/-! ### Accesses to memory at issue (R241 to R249, R371) -/
namespace Sys2Proof.Machine

open Sys2Proof.Claims

variable {s t : State} {x : Ops} {maj n size z a i cause : Nat} {scr scl now : Bool} {u : Use} {k : OpKind} {ofSize : Nat → OpKind} {dat : Nat → Nat}
  {m : LaneSet} {fs : List LaneFault} {as : List (Nat × Nat)} {r : HRes}

/-! #### What an access to memory answers -/

/-- The operation of an access to memory, for the lanes that the checks let go on; only a write has data. -/
def memoryOp (t : State) (x : Ops) (u : Use) (k : OpKind) (dat : Nat → Nat) (as : List (Nat × Nat)) : Op :=
  laneOp t x k as (if u = .write then as.map (fun p => (p.1, dat p.1)) else [])

/-- The lanes that the checks let go on enter their operation after its release, and the others fault. -/
theorem accessOp_memory_room (checked : checkLanes s false z u (laneAddrs s x false m) = (t, .ok (fs, as)))
    (room : Room t n (relOps t x) (memoryOp t x u k dat as)) : accessOp s x false z u n k dat now m =
      .next (enteredF t x n (relOps t x) (memoryOp t x u k dat as) fs (tried ((relOps t x).length + if now then 1 else 0))) := by
  rw [← issueOpF_enters room, accessOp, checked]
  rfl

/-- A class-5 cause of any lane traps the subset, which ends the span (R241). -/
theorem accessOp_ended (ended : checkLanes s scr z u (laneAddrs s x scr m) = (t, .error cause)) :
    accessOp s x scr z u n k dat now m = trapOut t cause := by
  rw [accessOp, ended]

/-- Where no lane faults, entering is that of the whole subset. -/
theorem enteredF_nil (s : State) (x : Ops) (n : Nat) (pre : List Op) (o : Op) (after : State → Nat → State) :
    enteredF s x n pre o [] after = entered s x n pre o after := by
  simp only [enteredF, entered, faultSet_nil, and_notNone, laneFaults_nil]

section
variable (free : Free s maj x
  (minSub [addrSub s x scr, atomSub s x (atomBytes x), longDst s.cur x (atomBytes x / 4) true scl x.d, subIf (opdIsS x.d && scl && x.guard ≠ Guard.always) 10])
  (addrRefs x scr ++ opdRefs x.b (if x.hi4 = 9 then atomBytes x / 2 else atomBytes x / 4)) [])
include free

theorem atomic_accesses (may : s.cur.rgnOpen = false ∨ partLanes s x = 0) : atomic s x maj scr scl ofSize =
    accessOp s x scr (atomBytes x) .write (atomBytes x / 4) (ofSize (atomBytes x)) (atomOpd s x (atomBytes x)) false (partLanes s x) := by
  rw [atomic, issue_free _ free, if_neg]
  rcases may with closed | nobody
  · simp [closed]
  · simp [nobody]

/-- An atomic in an open region traps (R51). -/
theorem atomic_region (opened : s.cur.rgnOpen = true) (someone : partLanes s x ≠ 0) : atomic s x maj scr scl ofSize = trapOut s 0x103 := by
  rw [atomic, issue_free _ free, if_pos ((Bool.and_eq_true _ _).mpr ⟨opened, decide_eq_true someone⟩)]

end

/-! #### What one lane's address meets (R241, R371) -/

theorem laneCause_global_clear (aligned : a % z = 0) (near : a < Config.vaLimit) : laneCause size false z a = none :=
  (laneCause_aligned_global aligned).trans (if_neg (not_le.mpr near))

theorem checkLanes_one_laneCause (caused : laneCause (scratchSize s) scr z a = some cause) :
    checkLanes s scr z u [(i, a)] = (s, .ok ([{ lane := i, cause := cause, addr := a }], [])) := by
  cases scr <;> simp [checkLanes, caused, probeLanes]

section
variable (clear : laneCause (scratchSize s) false z a = none)
include clear

theorem checkLanes_one_leaseCause (lease : leaseCause s s.cur a u = some cause) : checkLanes s false z u [(i, a)] = (s, .error cause) := by
  simp [checkLanes, clear, lease]

variable (lease : leaseCause s s.cur a u = none)
include lease

theorem checkLanes_one_probeCause (probed : probe s s.cur.acc s.cur.site a u = (t, .cause cause)) :
    checkLanes s false z u [(i, a)] = (t, .ok ([{ lane := i, cause := 0x70 + cause, addr := a }], [])) := by
  simp [checkLanes, clear, lease, probeLanes, probed]

theorem checkLanes_one_goesOn (probed : probe s s.cur.acc s.cur.site a u = (t, r)) (uncaused : ∀ k, r ≠ .cause k) :
    checkLanes s false z u [(i, a)] = (t, .ok ([], [(i, a)])) := by
  cases r with
  | cause k => exact absurd rfl (uncaused k)
  | line | mmio | absent | peer | pinned => simp [checkLanes, clear, lease, probeLanes, probed]

end

/-- Settles O31: an access enters for the lanes that the checks let go on (`accessOp_memory_room`) or ends as they say (`accessOp_ended`), an atomic by its
open region first; one lane's address meets what `laneCause`, then the lease window, then `probe` gives. -/
theorem globalAccesses : Obligations.GlobalAccesses := by
  refine ⟨fun x s t fs as => ⟨?ld, ?st, ?atom, fun free opened someone => ?region,
      fun e => ⟨?ldEnded, ?stEnded, ?atomEnded⟩, fun o => enteredF_nil t x _ _ o⟩,
    fun s t z i a u r => ⟨fun k => checkLanes_one_laneCause, fun clear => ⟨fun k => checkLanes_one_leaseCause clear,
      fun lease probed => ⟨?probeCause, checkLanes_one_goesOn clear lease probed⟩⟩⟩⟩
  case ld =>
    rintro _ rfl free checked room
    exact (issue_free _ free).trans (accessOp_memory_room (dat := fun _ => 0) checked room)
  case st =>
    rintro _ rfl free checked room
    exact (issue_free _ free).trans (accessOp_memory_room checked room)
  case atom =>
    rintro _ rfl free may checked room
    change execAtom x s = _
    rw [execAtom, atomic_accesses free may]
    exact accessOp_memory_room checked room
  case region =>
    change execAtom x s = _
    rw [execAtom, atomic_region free opened someone]
    rfl
  case ldEnded => exact fun free ended => (issue_free _ free).trans (accessOp_ended ended)
  case stEnded => exact fun free ended => (issue_free _ free).trans (accessOp_ended ended)
  case atomEnded =>
    intro free closed ended
    change execAtom x s = _
    rw [execAtom, atomic_accesses free (.inl closed), accessOp_ended ended]
    rfl
  case probeCause =>
    rintro k rfl
    exact checkLanes_one_probeCause clear lease probed

end Sys2Proof.Machine
end

section
/-! ### `ldc`, `put`, the ordering instructions and `pref` at issue (R243, R252, R253, R256 to R260, R333) -/
namespace Sys2Proof.Machine

open Sys2Proof.Claims

variable {s t : State} {x : Ops} {k : OpKind} {r : HRes} {cause : Nat}

/-! #### `ldc` (R243) -/

/-- No cause of class 0, 1 or 2 applies to `ldc` where it issues. -/
abbrev LdcFree (s : State) (x : Ops) : Prop :=
  Free s 0x94 x (minSub [addrSub s x false, uniSub x.a, uniSub x.c, longDst s.cur x (sizeRegs (widthBytes x.hi4)) true true x.d,
    subIf (opdIsS x.d && x.guard ≠ Guard.always) 10]) (addrRefs x false) []

/-- The operation of `ldc`: one address, of the course. -/
def ldcOp (t s : State) (x : Ops) : Op :=
  { newOp t x (.loadC (destOf x.d) x.hi4 x.hint (acqOf x)) (partLanes s x) with lanes := 1, addrs := [(0, addr64 s x 0)] }

section
variable (free : LdcFree s x)
include free

theorem execLdc_nobody (nobody : partLanes s x = 0) : execLdc x s = .next (passed s x) := by
  rw [execLdc, issue_free _ free]
  exact if_pos nobody

variable (someone : partLanes s x ≠ 0)
include someone

theorem execLdc_laneCause (caused : laneCause 0 false (widthBytes x.hi4) (addr64 s x 0) = some cause) :
    execLdc x s = .next (raiseSubset s cause (addr64 s x 0)) := by
  rw [execLdc, issue_free _ free]
  simp only [if_neg someone, caused]

variable (clear : laneCause 0 false (widthBytes x.hi4) (addr64 s x 0) = none)
include clear

theorem execLdc_leaseCause (lease : leaseCause s s.cur (addr64 s x 0) .read = some cause) : execLdc x s = trapOut s cause := by
  rw [execLdc, issue_free _ free]
  simp only [if_neg someone, clear, lease]

variable (lease : leaseCause s s.cur (addr64 s x 0) .read = none)
include lease

theorem execLdc_probeCause (probed : probe s s.cur.acc s.cur.site (addr64 s x 0) .read = (t, .cause cause)) :
    execLdc x s = .next (raiseSubset t (0x70 + cause) (addr64 s x 0)) := by
  rw [execLdc, issue_free _ free]
  simp only [if_neg someone, clear, lease, probed]

theorem execLdc_goesOn (probed : probe s s.cur.acc s.cur.site (addr64 s x 0) .read = (t, r)) (uncaused : ∀ k, r ≠ .cause k) :
    execLdc x s = issueOp t x (sizeRegs (widthBytes x.hi4)) (ldcOp t s x) := by
  rw [execLdc, issue_free _ free]
  cases r with
  | cause k => exact absurd rfl (uncaused k)
  | line | mmio | absent | peer | pinned =>
    simp only [if_neg someone, clear, lease, probed]
    rfl

end

/-! #### `put` (R252, R253) -/

/-- No cause of class 0, 1 or 2 applies to `put` where it issues. -/
abbrev PutFree (s : State) (x : Ops) : Prop :=
  Free s 0x97 x (minSub [quadSub s x x.a, srcSub s x (.int false false) x.b, uniSub x.b, srcSub s x (.int false false) x.c, uniSub x.c])
    (opdRefs x.a 4 ++ opdRefs x.b 1 ++ opdRefs x.c 1) []

/-- A word of the descriptor of `put`. -/
abbrev putWord (s : State) (x : Ops) (k : Nat) : Nat := s.cur.regAt x.a 0 k

/-- The lowest cause of the descriptor of `put`. -/
abbrev putDescCause (s : State) (x : Ops) : Option Nat :=
  putCause s (putWord s x 0 % 8) (putWord s x 1) (putWord s x 2) (putWord s x 3) (readU s x x.c 0) (putWord s x 0 / 8)

/-- The operation of `put`. -/
def newPut (s : State) (x : Ops) : Op :=
  newOp s x (.put (putWord s x 0 % 8) (putWord s x 1) (putWord s x 2) (putWord s x 3) (readU s x x.c 0) (BitVec.ofNat 32 (readU s x x.b 0))) s.iss.mask

section
variable (free : PutFree s x)
include free

theorem execPut_caused (caused : putDescCause s x = some cause) : execPut x s = trapOut s cause := by
  rw [execPut, issue_free _ free]
  simp only [caused]

theorem execPut_goesOn (clear : putDescCause s x = none) : execPut x s = issueOpF s x 1 [] (newPut s x) [] performOp := by
  rw [execPut, issue_free _ free]
  simp only [clear]
  rfl

end

/-! #### Ordering instructions (R256 to R258) -/

theorem orderOp_room (room : Room s 1 [] (newOp s x k s.iss.mask)) : orderOp s x k = .next (entered s x 1 [] (newOp s x k s.iss.mask) performOp) :=
  issueOpF_room s x 1 [] _ performOp room

/-- No cause of class 0, 1 or 2 applies to `afence` where it issues. -/
abbrev AfenceFree (s : State) (x : Ops) : Prop :=
  Free s 0x9A x (minSub [addrSub s x false, uniSub x.a, uniSub x.c, srcSub s x (.int false false) x.b, uniSub x.b]) (addrRefs x false ++ opdRefs x.b 1) []

section
variable (free : AfenceFree s x)
include free

theorem execAfence_empty (empty : readU s x x.b 0 = 0) : execAfence x s = .next (passed s x) := by
  rw [execAfence, issue_free _ free]
  exact if_pos empty

theorem execAfence_beyond (bytes : readU s x x.b 0 ≠ 0) (beyond : Config.vaLimit < addr64 s x 0 + readU s x x.b 0) :
    execAfence x s = trapOut s 0x45 := by
  rw [execAfence, issue_free _ free]
  exact (if_neg bytes).trans (if_pos beyond)

theorem execAfence_inside (bytes : readU s x x.b 0 ≠ 0) (inside : addr64 s x 0 + readU s x x.b 0 ≤ Config.vaLimit) :
    execAfence x s = orderOp s x (.afence (addr64 s x 0) (readU s x x.b 0)) := by
  rw [execAfence, issue_free _ free]
  exact (if_neg bytes).trans (if_neg (not_lt.mpr inside))

end

/-- No cause of class 0, 1 or 2 applies to `pflush` where it issues. -/
abbrev PflushFree (s : State) (x : Ops) : Prop :=
  Free s 0x9C x (minSub [srcSub s x (.int false false) x.a, uniSub x.a]) (opdRefs x.a 1) []

section
variable (free : PflushFree s x)
include free

theorem execPflush_device (device : readU s x x.a 0 < s.nDev) : execPflush x s = orderOp s x (.pflush (readU s x x.a 0)) := by
  rw [execPflush, issue_free _ free]
  exact if_neg (not_le.mpr device)

theorem execPflush_noDevice (noDevice : s.nDev ≤ readU s x x.a 0) : execPflush x s = trapOut s 0x162 := by
  rw [execPflush, issue_free _ free]
  exact if_pos noDevice

end

/-! #### `pref` (R260, R333) -/

theorem prefTaken_subset (s : State) (qid free : Nat) (taken : List Nat) (as : List (Nat × Nat)) : prefTaken s qid free taken as ⊆ as := by
  induction as generalizing taken with
  | nil => exact List.Subset.refl _
  | cons p rest ih =>
    simp only [prefTaken]
    split_ifs with held room
    · exact List.cons_subset_cons p (ih _)
    · exact List.cons_subset_cons p (ih _)
    · exact List.subset_cons_of_subset p (ih _)

theorem prefLanes_subset (s : State) (as : List (Nat × Nat)) : prefLanes s as ⊆ as := by
  rw [prefLanes]
  split
  · exact List.Subset.refl _
  · exact prefTaken_subset ..

/-- Settles O33: `ldc` takes the lowest cause of its address, `put` that of its descriptor, and `afence` and `pflush` by their operand; what has none enters
its operation (`issueOpF_room`). `pref` drops lanes and adds none (`prefLanes_subset`). -/
theorem otherAccesses : Obligations.OtherAccesses := by
  intro x s t
  refine ⟨?ldc, execLdc_nobody, fun free someone misaligned => ?misaligned, fun free someone aligned far => ?far,
    fun k free someone aligned near => ?lease, ?put, fun k => execPut_caused, fun free room => ?phase, fun free room => ?fence,
    fun free bytes inside room => ?afence, execAfence_empty, execAfence_beyond, fun free device room => ?pflush, execPflush_noDevice,
    fun free => ⟨?pref, prefLanes_subset s _, fun few => if_pos few⟩⟩
  case ldc =>
    rintro _ r rfl free someone aligned near lease probed
    have clear := laneCause_global_clear (size := 0) aligned near
    refine ⟨fun uncaused room => ?_, ?_⟩
    · exact (execLdc_goesOn free someone clear lease probed uncaused).trans (issueOpF_room t x _ [] _ later room)
    · rintro k rfl
      exact execLdc_probeCause free someone clear lease probed
  case misaligned => exact execLdc_laneCause free someone (laneCause_misaligned misaligned false)
  case far => exact execLdc_laneCause free someone ((laneCause_aligned_global aligned).trans (if_pos far))
  case lease => exact execLdc_leaseCause free someone (laneCause_global_clear aligned near)
  case put =>
    rintro _ rfl free clear room
    exact (execPut_goesOn free clear).trans (issueOpF_room s x 1 [] _ performOp room)
  case phase =>
    change execPhase x s = _
    rw [execPhase, issue_free _ free, orderOp_room room]
  case fence =>
    change execFence x s = _
    rw [execFence, issue_free _ free, orderOp_room room]
  case afence => exact (execAfence_inside free bytes inside).trans (orderOp_room room)
  case pflush => exact (execPflush_device free device).trans (orderOp_room room)
  case pref =>
    change execPref x s = _
    rw [execPref, issue_free _ free, done_passed]

end Sys2Proof.Machine
end

section
/-! ### Events in which accesses go on, and pins (R229, R246, R249, R254, R371, R425, R481) -/
namespace Sys2Proof.Machine

variable {s : State} {l : Line} {asid la : Nat}

theorem forcePin_refused (found : l2Find s asid la = some l) (pinned : l.pin.isSome = true) (refused : l.refusedOnce = true) :
    forcePin s asid la = postEvent (endPin s asid la) (.event l.pinT) { code := 1, addr := la, asid := asid, detail := l.pin.getD 0 } := by
  have unpinned : l.pin.isNone = false := Option.isNone_eq_false_iff.mpr pinned
  simp [forcePin, found, unpinned, refused]

/-- A pin that has refused no request stays (R229). -/
theorem forcePin_unrefused (found : l2Find s asid la = some l) (unrefused : l.refusedOnce = false) : forcePin s asid la = s := by
  simp [forcePin, found, unrefused]

/-- Settles O34: each event acts on the operation that its number finds, where it is of its kinds (`onOp_here`); a pin is ended where it has refused. -/
theorem accessEvents : Obligations.AccessEvents := by
  refine ⟨fun s o listed unheld pending issued => ?_,
    fun s asid la l found => ⟨fun pinned refused => congrArg _ (forcePin_refused found pinned refused),
      fun unrefused => congrArg _ (forcePin_unrefused found unrefused)⟩⟩
  have here {p : Op → Bool} {f : State → Op → State} : p o = true → onOp s s.cur.id o.seq p f = .next (f s o) := onOp_here listed unheld pending issued
  refine ⟨fun load plain entry => here ?load, fun entry => here ?replay, fun access stores plain => here ?store, here, here,
    here (p := fun _ => true) rfl, fun b doff soff len coff inc kind stage ready => ?put⟩
  case load => simp [Op.isPlainLoad, load, plain, entry]
  case replay => simp [entry]
  case store => simp [access, stores, plain]
  case put =>
    refine (here (by simp [Op.putBond, kind])).trans ?_
    simp [kind, stage, ready]

end Sys2Proof.Machine
end

section
/-! ### Array commands at issue (R102, R275, R278, R279, R286 to R296) -/
namespace Sys2Proof.Machine

open Sys2Proof.Claims

variable {s : State} {x : Ops} {b : Bond} {q : ArrCmd} {maj : Nat} {c1 own cause : Option Nat} {reads writes : List RegRef}
  {build : Bond → Except Unit (ArrCmd × Option Nat)} {mark : Course → Course}

/-! #### The causes of a command (R102, R278) -/

/-- The lowest of a list counts for its members. -/
theorem minSub_minSub (l rest : List (Option Nat)) : minSub (minSub l :: rest) = minSub (l ++ rest) := (List.foldl_append ..).symm

theorem minSub_pair_none (o : Option Nat) : minSub [o, none] = o := by cases o <;> rfl

/-- The cause of a range that ends beyond the scratchpad. -/
def beyondSub (b : Bond) (q : ArrCmd) : Option Nat := subIf ((cmdRanges b q).any (fun r => decide (b.size < r.1 + r.2.1))) 0x46

theorem rangeSub_one (b : Bond) (q : ArrCmd) (o : Nat) : rangeSub b q [o] = minSub [subIf (o % 16 ≠ 0) 0x34, beyondSub b q] := by
  simp only [rangeSub, List.any_cons, List.any_nil, Bool.or_false]
  rfl

theorem rangeSub_two (b : Bond) (q : ArrCmd) (o p : Nat) :
    rangeSub b q [o, p] = minSub [subIf (o % 16 ≠ 0 || p % 16 ≠ 0) 0x34, beyondSub b q] := by
  simp only [rangeSub, List.any_cons, List.any_nil, Bool.or_false]
  rfl

/-- A range that counts only where what it needs is known: the offset counts in either case. -/
theorem minSub_rangeSub_if (known : Bool) (b : Bond) (q : ArrCmd) (o : Nat) (rest : List (Option Nat)) :
    minSub ((if known then rangeSub b q [o] else subIf (o % 16 ≠ 0) 0x34) :: rest) =
      minSub (subIf (o % 16 ≠ 0) 0x34 :: (if known then beyondSub b q else none) :: rest) := by
  cases known with
  | true => exact (congrArg (fun k => minSub (k :: rest)) (rangeSub_one b q o)).trans (minSub_minSub _ rest)
  | false => exact (congrArg (fun k => minSub (k :: rest)) (minSub_pair_none _).symm).trans (minSub_minSub _ rest)

/-! #### What a command answers (R102, R279) -/

/-- A command enters where it has no cause and there is room, takes the lowest of its causes and that of a harvest course outside a region, and is held
while sixteen commands are queued. -/
def CommandRuled (s : State) (x : Ops) (b : Bond) (cause : Option Nat) (good : State) (out : Out) : Prop :=
  (minSub [harvestSub s, cause] = none → CmdRoom s x b → out = .next good) ∧
  (∀ k, minSub [harvestSub s, cause] = some k → out = trapOut s k) ∧
  (minSub [harvestSub s, cause] = none → 16 ≤ b.queue.length → out = stallIssue s)

/-- A command is ruled by the cause that it is built with. -/
theorem command_ruled (free : Free s maj x c1 reads writes) (bond : curBond s = some b) (built : build b = .ok (q, own)) (same : own = cause) :
    CommandRuled s x b cause (queued s x q mark) (command s x maj c1 (class2 s x reads writes) build mark) := by
  subst same
  refine ⟨fun clear ⟨_, short, _, room⟩ => ?enters, fun k least => ?traps, fun clear full => ?held⟩
  all_goals rw [command, issue_free _ free]
  case enters =>
    simp only [bond, built, clear, if_neg (not_le.mpr short)]
    exact issueOpF_room s x 1 [] _ _ room
  case traps => simp only [bond, built, least]
  case held => simp only [bond, built, clear, if_pos full]

/-- A command that cannot be built yet is held, unless its course is of harvest and outside a region. -/
theorem command_unbuilt (free : Free s maj x c1 reads writes) (bond : curBond s = some b) (unbuilt : build b = .error ()) :
    command s x maj c1 (class2 s x reads writes) build mark = if s.cur.harvest && !s.cur.rgnOpen then trapOut s 0x108 else stallIssue s := by
  rw [command, issue_free _ free]
  simp only [bond, unbuilt, harvestSub, subIf]
  cases s.cur.harvest && !s.cur.rgnOpen <;> rfl

/-- Settles O41: each command is built with the causes of its clause and ruled by them (`command_ruled`); an `mxm` whose record is not known yet is not
built (`command_unbuilt`). -/
theorem arrayCommands : Obligations.ArrayCommands := by
  intro x s b bond
  refine ⟨?mxld, fun free => command_ruled free bond rfl rfl, fun free => ⟨?mxm, ?unknown⟩, fun free => command_ruled free bond rfl rfl,
    ?had, ?qnt, ?mxst, ?mxsv, ?mxrs⟩
  case mxld =>
    rintro _ rfl free
    exact command_ruled free bond rfl (minSub_rangeSub_if ..)
  case mxm =>
    rintro r _ known rfl
    exact command_ruled free bond (by simp only [known]) (minSub_rangeSub_if ..)
  case unknown =>
    intro unknown
    change execMxm x s = _
    rw [execMxm, command_unbuilt free bond (by simp only [unknown])]
    rfl
  case had => exact fun free => command_ruled free bond rfl (rangeSub_one ..)
  case qnt =>
    rintro _ rfl free
    exact command_ruled free bond rfl ((congrArg (fun k => minSub [k, _]) (rangeSub_two ..)).trans (minSub_minSub ..))
  case mxst => exact fun free => command_ruled free bond rfl ((congrArg (fun k => minSub [k, _, _]) (rangeSub_one ..)).trans (minSub_minSub ..))
  case mxsv =>
    rintro _ rfl free
    exact command_ruled free bond rfl (rangeSub_one ..)
  case mxrs =>
    rintro _ rfl free
    exact command_ruled free bond rfl (rangeSub_one ..)

end Sys2Proof.Machine
end

section
/-! ### `mxrd` and `mxwr` (R285, R292) -/
namespace Sys2Proof.Machine

open Sys2Proof.Claims

variable {s : State} {x : Ops} {b : Bond} {act : Out} {i k w : Nat} {cs : Cells w}

/-! #### What the two share at issue -/

/-- The cause of the row and half of an instruction, or of its course. -/
def tileCause (s : State) (x : Ops) (b : Bond) : Option Nat := rowSub s x b (partLanes s x) (readU s x x.b 0)

/-- An access to the tile of an instruction: its cause, else the wait for the commands that touch the tile, else what it does. -/
def atTile (s : State) (x : Ops) (b : Bond) (act : Out) : Out :=
  match tileCause s x b with
  | some k => trapOut s k
  | none => if tileBusy b (x.field 2 2) then stallIssue s else act

theorem atTile_caused (caused : tileCause s x b = some k) : atTile s x b act = trapOut s k := by rw [atTile, caused]

theorem atTile_busy (clear : tileCause s x b = none) (busy : tileBusy b (x.field 2 2) = true) : atTile s x b act = stallIssue s := by
  rw [atTile, clear]
  exact if_pos busy

theorem atTile_idle (clear : tileCause s x b = none) (idle : tileBusy b (x.field 2 2) = false) : atTile s x b act = act := by
  rw [atTile, clear]
  exact if_neg (Bool.eq_false_iff.mp idle)

/-- The key of the tile word of a lane. -/
def laneKey (s : State) (x : Ops) (i : Nat) : Nat := tileKey (x.field 2 2) (readU s x x.b 0) ((if x.bit 4 then 32 else 0) + i)

/-! #### `mxrd` -/

/-- What `mxrd` does where nothing stops it. -/
def readTile (s : State) (x : Ops) (b : Bond) : Out :=
  if (lanes s x).any (fun i => Cells.get b.tpoison (laneKey s x i) ≠ 0) then .next (raise s 0x150 s.cur.live s.iss.pc 0 0)
  else .next (passed (s.upd (fun c => c.writeLanes x.d 1 false ((lanes s x).map (fun i => (i, (Cells.get b.tiles (laneKey s x i)).toNat))))) x)

theorem execMxrd_atTile (bond : curBond s = some b)
    (free : Free s 0xC4 x (minSub [uniOpd s x x.b, dstSub s.cur x 1 x.d, subIf (opdIsS x.d) 14]) (opdRefs x.b 1) (opdRefs x.d 1)) :
    execMxrd x s = atTile s x b (readTile s x b) := by
  rw [execMxrd, issue_free _ free, bond]
  rfl

theorem readTile_sound (sound : ∀ i ∈ lanes s x, Cells.get b.tpoison (laneKey s x i) = 0) : readTile s x b =
    .next (passed (s.upd (fun c => c.writeLanes x.d 1 false ((lanes s x).map (fun i => (i, (Cells.get b.tiles (laneKey s x i)).toNat))))) x) :=
  if_neg (by simpa using sound)

theorem readTile_poisoned (poisoned : ∃ i ∈ lanes s x, Cells.get b.tpoison (laneKey s x i) ≠ 0) :
    readTile s x b = .next (raise s 0x150 s.cur.live s.iss.pc 0 0) := if_pos (by simpa using poisoned)

/-! #### `mxwr` -/

/-- The words that `mxwr` writes, with their keys. -/
def tileWords (s : State) (x : Ops) : List (Nat × Word) := (lanes s x).map (fun i => (laneKey s x i, BitVec.ofNat 32 (readU s x x.a i)))

/-- The state that `mxwr` leaves where nothing stops it. -/
def tileWritten (s : State) (x : Ops) (b : Bond) : State :=
  passed ((putBond s { b with
      tiles := Cells.setAll b.tiles (tileWords s x), tpoison := Cells.setAll b.tpoison ((tileWords s x).map (fun p => (p.1, 0))) }).upd
    (fun c => { c with markTiles := if partLanes s x = 0 then c.markTiles else c.markTiles ||| BitVec.ofNat 4 (2 ^ x.field 2 2) })) x

theorem execMxwr_atTile (bond : curBond s = some b)
    (free : Free s 0xC5 x (minSub [uniOpd s x x.b, srcSub s x (.int false false) x.a]) (opdRefs x.b 1 ++ opdRefs x.a 1) []) :
    execMxwr x s = atTile s x b (.next (tileWritten s x b)) := by
  rw [execMxwr, issue_free _ free, bond]
  rfl

/-! #### What one writes the other reads -/

/-- Keys at the members of a list past one base are apart, so each word written at them is read again. -/
theorem Cells.get_setAll_offsets {ls : List Nat} {key : Nat → Nat} {base : Nat} (f : Nat → BitVec w) (offset : ∀ j, key j = base + j)
    (wf : Cells.wf cs = true) (member : i ∈ ls) : Cells.get (Cells.setAll cs (ls.map (fun i => (key i, f i)))) (key i) = f i := by
  obtain rfl : key = (base + ·) := funext offset
  have written := Cells.get_foldl (ls.map (base + ·)) (fun k => f (k - base)) cs (base + i) wf
  rw [if_pos (List.mem_map_of_mem member), Nat.add_sub_cancel_left] at written
  simpa [Cells.setAll, List.foldl_map] using written

theorem get_tileWords (wf : Cells.wf b.tiles = true) (member : i ∈ lanes s x) :
    Cells.get (Cells.setAll b.tiles (tileWords s x)) (laneKey s x i) = BitVec.ofNat 32 (readU s x x.a i) :=
  Cells.get_setAll_offsets (fun i => BitVec.ofNat 32 (readU s x x.a i)) (fun _ => (Nat.add_assoc ..).symm) wf member

/-- Settles O42: both are accesses to one tile (`atTile`), which trap or wait alike; the keys of a row's words differ, so what one writes the other reads
(`get_tileWords`). -/
theorem tileAccess : Obligations.TileAccess := by
  intro x s b bond
  refine ⟨fun free => ?mxrd, fun free => ?mxwr, fun wf i => get_tileWords wf⟩
  case mxrd =>
    have here : exec (.mxrd x) s = _ := execMxrd_atTile bond free
    refine ⟨⟨fun k caused => here.trans (atTile_caused caused), fun clear busy => here.trans (atTile_busy clear busy)⟩, fun clear idle => ?_⟩
    rw [here, atTile_idle clear idle]
    exact ⟨readTile_sound, readTile_poisoned⟩
  case mxwr =>
    have here : exec (.mxwr x) s = _ := execMxwr_atTile bond free
    refine ⟨⟨fun k caused => here.trans (atTile_caused caused), fun clear busy => here.trans (atTile_busy clear busy)⟩, ?_⟩
    rintro _ rfl clear idle
    exact here.trans (atTile_idle clear idle)

end Sys2Proof.Machine
end

section
/-! ### Array commands start and complete (R281, R283, R289, R291) -/
namespace Sys2Proof.Machine

variable {s : State} {b : Bond} {q : ArrCmd} {bond n k w : Nat} {cs : Cells w}

/-! #### The events of a command that is found -/

theorem execArrayCommandStart_found (found : findBond s bond = some b) (queued : b.queue.find? (fun y => y.id == n) = some q) :
    execArrayCommandStart bond n s = .next (if cmdCanStart s b q then startCmd s b q else s) := by
  rw [execArrayCommandStart, found]
  simp only [queued]

theorem execArrayCommandCompletion_started (found : findBond s bond = some b) (queued : b.queue.find? (fun y => y.id == n) = some q)
    (started : q.started = true) : execArrayCommandCompletion bond n s = .next (completeCmd s b q) := by
  have first : b.queue.find? (fun y => y.id == n && y.started) = some q := by
    obtain ⟨same, before, after, split, others⟩ := List.find?_eq_some_iff_append.mp queued
    refine List.find?_eq_some_iff_append.mpr ⟨by rw [same, started]; rfl, before, after, split, fun y earlier => ?_⟩
    have apart : y.id ≠ n := by simpa using others y earlier
    simp [apart]
  rw [execArrayCommandCompletion, found]
  simp only [first]

/-! #### What `mxz` and `mxsw` do to the bond (R289, R291) -/

/-- The tiles that `mxz` names. -/
def zeroedTiles (q : ArrCmd) : List Nat := if q.f 4 1 = 1 then [0, 1, 2, 3] else [q.tile]

theorem runCmd_mxz_tiles (mxz : q.maj = 0xC3) :
    (runCmd b q).1.tiles = (zeroedTiles q).foldl (fun cs t => Cells.drop cs (4096 * t) (4096 * t + 4096)) b.tiles := by
  rw [runCmd, mxz]
  rfl

/-- Dropping the tiles of a list zeroes the words of those tiles and no other. -/
theorem Cells.get_foldl_drop (ts : List Nat) (wf : Cells.wf cs = true) :
    Cells.get (ts.foldl (fun cs t => Cells.drop cs (4096 * t) (4096 * t + 4096)) cs) k = if k / 4096 ∈ ts then 0 else Cells.get cs k := by
  induction ts generalizing cs with
  | nil => simp
  | cons t ts ih =>
    have here : (4096 * t ≤ k ∧ k < 4096 * t + 4096) ↔ k / 4096 = t := by omega
    rw [List.foldl_cons, ih (Cells.wf_drop cs _ _ wf), Cells.get_drop wf]
    by_cases dropped : k / 4096 = t
    · simp [here, dropped]
    · simp [here, dropped]

theorem get_runCmd_mxz (mxz : q.maj = 0xC3) (wf : Cells.wf b.tiles = true) :
    Cells.get (runCmd b q).1.tiles k = if k / 4096 ∈ zeroedTiles q then 0 else Cells.get b.tiles k := by
  rw [runCmd_mxz_tiles mxz, Cells.get_foldl_drop _ wf]

theorem zeroedTiles_all (all : q.f 4 1 = 1) : zeroedTiles q = [0, 1, 2, 3] := if_pos all

theorem zeroedTiles_one (one : q.f 4 1 = 0) : zeroedTiles q = [q.tile] := if_neg (by rw [one]; decide)

theorem runCmd_mxsw (mxsw : q.maj = 0xC1) :
    (runCmd b q).1.active = b.shadow ∧ (runCmd b q).1.shadow = b.active ∧ (runCmd b q).1.tiles = b.tiles := by
  rw [runCmd, mxsw]
  exact ⟨rfl, rfl, rfl⟩

/-- Settles O43: the events act on the command that its number finds; a word is zeroed exactly where its tile is one that `mxz` names
(`get_runCmd_mxz`). -/
theorem arrayEvents : Obligations.ArrayEvents := by
  refine ⟨fun s b q found queued => ⟨fun can => ?starts, execArrayCommandCompletion_started found queued, fun cannot => ?waits⟩,
    fun b q k wf => ⟨fun mxz all inside => ?all, fun mxz one => ?one, runCmd_mxsw⟩⟩
  case starts => exact (execArrayCommandStart_found found queued).trans (congrArg Host.Outcome.next (if_pos can))
  case waits => exact (execArrayCommandStart_found found queued).trans (congrArg Host.Outcome.next (if_neg (Bool.eq_false_iff.mp cannot)))
  case all =>
    rw [get_runCmd_mxz mxz wf, zeroedTiles_all all]
    exact if_pos (by simp only [List.mem_cons]; omega)
  case one => simp only [get_runCmd_mxz mxz wf, zeroedTiles_one one, List.mem_singleton]

end Sys2Proof.Machine
end

section
/-! ### `enq` and `lease` at issue (R309, R310, R336, R376, R377) -/
namespace Sys2Proof.Machine

open Sys2Proof.Claims

variable {s t : State} {x : Ops} {r : HRes} {k form : Nat}

/-! #### Sub-codes of class 1, grouped -/

theorem minSub_eq_none {l : List (Option Nat)} : minSub l = none ↔ ∀ o ∈ l, o = none := by
  refine ⟨fun clear => ?_, minSub_none l⟩
  induction l using List.reverseRecOn with
  | nil => simp
  | append_singleton l last ih =>
    have apart : minSub l = none ∧ last = none := by
      rw [minSub, List.foldl_append] at clear
      change (match minSub l, last with | some a, some b => some (Nat.min a b) | some a, none => some a | none, y => y) = none at clear
      cases least : minSub l <;> cases last <;> simp_all
    intro o member
    rcases List.mem_append.mp member with earlier | final
    · exact ih apart.1 o earlier
    · exact (List.mem_singleton.mp final).trans apart.2

/-- A group of sub-codes that has none is as its members. -/
theorem free_ungroup {maj : Nat} {o : Option Nat} {group : List (Option Nat)} {reads writes : List RegRef}
    (free : Free s maj x (minSub [o, minSub group]) reads writes) : Free s maj x (minSub (o :: group)) reads writes := by
  obtain ⟨clear0, clear1, clear2⟩ := free
  refine ⟨clear0, minSub_eq_none.mpr ?_, clear2⟩
  simpa [minSub_eq_none] using clear1

/-! #### `enq` (R309, R310) -/

/-- No cause of class 0, 1 or 2 applies to `enq` where it issues. -/
abbrev EnqFree (s : State) (x : Ops) : Prop :=
  Free s 0xD0 x (minSub [statusDst s x, addrSub s x false, uniSub x.a, uniSub x.c, srcSub s x (.int false false) x.b, uniSub x.b])
    (addrRefs x false ++ opdRefs x.b 1) []

/-- The lowest cause of `enq` after those: an open region, its queue, its address. -/
def enqCause (s : State) (x : Ops) : Option Nat :=
  minSub [subIf s.cur.rgnOpen 0x103, subIf (15 < readU s x x.b 0 || !queueOn s s.cur.tenant (readU s x x.b 0)) 0xF0,
    subIf (decide (Config.vaLimit ≤ addr64 s x 0)) 0x40, subIf (addr64 s x 0 % 128 ≠ 0) 0xF1]

/-- The release of `enq`. -/
def enqRelease (t : State) (x : Ops) : Op := { newOp t x (.order (some 5) none) t.iss.mask with flags := 0 }

/-- The operation of `enq`: one address, of the course. -/
def enqOp (t s : State) (x : Ops) : Op :=
  { newOp t x (.enq (destOf x.d) (addr64 s x 0) (readU s x x.b 0)) t.iss.mask with lanes := 1, addrs := [(0, addr64 s x 0)] }

section
variable (free : EnqFree s x)
include free

theorem execEnq_caused (caused : enqCause s x = some k) :
    execEnq x s = .next (raiseSubset s k (if k = 0x40 ∨ k = 0xF1 then addr64 s x 0 else 0)) := by
  unfold enqCause at caused
  rw [execEnq, issue_free _ free]
  simp only [caused, Bool.or_eq_true, decide_eq_true_eq]

variable (clear : enqCause s x = none)
include clear

theorem execEnq_leaseCause (lease : leaseCause s s.cur (addr64 s x 0) .read = some k) : execEnq x s = trapOut s k := by
  unfold enqCause at clear
  rw [execEnq, issue_free _ free]
  simp only [clear, lease]

variable (lease : leaseCause s s.cur (addr64 s x 0) .read = none)
include lease

theorem execEnq_probeCause (probed : probe s s.cur.acc s.cur.site (addr64 s x 0) .read = (t, .cause k)) :
    execEnq x s = .next (raiseSubset t (0x70 + k) (addr64 s x 0)) := by
  unfold enqCause at clear
  rw [execEnq, issue_free _ free]
  simp only [clear, lease, probed]

theorem execEnq_goesOn (probed : probe s s.cur.acc s.cur.site (addr64 s x 0) .read = (t, r)) (uncaused : ∀ k, r ≠ .cause k) :
    execEnq x s = issueOpF t x 1 [enqRelease t x] (enqOp t s x) [] performOp := by
  unfold enqCause at clear
  rw [execEnq, issue_free _ free]
  cases r with
  | cause k => exact absurd rfl (uncaused k)
  | line | mmio | absent | peer | pinned =>
    simp only [clear, lease, probed]
    rfl

end

/-! #### `lease` (R336, R376, R377) -/

/-- An operation of `lease`, which acts once. -/
def leaseOp (s : State) (x : Ops) (form h : Nat) (rs : List (Nat × Nat)) : Op :=
  { newOp s x (.lease (destOf x.d) form h rs) s.iss.mask with lanes := 1 }

/-- The operation of `lease.req`, with the ranges of its block. -/
def leaseReqOp (s : State) (x : Ops) : Op :=
  let n := bits (blockAt s (addr32 s x 0) 4) 0 4
  leaseOp s x 0 0 (requestRanges (blockAt s (addr32 s x 0) (16 + 16 * n)) n)

section
variable (free : Free s 0xD1 x (minSub [statusDst s x, addrSub s x true, uniSub x.a, uniSub x.c]) (addrRefs x true) [])
include free

theorem execLeaseReq_held (held : blockHeld s (addr32 s x 0) 144 = true) : execLeaseReq x s = stallIssue s := by
  rw [execLeaseReq, issue_free _ free]
  exact if_pos held

variable (readable : blockHeld s (addr32 s x 0) 144 = false) (sound : readRows s s.cur.bond (addr32 s x 0) 144 = s)
include readable sound

theorem execLeaseReq_caused (caused : requestCause s (addr32 s x 0) = some k) :
    execLeaseReq x s = if k = 0x150 then .next (raise s 0x150 s.cur.live s.iss.pc 0 0) else trapOut s k := by
  rw [execLeaseReq, issue_free _ free]
  simp only [readable, sound, caused, Bool.false_eq_true, if_false]

theorem execLeaseReq_goesOn (clear : requestCause s (addr32 s x 0) = none) : execLeaseReq x s = issueOp s x 1 (leaseReqOp s x) := by
  rw [execLeaseReq, issue_free _ free]
  simp only [readable, sound, clear, Bool.false_eq_true, if_false]
  rfl

end

section
variable (free : Free s 0xD1 x (minSub [statusDst s x, srcSub s x (.int false false) x.b, uniSub x.b]) (opdRefs x.b 1) [])
include free

theorem leaseHandle_answers :
    (∀ o, o = leaseOp s x form (readU s x x.b 0) [] → s.cur.rgnOpen = false → Room s 1 [] o → leaseHandle x s form = .next (entered s x 1 [] o later)) ∧
    (s.cur.rgnOpen = true → leaseHandle x s form = trapOut s 0x103) := by
  rw [leaseHandle, issue_free _ free]
  refine ⟨?_, fun opened => if_pos opened⟩
  rintro _ rfl closed room
  exact (if_neg (Bool.eq_false_iff.mp closed)).trans (issueOpF_room s x 1 [] _ later room)

end

/-- Settles O44: `enq` takes its causes in their order and then enters, `lease.req` by `requestCause` of its block, and the forms with a handle by their
open region alone. -/
theorem dispatchCommands : Obligations.DispatchCommands := by
  intro x s t
  refine ⟨fun free clear k => execEnq_leaseCause free clear, fun k => execEnq_caused, fun r free clear lease probed => ⟨?enters, ?page⟩, ?request,
    fun free => execLeaseReq_held (free_ungroup free), fun free => ?release, fun free => ?query⟩
  case enters =>
    rintro _ _ rfl rfl uncaused room
    exact (execEnq_goesOn free clear lease probed uncaused).trans (issueOpF_room t x 1 _ _ performOp room)
  case page =>
    rintro k rfl
    exact execEnq_probeCause free clear lease probed
  case request =>
    rintro _ rfl free readable sound
    refine ⟨fun clear room => ?_, fun k caused unpoisoned => ?_, fun poisoned => ?_⟩
    · exact (execLeaseReq_goesOn (free_ungroup free) readable sound clear).trans (issueOpF_room s x 1 [] _ later room)
    · exact (execLeaseReq_caused (free_ungroup free) readable sound caused).trans (if_neg unpoisoned)
    · exact (execLeaseReq_caused (free_ungroup free) readable sound poisoned).trans (if_pos rfl)
  case release => exact leaseHandle_answers (free_ungroup free)
  case query => exact leaseHandle_answers (free_ungroup free)

end Sys2Proof.Machine
end

section
/-! ### The steps of `enq` and `lease`, and what a queue answers (R310, R311, R373, R377) -/
namespace Sys2Proof.Machine

variable {s : State} {o : Op} {d : Dest} {x : Queue} {rs : List (Nat × Nat)} {tenant form h k q v va : Nat}

/-! #### Lease entries (R373) -/

theorem leaseAt_ix (s : State) (tenant i : Nat) : (leaseAt s tenant i).ix = i := by
  cases found : s.leases.find? (fun l => l.tenant == tenant && l.ix == i) with
  | none => simp [leaseAt, found]
  | some l =>
    have keyed : l.tenant = tenant ∧ l.ix = i := by simpa using List.find?_some found
    simpa [leaseAt, found] using keyed.2

theorem leaseAt_leasePut (s : State) (l : Lease) : leaseAt (leasePut s l) l.tenant l.ix = l := by
  simp [leaseAt, leasePut, find?_putWhere]

theorem leaseAt_physWrite (s : State) (pa n v tenant i : Nat) : leaseAt (physWrite s pa n v) tenant i = leaseAt s tenant i :=
  physWrite_keeps (g := fun s => leaseAt s tenant i) (fun _ _ _ _ => rfl) s pa n v

/-- The generation after that of an entry, which is never 0. -/
def leaseNextGen (s : State) (tenant i : Nat) : Nat :=
  let g := ((leaseAt s tenant i).gen + 1) % 2 ^ 24
  if g = 0 then 1 else g

theorem leaseNextGen_pos (s : State) (tenant i : Nat) : 0 < leaseNextGen s tenant i := by
  rw [leaseNextGen]
  split_ifs with zero
  · exact Nat.one_pos
  · exact Nat.pos_of_ne_zero zero

theorem leaseAt_leaseFill (s : State) (tenant i : Nat) (rs : List (Nat × Nat)) : leaseAt (leaseFill s tenant i rs) tenant i =
    { tenant := tenant, ix := i, state := 1, asid := s.cur.asid, gen := leaseNextGen s tenant i, spans := 0, ranges := rs } :=
  (leaseAt_physWrite ..).trans (leaseAt_leasePut s
    { tenant := tenant, ix := i, state := 1, asid := s.cur.asid, gen := leaseNextGen s tenant i, spans := 0, ranges := rs })

/-! #### The table step of a `lease` (R377) -/

theorem leaseStep_request_full (full : ∀ k, k < 256 → (leaseAt s s.cur.tenant k).state ≠ 0) : leaseStep s o 0 h rs = finishOp s o [(0, 0)] := by
  have noFree : (List.range 256).find? (fun k => (leaseAt s s.cur.tenant k).state == 0) = none := by
    simpa using full
  simp only [leaseStep, noFree]

theorem leaseStep_request_free (below : k < 256) (free : (leaseAt s s.cur.tenant k).state = 0)
    (lowest : ∀ j, j < k → (leaseAt s s.cur.tenant j).state ≠ 0) : leaseStep s o 0 h rs =
      lrqAdd (leaseFill s s.cur.tenant k rs) o ((leaseAt (leaseFill s s.cur.tenant k rs) s.cur.tenant k).gen * 256 + k) := by
  have first : (List.range 256).find? (fun k => (leaseAt s s.cur.tenant k).state == 0) = some k := by
    rw [List.find?_range_eq_some]
    exact ⟨by simp [free], by simpa using below, by simpa using lowest⟩
  simp only [leaseStep, first]

theorem leaseStep_release_unknown (unknown : leaseNamed s s.cur.tenant h = false) : leaseStep s o 1 h rs = finishOp s o [(0, 2)] :=
  if_pos (by simp [unknown])

section
variable (named : leaseNamed s s.cur.tenant h = true)
include named

theorem leaseStep_release_used (used : (leaseAt s s.cur.tenant (h % 256)).spans ≠ 0) : leaseStep s o 1 h rs = finishOp s o [(0, 1)] :=
  (if_neg (by simp [named])).trans (if_pos used)

theorem leaseStep_release_unused (unused : (leaseAt s s.cur.tenant (h % 256)).spans = 0) : leaseStep s o 1 h rs =
    lrqAdd (physWrite (leasePut s { leaseAt s s.cur.tenant (h % 256) with state := 3 }) (leasePa s s.cur.tenant (h % 256)) 1 3) o 0 := by
  refine ((if_neg (by simp [named])).trans (if_neg (not_not.mpr unused))).trans ?_
  exact congrArg (fun i => lrqAdd (physWrite _ (leasePa s _ i) 1 3) o 0) (leaseAt_ix ..)

end

/-! #### The events of the course in the issue unit -/

section
variable (listed : s.cur.ops.find? (fun y => y.seq == o.seq) = some o) (unheld : o.entry ≠ 1) (pending : o.entry ≠ 3) (issued : o.etype ≠ 4)
  (ready : opReady s s.cur o = true)
include listed unheld pending issued ready

theorem execEnqAppend_ready (kind : o.kind = .enq d va q) (answered : o.peerWait = false) (unparked : o.parked = none) :
    execEnqAppend s.cur.id o.seq s = .next (performEnq s { o with refused := false } va q) := by
  rw [execEnqAppend, onOp_here listed unheld pending issued (by simp [answered, unparked])]
  simp only [kind, ready, if_true]

theorem execLeaseStep_ready (kind : o.kind = .lease d form h rs) (first : o.stage ≠ 1) :
    execLeaseStep s.cur.id o.seq s = .next (leaseStep s { o with refused := false } form h rs) := by
  rw [execLeaseStep, onOp_here (p := fun _ => true) listed unheld pending issued rfl]
  simp only [kind, ready, first, Bool.not_true, Bool.false_eq_true, if_false]

end

/-! #### What a queue answers (R310, R311) -/

section
variable (found : findQueue s s.cur.tenant q = some x) (enabled : x.en = true)
include found enabled

theorem enqRecord_caused (caused : recordSub s s.cur.tenant x v = some k) : enqRecord s o q v = lateSubset s o (0xF0 + k) 0 := by
  simp only [enqRecord, found, enabled, caused, Bool.not_true, Bool.false_eq_true, if_false]

theorem enqRecord_taken (clear : recordSub s s.cur.tenant x v = none) : enqRecord s o q v =
    if x.susp then finishOp s o [(0, 2)] else if (x.tail - x.head).toNat = 2 ^ x.logDepth then finishOp s o [(0, 1)]
    else finishOp (appendSpan s x v) o [(0, 0)] := by
  simp only [enqRecord, found, enabled, clear, Bool.not_true, Bool.false_eq_true, if_false]

end

/-- Settles O45: each event is its step for the operation that its number finds (`onOp_here`); the entry that a request fills reads as it was put
(`leaseAt_leaseFill`), and a queue decides on a record without a cause by its state (`enqRecord_taken`). -/
theorem dispatchEvents : Obligations.DispatchEvents := by
  refine ⟨fun s o d listed unheld pending issued ready => ?events, fun s o q v x found enabled => ⟨fun k => enqRecord_caused found enabled, ?_, ?_, ?_⟩⟩
  case events =>
    have step {form h : Nat} {rs : List (Nat × Nat)} (kind : o.kind = .lease d form h rs) (first : o.stage ≠ 1) :=
      execLeaseStep_ready listed unheld pending issued ready kind first
    refine ⟨fun va q => execEnqAppend_ready listed unheld pending issued ready, fun rs kind first full => ?full, fun rs k kind first below free lowest => ?fills,
      fun h l kind first same named unused => ?unused, fun h => step, fun h kind first unknown => ?unknown, fun h kind first named used => ?used⟩
    case full => exact (step kind first).trans (congrArg _ (leaseStep_request_full full))
    case fills =>
      refine ⟨_, rfl, ?_, ?_, ?_, ?_, (step kind first).trans (congrArg _ (leaseStep_request_free below free lowest))⟩
      all_goals rw [leaseAt_leaseFill]
      exact leaseNextGen_pos ..
    case unused =>
      subst same
      exact (step kind first).trans (congrArg _ (leaseStep_release_unused named unused))
    case unknown => exact (step kind first).trans (congrArg _ (leaseStep_release_unknown unknown))
    case used => exact (step kind first).trans (congrArg _ (leaseStep_release_used named used))
  all_goals intro clear; rw [enqRecord_taken found enabled clear]
  · exact fun suspended => if_pos suspended
  · exact fun running full => (if_neg (Bool.eq_false_iff.mp running)).trans (if_pos full)
  · exact fun running room => (if_neg (Bool.eq_false_iff.mp running)).trans (if_neg room)

end Sys2Proof.Machine
end

section
/-! ### Host accesses and IDE checks (R308, R443, R444, R447, R448) -/
namespace Sys2Proof.Machine

variable {s t u : State} {a : HostAccess} {v : Vf} {w : HostWait} {x y : IdeStream} {r : HostWait} {data : List Byte} {word : Word} {k : Taken}
  {addr len n : Nat}

/-! #### The checks of a TLP (R447, R448) -/

section
variable (stream : a.stream = some n)
include stream

theorem takeTlp_broken (broken : a.intact = false) : takeTlp s a v addr =
    ({ s with streams := updWhere (fun x => x.stream == n) (fun x => { x with insecure := true }) s.streams }, .dropped) := by
  simp [takeTlp, stream, broken]

/-- A stream of which a TLP failed its check is Insecure from then on. -/
theorem insecure_of_takeTlp_broken (broken : a.intact = false) (found : findStream (takeTlp s a v addr).1 n = some y) : y.insecure = true := by
  rw [takeTlp_broken stream broken] at found
  have named : y.stream = n := by simpa using List.find?_some found
  obtain ⟨x, -, rfl⟩ : ∃ x ∈ s.streams, (if x.stream == n then { x with insecure := true } else x) = y :=
    List.mem_map.mp (List.mem_of_find?_eq_some found)
  by_cases here : x.stream = n
  · simp [here]
  · simp [here] at named

variable (intact : a.intact = true) (found : findStream s n = some x)
include intact found

theorem takeTlp_insecure (insecure : x.insecure = true) : takeTlp s a v addr = (s, .dropped) := by
  simp [takeTlp, stream, intact, found, insecure]

variable (secure : x.insecure = false)
include secure

theorem takeTlp_otherRange (other : s.streams.any (fun y => y.stream ≠ n && y.holds addr) = true) : takeTlp s a v addr = (s, .dropped) := by
  simp only [takeTlp, stream, intact, found, secure, other, Bool.not_true, Bool.false_eq_true, if_false, if_true]

theorem takeTlp_ownRange (own : s.streams.any (fun y => y.stream ≠ n && y.holds addr) = false) :
    takeTlp s a v addr = (s, if (v.ideReq || v.tdi = 2) && n ≠ v.ide then .unsupported else .ok) := by
  simp only [takeTlp, stream, intact, found, secure, own, Bool.not_true, Bool.false_eq_true, if_false]
  exact (apply_ite (Prod.mk s) _ _ _).symm

end

theorem takeTlp_streamless_held (streamless : a.stream = none) (member : x ∈ s.streams) (holds : x.holds addr = true) :
    takeTlp s a v addr = (s, .dropped) := by
  simp only [takeTlp, streamless]
  exact if_pos (List.any_eq_true.mpr ⟨x, member, holds⟩)

theorem takeTlp_streamless_free (streamless : a.stream = none) (free : s.streams.any (fun x => x.holds addr) = false) :
    takeTlp s a v addr = (s, if v.ideReq || v.tdi = 2 then .unsupported else .ok) := by
  simp only [takeTlp, streamless, free, Bool.false_eq_true, if_false]
  exact (apply_ite (Prod.mk s) _ _ _).symm

/-! #### Writes of a VF are performed in their order (R308) -/

theorem hostWriteIn_behind (behind : t.hostWaits.any (fun y => !y.read && y.acc.vf == w.acc.vf) = true) :
    hostWriteIn t w = { t with hostWaits := t.hostWaits ++ [{ w with held := true }] } := if_pos behind

section
variable (first : t.hostWaits.any (fun y => !y.read && y.acc.vf == w.acc.vf) = false)
include first

theorem hostWriteIn_done (performed : hostWriteGo (w.data.length + 1) t w = (u, none)) : hostWriteIn t w = u := by
  rw [hostWriteIn, first, performed]
  rfl

theorem hostWriteIn_waits (stopped : hostWriteGo (w.data.length + 1) t w = (u, some r)) :
    hostWriteIn t w = { u with hostWaits := u.hostWaits ++ [r] } := by
  rw [hostWriteIn, first, stopped]
  rfl

end

/-- A write waits behind others of its VF, and else is performed as far as it can be. -/
theorem hostWriteIn_answers {out : Out} (written : out = .next (hostWriteIn t w)) :
    let behind : Bool := t.hostWaits.any (fun y => !y.read && y.acc.vf == w.acc.vf)
    (behind = true → out = .next { t with hostWaits := t.hostWaits ++ [{ w with held := true }] }) ∧
    (∀ u, behind = false → hostWriteGo (w.data.length + 1) t w = (u, none) → out = .next u) ∧
    (∀ u r, behind = false → hostWriteGo (w.data.length + 1) t w = (u, some r) → out = .next { u with hostWaits := u.hostWaits ++ [r] }) :=
  ⟨fun behind => written.trans (congrArg _ (hostWriteIn_behind behind)),
    fun _ first performed => written.trans (congrArg _ (hostWriteIn_done first performed)),
    fun _ _ first stopped => written.trans (congrArg _ (hostWriteIn_waits first stopped))⟩

/-! #### What an access to a VF answers, by how its checks end (R443, R444) -/

/-- The bytes that a read of a VF can reach: its window, or up to the end of its BAR0. -/
def hostSize (a : HostAccess) (v : Vf) : Nat := if a.off < 2 ^ 36 then 2097152 * v.winPages else 2 ^ 36 + 65536

/-- A read after its checks. -/
def hostReadTaken (t : State) (a : HostAccess) (v : Vf) (len : Nat) : Taken → State
  | .ok => if hostSize a v < a.off + len then tellHost t (.unsupported a.tag)
    else hostReadGo (len + 1) t { acc := { a with ep := false }, read := true, len := len, data := [] }
  | .dropped => t
  | .unsupported => tellHost t (.unsupported a.tag)

/-- A write after its checks. -/
def hostWriteTaken (t : State) (a : HostAccess) (v : Vf) (data : List Byte) : Taken → State
  | .ok => if 2097152 * v.winPages < a.off + data.length then postDie t 0 { code := 14, detail := v.vf }
    else hostWriteIn t { acc := a, read := false, len := data.length, data := data }
  | .dropped | .unsupported => t

/-- A write of a word of BAR0 after its checks. -/
def hostCounterTaken (t : State) (a : HostAccess) (word : Word) : Taken → State
  | .ok => if a.off < 4096 then hostWriteIn t { acc := { a with off := 2 ^ 36 + a.off }, read := false, len := 4, data := bytesOf 4 word.toNat }
    else if a.off < 4096 + 256 && a.off % 16 = 12 then msixMaskWrite t a.vf ((a.off - 4096) / 16) (word.getLsbD 0)
    else t
  | .dropped | .unsupported => t

section
variable (up : linkDown s = false)
include up

section
variable (vf : a.vf ≠ 0)
include vf

section
variable (active : hostVf s a.vf = some v)
include active

theorem execHostRead_taken (taken : takeTlp s a v (hostBus a.vf a.off) = (t, k)) : execHostRead a len s = .next (hostReadTaken t a v len k) := by
  simp only [execHostRead, up, vf, active, taken, Bool.false_eq_true, if_false]
  cases k <;> rfl

theorem execHostWrite_taken (taken : takeTlp s a v (bar2 a.vf a.off) = (t, k)) : execHostWrite a data s = .next (hostWriteTaken t a v data k) := by
  simp only [execHostWrite, up, vf, active, taken, Bool.false_eq_true, if_false]
  cases k <;> rfl

theorem execHostCounterWrite_taken (taken : takeTlp s a v (bar0 a.vf a.off) = (t, k)) :
    execHostCounterWrite a word s = .next (hostCounterTaken t a word k) := by
  simp only [execHostCounterWrite, up, vf, active, taken, Bool.false_eq_true, if_false]
  cases k <;> rfl

end

section
variable (inactive : hostVf s a.vf = none)
include inactive

theorem execHostRead_inactive : execHostRead a len s = .next (tellHost s (.unsupported a.tag)) := by
  simp only [execHostRead, up, vf, inactive, Bool.false_eq_true, if_false]

theorem execHostWrite_inactive : execHostWrite a data s = .next s := by
  simp only [execHostWrite, up, vf, inactive, Bool.false_eq_true, if_false]

theorem execHostCounterWrite_inactive : execHostCounterWrite a word s = .next s := by
  simp only [execHostCounterWrite, up, vf, inactive, Bool.false_eq_true, if_false]

end

end

/-! #### The PF (R443) -/

section
variable (pf : a.vf = 0)
include pf

theorem execHostRead_pf : execHostRead a len s = .next (pfRead s a len) := by
  simp only [execHostRead, up, pf, Bool.false_eq_true, if_false, if_true]

theorem execHostWrite_pf : execHostWrite a data s = .next (pfWrite s a data) := by
  simp only [execHostWrite, up, pf, Bool.false_eq_true, if_false, if_true]

theorem execHostCounterWrite_pf : execHostCounterWrite a word s = .next (pfWord s a word) := by
  simp only [execHostCounterWrite, up, pf, Bool.false_eq_true, if_false, if_true]

end
end

/-- Without streams a read of the PF is taken: no stream is demanded of it. -/
theorem pfRead_taken (unprogrammed : s.streams = []) (streamless : a.stream = none) : pfRead s a len =
    if a.off < 2 ^ 36 || 2 ^ 36 + 2 ^ 20 < a.off + len then tellHost s (.unsupported a.tag)
    else tellHost s (.readData a.tag ((List.range len).map (fun j => pfByte s (a.off - 2 ^ 36 + j))) false) := by
  rw [pfRead, takeTlp_streamless_free streamless (by rw [unprogrammed]; rfl)]
  rfl

/-! #### A wait on an absent part times out (R444) -/

theorem execHostAccessTimeout_oldest
    (oldest : s.hostWaits.find? (fun w => !w.held && !(w.read && s.reqs.any (fun r => r.who == .host w.acc.tag))) = some w) :
    execHostAccessTimeout s = .next (if w.read then tellHost { s with hostWaits := s.hostWaits.erase w } (.abort w.acc.tag)
      else { s with hostWaits := s.hostWaits.erase w }) := by
  rw [execHostAccessTimeout, oldest]

/-- Settles O59: an access to a VF is answered by how its checks end (the `…Taken` functions), a write by `hostWriteIn`, and the checks are `takeTlp` by the
stream of the TLP. -/
theorem hostAccesses : Obligations.HostAccesses := by
  refine ⟨fun s t a v data len word up vf active => ?accesses, fun s a data len word => ⟨fun down => ?down, fun up vf inactive => ?inactive, fun up pf => ?pf⟩,
    fun s w => execHostAccessTimeout_oldest, fun s a v addr n x => ⟨fun stream broken found => ⟨?dropped, fun y => ?insecure⟩,
      takeTlp_insecure, takeTlp_otherRange, takeTlp_ownRange, takeTlp_streamless_held, takeTlp_streamless_free⟩⟩
  case accesses =>
    have read {k : Taken} := execHostRead_taken (t := t) (len := len) (k := k) up vf active
    have write {k : Taken} := execHostWrite_taken (t := t) (data := data) (k := k) up vf active
    have counter {k : Taken} := execHostCounterWrite_taken (t := t) (word := word) (k := k) up vf active
    refine ⟨fun taken inside => ?_, fun taken beyond => ?_, read, read, fun taken inside => ?_, fun taken beyond => ?_, ?_, fun taken page => ?_,
      fun taken above table mask => ?_, ?_⟩
    · exact (read taken).trans (congrArg _ (if_neg (not_lt.mpr inside)))
    · exact (read taken).trans (congrArg _ (if_pos beyond))
    · exact hostWriteIn_answers ((write taken).trans (congrArg _ (if_neg (not_lt.mpr inside))))
    · exact (write taken).trans (congrArg _ (if_pos beyond))
    · exact fun refused => refused.elim write write
    · exact hostWriteIn_answers ((counter taken).trans (congrArg _ (if_pos page)))
    · exact (counter taken).trans (congrArg _ ((if_neg (not_lt.mpr above)).trans (if_pos (by simp [table, mask]))))
    · exact fun refused => refused.elim counter counter
  case down => exact ⟨congrArg _ (if_pos down), congrArg _ (if_pos down), congrArg _ (if_pos down)⟩
  case inactive =>
    exact ⟨execHostRead_inactive up vf inactive, execHostWrite_inactive up vf inactive, execHostCounterWrite_inactive up vf inactive⟩
  case pf =>
    have read := execHostRead_pf (len := len) up pf
    refine ⟨execHostWrite_pf up pf, execHostCounterWrite_pf up pf, fun unprogrammed streamless above inside => ?_,
      fun unprogrammed streamless outside => ?_⟩
    all_goals refine read.trans (congrArg _ ((pfRead_taken unprogrammed streamless).trans ?_))
    · exact if_neg (by simp; omega)
    · exact if_pos (by simpa using outside)
  case dropped => exact congrArg Prod.snd (takeTlp_broken stream broken)
  case insecure => exact insecure_of_takeTlp_broken stream broken

end Sys2Proof.Machine
end

section
/-! ### What the memory system at home leaves unchanged (R207 to R210, R356, R361) -/
namespace Sys2Proof.Machine

variable {s t : State} {α : Type}

/-- The state but for what reads and writes at home, and the records that they post, can change: HBM, L2, translations, banks, rings, packets sent, meters,
and the model's own inputs and free values. -/
def State.offHome (s : State) : State :=
  { s with
      mem := [], hpoison := [], hmeta := [], l2 := [], tlb := [], walkCache := [], banks := [], rings := [], buckets := [], allowances := [], perf := [],
      psn := [], tx := [], invWait := [], inputs := [], fresh := 0 }

/-! Each function of the memory system keeps the rest: `offHome_f` says it of `f`. -/

theorem offHome_ite {c : Prop} [Decidable c] {x y : State} (hx : x.offHome = s.offHome) (hy : y.offHome = s.offHome) :
    (if c then x else y).offHome = s.offHome := by
  split
  · exact hx
  · exact hy

theorem offHome_foldl {f : State → α → State} (hf : ∀ s x, (f s x).offHome = s.offHome) (xs : List α) (s : State) :
    (xs.foldl f s).offHome = s.offHome :=
  List.foldlRecOn (motive := fun t => t.offHome = s.offHome) xs f rfl fun t kept x _ => (hf t x).trans kept

/-- The state of a result that is known. -/
theorem offHome_of_eq {x : State × α} {r : α} (h : x.1.offHome = s.offHome) (e : x = (t, r)) : t.offHome = s.offHome := by
  subst e
  exact h

theorem piers_of_offHome (h : t.offHome = s.offHome) : t.piers = s.piers := (congrArg State.piers h :)

/-! #### Tables, meters and packets -/

theorem offHome_sectorSettle (s : State) (k : Nat) (whole : Bool) : (sectorSettle s k whole).offHome = s.offHome :=
  sectorSettle_keeps (g := State.offHome) (fun _ _ _ _ => rfl) s k whole

theorem offHome_physWrite (s : State) (pa n v : Nat) : (physWrite s pa n v).offHome = s.offHome :=
  physWrite_keeps (g := State.offHome) (fun _ _ _ _ => rfl) s pa n v

theorem offHome_fillWalks (s : State) (asid va table level : Nat) : (fillWalks s asid va table level).offHome = s.offHome := by
  fun_induction fillWalks with
  | case1 | case2 => rfl
  | case3 _ _ _ _ _ ih => exact ih.trans (offHome_ite rfl rfl)

theorem offHome_fillTlb (s : State) (a : Acc) (va : Nat) : (fillTlb s a va).offHome = s.offHome := by
  fun_cases fillTlb s a va with
  | case1 | case3 => rfl
  | case2 => exact offHome_fillWalks ..

theorem offHome_perfAdd (s : State) (tenant off n : Nat) : (perfAdd s tenant off n).offHome = s.offHome := offHome_ite rfl (offHome_ite rfl rfl)

theorem offHome_takeBucket (s : State) (tenant : Nat) (harvest : Bool) (la : Nat) : (takeBucket s tenant harvest la).offHome = s.offHome :=
  offHome_perfAdd ..

theorem offHome_sendPkt (s : State) (p : Packet) : (sendPkt s p).offHome = s.offHome := offHome_perfAdd ..

theorem offHome_invalidateSharers (s : State) (l : Line) (writer : Option Nat) : (invalidateSharers s l writer).offHome = s.offHome :=
  offHome_ite rfl (offHome_foldl offHome_sendPkt _ _)

/-! #### HBM and L2 -/

theorem offHome_hbmPutLine (s : State) (pa : Nat) (m : BitVec 128) (d : BitVec 1024) (p : BitVec 2) (crc : BitVec 32) :
    (hbmPutLine s pa m d p crc).offHome = s.offHome := by
  have settled : (if s.hmeta.isEmpty then s
      else [0, 1].foldl (fun s k => if m &&& byteMask (64 * k) 64 = 0 then s else sectorSettle s (pa / 64 + k) (covers m (byteMask (64 * k) 64))) s).offHome =
      s.offHome :=
    offHome_ite rfl (offHome_foldl (fun s _ => offHome_ite rfl (offHome_sectorSettle s _ _)) _ s)
  unfold hbmPutLine
  refine offHome_ite rfl (offHome_ite ?_ ?_)
  · exact settled
  · refine (offHome_foldl (fun s k => ?_) [0, 1] _).trans settled
    exact offHome_ite rfl rfl

theorem offHome_countCorrection (s : State) (unit bank : Nat) : (countCorrection s unit bank).offHome = s.offHome := offHome_ite rfl rfl

theorem offHome_readRowOf (s : State) (unit d y : Nat) : (readRowOf s unit d y).1.offHome = s.offHome := by
  fun_cases readRowOf s unit d y with
  | case1 | case3 | case4 => rfl
  | case2 => exact offHome_countCorrection ..

theorem offHome_readLine (s : State) (unit : Nat) (l : Line) : (readLine s unit l).1.offHome = s.offHome := by
  fun_cases readLine s unit l with
  | case1 => rfl
  | case2 _ _ _ e | case3 _ _ _ e => exact offHome_of_eq (offHome_readRowOf ..) e

theorem offHome_l2WriteBack (s : State) (l : Line) : (l2WriteBack s l).offHome = s.offHome := by
  fun_cases l2WriteBack s l with
  | case1 | case3 => rfl
  | case2 => exact (offHome_hbmPutLine ..).trans ((offHome_takeBucket ..).trans (offHome_readLine ..))

theorem offHome_l2Evict (s : State) (l : Line) : (l2Evict s l).offHome = s.offHome :=
  (offHome_invalidateSharers _ l none).trans (offHome_ite rfl (offHome_l2WriteBack s l))

theorem offHome_l2Fill (s : State) (a : Acc) (l : Line) : (l2Fill s a l).1.offHome = s.offHome := by
  fun_cases l2Fill s a l with
  | case1 => rfl
  | case2 _ victim _ t =>
    cases victim with
    | none => rfl
    | some x => exact offHome_l2Evict s x

theorem offHome_homeGet0 (s : State) (a : Acc) (va : Nat) (u : Use) : (homeGet0 s a va u).1.offHome = s.offHome := by
  have mismatch {hit : Option Line} {as : Nat} :
      (match hit, l2Find s as (lineOf va) with | none, some _ => l2Drop s as (lineOf va) | _, _ => s).offHome = s.offHome := by
    split <;> rfl
  fun_cases homeGet0 s a va u with
  | case1 | case2 | case3 => exact mismatch
  | case4 => exact (offHome_perfAdd ..).trans ((offHome_readLine ..).trans mismatch)
  | case5 | case6 => exact (offHome_readLine ..).trans mismatch
  | case7 => exact (offHome_takeBucket _ a.tenant a.harvest (lineOf va)).trans ((offHome_readLine ..).trans mismatch)
  | case8 => exact (offHome_perfAdd ..).trans mismatch
  | case9 | case10 | case11 => exact (offHome_fillTlb ..).trans ((offHome_perfAdd ..).trans mismatch)
  | case12 => exact (offHome_l2Fill ..).trans ((offHome_takeBucket ..).trans ((offHome_fillTlb ..).trans ((offHome_perfAdd ..).trans mismatch)))

theorem offHome_homePut (s : State) (l : Line) (held : Bool) (m : BitVec 128) : (homePut s l held m).offHome = s.offHome := by
  fun_cases homePut s l held m with
  | case1 | case3 => rfl
  | case2 => exact (offHome_hbmPutLine ..).trans (offHome_takeBucket ..)

/-! #### Rings and events -/

theorem offHome_ringStore (s : State) (asid va n v : Nat) : (ringStore s asid va n v).offHome = s.offHome := by
  fun_cases ringStore s asid va n v with
  | case1 _ _ _ _ e => exact (offHome_homePut ..).trans (offHome_of_eq (offHome_homeGet0 ..) e)
  | case2 _ _ _ _ e => exact offHome_of_eq (offHome_homeGet0 ..) e

theorem offHome_physHomeWrite (s : State) (pa n v : Nat) : (physHomeWrite s pa n v).offHome = s.offHome := offHome_physWrite ..

theorem offHome_ringPut (s : State) (r : Ring) : (ringPut s r).offHome = s.offHome :=
  (offHome_physHomeWrite ..).trans ((offHome_physHomeWrite ..).trans (offHome_physHomeWrite ..))

theorem offHome_ringAppend (s : State) (k : RingKind) (mk : Nat → Nat) : (ringAppend s k mk).1.offHome = s.offHome := by
  fun_cases ringAppend s k mk with
  | case1 | case2 => rfl
  | case3 => exact offHome_ringPut ..
  | case4 => exact (offHome_ringPut ..).trans (offHome_ringStore ..)

theorem offHome_postDie (s : State) (die : Nat) (e : Event) : (postDie s die e).offHome = s.offHome := offHome_ringAppend ..

theorem offHome_postRetired (s : State) : (postRetired s).offHome = s.offHome :=
  offHome_ite rfl (offHome_foldl (fun s _ => offHome_postDie s _ _) _ _)

end Sys2Proof.Machine
end

section
/-! ### Eviction, restoration and retirement (R323 to R328, R331, R428, R434) -/
namespace Sys2Proof.Machine

variable {s : State} {p : Pier} {c x : Course} {b : Bond} {id q n : Nat} {α : Type}

/-! #### What a spill leaves of the piers (R325, R330) -/

theorem piers_foldl {f : State → α → State} (hf : ∀ s x, (f s x).piers = s.piers) (xs : List α) (s : State) : (xs.foldl f s).piers = s.piers :=
  List.foldlRecOn (motive := fun t => t.piers = s.piers) xs f rfl fun t kept x _ => (hf t x).trans kept

theorem piers_readRowAt (s : State) (bond row : Nat) : (readRowAt s bond row).piers = s.piers := by
  fun_cases readRowAt s bond row with
  | case1 | case2 => rfl
  | case3 _ _ _ _ _ _ e => exact (piers_of_offHome (offHome_of_eq (offHome_readRowOf ..) e) :)
  | case4 _ _ _ _ _ _ e => exact (piers_of_offHome (offHome_postRetired _)).trans (piers_of_offHome (offHome_of_eq (offHome_readRowOf ..) e) :)

theorem piers_readRows (s : State) (bond off n : Nat) : (readRows s bond off n).piers = s.piers := by
  fun_cases readRows s bond off n with
  | case1 | case2 => rfl
  | case3 => exact piers_foldl (fun s _ => piers_readRowAt s ..) _ s

theorem piers_putUnits (s : State) (src dst doff soff n : Nat) : (putUnits s src dst doff soff n).piers = s.piers := by
  induction n generalizing s doff soff with
  | zero => rfl
  | succ n ih =>
    refine (ih ..).trans ?_
    split <;> rfl

theorem piers_removeOp (s : State) (seq : Nat) : (removeOp s seq).piers = s.piers := by
  rw [removeOp, unstallQuoin]
  split <;> rfl

theorem piers_landPut (s : State) (o : Op) (bond doff soff len coff : Nat) (inc : Word) :
    (landPut s o bond doff soff len coff inc).piers = s.piers := by
  unfold landPut
  dsimp only
  split
  · exact piers_removeOp ..
  next target _ =>
    have rows := (piers_readRows _ target.id coff 4).trans ((piers_readRows _ target.id doff len).trans (piers_readRows s s.cur.bond soff len))
    refine (piers_removeOp ..).trans ?_
    split <;> exact (piers_putUnits ..).trans rows

theorem piers_landPuts (s : State) : (landPuts s).piers = s.piers := by
  refine piers_foldl (fun s o => ?_) _ s
  split
  · exact piers_landPut ..
  · rfl

theorem piers_atCourse {f : State → State} (hf : ∀ s, (f s).piers = s.piers) (s : State) (id : Nat) : (atCourse s id f).piers = s.piers := by
  fun_cases atCourse s id f with
  | case1 => exact hf s
  | case2 => rfl
  | case3 | case4 => exact hf _

theorem piers_chargeSpill (s : State) (tenant pa n : Nat) : (chargeSpill s tenant pa n).piers = s.piers := by
  refine piers_foldl (fun s k => ?_) _ s
  rfl

theorem piers_imagePut (fuel : Nat) (s : State) (pa n v : Nat) : (imagePut fuel s pa n v).piers = s.piers := by
  fun_induction imagePut with
  | case1 | case2 => rfl
  | case3 _ _ _ _ _ _ _ ih => exact ih.trans (piers_of_offHome (offHome_physHomeWrite ..))

theorem piers_updCourses (s : State) (f : Course → Bool) (g : Course → Course) : (updCourses s f g).piers = s.piers := rfl

theorem piers_spillCourse (s : State) (p : Pier) (c : Course) : (spillCourse s p c).piers = s.piers := by
  rw [spillCourse]
  split
  · rfl
  · rw [piers_updCourses, piers_imagePut, piers_chargeSpill]

theorem piers_spillBond (s : State) (p : Pier) (b : Bond) : (spillBond s p b).piers = s.piers := by
  refine piers_foldl (fun s j => ?_) _ s
  exact (piers_imagePut ..).trans (piers_chargeSpill s ..)

theorem piers_spillImage (s : State) (id : Nat) : (spillImage s id).piers = s.piers := by
  fun_cases spillImage s id with
  | case1 => rfl
  | case2 =>
    exact (piers_foldl (fun s _ => piers_spillBond s ..) _ _).trans
      ((piers_foldl (fun s _ => piers_spillCourse s ..) _ _).trans (piers_foldl (fun s _ => piers_readRows s ..) _ s))

/-- A pier once it has been spilled: its image lies in the slots of its quoins. -/
def Pier.spilledTo (p : Pier) (quoins : List Nat) : Pier := { p with evicting := false, resident := false, image := quoins, save := none }

theorem piers_spillPier (found : findPier s id = some p) :
    (spillPier s id).piers = updWhere (fun p => p.id == id) (fun p => p.spilledTo (pierQuoins s id)) s.piers := by
  simp only [spillPier, found]
  refine (piers_spillImage ..).trans (congrArg (updWhere _ _) ?_)
  exact (piers_foldl (fun s _ => piers_atCourse piers_landPuts s _) _ _).trans (piers_of_offHome (offHome_perfAdd ..))

theorem unplaced_freePier (member : b ∈ (freePier s id).bonds) (own : b.pier = id) : b.placed = false := by
  obtain ⟨x, -, rfl⟩ : ∃ x ∈ s.bonds, (if x.pier == id then { x with placed := false } else x) = b := List.mem_map.mp member
  by_cases here : x.pier = id
  · simp [here]
  · simp [here] at own

theorem unplaced_spillPier (found : findPier s id = some p) (member : b ∈ (spillPier s id).bonds) (own : b.pier = id) : b.placed = false := by
  simp only [spillPier, found] at member
  exact unplaced_freePier member own

theorem spilledTo_of_mem_spillPier (found : (findPier s id).isSome = true) (member : p ∈ (spillPier s id).piers) (own : p.id = id) :
    p.resident = false ∧ p.evicting = false ∧ p.image = pierQuoins s id := by
  obtain ⟨_, found⟩ := Option.isSome_iff_exists.mp found
  rw [piers_spillPier found] at member
  obtain ⟨x, -, rfl⟩ := List.mem_map.mp member
  by_cases here : x.id = id
  · simp [here, Pier.spilledTo]
  · simp [here] at own

theorem mem_spillPier_of_other (found : (findPier s id).isSome = true) (member : p ∈ s.piers) (other : p.id ≠ id) : p ∈ (spillPier s id).piers := by
  obtain ⟨_, found⟩ := Option.isSome_iff_exists.mp found
  rw [piers_spillPier found]
  exact List.mem_map.mpr ⟨p, member, if_neg (by simpa using other)⟩

/-! #### Victims (R323, R331) -/

theorem nextVictim_eligible (next : nextVictim s q = some p) : pierHarvest s p = true ∧ p.evicting = false ∧ p ∈ s.piers := by
  have member := List.mem_filter.mp (List.mem_reverse.mp (List.mem_of_head? next))
  simp only [Bool.and_eq_true, Bool.not_eq_true'] at member
  obtain ⟨listed, ⟨⟨harvest, unmarked⟩, -⟩, -⟩ := member
  exact ⟨harvest, unmarked, listed⟩

theorem markVictims_fits (fits : overfull s q = false) : markVictims s q n = s := by
  cases n with
  | zero => rfl
  | succ n => exact if_pos (by simp [fits])

section
variable (full : overfull s q = true)
include full

theorem markVictims_none (nobody : nextVictim s q = none) : markVictims s q n = s := by
  cases n with
  | zero => rfl
  | succ n => simp [markVictims, full, nobody]

theorem markVictims_some (next : nextVictim s q = some p) : markVictims s q (n + 1) =
    if p.pending && p.halted then markVictims (freePier (updPier s p.id (fun p => { p with pending := false })) p.id) q n
    else if p.pending then markVictims (updPier s p.id (fun p => { p with evicting := true })) q n
    else markVictims (evictPier s p.id) q n := by
  simp only [markVictims, full, next, Bool.not_true, Bool.false_eq_true, if_false]

end

/-! #### Restoration and retirement (R328, R42) -/

section
variable (found : findPier s id = some p)
include found

theorem execRestoreComplete_halted (pending : p.pending = true) (halted : p.halted = true) : execRestoreComplete id s =
    .next (if placementFree s id && pierQuiet s id then restorePier s p else s) := by
  simp only [execRestoreComplete, found, pending, halted, Bool.and_self, if_true]

theorem execRestoreComplete_placed (placed : p.pending = false ∨ p.halted = false) : execRestoreComplete id s = .next
    (((pierCourses s id).map (fun c => c.id)).foldl (fun t i => match courseById t i with | some c => returnCourse t c | none => t) s) := by
  rw [execRestoreComplete, found]
  exact congrArg _ (if_neg (Bool.eq_false_iff.mp (Bool.and_eq_false_iff.mpr placed)))

end

theorem execPierRetirement_some (first : s.piers.find? (canRetire s) = some p) : execPierRetirement s = .next (retirePier s p) := by
  rw [execPierRetirement, first]

theorem execPierRetirement_none (nobody : s.piers.find? (canRetire s) = none) : execPierRetirement s = .next s := by
  rw [execPierRetirement, nobody]

/-! #### A harvest course stopped at ring 2 or 3 (R428) -/

theorem returnCourse_released (free : released s c = true) : returnCourse s c =
    if fitsBack (filesBack s c) c then atCourse (segsBack (filesBack s c) c) c.id goOnHere else filesBack s c := if_neg (by simp [free])

theorem released_of_stopped (stopped : c.stopRing.isSome = true) : released s c = false := by
  have unreleased : c.stopRing.isNone = false := Option.isNone_eq_false_iff.mpr stopped
  simp [released, unreleased]

theorem segs_updCourses_of_id (s : State) (c : Course) (same : x.id = c.id)
    (member : let t := updCourses s (fun x => x.id == c.id) (fun x => { x with segs := [] }); x = t.cur ∨ x ∈ t.courses) : x.segs = [] := by
  obtain ⟨y, rfl⟩ : ∃ y : Course, (if y.id == c.id then { y with segs := [] } else y) = x := by
    rcases member with here | listed
    · exact ⟨_, here.symm⟩
    · obtain ⟨y, -, mapped⟩ := List.mem_map.mp listed
      exact ⟨y, mapped⟩
  by_cases here : y.id = c.id
  · simp [here]
  · simp [here] at same

theorem segs_spillStopped (found : (findPier s c.pier).isSome = true) (member : x = (spillStopped s c).cur ∨ x ∈ (spillStopped s c).courses)
    (same : x.id = c.id) : x.segs = [] := by
  obtain ⟨p, found⟩ := Option.isSome_iff_exists.mp found
  simp only [spillStopped, found] at member
  exact segs_updCourses_of_id _ c same member

/-- Settles O54: victims by `markVictims`, one at a time; a spill changes its own pier and no other (`piers_spillPier`), since what it reads and writes at
home leaves the piers alone; a released course returns by `returnCourse_released`. -/
theorem evictionSteps : Obligations.EvictionSteps := by
  refine ⟨fun s q n p => ⟨rfl, fun full nobody => congrArg _ (markVictims_none full nobody), fun full next => ?victim, rfl, ?spill, ?restored, ?unrestored,
      execRestoreComplete_placed, execPierRetirement_some, execPierRetirement_none, fun fits => congrArg _ (markVictims_fits fits)⟩,
    fun s id found => ⟨fun p => spilledTo_of_mem_spillPier found, fun b => ?unplaced, fun p => mem_spillPier_of_other found⟩,
    fun s c => ⟨fun held => if_pos (by simp [held]), fun free full => ?full, fun free fits => ?fits, released_of_stopped,
      fun found x => segs_spillStopped found⟩⟩
  case victim =>
    obtain ⟨harvest, unmarked, listed⟩ := nextVictim_eligible next
    refine ⟨harvest, unmarked, listed, fun placed => ?_, fun pending created => ?_, fun pending halted => ?_⟩
    all_goals rw [markVictims_some full next]
    · simp [placed]
    · simp [pending, created]
    · simp [pending, halted]
  case spill =>
    rintro _ rfl
    rfl
  case restored =>
    intro found pending halted free quiet
    exact (execRestoreComplete_halted found pending halted).trans (congrArg _ (if_pos (by simp [free, quiet])))
  case unrestored =>
    intro found pending halted waits
    exact (execRestoreComplete_halted found pending halted).trans (congrArg _ (if_neg (Bool.eq_false_iff.mp (Bool.and_eq_false_iff.mpr waits))))
  case unplaced =>
    obtain ⟨_, found⟩ := Option.isSome_iff_exists.mp found
    exact unplaced_spillPier found
  case full => exact (returnCourse_released free).trans (if_neg (by simp [full]))
  case fits => exact (returnCourse_released free).trans (if_pos fits)

end Sys2Proof.Machine
end

section
/-! ### Barriers at issue (R397 to R401) -/
namespace Sys2Proof.Machine

open Sys2Proof.Claims

variable {s : State} {x : Ops} {b : Bond} {k phase : Nat} {d : BarDesc} {v : Word} {f : Course → Course}

/-- No cause of class 0, 1 or 2 applies to `arrive` where it issues. -/
abbrev ArriveFree (s : State) (x : Ops) : Prop :=
  Free s 0xB0 x (minSub [nSub s x, dstSub s.cur x 1 x.d, subIf (opdPushes x.d) 12]) (if x.bit 4 then [] else opdRefs x.b 1) (opdRefs x.d 1)

/-- The same of `barr`. -/
abbrev BarrFree (s : State) (x : Ops) : Prop :=
  Free s 0xB2 x (minSub [nSub s x, srcSub s x (.int false false) x.a, uniSub x.a, dstSub s.cur x 1 x.d])
    (opdRefs x.a 1 ++ (if x.bit 4 then [] else opdRefs x.b 1)) []

/-- The same of `waitb`. -/
abbrev WaitbFree (s : State) (x : Ops) : Prop :=
  Free s 0xB1 x (minSub [srcSub s x (.int false false) x.a, subIf (!opdIsS x.a) 12]) (opdRefs x.a 1) []

/-- The descriptor that `arrive` gives, and that of `barr`. -/
def arriveDesc (s : State) (x : Ops) : BarDesc := { n := barN s x, all := x.bit 4, barr := false, op := 0 }
def barrDesc (s : State) (x : Ops) : BarDesc := { n := barN s x, all := x.bit 4, barr := true, op := x.low4 }

/-- The course with the token of a phase in the destination of `arrive`. -/
def Course.takeToken (x : Ops) (phase : Nat) (c : Course) : Course := c.writeLanes x.d 1 false [(0, phase * 256 + 0xA0 + barK x)]

/-- The course waits in `barr`. -/
def Course.waitBarr (s : State) (x : Ops) (c : Course) : Course := { c with wait := some (.barr (barK x) (barScope x) x.d (partLanes s x)) }

/-- The lowest cause of an arrival at a barrier of the bond (R400). -/
def arrivalCause (s : State) (b : Bond) (k : Nat) (d : BarDesc) : Option Nat :=
  let differs : Bool := match (getBar b k).desc with | some y => y ≠ d | none => false
  minSub [subIf differs 0xA0, subIf ((getBar b k).arrived.getLsbD s.cur.cid) 0xA1,
    subIf (d.n = 0 || (bondShape s s.cur).1 < d.n) 0xA4, subIf s.cur.rgnOpen 0x103]

section
variable (bond : curBond s = some b)
include bond

theorem execArrive_free (free : ArriveFree s x) : execArrive x s = match arriveCause s (barK x) (arriveDesc s x) with
    | some e => trapOut s e
    | none => arriveIssue s x (arriveDesc s x) 0 (Course.takeToken x (getBar b (barK x)).phase) := by
  rw [execArrive, issue_free _ free]
  simp only [bond]
  rfl

theorem execWaitb_free (free : WaitbFree s x) : execWaitb x s =
    if readU s x x.a 0 % 256 ≠ 0xA0 + barK x then trapOut s 0xA2
    else if 2 ^ 23 ≤ ((getBar b (barK x)).phase + 2 ^ 24 - readU s x x.a 0 / 256) % 2 ^ 24 then trapOut s 0xA3
    else if ((getBar b (barK x)).phase + 2 ^ 24 - readU s x x.a 0 / 256) % 2 ^ 24 = 0 then
      .next (passed (s.upd (fun c => { c with wait := some (.waitb (barK x) (getBar b (barK x)).phase (barScope x)) })) x)
    else issueOpF s x 1 [] { newOp s x (.order none (some (barScope x))) s.iss.mask with flags := 0 } [] performOp := by
  rw [execWaitb, issue_free _ free]
  simp only [bond, done_passed]

end

theorem execBarr_free (free : BarrFree s x) : execBarr x s = match arriveCause s (barK x) (barrDesc s x) with
    | some e => trapOut s e
    | none => arriveIssue s x (barrDesc s x) (BitVec.ofNat 32 (readU s x x.a 0)) (Course.waitBarr s x) := by
  rw [execBarr, issue_free _ free]
  rfl

/-- The operations before an arrival: its release, unless its scope has none. -/
def arrivalRelease (s : State) (x : Ops) : List Op :=
  if barScope x = 0 then [] else [{ newOp s x (.order (some (barScope x)) none) s.iss.mask with flags := 0 }]

/-- What an arrival does once its release has been numbered: `f` acts on the course, the arrival is noted, and counted where it has reached its point. -/
def arrivalNoted (s : State) (x : Ops) (d : BarDesc) (v : Word) (f : Course → Course) (u : State) (n : Nat) : State :=
  let u := u.upd f
  let a : Arrival := { course := s.cur.id, cid := s.cur.cid, k := barK x, desc := d, val := v, scope := barScope x, seq := n + (arrivalRelease s x).length }
  let u := match curBond u with | some b => putBond u { b with arrivals := b.arrivals ++ [a] } | none => u
  arrivalPoint (tried (arrivalRelease s x).length u n) s.cur.bond s.cur.id

theorem arriveIssue_room (room : Room s 1 (arrivalRelease s x) { newOp s x (.order none none) 0 with flags := 0 }) :
    arriveIssue s x d v f = .next (entered s x 1 (arrivalRelease s x) { newOp s x (.order none none) 0 with flags := 0 } (arrivalNoted s x d v f)) := by
  rw [← issueOpF_room s x 1 _ _ (arrivalNoted s x d v f) room]
  rfl

/-- Settles O37: `arrive` and `barr` take the lowest cause of `arriveCause` or note their arrival (`arriveIssue_room`), and `waitb` goes by its token's
number and by how far the barrier's phase is past it, modulo 2^24. -/
theorem barrierResults : Obligations.BarrierResults := by
  intro x s b bond
  have cause (d : BarDesc) : arriveCause s (barK x) d = arrivalCause s b (barK x) d := by rw [arriveCause, bond]; rfl
  refine ⟨?arrive, ?barr, fun free number same low => ?waits, ?acquires, fun free other => ?other, fun free number later => ?later⟩
  case arrive =>
    rintro _ rfl free
    refine ⟨fun clear room => ?_, fun e caused => ?_⟩
    · have clear := (cause (arriveDesc s x)).trans clear
      refine (execArrive_free bond free).trans ?_
      rw [clear]
      exact arriveIssue_room room
    · have caused := (cause (arriveDesc s x)).trans caused
      refine (execArrive_free bond free).trans ?_
      rw [caused]
      rfl
  case barr =>
    rintro _ rfl free
    refine ⟨fun clear room => ?_, fun e caused => ?_⟩
    · have clear := (cause (barrDesc s x)).trans clear
      refine (execBarr_free free).trans ?_
      rw [clear]
      exact arriveIssue_room room
    · have caused := (cause (barrDesc s x)).trans caused
      refine (execBarr_free free).trans ?_
      rw [caused]
      rfl
  case waits =>
    refine (execWaitb_free bond free).trans ?_
    have none : ((getBar b (barK x)).phase + 2 ^ 24 - readU s x x.a 0 / 256) % 2 ^ 24 = 0 := by omega
    rw [if_neg (not_not.mpr number), none, if_neg (by decide), if_pos rfl]
  case acquires =>
    rintro _ rfl free number past near room
    refine (execWaitb_free bond free).trans ?_
    rw [if_neg (not_not.mpr number), if_neg (Nat.not_le.mpr near), if_neg past.ne']
    exact issueOpF_room s x 1 [] _ performOp room
  case other => exact (execWaitb_free bond free).trans (if_pos other)
  case later => exact (execWaitb_free bond free).trans ((if_neg (not_not.mpr number)).trans (if_pos later))

end Sys2Proof.Machine
end

section
/-! ### The completion of a phase (R396, R399, R402) -/
namespace Sys2Proof.Machine

variable {s : State} {b y : Bond} {bond k j : Nat}

/-- Where one record is put back, a search for what it is not, nor any that it replaces, finds as before. -/
theorem find?_putWhere_other {α : Type} {p q : α → Bool} {x : α} (new : p x = false) (apart : ∀ z, q z = true → p z = false) (xs : List α) :
    (putWhere q x xs).find? p = xs.find? p := by
  unfold putWhere
  split
  next =>
    have same : p ∘ (fun z => if q z = true then x else z) = p := by
      funext z
      by_cases replaced : q z = true <;> simp [replaced, new, apart]
    rw [List.find?_map, same]
    cases found : xs.find? p with
    | none => rfl
    | some z =>
      have kept : ¬ q z = true := fun replaced => absurd (apart z replaced) (by simp [List.find?_some found])
      exact congrArg some (if_neg kept)
  next => simp [List.find?_append, new]

theorem getBar_setBar_same (b : Bond) (k : Nat) (y : Barrier) : getBar (setBar b k y) k = y := by
  have found : (setBar b k y).bars.find? (fun p => p.1 == k) = some (k, y) := find?_putWhere (q := fun p => p.1 == k) (beq_self_eq_true k) b.bars
  rw [getBar, found]

theorem getBar_setBar_other (other : j ≠ k) (b : Bond) (y : Barrier) : getBar (setBar b k y) j = getBar b j := by
  have found : (setBar b k y).bars.find? (fun p => p.1 == j) = b.bars.find? (fun p => p.1 == j) :=
    find?_putWhere_other (p := fun p : Nat × Barrier => p.1 == j) (q := fun p => p.1 == k) (beq_false_of_ne other.symm) (fun _ same => beq_false_of_ne ((eq_of_beq same).trans_ne other.symm)) b.bars
  rw [getBar, found, getBar]

theorem findBond_putBond (found : findBond s bond = some b) (same : y.id = b.id) : findBond (putBond s y) bond = some y := by
  have named : b.id = bond := by simpa using List.find?_some found
  have search : (fun x : Bond => x.id == bond) ∘ (fun x => if x.id == y.id then y else x) = fun x => x.id == bond := by
    funext x
    by_cases replaced : x.id = bond <;> simp [replaced, same, named]
  rw [findBond, putBond, List.find?_map, search]
  exact (congrArg _ found).trans (congrArg some (if_pos (beq_iff_eq.mpr same.symm)))

theorem wakeBar_bonds (s : State) (bond k result : Nat) : (wakeBar s bond k result).bonds = s.bonds := by
  unfold wakeBar
  refine List.foldlRecOn (motive := fun t : State => t.bonds = s.bonds) _ _ rfl fun t same c _ => ?_
  split <;> exact same

/-- Settles O38: the barrier is put back as at the start of its next phase, and waking its courses leaves the bonds. -/
theorem phaseCompletes : Obligations.PhaseCompletes := by
  intro s bond k b d found desc
  refine ⟨fun reached => ⟨setBar b k _, ?found, getBar_setBar_same b k _, fun j other => getBar_setBar_other other b _⟩, fun short => ?short⟩
  case found =>
    simp only [tryComplete, found, desc, reached, ne_eq, not_true_eq_false, if_false]
    exact (congrArg (List.find? _) (wakeBar_bonds ..)).trans (findBond_putBond found rfl)
  case short => simp only [tryComplete, found, desc, short, ne_eq, not_false_eq_true, if_true]

end Sys2Proof.Machine
end

section
/-! ### `waitc`, `waitf`, and the reads of flags and barriers (R395, R403, R404) -/
namespace Sys2Proof.Machine

open Sys2Proof.Claims

variable {s t : State} {x : Ops} {b : Bond} {r : HRes} {k : Nat}

/-! #### `waitc` at issue (R403) -/

/-- No cause of class 0, 1 or 2 applies to `waitc` where it issues. -/
abbrev WaitcFree (s : State) (x : Ops) : Prop :=
  Free s 0xB3 x (minSub [addrSub s x (x.bit 11), uniSub x.a, uniSub x.c, srcSub s x (.int false false) x.b, uniSub x.b])
    (addrRefs x (x.bit 11) ++ opdRefs x.b 1) []

/-- Where `waitc` looks for its word. -/
def waitcAddr (s : State) (x : Ops) : Nat := if x.bit 11 then addr32 s x 0 else addr64 s x 0

/-- The course waits on a word, which it reads at once. -/
def waitcBegun (s : State) (x : Ops) (a : Nat) : State :=
  noEligible (rereadWait ((s.upd (fun c =>
    { c with wait := some (.waitc (x.bit 11) a (BitVec.ofNat 32 (readU s x x.b 0)) (x.field 8 3) s.iss.pc s.iss.mask) })).pass x))

section
variable (free : WaitcFree s x)
include free

theorem execWaitc_laneCause (caused : laneCause (scratchSize s) (x.bit 11) 4 (waitcAddr s x) = some k) :
    execWaitc x s = .next (raiseSubset s k (waitcAddr s x)) := by
  unfold waitcAddr at *
  rw [execWaitc, issue_free _ free]
  simp only [caused]

variable (clear : laneCause (scratchSize s) (x.bit 11) 4 (waitcAddr s x) = none)
include clear

theorem execWaitc_scratch (scratch : x.bit 11 = true) : execWaitc x s = .next (waitcBegun s x (waitcAddr s x)) := by
  unfold waitcAddr at *
  rw [execWaitc, issue_free _ free]
  simp only [clear]
  exact if_pos scratch

variable (global : x.bit 11 = false)
include global

theorem execWaitc_leaseCause (lease : leaseCause s s.cur (waitcAddr s x) .read = some k) : execWaitc x s = trapOut s k := by
  unfold waitcAddr at *
  rw [execWaitc, issue_free _ free]
  simp only [global, Bool.false_eq_true, if_false] at clear lease ⊢
  simp only [clear, lease]

variable (lease : leaseCause s s.cur (waitcAddr s x) .read = none)
include lease

theorem execWaitc_probeCause (probed : probe s s.cur.acc s.cur.site (waitcAddr s x) .read = (t, .cause k)) :
    execWaitc x s = .next (raiseSubset t (0x70 + k) (waitcAddr s x)) := by
  unfold waitcAddr at *
  rw [execWaitc, issue_free _ free]
  simp only [global, Bool.false_eq_true, if_false] at clear lease probed ⊢
  simp only [clear, lease, probed]

theorem execWaitc_goesOn (probed : probe s s.cur.acc s.cur.site (waitcAddr s x) .read = (t, r)) (uncaused : ∀ k, r ≠ .cause k) :
    execWaitc x s = .next (waitcBegun t x (waitcAddr s x)) := by
  unfold waitcAddr waitcBegun at *
  rw [execWaitc, issue_free _ free]
  simp only [global, Bool.false_eq_true, if_false] at clear lease probed ⊢
  cases r with
  | cause k => exact absurd rfl (uncaused k)
  | line | mmio | absent | peer | pinned => simp only [clear, lease, probed]

end

/-! #### The events of waits (R220, R305, R399, R403) -/

section
variable {off scope pc : Nat} {m : LaneSet} {tgt : Word}
variable (bond : curBond s = some b) (alone : s.cur.waitBelow = none)
include alone

/-- A course that waits on a word of its scratchpad reads it, and the rows there are sound or settled. -/
theorem rereadWait_scratch (waits : s.cur.wait = some (.waitc true off tgt scope pc m)) (sound : readRows s s.cur.bond off 4 = s) :
    rereadWait s = watchScratch s s.cur.ring off pc m := by
  simp only [rereadWait, rereadAt, waits, alone, sound]

theorem rereadWait_global (waits : s.cur.wait = some (.waitc false off tgt scope pc m)) : rereadWait s = rereadGlobal s s.cur.ring off pc m := by
  simp only [rereadWait, rereadAt, waits, alone]

theorem watchRead_met (waits : s.cur.wait = some (.waitc true off tgt scope pc m)) {v : Nat} (met : counterMet v tgt = true) :
    watchRead s true off v = s.upd (fun c => ({ c with wait := none }).acquires scope) := by
  simp only [watchRead, Course.findWait, waits, alone, met, beq_self_eq_true, Bool.and_self, if_true, State.upd]
  congr 2
  simp only [Course.wake, waits, alone, met, beq_self_eq_true, Bool.and_self, if_true]

theorem watchRead_unmet (waits : s.cur.wait = some (.waitc true off tgt scope pc m)) {v : Nat} (unmet : counterMet v tgt = false) :
    watchRead s true off v = s := by
  simp [watchRead, Course.findWait, waits, alone, unmet]

end

section
variable {off ring pc : Nat} {m : LaneSet} (bond : curBond s = some b)
include bond

theorem watchScratch_sound (sound : scratchPoisoned b off 4 = false) : watchScratch s ring off pc m = watchRead s true off (scratchRead b off 4) := by
  simp only [watchScratch, bond, sound, Bool.not_false, if_true]

theorem watchScratch_poisoned (poisoned : scratchPoisoned b off 4 = true) (own : ring = s.cur.ring) (running : s.cur.stopRing = none) :
    watchScratch s ring off pc m =
      raise (s.upd (fun c => { c with wait := none }.backTo (watchOp s.cur ring off pc m) m)) 0x150 s.cur.live pc 0 0 := by
  have taken : (decide (ring < s.cur.ring) || s.cur.stopRing.isSome) = false := by simp [own, running]
  simp only [watchScratch, bond, poisoned, taken, Bool.not_true, Bool.false_eq_true, if_false]
  rfl

end

/-! #### The comparison of a counter word (R305) -/

/-- A counter on the circle of 32 bits, from its target on. -/
theorem ofNat_target_add (tgt : Word) (k : Nat) : BitVec.ofNat 32 ((tgt.toNat + k) % 2 ^ 32) - tgt = BitVec.ofNat 32 k := by
  apply BitVec.eq_of_toNat_eq
  simp only [BitVec.toNat_sub, BitVec.toNat_ofNat]
  have := tgt.isLt
  omega

theorem counterMet_target_add (tgt : Word) (k : Nat) : counterMet ((tgt.toNat + k) % 2 ^ 32) tgt = !k.testBit 31 := by
  rw [counterMet, ofNat_target_add, BitVec.getLsbD_ofNat]
  rfl

theorem counterMet_mod (v : Nat) (tgt : Word) : counterMet v tgt = counterMet (v % 2 ^ 32) tgt := by
  have same : BitVec.ofNat 32 (v % 2 ^ 32) = BitVec.ofNat 32 v := BitVec.eq_of_toNat_eq (by simp)
  rw [counterMet, counterMet, same]

/-- Settles O39: `waitc` by its address, its lease and the probe of its page, `waitf` by its flags; a course that waits reads its word by `rereadWait`,
and a counter counts from its target on (`ofNat_target_add`). -/
theorem waitsOnCountersAndFlags : Obligations.WaitsOnCountersAndFlags := by
  refine ⟨fun x s t => ?issue, fun s b off scope pc m tgt bond alone => ?events, fun v k tgt near => ⟨?reached, ?short, counterMet_mod v tgt⟩⟩
  case issue =>
    refine ⟨?scratch, ?global, ?caused, fun free clear => ?clear, fun free set => ?set⟩
    case scratch =>
      intro free scratch aligned inside
      have clear : laneCause (scratchSize s) (x.bit 11) 4 (waitcAddr s x) = none := by
        rw [scratch]
        exact (laneCause_aligned_scratch aligned).trans (if_neg (Nat.not_lt.mpr inside))
      exact execWaitc_scratch free clear scratch
    case global =>
      intro free global aligned near
      have clear : laneCause (scratchSize s) (x.bit 11) 4 (waitcAddr s x) = none := by
        rw [global]
        exact laneCause_global_clear aligned near
      refine ⟨fun k lease => execWaitc_leaseCause free clear global lease, fun r lease probed => ⟨fun uncaused => ?_, ?_⟩⟩
      · exact execWaitc_goesOn free clear global lease probed uncaused
      · rintro k rfl
        exact execWaitc_probeCause free clear global lease probed
    case caused => exact fun k free caused => execWaitc_laneCause free caused
    case clear =>
      change execWaitf x s = _
      rw [execWaitf, issue_free _ free, if_pos clear, done_passed]
    case set =>
      change execWaitf x s = _
      rw [execWaitf, issue_free _ free]
      exact if_neg (Bool.eq_false_iff.mp set)
  case events =>
    refine ⟨fun waits rows sound met => ?met, fun waits rows sound unmet => ?unmet, fun waits rows poisoned running => ?poisoned, fun waits => ?global,
      fun a ready => ?arrival⟩
    case met =>
      refine (congrArg Host.Outcome.next (atCourse_here s rereadWait)).trans (congrArg _ ?_)
      rw [rereadWait_scratch alone waits rows, watchScratch_sound bond sound, watchRead_met alone waits met]
    case unmet =>
      refine (congrArg Host.Outcome.next (atCourse_here s rereadWait)).trans (congrArg _ ?_)
      rw [rereadWait_scratch alone waits rows, watchScratch_sound bond sound, watchRead_unmet alone waits unmet]
    case poisoned =>
      refine (congrArg Host.Outcome.next (atCourse_here s rereadWait)).trans (congrArg _ ?_)
      rw [rereadWait_scratch alone waits rows, watchScratch_poisoned bond poisoned rfl running]
    case global =>
      exact (congrArg Host.Outcome.next (atCourse_here s rereadWait)).trans (congrArg _ (rereadWait_global alone waits))
    case arrival =>
      have here : courseById s s.cur.id = some s.cur := if_pos (beq_self_eq_true _)
      change execArrivalPoint s.cur.id s = _
      have listed : findBond s s.cur.bond = some b := bond
      simp only [execArrivalPoint, here, arrivalPoint, listed, ready]
  case reached => rw [counterMet_target_add, Nat.testBit_lt_two_pow near]; rfl
  case short => rw [Nat.add_assoc, counterMet_target_add, Nat.testBit_two_pow_add_eq, Nat.testBit_lt_two_pow near]; rfl

/-! #### `fcnt` and `bstat` (R404) -/

theorem readWord_free {maj v : Nat} (free : Free s maj x (dstSub s.cur x 1 x.d) [] (opdRefs x.d 1)) : readWord s x maj v =
    .next (passed (s.upd (fun c => c.writeLanes x.d 1 false ((lanes s x).map (fun i => (i, v))))) x) := by
  rw [readWord, issue_free _ free, done_passed]
  rfl

/-- Settles O40: both are a `readWord` of their value. -/
theorem flagAndBarrierReads : Obligations.FlagAndBarrierReads := by
  intro x s
  refine ⟨readWord_free, fun b bond free => ?_⟩
  have value : execBstat x s = readWord s x 0xB6
      ((getBar b x.low4).phase * 256 + (if (getBar b x.low4).desc.isSome then 128 else 0) + (getBar b x.low4).cnt % 128) := by
    simp only [execBstat, bond]
  exact value.trans (readWord_free free)

end Sys2Proof.Machine
end

section
/-! ### Engine commands at issue (R334 to R355) -/
namespace Sys2Proof.Machine

open Sys2Proof.Claims

variable {s t u : State} {x : Ops} {maj v k a b : Nat} {body : State → Nat → Option Nat → Out} {cause : Option Nat} {full : Bool} {bytes : List Byte}
  {after : State → Nat → State} {out : Out}

/-- No cause of class 0, 1 or 2 applies to an engine command where it issues. -/
abbrev EngineFree (s : State) (x : Ops) (maj : Nat) : Prop :=
  Free s maj x (minSub [statusDst s x, addrSub s x true, uniSub x.a, uniSub x.c]) (addrRefs x true) []

/-- The cause that a poisoned block gives (R209). -/
def blockPoison (s : State) (x : Ops) : Option Nat := subIf (blockBad s (addr32 s x 0) 64) 0x150

/-- Where the state after the trap of a cause of an engine command stands: a poisoned block traps the whole course (R436). -/
def engineTrapped (s : State) (k : Nat) : State := raise s k (if k = 0x150 then s.cur.live else s.iss.mask) s.iss.pc 0 0

theorem engineTrap_eq (s : State) (k : Nat) : engineTrap s k = .next (engineTrapped s k) := by
  unfold engineTrap engineTrapped
  split
  next poison => rw [poison]
  next => rfl

/-! #### The block (R335, R336) -/

/-- What is asked of every engine command before its block is read. -/
def EnginePlaced (s : State) (x : Ops) (maj : Nat) (out : Out) : Prop :=
  EngineFree s x maj →
    (addr32 s x 0 % 16 ≠ 0 ∨ scratchSize s < addr32 s x 0 + 64 → out = .next (engineTrapped s 0xE0)) ∧
    (addr32 s x 0 % 16 = 0 → addr32 s x 0 + 64 ≤ scratchSize s → blockHeld s (addr32 s x 0) 64 = true → out = stallIssue s)

theorem engine_free (free : EngineFree s x maj) : engine s x maj body =
    if addr32 s x 0 % 16 ≠ 0 ∨ scratchSize s < addr32 s x 0 + 64 then trapOut s 0xE0
    else if blockHeld s (addr32 s x 0) 64 = true then stallIssue s
    else body (readRows s s.cur.bond (addr32 s x 0) 64) (blockAt (readRows s s.cur.bond (addr32 s x 0) 64) (addr32 s x 0) 64)
      (subIf (blockBad (readRows s s.cur.bond (addr32 s x 0) 64) (addr32 s x 0) 64) 0x150) := by
  rw [engine, issue_free _ free]
  simp only [Bool.or_eq_true, decide_eq_true_eq]

theorem engine_placed : EnginePlaced s x maj (engine s x maj body) := by
  intro free
  rw [engine_free free]
  refine ⟨fun misplaced => if_pos misplaced, fun aligned inside held => ?_⟩
  rw [if_neg (not_or.mpr ⟨not_not.mpr aligned, Nat.not_lt.mpr inside⟩), if_pos held]

/-- A block that can be read goes to the body of the command, with the cause that its poison gives. -/
theorem engine_ready (ready : BlockReady s x maj v) : engine s x maj body = body s v (blockPoison s x) := by
  obtain ⟨free, aligned, inside, sound, unheld, block⟩ := ready
  rw [engine_free free, if_neg (not_or.mpr ⟨not_not.mpr aligned, Nat.not_lt.mpr inside⟩), if_neg (Bool.eq_false_iff.mp unheld), sound, block]
  rfl

/-! #### The causes of its content, and entry (R334) -/

theorem engineEnter_full (stands : engineFull s maj = true) : engineEnter s x maj bytes after = stallIssue s := if_pos stands

theorem engineEnter_room (room : EngineRoom s x maj bytes) : engineEnter s x maj bytes after = .next (commanded s x maj bytes after) := by
  obtain ⟨space, room⟩ := room
  rw [engineEnter, if_neg (Bool.eq_false_iff.mp space)]
  exact issueOpF_room s x 1 (engPre s x) _ _ room

/-- A command by the lowest cause of its content, then by the room that it needs beside its engine's queue. -/
def engineAnswer (s : State) (x : Ops) (maj : Nat) (cause : Option Nat) (full : Bool) (bytes : List Byte) (after : State → Nat → State) : Out :=
  match cause with
  | some k => engineTrap s k
  | none => if full then stallIssue s else engineEnter s x maj bytes after

/-- What is asked of an engine command whose block can be read. -/
def EngineRuled (s : State) (x : Ops) (maj : Nat) (cause : Option Nat) (full : Bool) (bytes : List Byte) (after : State → Nat → State) (out : Out) : Prop :=
  (∀ k, cause = some k → out = .next (engineTrapped s k)) ∧
  (cause = none → (full = true ∨ engineFull s maj = true) → out = stallIssue s) ∧
  (cause = none → full = false → EngineRoom s x maj bytes → out = .next (commanded s x maj bytes after))

theorem engineAnswer_ruled : EngineRuled s x maj cause full bytes after (engineAnswer s x maj cause full bytes after) := by
  refine ⟨?caused, ?full, ?enters⟩
  case caused =>
    rintro k rfl
    exact engineTrap_eq s k
  case full =>
    rintro rfl stands
    cases full with
    | true => rfl
    | false => exact engineEnter_full (stands.resolve_left Bool.false_ne_true)
  case enters =>
    rintro rfl rfl room
    exact engineEnter_room room

/-- A command is placed, and ruled by the causes and the room that its body answers with. -/
def EngineCommand (s : State) (x : Ops) (maj v : Nat) (cause : Option Nat) (full : Bool) (after : State → Nat → State) (out : Out) : Prop :=
  EnginePlaced s x maj out ∧ (BlockReady s x maj v → EngineRuled s x maj cause full (bytesOf 64 v) after out)

theorem engine_command (answers : body s v (blockPoison s x) = engineAnswer s x maj cause full (bytesOf 64 v) after) :
    EngineCommand s x maj v cause full after (engine s x maj body) :=
  ⟨engine_placed, fun ready => by rw [engine_ready ready, answers]; exact engineAnswer_ruled⟩

/-- A command whose body is its checks and then its entry. -/
theorem engineCheck_command (s : State) (x : Ops) (maj v : Nat) (subs : State → Nat → Option Nat → List (Option Nat)) :
    EngineCommand s x maj v (minSub (subIf (headerBad s v) 0xE1 :: subs s v (blockPoison s x))) false later
      (engine s x maj (fun s v poison => engineCheck s x maj v (subs s v poison) later)) := by
  refine engine_command ?_
  unfold engineCheck engineAnswer
  cases minSub (subIf (headerBad s v) 0xE1 :: subs s v (blockPoison s x)) <;> rfl

/-! #### The causes of each command (R341 to R355) -/

/-- A copy whose scratchpad meets an earlier copy or array command, or finds no scoreboard entries, is held (R232, R282, R342). -/
def copyHeld (s : State) (v : Nat) : Bool :=
  (copyRanges (copyOf v)).any (fun r => behindCopy s s.cur.id s.cur.nextOp { space := .scr s.cur.bond, lo := r.1, len := r.2.1, write := r.2.2 }) ||
    (match curBond s with | some b => rangesFull s b (copyOf v) | none => false)

theorem execCpy_command (s : State) (x : Ops) (v : Nat) : EngineCommand s x 0xD2 v
    (minSub (subIf (headerBad s v) 0xE1 :: copySubs (scratchSize s) v ++ [subIf (s.cur.rgnOpen && blockCounts v) 0x103, blockPoison s x]))
    (copyHeld s v) (fun t seq => takeRanges t (copyOf v) seq) (execCpy x s) :=
  engine_command rfl

theorem execXred_command (s : State) (x : Ops) (v : Nat) : EngineCommand s x 0xD4 v
    (minSub (subIf (headerBad s v) 0xE1 :: redSubs s v ++
      [subIf (tagHeld s (vfOfAsid s s.cur.asid) (fieldAt v 0x24 2)) 0xE6, subIf s.cur.rgnOpen 0x103, blockPoison s x]))
    (tagsFull s (vfOfAsid s s.cur.asid)) (fun t seq => claimTag t (vfOfAsid s s.cur.asid) (fieldAt v 0x24 2) 0 seq) (execXred x s) :=
  engine_command rfl

/-- The causes of the content of `hash`, `sigv` and `scrub` after that of the header. -/
def hashSubs (s : State) (v : Nat) (poison : Option Nat) : List (Option Nat) :=
  let f (at1 n : Nat) : Nat := fieldAt v at1 n
  [subIf (tailBad v 0x29) 0xE1,
    subIf (decide (2 ^ 40 < f 0x18 8) || Config.vaLimit ≤ f 0x10 8 || decide (Config.vaLimit < f 0x10 8 + f 0x18 8) || f 0x20 8 % 16 ≠ 0 ||
      decide (Config.vaLimit < f 0x20 8 + (if f 0x28 1 = 1 then 32 else 48)) || 1 < f 0x28 1) 0xE2,
    subIf (s.cur.rgnOpen && blockCounts v) 0x103, poison]

def sigvSubs (s : State) (v : Nat) (poison : Option Nat) : List (Option Nat) :=
  let bad (a n : Nat) : Bool := a % 16 ≠ 0 || decide (Config.vaLimit < a + n)
  [subIf (tailBad v 0x28) 0xE1, subIf (bad (fieldAt v 0x10 8) 48 || bad (fieldAt v 0x18 8) 96 || bad (fieldAt v 0x20 8) 96) 0xE2,
    subIf (s.cur.rgnOpen && blockCounts v) 0x103, poison]

def scrubSubs (s : State) (v : Nat) (poison : Option Nat) : List (Option Nat) :=
  let f := fieldAt v 0x10 8
  let n := fieldAt v 0x18 4
  [subIf (tailBad v 0x1C) 0xE1,
    subIf (524288 ≤ f || n = 0 || 4096 < n || decide (524288 < f + n) || (List.range (Nat.min n 4096)).any (fun j => !scrubbable s (f + j))) 0xE2,
    subIf s.cur.rgnOpen 0x103, subIf (s.cur.ring < 2) 0x136, poison]

/-! #### `xch` (R346, R347) -/

/-- Whether a command holds the tag of an `xch`. -/
def xchHeld (s : State) (v : Nat) : Bool := tagHeld s (vfOfAsid s s.cur.asid) (fieldAt v 0x30 2)

/-- The causes of `xch` that come before its maps are read. -/
def xchEarly (s : State) (x : Ops) (v : Nat) : Option Nat :=
  let far (a : Nat) : Bool := a % 64 ≠ 0 || decide (Config.vaLimit < a + 64)
  minSub [subIf (headerBad s v || tailBad v 0x32) 0xE1,
    subIf (far (fieldAt v 0x20 8) || far (fieldAt v 0x28 8) || Config.vaLimit ≤ fieldAt v 0x10 8 || Config.vaLimit ≤ fieldAt v 0x18 8) 0xE2,
    subIf (xchHeld s v && (s.cur.rgnOpen || (blockPoison s x).isSome)) 0xE6, subIf s.cur.rgnOpen 0x103, blockPoison s x]

/-- The causes that its maps decide, and that of its tag. -/
def xchLate (s u : State) (v a b : Nat) : Option Nat := minSub (xchSubs u v a b ++ [subIf (xchHeld s v) 0xE6])

/-- The entry of an `xch` whose maps have been read, with both. -/
def xchEnter (s u : State) (x : Ops) (v a b : Nat) : Out :=
  match xchLate s u v a b with
  | some k => trapOut u k
  | none =>
    if tagsFull u (vfOfAsid s s.cur.asid) then stallIssue u
    else engineEnter u x 0xD3 (bytesOf 64 v ++ bytesOf 64 a ++ bytesOf 64 b)
      (fun t seq => claimTag t (vfOfAsid s s.cur.asid) (fieldAt v 0x30 2) (mapCheck a b) seq)

/-- An `xch` without a cause of its own reads its two maps in turn, and goes on as they say. -/
def xchReads (s : State) (x : Ops) (v : Nat) : Out :=
  match readMap s (fieldAt v 0x20 8) (xchHeld s v) with
  | (_, .error t) => .next t
  | (t, .ok a) => match readMap t (fieldAt v 0x28 8) (xchHeld s v) with
    | (_, .error w) => .next w
    | (u, .ok b) => xchEnter s u x v a b

theorem execXch_placed : EnginePlaced s x 0xD3 (execXch x s) := engine_placed

theorem execXch_ready (ready : BlockReady s x 0xD3 v) :
    execXch x s = match xchEarly s x v with | some k => engineTrap s k | none => xchReads s x v := by
  rw [execXch, engine_ready ready]
  rfl

theorem execXch_early (ready : BlockReady s x 0xD3 v) (caused : xchEarly s x v = some k) : execXch x s = .next (engineTrapped s k) := by
  rw [execXch_ready ready, caused, ← engineTrap_eq]

theorem execXch_clear (ready : BlockReady s x 0xD3 v) (clear : xchEarly s x v = none) : execXch x s = xchReads s x v := by
  rw [execXch_ready ready, clear]

theorem xchReads_first_stops (first : readMap s (fieldAt v 0x20 8) (xchHeld s v) = (t, .error u)) : xchReads s x v = .next u := by
  rw [xchReads, first]

theorem xchReads_second_stops {w : State} (first : readMap s (fieldAt v 0x20 8) (xchHeld s v) = (t, .ok a))
    (second : readMap t (fieldAt v 0x28 8) (xchHeld s v) = (u, .error w)) : xchReads s x v = .next w := by
  simp only [xchReads, first, second]

theorem xchReads_both (first : readMap s (fieldAt v 0x20 8) (xchHeld s v) = (t, .ok a))
    (second : readMap t (fieldAt v 0x28 8) (xchHeld s v) = (u, .ok b)) : xchReads s x v = xchEnter s u x v a b := by
  simp only [xchReads, first, second]

theorem xchEnter_caused (caused : xchLate s u v a b = some k) : xchEnter s u x v a b = trapOut u k := by
  unfold xchEnter
  rw [caused]

section
variable (clear : xchLate s u v a b = none)
include clear

theorem xchEnter_full (stands : tagsFull u (vfOfAsid s s.cur.asid) = true ∨ engineFull u 0xD3 = true) : xchEnter s u x v a b = stallIssue u := by
  unfold xchEnter
  simp only [clear]
  split
  next => rfl
  next tags => exact engineEnter_full (stands.resolve_left tags)

theorem xchEnter_room (tags : tagsFull u (vfOfAsid s s.cur.asid) = false)
    (room : EngineRoom u x 0xD3 (bytesOf 64 v ++ bytesOf 64 a ++ bytesOf 64 b)) :
    xchEnter s u x v a b = .next (commanded u x 0xD3 (bytesOf 64 v ++ bytesOf 64 a ++ bytesOf 64 b)
      (fun t seq => claimTag t (vfOfAsid s s.cur.asid) (fieldAt v 0x30 2) (mapCheck a b) seq)) := by
  unfold xchEnter
  simp only [clear, tags, Bool.false_eq_true, if_false]
  exact engineEnter_room room

end

/-- Settles O46: every command goes by `engine`, and its body is an `engineAnswer` of its causes; `xch` reads its maps between two lists of causes. -/
theorem engineCommands : Obligations.EngineCommands := by
  intro x s v
  refine ⟨execCpy_command s x v, execXred_command s x v, engineCheck_command s x 0xD5 v hashSubs, engineCheck_command s x 0xD6 v sigvSubs,
    engineCheck_command s x 0xD7 v scrubSubs, execXch_placed, fun ready => ⟨fun k => execXch_early ready, fun t u clear first => ?first,
      fun t a clear first => ⟨fun u w second => ?second, fun u b second => ?both⟩⟩⟩
  case first => exact (execXch_clear ready clear).trans (xchReads_first_stops first)
  case second => exact (execXch_clear ready clear).trans (xchReads_second_stops first second)
  case both =>
    have enters : execXch x s = xchEnter s u x v a b := (execXch_clear ready clear).trans (xchReads_both first second)
    exact ⟨fun k caused => enters.trans (xchEnter_caused caused), fun clear stands => enters.trans (xchEnter_full clear stands),
      fun clear tags room => enters.trans (xchEnter_room clear tags room)⟩

end Sys2Proof.Machine
end

section
/-! ### The end of commits, and the meters (R208, R384, R389, R408 to R411, R438) -/
namespace Sys2Proof.Machine

variable {s : State} {b : Budget} {r : CommitRun} {n tenant : Nat}

/-! #### Records left as they are -/

theorem updWhere_eq_self {α : Type} {q : α → Bool} {f : α → α} {xs : List α} (fixed : ∀ x ∈ xs, q x = true → f x = x) :
    updWhere q f xs = xs := by
  refine (List.map_congr_left fun x member => ?_).trans (List.map_id xs)
  split
  case isTrue chosen => exact fixed x member chosen
  case isFalse => rfl

theorem foldl_eq_self {α : Type} {f : State → α → State} {xs : List α} (fixed : ∀ x ∈ xs, f s x = s) : xs.foldl f s = s := by
  induction xs with
  | nil => rfl
  | cons x xs ih => rw [List.foldl_cons, fixed x List.mem_cons_self, ih fun y member => fixed y (List.mem_cons_of_mem x member)]

theorem updBudget_eq_self {harvest : Bool} {f : Budget → Budget}
    (fixed : ∀ x ∈ s.budgets, (x.tenant == tenant && x.harvest == harvest) = true → f x = x) : updBudget s tenant harvest f = s := by
  rw [updBudget, updWhere_eq_self fixed]

/-! #### Commits (R384, R389, R438) -/

theorem finishCommit_ends (s : State) (r : CommitRun) : (finishCommit s r).commit = none ∧ (getDie (finishCommit s r) r.die).done = r.number := by
  refine ⟨rfl, ?_⟩
  change (getDie (updDie s r.die fun d => { d with done := r.number }) r.die).done = _
  rw [getDie_updDie]

/-- A running commit ends with its last step, whatever those before it left. -/
theorem execCommitComplete_ends (running : s.commit = some r) : ∃ u, execCommitComplete r.die s = .next (finishCommit u r) := by
  simp only [execCommitComplete, running, ne_eq, not_true_eq_false, if_false]
  exact ⟨_, rfl⟩

theorem execCommitComplete_other {die : Nat} (other : ∀ r, s.commit = some r → r.die ≠ die) : execCommitComplete die s = .next s := by
  unfold execCommitComplete
  cases running : s.commit with
  | none => rfl
  | some r => exact congrArg Host.Outcome.next (if_pos (other r running))

/-- A sweep that finds every line of its tenant inside its ways is over. -/
theorem execWayMaskSweep_clean (asked : memNat tenant s.sweeps = true)
    (inside : ∀ l ∈ s.l2, l.tenant = tenant → (wayMask s tenant l.cls (homeDie l.addr)).getLsbD l.way = true) :
    execWayMaskSweep tenant s = .next { s with sweeps := s.sweeps.filter (fun y => y ≠ tenant) } := by
  have clean : ∀ l ∈ s.l2, (l.tenant == tenant && !(wayMask s tenant l.cls (homeDie l.addr)).getLsbD l.way) = false := fun l member => by
    by_cases own : l.tenant = tenant
    · simp [own, inside l member own]
    · simp [own]
  have leaves : s.l2.filter (fun l => (l.tenant == tenant && !(wayMask s tenant l.cls (homeDie l.addr)).getLsbD l.way &&
      !(l.peer.isSome && l.dirty ≠ 0)) && l.pin.isNone) = [] :=
    List.filter_eq_nil_iff.mpr fun l member => by simp [clean l member]
  have none : s.l2.any (fun l => l.tenant == tenant && !(wayMask s tenant l.cls (homeDie l.addr)).getLsbD l.way &&
      !(l.peer.isSome && l.dirty ≠ 0)) = false :=
    List.any_eq_false.mpr fun l member => by simp [clean l member]
  simp only [execWayMaskSweep, asked, Bool.not_true, Bool.false_eq_true, if_false, leaves, List.foldl_nil, none]

/-! #### Tokens (R408, R409) -/

/-- A balance once its class's resident piers have charged it. -/
def Budget.charged (s : State) (b : Budget) : Budget := { b with bal := b.bal - (((residentQuoins s b.tenant b.harvest).length : Nat) : Int) }

theorem borrow_solvent (solvent : ∀ b ∈ s.budgets, 0 < b.bal) (tenant : Nat) (harvest : Bool) (fuel : Nat) : borrow s tenant harvest fuel = s := by
  cases fuel with
  | zero => rfl
  | succ fuel =>
    unfold borrow
    cases found : s.budgets.find? (fun b => b.tenant == tenant && b.harvest == harvest) with
    | none => rfl
    | some b => simp [solvent b (List.mem_of_find?_eq_some found)]

/-- A balance at the start of a period, before debts are repaid. -/
def Budget.renewed (s : State) (b : Budget) : Budget :=
  { b with
      bal := (periodBudget s b.tenant b.harvest : Nat), borrowed := 0
      owed := if b.bal < 0 then addOwed b.owed 64 b.bal.natAbs else b.owed }

theorem execBudgetPeriodBoundary_eq (s : State) : execBudgetPeriodBoundary s =
    .next ((s.budgets.map (Budget.renewed s)).foldl repay { s with budgets := s.budgets.map (Budget.renewed s) }) := rfl

theorem repay_free (free : ∀ x ∈ s.budgets, x.owed = []) (none : b.owed = []) : repay s b = s := by
  have nothing : owedInOrder b.owed = [] := by simp [none, owedInOrder, assoc]
  simp only [repay, nothing, List.foldl_nil, Nat.zero_min, spread]
  exact updBudget_eq_self fun x member _ => by simp [← free x member]

/-- What is owed to nobody comes first in the order of repayment. -/
theorem owedInOrder_nobody (n : Nat) : owedInOrder [(64, n)] = [(64, n)] := by
  have lenders : (List.range 64).filterMap (fun t => (assoc [(64, n)] t).map (fun n => (t, n))) = [] := by
    refine List.filterMap_eq_nil_iff.mpr fun t member => ?_
    have other : ¬ 64 = t := (List.mem_range.mp member).ne'
    simp [assoc, other]
  rw [owedInOrder, List.filterMap_append, lenders]
  rfl

/-- A debt to nobody that stands alone is repaid from at most half of the budget. -/
theorem repay_nobody (only : s.budgets = [b]) (below : b.tenant < 64) (owed : b.owed = [(64, n)]) : repay s b =
    { s with budgets := [{ b with
        bal := b.bal - (Nat.min n (periodBudget s b.tenant b.harvest / 2) : Nat)
        owed := if n - Nat.min n (periodBudget s b.tenant b.harvest / 2) = 0 then []
          else [(64, n - Nat.min n (periodBudget s b.tenant b.harvest / 2))] }] } := by
  have another : (b.tenant == 64) = false := beq_false_of_ne below.ne
  have all : Nat.min (Nat.min n (periodBudget s b.tenant b.harvest / 2)) n = Nat.min n (periodBudget s b.tenant b.harvest / 2) :=
    Nat.min_eq_left (Nat.min_le_left ..)
  simp only [repay, owed, owedInOrder_nobody, List.foldl_cons, List.foldl_nil, Nat.zero_add, spread, all, updBudget, updWhere, only, List.map_cons,
    List.map_nil, BEq.rfl, Bool.and_self, if_true, another, Bool.false_and, Bool.false_eq_true, if_false]

/-- Where a debt to nobody is all that a tenant owes, at the end of a period it stands as `n` in the renewed balance. -/
theorem renewed_owed (owes : 0 ≤ b.bal ∧ b.owed = [(64, n)] ∨ b.bal < 0 ∧ b.owed = [] ∧ n = b.bal.natAbs) : (b.renewed s).owed = [(64, n)] := by
  obtain ⟨positive, owed⟩ | ⟨negative, owed, rfl⟩ := owes
  · simp [Budget.renewed, owed, positive.not_gt]
  · simp [Budget.renewed, owed, negative, addOwed, putWhere, assoc]

theorem foldl_repay_free (free : ∀ x ∈ s.budgets, x.owed = []) : s.budgets.foldl repay s = s :=
  foldl_eq_self fun b member => repay_free free (free b member)

/-- Settles O56: a commit ends by `finishCommit`; nobody borrows where every balance is positive (`borrow_solvent`), and debts are repaid by `repay`. -/
theorem commitsAndMeters : Obligations.CommitsAndMeters := by
  refine ⟨fun s t q r => ⟨fun running => ?commit, fun idle => ?idle, fun running other => ?other, fun unasked => ?unasked, execWayMaskSweep_clean,
      fun none => ?still, fun lowest => ?vacates⟩,
    fun s b ctrl n => ⟨fun solvent => ?charge, fun free => ?period, fun only below owes => ?debt, ?bucket, ?allowance, ?window, ?noTenant, ?noPage,
      ?page⟩⟩
  case commit =>
    obtain ⟨u, ends⟩ := execCommitComplete_ends running
    exact ⟨_, ends, finishCommit_ends u r⟩
  case idle => exact execCommitComplete_other fun r running => by simp [idle] at running
  case other => exact execCommitComplete_other fun r' running' => by rwa [← Option.some.inj (running.symm.trans running')]
  case unasked => exact if_pos (by rw [unasked]; rfl)
  case still => change execQuoinVacated s = _; simp only [execQuoinVacated, none]
  case vacates => change execQuoinVacated s = _; simp only [execQuoinVacated, lowest]
  case charge =>
    have still : ∀ b ∈ (s.budgets.map (Budget.charged s)), 0 < b.bal := List.forall_mem_map.mpr solvent
    exact congrArg Host.Outcome.next (foldl_eq_self fun b _ => borrow_solvent (s := { s with budgets := s.budgets.map (Budget.charged s) }) still ..)
  case period =>
    have renewed : s.budgets.map (Budget.renewed s) = s.budgets.map (fun b => { b with bal := (periodBudget s b.tenant b.harvest : Nat), borrowed := 0 }) :=
      List.map_congr_left fun b member => by simp [Budget.renewed, (free b member).2.not_gt]
    rw [← renewed]
    have owing : ∀ b ∈ s.budgets.map (Budget.renewed s), b.owed = [] :=
      List.forall_mem_map.mpr fun b member => by simp [Budget.renewed, (free b member).2.not_gt, (free b member).1]
    exact congrArg Host.Outcome.next (foldl_repay_free (s := { s with budgets := s.budgets.map (Budget.renewed s) }) owing)
  case debt =>
    refine (execBudgetPeriodBoundary_eq s).trans (congrArg Host.Outcome.next ?_)
    rw [only, List.map_cons, List.map_nil, List.foldl_cons, List.foldl_nil]
    exact repay_nobody (s := { s with budgets := [b.renewed s] }) rfl below (renewed_owed owes)
  case bucket =>
    change execHbmBucketRefill ctrl s = _
    refine congrArg (fun xs => Host.Outcome.next { s with buckets := xs }) (List.map_congr_left fun y _ => ?_)
    cases held : partition s y.tenant <;> simp [held]
  case allowance =>
    refine ⟨_, rfl, List.length_map .., List.forall_mem_map.mpr fun a _ v p => ?_⟩
    intro found placed
    have place : (s.vfs.find? (fun v => v.vf == a.vf)).bind (fun v => partition s v.tenant) = some p := Option.bind_eq_some_iff.mpr ⟨v, ?_, placed⟩
    · simp only [place]
    · cases joint : (s.vfs.find? (fun v => v.vf == a.vf)).bind (fun v => partition s v.tenant) <;> simpa [joint] using found
  case window =>
    exact ⟨_, rfl, List.forall_mem_map.mpr fun _ _ => rfl, List.map_map ..⟩
  case noTenant => intro t none; change execPerfCounterSnapshot t s = _; simp only [execPerfCounterSnapshot, none]
  case noPage => intro t p found noPage; change execPerfCounterSnapshot t s = _; simp only [execPerfCounterSnapshot, found, noPage, if_true]
  case page => exact fun t p _ _ => ⟨_, rfl⟩

end Sys2Proof.Machine
end

section
/-! ### Two ports of one number (R455) -/
namespace Sys2Proof.Machine

/-- Port 1, up, with the next sequence number it waits for. -/
def upPort1 (seq : Nat) : Port := { port := 1, peer := 0, en := true, up := true, seq := seq, replays := 0 }

/-- A device whose list holds port 1 twice, of which only the second waits for flit 1. -/
def twoOfPort1 : State := { State.reset with ports := [upPort1 0, upPort1 1] }

/-- Flit 0 is what the port that the device finds waits for, and counts both on. -/
theorem flitReceived_twoOfPort1 : exec (.flitReceived 1 0 true) twoOfPort1 = .next { State.reset with ports := [upPort1 1, upPort1 2] } := rfl

/-- Where no other port has its number, an accepted flit counts its port on as O51 says. -/
theorem flitReceived_of_alone {s : State} {x : Port} {seq : Nat} (found : s.ports.find? (fun y => y.port == x.port && y.up) = some x)
    (alone : ∀ y ∈ s.ports, y.port = x.port → y = x) : exec (.flitReceived x.port seq true) s =
      .next { s with
        ports := updWhere (fun y => y.port == x.port) (fun y => if seq = y.seq then { y with seq := (y.seq + 1) % 4096, replays := 0 } else y) s.ports } := by
  change execFlitReceived x.port seq true s = _
  have agree : ∀ f g : Port → Port, f x = g x → updWhere (fun y => y.port == x.port) f s.ports = updWhere (fun y => y.port == x.port) g s.ports :=
    fun f g same => List.map_congr_left fun y member => by
      by_cases number : y.port = x.port
      · rw [alone y member number, same]
      · simp [number]
  simp only [execFlitReceived, found, if_true]
  congr 2
  exact agree _ _ (by rfl)

/-- Refutes O51: it says that an accepted flit counts a port on where the flit is the one that this port waits for, and does not ask that the numbers of
the list differ, while `execFlitReceived` compares the flit with the port it finds, and in `twoOfPort1` counts the second on with the first. For numbers
that differ the clause holds (`flitReceived_of_alone`). -/
theorem not_exchangesAndPorts : ¬ Obligations.ExchangesAndPorts := by
  rintro ⟨-, ports, -⟩
  obtain ⟨flits, -⟩ := ports twoOfPort1 (upPort1 0) pfEntry 0 0
  obtain ⟨accepted, -⟩ := flits rfl rfl
  have same := Host.Outcome.next.inj (flitReceived_twoOfPort1.symm.trans accepted)
  exact absurd (congrArg State.ports same) (by decide)

end Sys2Proof.Machine
end

section
/-! ### Reset, power, temperature and containment (R436, R437, R464, R466, R469) -/
namespace Sys2Proof.Machine

variable {s : State} {c : Course} {die q core : Nat}

/-! #### Containment -/

theorem quoinEntry_qid (s : State) (q : Nat) : (quoinEntry s q).qid = q := by
  unfold quoinEntry
  cases found : s.quoins.find? (fun e => e.qid == q) with
  | none => rfl
  | some e => simpa using List.find?_some found

theorem mem_putWhere_other {α : Type} {p : α → Bool} {x y : α} {xs : List α} (member : y ∈ xs) (other : p y = false) : y ∈ putWhere p x xs := by
  unfold putWhere
  split
  · exact List.mem_map.mpr ⟨y, member, by simp [other]⟩
  · exact List.mem_append_left [x] member

/-- Set FENCED in the installed entry of a quoin. -/
def fenceEntry (s : State) (q : Nat) : State := { s with quoins := putWhere (fun e => e.qid == q) { quoinEntry s q with fenced := true } s.quoins }

/-- Whether the installed entry of a quoin is fenced. -/
abbrev QuoinFenced (s : State) (q : Nat) : Prop := ∃ e ∈ s.quoins, e.qid = q ∧ e.fenced = true

theorem fenceEntry_fences (s : State) (q : Nat) : QuoinFenced (fenceEntry s q) q :=
  have found := find?_putWhere (q := fun e => e.qid == q) (x := { quoinEntry s q with fenced := true }) (by simp [quoinEntry_qid]) s.quoins
  ⟨{ quoinEntry s q with fenced := true }, List.mem_of_find?_eq_some found, quoinEntry_qid s q, rfl⟩

/-- Fencing a quoin leaves the others as fenced as they were. -/
theorem fenceEntry_keeps (k : Nat) (fenced : QuoinFenced s q) : QuoinFenced (fenceEntry s k) q := by
  obtain rfl | other := eq_or_ne q k
  · exact fenceEntry_fences s q
  · obtain ⟨e, member, rfl, set⟩ := fenced
    exact ⟨e, mem_putWhere_other member (by simpa using other), rfl, set⟩

theorem foldl_fenceEntry_fences {qs : List Nat} (member : q ∈ qs) (s : State) : QuoinFenced (qs.foldl fenceEntry s) q := by
  induction qs generalizing s with
  | nil => cases member
  | cons k rest ih =>
    obtain rfl | later := List.mem_cons.mp member
    · exact List.foldlRecOn (motive := (QuoinFenced · q)) rest fenceEntry (fenceEntry_fences s q) fun _ fenced k _ => fenceEntry_keeps k fenced
    · exact ih later _

theorem fenceQuoins_quoins (s : State) (core : Nat) :
    (fenceQuoins s core).quoins = (((List.range 4).map (fun i => 4 * core + i)).foldl fenceEntry s).quoins := by
  unfold fenceQuoins
  refine List.foldlRecOn (motive := fun (t : State) => t.quoins = _) _ _ rfl fun t same q _ => ?_
  exact (physWrite_keeps (g := State.quoins) (fun _ _ _ _ => rfl) t ..).trans same

theorem fenceQuoins_fences (here : q / 4 = core) : QuoinFenced (fenceQuoins s core) q := by
  have own : q ∈ (List.range 4).map (fun i => 4 * core + i) := List.mem_map.mpr ⟨q % 4, List.mem_range.mpr (Nat.mod_lt q (by decide)), by omega⟩
  rw [QuoinFenced, fenceQuoins_quoins]
  exact foldl_fenceEntry_fences own s

@[simp] theorem updDie_piers (s : State) (d : Nat) (f : Die → Die) : (updDie s d f).piers = s.piers :=
  apply_ite State.piers _ _ _ |>.trans (ite_self _)

/-- The failure of a die's L2 stops the courses that the end of its spans leaves there. -/
theorem execDieL2Failure_eq {u : State} (ends : u = ((s.piers.filter (fun p => p.die == die)).map (fun p => p.span)).foldl (fun s i => endSpan s i 1 0x154)
    (updDie s die (fun d => { d with dead := true }))) :
    execDieL2Failure die s = .next (updCourses u (fun c => c.exists && c.die == die) (fun c => c.stop 0x154)) := by
  rw [ends, execDieL2Failure, updDie_piers]

/-! #### Settled -/

/-- Settles O57: resets are `deviceReset` and `boot`, and a core's quoins are fenced one by one (`foldl_fenceEntry_fences`). -/
theorem powerAndFailures : Obligations.PowerAndFailures := by
  refine ⟨fun s codes die => ⟨⟨_, rfl, rfl, rfl, rfl, rfl, rfl, rfl⟩, fun held => ?release, fun held => ?power, fun runs => ?neither, fun up => ?reset,
      fun down => ?linkless, fun runs => ?above105, fun held => ?held, ⟨_, rfl, ?cool⟩, fun idle => ?idle, fun runs cool => ?above95⟩,
    fun s u die => ⟨fun ends => ?failure, fun core bad => ⟨_, rfl⟩, fun core q here => fenceQuoins_fences here⟩⟩
  case release => exact congrArg Host.Outcome.next (if_pos held)
  case power => exact congrArg Host.Outcome.next (if_pos held)
  case neither => exact ⟨congrArg Host.Outcome.next (if_neg runs), congrArg Host.Outcome.next (if_neg runs)⟩
  case reset => exact congrArg Host.Outcome.next (if_neg (by simp [up]))
  case linkless => exact congrArg Host.Outcome.next (if_pos down)
  case above105 => exact ⟨_, congrArg Host.Outcome.next (if_neg runs), rfl, rfl, rfl⟩
  case held => exact congrArg Host.Outcome.next (if_pos held)
  case cool => rw [getDie_updDie]
  case idle => exact congrArg Host.Outcome.next (if_pos (by simpa using idle))
  case above95 => exact congrArg Host.Outcome.next (if_neg (by simp [runs, cool]))
  case failure =>
    refine ⟨_, execDieL2Failure_eq ends, rfl, rfl, rfl, rfl, fun exist here => ?_⟩
    simp [updCourses, exist, here, Course.stop]

end Sys2Proof.Machine
end

section
/-! ### Watchdog, monitor calls and management messages (R415, R465, R468, R471, R486) -/
namespace Sys2Proof.Machine

variable {s t : State} {c : Course} {die func : Nat} {f : Course → Option State} {slot : Byte}

/-! #### The watchdog (R415, R468) -/

@[simp] theorem updDie_boot (s : State) (d : Nat) (f : Die → Die) : (updDie s d f).boot = s.boot := apply_ite State.boot _ _ _ |>.trans (ite_self _)

/-- A die's control core starting again takes the boot record as it is. -/
@[simp] theorem restartControl_boot (s : State) (die : Nat) : (restartControl s die).boot = s.boot := updDie_boot ..

/-- The expiry counted and posted, before what follows from it. -/
def expired (s : State) (die : Nat) : State :=
  postDie (updDie s die (fun d => { d with wdcnt := d.wdlim, wdexp := d.wdexp + 1 })) die { code := 9 }

theorem execWatchdogExpiry_off (off : (getDie s die).wdctl.getLsbD 0 = false ∨ s.run ≠ .running) : execWatchdogExpiry die s = .next s :=
  if_pos (by rcases off with off | off <;> simp only [off, ne_eq, not_false_eq_true, decide_true, Bool.not_false, Bool.true_or, Bool.or_true])

theorem execWatchdogExpiry_told (runs : s.run = .running) (on : (getDie s die).wdctl.getLsbD 0 = true) (upd : (getDie s die).wdctl.getLsbD 1 = false) :
    execWatchdogExpiry die s = .next (tellHost (restartControl (expired s die) die) (.watchdog die)) :=
  (if_neg (by simp [runs, on])).trans (if_neg ((Bool.not_eq_true _).mpr upd))

section
variable (runs : s.run = .running) (on : (getDie s die).wdctl.getLsbD 0 = true) (upd : (getDie s die).wdctl.getLsbD 1 = true)
include runs on upd

/-- Without a whole slot there is nothing to return to, and the device is in recovery. -/
theorem execWatchdogExpiry_broken (broken : slotOk (expired s die).boot ((expired s die).boot.active.toNat % 2) = false) :
    execWatchdogExpiry die s = .next { deviceReset (expired s die) with run := .recovery 24 } :=
  (if_neg (by simp [runs, on])).trans ((if_pos upd).trans (if_pos (congrArg (!·) broken)))

theorem execWatchdogExpiry_back (whole : slotOk (expired s die).boot ((expired s die).boot.active.toNat % 2) = true) :
    ∃ t, execWatchdogExpiry die s = .next t ∧ (getDie t die).wdctl.getLsbD 1 = false ∧ (getDie t die).shadow = none ∧ t.boot.pending = 0xFF := by
  refine ⟨_, (if_neg (by simp [runs, on])).trans ((if_pos upd).trans (if_neg ((Bool.not_eq_true _).mpr (congrArg (!·) whole)))), ?_, ?_, ?_⟩
  · simp
  · simp
  · simp

end

/-! #### Monitor calls (R486) -/

theorem monitorCall_uncalled (none : monitorCaller s die = none) : monitorCall s die func f = .next s := by
  simp only [monitorCall, none]

section
variable (caller : monitorCaller s die = some c)
include caller

theorem monitorCall_other (other : (getDie s die).func.toNat ≠ func) : monitorCall s die func f = .next s := by
  simp only [monitorCall, caller, other, ne_eq, not_false_eq_true, if_true]

variable (code : (getDie s die).func.toNat = func)
include code

theorem monitorCall_done (done : f c = some t) : monitorCall s die func f = .next (updDie t die (fun d => { d with result := 0 })) := by
  simp only [monitorCall, caller, code, done, ne_eq, not_true_eq_false, if_false]

theorem monitorCall_refused (refused : f c = none) : monitorCall s die func f = .next (updDie s die (fun d => { d with result := 1 })) := by
  simp only [monitorCall, caller, code, refused, ne_eq, not_true_eq_false, if_false]

end

theorem execMeasure_uncalled (none : monitorCaller s die = none) : execMeasure die s = .next s := monitorCall_uncalled none

/-! #### Management messages (R465, R471) -/

theorem manage_running (runs : s.run = .running) (k : Out) : manage s k = k := by simp only [manage, attend, runs]

theorem length_bytesOf (n v : Nat) : (bytesOf n v).length = n := by
  induction n generalizing v with
  | zero => rfl
  | succ n ih => rw [bytesOf, List.length_cons, ih]

theorem length_bootRecord (b : Boot) : (bootRecord b).length = 1024 := by
  have entry (k : Nat) : (stepBytes b k).length = 24 := length_bytesOf ..
  simp only [bootRecord, List.length_append, List.length_flatMap, List.length_replicate, length_bytesOf, entry]
  decide

/-- Settles O58: the watchdog's three ends, the monitor's calls by `monitorCall_done` and `monitorCall_refused`, and the management messages of a running
device. -/
theorem firmwareServices : Obligations.FirmwareServices := by
  refine ⟨fun s die => ⟨execWatchdogExpiry_off, execWatchdogExpiry_told, fun runs on upd => ?back⟩,
    fun s die c caller => ⟨fun code below other => ?load, fun code bad => ?noLoad, fun code good other => ?pending, fun code bad => ?noPending,
      fun code => ?measure, fun code named => ?commit, fun code none => ?noCommit, fun other => ?notLoad, fun other => ?notPending, fun other => ?notMeasure,
      fun other => ?notCommit⟩,
    fun s die none => ⟨monitorCall_uncalled none, monitorCall_uncalled none, execMeasure_uncalled none, monitorCall_uncalled none⟩,
    fun s slot runs => ⟨fun none below => ?takes, fun bad => ?refuses, ⟨_, manage_running runs _, ?sensors⟩, manage_running runs _,
      fun _ => length_bootRecord s.boot⟩⟩
  case back =>
    cases whole : slotOk (expired s die).boot ((expired s die).boot.active.toNat % 2) with
    | false => exact ⟨_, execWatchdogExpiry_broken runs on upd whole, fun _ => rfl, fun whole' => absurd (whole.symm.trans whole') (by decide)⟩
    | true =>
      obtain ⟨t, back, ends⟩ := execWatchdogExpiry_back runs on upd whole
      exact ⟨t, back, fun broken => absurd (whole.symm.trans broken) (by decide), fun _ => ends⟩
  case load => exact monitorCall_done caller (by rw [code]; rfl) (if_neg (by simp [other, below]))
  case noLoad => exact monitorCall_refused caller (by rw [code]; rfl) (if_pos (by simpa using bad))
  case pending => exact monitorCall_done caller (by rw [code]; rfl) (if_neg (by simpa using ⟨fun above => good.resolve_left above.not_gt, other⟩))
  case noPending => exact monitorCall_refused caller (by rw [code]; rfl) (if_pos (by simpa using bad))
  case measure => change execMeasure die s = _; exact monitorCall_done caller (by rw [code]; rfl) rfl
  case commit => exact monitorCall_done caller (by rw [code]; rfl) (if_neg named)
  case noCommit => exact monitorCall_refused caller (by rw [code]; rfl) (if_pos none)
  case notLoad => exact monitorCall_other caller fun same => other (BitVec.eq_of_toNat_eq same)
  case notPending => exact monitorCall_other caller fun same => other (BitVec.eq_of_toNat_eq same)
  case notMeasure => change execMeasure die s = _; exact monitorCall_other caller fun same => other (BitVec.eq_of_toNat_eq same)
  case notCommit => exact monitorCall_other caller fun same => other (BitVec.eq_of_toNat_eq same)
  case takes => exact (manage_running runs _).trans (congrArg Host.Outcome.next (if_pos (by simp [none, below])))
  case refuses =>
    refine (manage_running runs _).trans (congrArg Host.Outcome.next (if_neg fun good => ?_))
    obtain ⟨none, below⟩ : s.boot.pending = 0xFF ∧ slot.toNat < 2 := by simpa using good
    exact bad.elim (· none) below.not_ge
  case sensors => simp

end Sys2Proof.Machine
end

section
/-! ### Security requests and device interfaces (R446 to R448, R466, R469) -/
namespace Sys2Proof.Machine

variable {s : State} {e : Endpoint} {k : Out} {v : Vf} {vf session stream code a : Nat} {ranges : List (Nat × Nat)} {body : List Nat}

/-! #### Who answers (R446, R466, R469) -/

/-- The device takes security requests on an endpoint. -/
abbrev Attended (s : State) (e : Endpoint) : Prop := s.run = .running ∨ ∃ n, s.run = .recovery n ∧ n ≠ 30 ∧ e = .mctp

/-- The device leaves security requests on an endpoint unanswered. -/
abbrev Unattended (s : State) (e : Endpoint) : Prop := s.run = .held ∨ s.run = .stopped ∨ (∃ n, s.run = .recovery n ∧ (n = 30 ∨ e ≠ .mctp))

theorem attend_attended (attended : Attended s e) (k : Out) : attend s e k = k := by
  obtain runs | ⟨n, recovers, other, rfl⟩ := attended
  · simp only [attend, runs]
  · simp [attend, recovers, other]

theorem attend_thermal (hot : s.run = .thermal) (k : Out) : attend s e k = .next (if e = .mctp then tellHost s .thermal else s) := by
  simp only [attend, hot]

theorem attend_unattended (unattended : Unattended s e) (k : Out) : attend s e k = .next s := by
  obtain held | stopped | ⟨n, recovers, away⟩ := unattended
  · simp only [attend, held]
  · simp only [attend, stopped]
  · rw [attend, recovers]
    exact if_neg (by simpa [or_iff_not_imp_left, imp.swap] using away)

/-- The requests of the security protocol on an endpoint. -/
abbrev spdmRequests (e : Endpoint) (a b : Nat) : List Instr := [.getVersion e, .getCapabilities e, .negotiateAlgorithms e, .getDigests e,
  .getCertificate e a, .challenge e a b, .getMeasurements e a, .keyExchange e a, .finish e a, .endSession e a, .spdmUnsupportedRequest e a]

/-- Every one is answered by who attends the endpoint. -/
theorem exec_spdmRequests {i : Instr} {b : Nat} (request : i ∈ spdmRequests e a b) (s : State) : ∃ k, exec i s = attend s e k := by
  simp only [spdmRequests, List.mem_cons, List.not_mem_nil, or_false] at request
  rcases request with rfl | rfl | rfl | rfl | rfl | rfl | rfl | rfl | rfl | rfl | rfl <;> exact ⟨_, rfl⟩

/-! #### Answers of free content -/

/-- An answer is told to the host and touches neither the course nor memory. -/
abbrev Replies (s : State) (e : Endpoint) (code : Nat) (out : Out) : Prop :=
  ∃ t body, out = .next t ∧ t.toHost = s.toHost ++ [.spdm e code body] ∧ t.cur = s.cur ∧ t.mem = s.mem

theorem freeReply_replies (s : State) (e : Endpoint) (code : Nat) (body : List Nat) : Replies s e code (freeReply s e code body) :=
  ⟨_, _, rfl, rfl, rfl, rfl⟩

/-! #### Sessions -/

section
variable (attended : Attended s e)
include attended

theorem execKeyExchange_open (room : s.sessions.length < 4) : execKeyExchange e session s =
    freeReply { s with sessions := s.sessions ++ [{ id := session, finished := false }] } e 7 [session] :=
  (attend_attended attended _).trans (if_neg room.not_ge)

theorem execKeyExchange_full (full : 4 ≤ s.sessions.length) : execKeyExchange e session s = .next (tellHost s (.spdmError e true)) :=
  (attend_attended attended _).trans (if_pos full)

variable (s e) in
/-- What a running device answers to the requests that need no session. -/
theorem attended_answers (a b : Nat) : Replies s e 1 (execGetCapabilities e s) ∧ Replies s e 3 (execGetDigests e s) ∧
    Replies s e 4 (execGetCertificate e a s) ∧ Replies s e 5 (execChallenge e a b s) := by
  simp only [execGetCapabilities, execGetDigests, execGetCertificate, execChallenge, attend_attended attended]
  exact ⟨freeReply_replies .., ⟨_, _, rfl, rfl, rfl, rfl⟩, freeReply_replies .., freeReply_replies ..⟩

end

/-! #### Interfaces (R447, R448) -/

theorem execLockInterface_found (found : hostVf s vf = some v) :
    execLockInterface vf s = .next (if v.tdi = 0 && vfCovered s v then setTdi s vf 1 else s) := by
  simp only [execLockInterface, found]

theorem execStartInterface_found (found : hostVf s vf = some v) : execStartInterface vf s = .next (if v.tdi = 1 then setTdi s vf 2 else s) := by
  simp only [execStartInterface, found]

/-- Settles O60: every request goes through `attend`, and an interface goes from one state to the next only where its stream covers it. -/
theorem securityInterfaces : Obligations.SecurityInterfaces := by
  refine ⟨fun s e a b => ⟨fun attended => ?attended, fun i request => ?unattended⟩, fun s vf session stream ranges v =>
    ⟨fun allowed => ?programs, fun refused => ?unprogrammed, fun found unlocked covered => ?locks, fun found not => ?unlocked, fun found locked => ?starts,
      fun found not => ?unstarted, fun none => ?noInterface, fun found => ?reports, fun none => ?noReport⟩⟩
  case attended =>
    obtain ⟨capabilities, digests, certificate, challenge⟩ := attended_answers s e attended a b
    have opens (room : s.sessions.length < 4) := execKeyExchange_open (session := a) attended room
    refine ⟨attend_attended attended _, capabilities, attend_attended attended _, digests, certificate, challenge, attend_attended attended _,
      fun room => ⟨⟨_, _, opens room, rfl, rfl, rfl⟩, _, opens room, rfl⟩, execKeyExchange_full attended,
      fun known => (attend_attended attended _).trans (if_pos known), fun known => (attend_attended attended _).trans (if_pos known),
      fun unknown => ⟨?_, ?_⟩, attend_attended attended _⟩
    all_goals exact (attend_attended attended _).trans (if_neg ((Bool.not_eq_true _).mpr unknown))
  case unattended =>
    obtain ⟨k, attends⟩ := exec_spdmRequests request s
    exact ⟨fun hot => attends.trans (attend_thermal hot k), fun unattended => attends.trans (attend_unattended unattended k)⟩
  case programs => exact if_pos (by simpa [and_assoc] using allowed)
  case unprogrammed => exact if_neg (by simpa [and_assoc] using refused)
  case locks => exact (execLockInterface_found found).trans (congrArg Host.Outcome.next (if_pos (by simp [unlocked, covered])))
  case unlocked =>
    refine (execLockInterface_found found).trans (congrArg Host.Outcome.next (if_neg ?_))
    rcases not with tdi | uncovered
    · simp [tdi]
    · simp [uncovered]
  case starts => exact (execStartInterface_found found).trans (congrArg Host.Outcome.next (if_pos locked))
  case unstarted => exact (execStartInterface_found found).trans (congrArg Host.Outcome.next (if_neg not))
  case noInterface =>
    change execLockInterface vf s = _ ∧ execStartInterface vf s = _
    simp only [execLockInterface, execStartInterface, none, and_self]
  case reports => change execGetDeviceInterfaceReport vf s = _; simp only [execGetDeviceInterfaceReport, found]
  case noReport => change execGetDeviceInterfaceReport vf s = _; simp only [execGetDeviceInterfaceReport, none]

end Sys2Proof.Machine
end

section
/-! ### Requests of peers (R228, R453, R454, R457, R458) -/
namespace Sys2Proof.Machine

open Sys2Proof.Claims

variable {s t : State} {p : Packet} {a : Acc} {l : Line} {held : Bool} {st old : Nat}

/-- A request to the same line of the same source has been kept. -/
abbrev Behind (s : State) (p : Packet) : Bool := s.refusedRx.any (fun q => q.laddr == p.laddr && q.vf == p.vf && q.src == p.src)

/-! #### Which service a request gets -/

theorem serve_behind (behind : Behind s p = true) : serve s p = keepRx s p := if_pos behind

section
variable (ahead : Behind s p = false)
include ahead

theorem serve_read (read : p.opc = 1) : serve s p = serveRd s p := by simp only [serve, ahead, read, Bool.false_eq_true, if_false, if_true]

theorem serve_write (write : p.opc = 3) : serve s p = serveWr s p := by
  simp [serve, ahead, write]

theorem serve_atomic (atomic : p.opc = 6) : serve s p = serveAtm s p := by
  simp [serve, ahead, atomic]

theorem serve_exchange (exchange : p.opc = 10) : serve s p = serveXwr s p := by
  simp [serve, ahead, exchange]

end

/-! #### Refused by the VF's state -/

section
variable (refused : serveAs s p.vf p.cls = .error st)
include refused

theorem serveRd_refused : serveRd s p = replyTo s p 2 st [] 0 := by simp only [serveRd, refused]

theorem serveWr_refused : serveWr s p = countDone s p := by simp only [serveWr, refused]

theorem serveAtm_refused : serveAtm s p = replyTo s p 7 st [] 0 := by simp only [serveAtm, refused]

theorem serveXwr_refused : serveXwr s p = xack s p st := by simp only [serveXwr, refused]

end

section
variable (agent : serveAs s p.vf p.cls = .ok a)
include agent

/-! #### Reads -/

/-- A read of a line that home holds sets its sharer bit and is answered with the line once its CRCs are checked. -/
theorem serveRd_line (got : homeGet s a (128 * p.laddr) .read = (t, .line l held)) :
    let l1 : Line := { l with sharers := l.sharers ||| BitVec.ofNat 16 (2 ^ p.src) }
    let out := checkOut (if held then l2Put t l1 else t) l1 held 0 128
    serveRd s p = replyTo out.1 p 2 0 (bytesOf 128 out.2.data.toNat) out.2.poison := by
  simp only [serveRd, agent, got]

theorem serveRd_pinned (got : homeGet s a (128 * p.laddr) .read = (t, .pinned)) : serveRd s p = keepRx t p := by
  simp only [serveRd, agent, got]

/-! #### Writes -/

theorem serveWr_unleased (unleased : leaseRefuses s p.vf a (128 * p.laddr) = true) :
    serveWr s p = countDone (writeRefused s (128 * p.laddr) p.vf p.src) p := by
  simp only [serveWr, agent, unleased, if_true]

/-- What follows from how the write of a packet's bytes has ended. -/
def wrote (s : State) (p : Packet) (res : WrRes) : State :=
  match res with
  | .performed => countDone s p
  | .refused => countDone (writeRefused s (128 * p.laddr) p.vf p.src) p
  | .pinned => keepRx s p

theorem serveWr_leased (leased : leaseRefuses s p.vf a (128 * p.laddr) = false) {res : WrRes} (ends : performWr s a (128 * p.laddr) p = (t, res)) :
    serveWr s p = wrote t p res := by
  simp only [serveWr, agent, leased, ends, Bool.false_eq_true, if_false]
  cases res <;> rfl

/-! #### Atomics -/

theorem serveAtm_unleased (unleased : leaseRefuses s p.vf a (128 * p.laddr) = true) : serveAtm s p = replyTo s p 7 2 [] 0 := by
  simp only [serveAtm, agent, unleased, if_true]

/-- The offset in its line of an atomic's word. -/
def atmOff (p : Packet) : Nat := p.mask.toNat % 128
/-- Its operation. -/
def atmOp (p : Packet) : Nat := bits p.mask.toNat 7 4
/-- Whether it asks for the old value. -/
def atmRet (p : Packet) : Bool := bitAt p.mask.toNat 12
/-- Its operand. -/
def atmOperand (p : Packet) : Nat := numOf (p.data.take 16) % 2 ^ (if atmOp p = 9 then 16 * atmSize p.mask else 8 * atmSize p.mask)
/-- The answer to an atomic, once no copy of its line is left at a peer. -/
def atmAnswer (s : State) (a : Acc) (p : Packet) (old : Nat) (t : State) : State :=
  replyWritten t (effAsid s a.tenant a.asid (128 * p.laddr)) (128 * p.laddr) (replyPacket t p 7 0 (if atmRet p then bytesOf 16 old else []) 0)
/-- Whether poison keeps an atomic from its word. -/
def atmPoisoned (p : Packet) (l : Line) : Bool := poisonOf l.poison (atmOff p) (atmSize p.mask) && (atmRet p || atmOp p ≠ 8)

section
variable (leased : leaseRefuses s p.vf a (128 * p.laddr) = false)
include leased

theorem serveAtm_pinned (got : homeLoad s a (128 * p.laddr + atmOff p) (atmSize p.mask) .write = (t, .pinned, old)) : serveAtm s p = keepRx t p := by
  rw [atmOff] at got
  simp only [serveAtm, agent, leased, got, Bool.false_eq_true, if_false]

variable (got : homeLoad s a (128 * p.laddr + atmOff p) (atmSize p.mask) .write = (t, .line l held, old))
include got

theorem serveAtm_line : serveAtm s p =
    if atmPoisoned p l then replyTo t p 7 0 (if atmRet p then bytesOf 16 0 else []) 3
    else atmAnswer s a p old (if atomWrites (atmOp p) (atmSize p.mask) old (atmOperand p) then
      (homeWrite t a (128 * p.laddr) (byteMask (atmOff p) (atmSize p.mask))
        (dataWrite 0 (atmOff p) (atmSize p.mask) (atomNew (atmOp p) (atmSize p.mask) old (atmOperand p))) 0 (some p.src)).1 else t) := by
  rw [atmOff] at got
  simp only [serveAtm, agent, leased, got, Bool.false_eq_true, if_false]
  rfl

end

end

/-- Settles O48: a request that is expected is counted and gets the service of its opcode, refused, kept or answered as the lemmas of that service say. -/
theorem peerRequests : Obligations.PeerRequests := by
  intro s t p a l held expected u la off op z ret b asid behind served
  have serves : ∀ {v : State}, serve u p = v → Host.Outcome.next (accept s p fun s => serve s p) = (Host.Outcome.next v : Out) := fun same =>
    congrArg Host.Outcome.next ((accept_expected expected _).trans same)
  refine ⟨?line, ?pinned, ?flushRefused, ?refused, ?writes, ?unleased, ?invalidates, ?invalidated, ?atomics, fun _ _ => rfl, ?behind, ?flushes, ?unknown⟩
  case line => exact fun ⟨ahead, agent⟩ read got => serves ((serve_read ahead read).trans (serveRd_line agent got))
  case pinned => exact fun ⟨ahead, agent⟩ read got => serves ((serve_read ahead read).trans (serveRd_pinned agent got))
  case flushRefused =>
    intro st refused
    refine congrArg Host.Outcome.next ((accept_expected expected _).trans ?_)
    simp only [u] at refused ⊢
    simp only [refused]
  case refused =>
    exact fun st ahead refused => ⟨fun read => serves ((serve_read ahead read).trans (serveRd_refused refused)),
      fun atomic => serves ((serve_atomic ahead atomic).trans (serveAtm_refused refused)),
      fun write => serves ((serve_write ahead write).trans (serveWr_refused refused)),
      fun exchange => serves ((serve_exchange ahead exchange).trans (serveXwr_refused refused))⟩
  case writes =>
    intro ⟨ahead, agent⟩ write leased
    have ends {res : WrRes} (performed : performWr u a la p = (t, res)) := serves ((serve_write ahead write).trans (serveWr_leased agent leased performed))
    exact ⟨ends, ends, ends⟩
  case unleased =>
    exact fun ⟨ahead, agent⟩ unleased => ⟨fun write => serves ((serve_write ahead write).trans (serveWr_unleased agent unleased)),
      fun atomic => serves ((serve_atomic ahead atomic).trans (serveAtm_unleased agent unleased))⟩
  case invalidates => exact congrArg Host.Outcome.next (accept_expected expected _)
  case invalidated => exact congrArg Host.Outcome.next (accept_expected expected _)
  case atomics =>
    intro ⟨ahead, agent⟩ atomic leased
    refine ⟨fun old got => ?_, fun old got => serves ((serve_atomic ahead atomic).trans (serveAtm_pinned agent leased got))⟩
    have answers {v : State} (same : _ = v) := serves ((serve_atomic ahead atomic).trans ((serveAtm_line agent leased got).trans same))
    refine ⟨fun clean writes => answers ?_, fun clean keeps => answers ?_, fun bad => answers (if_pos bad)⟩
    · exact (if_neg ((Bool.not_eq_true _).mpr clean)).trans (congrArg (atmAnswer u a p old) (if_pos writes))
    · exact (if_neg ((Bool.not_eq_true _).mpr clean)).trans (congrArg (atmAnswer u a p old) (if_neg ((Bool.not_eq_true _).mpr keeps)))
  case behind =>
    intro behind
    have kept := serves (serve_behind behind)
    exact ⟨kept, kept, kept, kept⟩
  case flushes =>
    intro agent
    refine congrArg Host.Outcome.next ((accept_expected expected _).trans ?_)
    simp only [u] at agent ⊢
    simp only [agent]
  case unknown => exact congrArg Host.Outcome.next (accept_expected expected _)

end Sys2Proof.Machine
end

section
/-! ### Replies of peers (R266, R453, R454, R458, R459) -/
namespace Sys2Proof.Machine

open Sys2Proof.Claims

variable {s t : State} {p : Packet} {r : PeerReq} {o : Op} {seq lane opc : Nat} {f : State → Packet → ReqWho → State}

/-! #### Which request a reply answers -/

theorem takeReply_unasked (unasked : findReq s p opc = none) : takeReply s p opc f = s := by simp only [takeReply, unasked]

section
variable (asked : findReq s p opc = some r)
include asked

theorem takeReply_asked (kept : replyDropped (dropReq s r) p.vf = false) : takeReply s p opc f = f (dropReq s r) p r.who := by
  simp only [takeReply, asked, kept, Bool.not_false, if_true]

/-- A reply for a draining VF to an operation only takes the request off the list. -/
theorem takeReply_drained {c : Nat} (who : r.who = .op c seq lane) (dropped : replyDropped (dropReq s r) p.vf = true) :
    takeReply s p opc f = dropReq s r := by
  simp only [takeReply, asked, dropped, who, Bool.not_true, Bool.false_eq_true, if_false]

end

/-! #### What a reply does for an operation of the course in the issue unit -/

section
variable (listed : s.cur.ops.find? (fun y => y.seq == seq) = some o)
include listed

/-- A line fills the local peer line and goes to the operation that asked for it. -/
theorem rdrReply_done (done : p.status = 0) (lanes : Op → Nat → Bool) :
    rdrReply s p (.op s.cur.id seq lane) lanes =
      let u := fillPeer s (opAcc s.cur o) (128 * p.laddr) (numOf (p.data.take 128)) p.poison
      goOn (putOp u { o with
        peerWait := awaits u s.cur.id seq
        data := o.data ++ [(128 * p.laddr, numOf (p.data.take 128))] ++ (if p.poison = 0 then [] else [(128 * p.laddr + 1, 1)]) }) seq := by
  simp only [rdrReply, atCourse_here, listed, done, ne_eq, not_true_eq_false, if_false]

theorem rdrReply_failed (failed : p.status ≠ 0) (lanes : Op → Nat → Bool) :
    rdrReply s p (.op s.cur.id seq lane) lanes = replyFails s o p.status (lanes o) := by
  simp only [rdrReply, atCourse_here, listed, failed, ne_eq, not_false_eq_true, if_true]

theorem atmrReply_engine (engine : o.isEngine = true) : atmrReply s p (.op s.cur.id seq lane) =
    goOn (if p.status ≠ 0 then replyFails s o p.status (fun _ => false) else putOp s { o with peerWait := false }) seq := by
  simp only [atmrReply, atCourse_here, listed, engine, if_true]

theorem atmrReply_failed (engine : o.isEngine = false) (failed : p.status ≠ 0) :
    atmrReply s p (.op s.cur.id seq lane) = replyFails s o p.status (fun i => i == lane) := by
  simp only [atmrReply, atCourse_here, listed, engine, failed, ne_eq, not_false_eq_true, Bool.false_eq_true, if_false, if_true]

/-- The old value goes to its lane; one that no lane asked for tells that a store through has been performed. -/
theorem atmrReply_done (engine : o.isEngine = false) (done : p.status = 0) (told : t = if o.dest ≠ .none then s else s.upd (fun c => c.addPeer p.src)) :
    atmrReply s p (.op s.cur.id seq lane) = settleOp o
      { s := t, got := [(lane, numOf p.data % 2 ^ (8 * o.accBytes))], fs := [], absent := [], refused := false, wait := awaits t s.cur.id seq,
        poison := decide (o.dest ≠ .none) && p.poison ≠ 0 } := by
  simp only [atmrReply, atCourse_here, listed, engine, done, told, ne_eq, not_true_eq_false, Bool.false_eq_true, if_false, decide_eq_true_eq]

theorem frrReply_failed (failed : p.status ≠ 0) : frrReply s p (.op s.cur.id seq lane) = replyFails s o p.status (fun _ => false) := by
  simp only [frrReply, atCourse_here, listed, failed, ne_eq, not_false_eq_true, if_true]

theorem frrReply_done (done : p.status = 0) : frrReply s p (.op s.cur.id seq lane) =
    if awaits s s.cur.id seq then s else goOn (putOp s { o with peerWait := false }) seq := by
  simp only [frrReply, atCourse_here, listed, done, ne_eq, not_true_eq_false, if_false]

end

/-- Settles O49: a reply takes its request off the list and goes to the operation that asked, as the lemmas of its kind say. -/
theorem peerReplies : Obligations.PeerReplies := by
  intro s p r o seq lane expected who named listed u w la d more filled
  have takes {opc : Nat} {f : State → Packet → ReqWho → State} {v : State} (same : takeReply u p opc f = v) :
      Host.Outcome.next (accept s p fun s => takeReply s p opc f) = (Host.Outcome.next v : Out) :=
    congrArg Host.Outcome.next ((accept_expected expected _).trans same)
  have goes {opc : Nat} {f : State → Packet → ReqWho → State} {v : State} (asked : findReq u p opc = some r) (kept : replyDropped w p.vf = false)
      (same : f w p (.op w.cur.id seq lane) = v) : Host.Outcome.next (accept s p fun s => takeReply s p opc f) = (Host.Outcome.next v : Out) :=
    takes ((takeReply_asked asked kept).trans ((congrArg (f w p) who).trans same))
  replace listed : w.cur.ops.find? (fun y => y.seq == seq) = some o := listed
  refine ⟨fun unasked => takes (takeReply_unasked unasked), fun unasked => takes (takeReply_unasked unasked),
    fun unasked => takes (takeReply_unasked unasked),
    fun dropped => ?drained, fun asked kept => ?line, fun asked kept => ?atomic, fun asked kept => ?flushed⟩
  case drained =>
    exact ⟨fun asked => takes (takeReply_drained asked who dropped), fun asked => takes (takeReply_drained asked who dropped),
      fun asked => takes (takeReply_drained asked who dropped)⟩
  case line => exact ⟨fun done => goes asked kept (rdrReply_done listed done _), fun failed => goes asked kept (rdrReply_failed listed failed _)⟩
  case atomic =>
    refine ⟨fun done engine => ?_, fun done engine t told => goes asked kept (atmrReply_done listed engine done told), fun failed engine => ?_,
      fun failed engine => goes asked kept (atmrReply_failed listed engine failed)⟩
    · exact goes asked kept ((atmrReply_engine listed engine).trans (congrArg (goOn · seq) (if_neg (not_not.mpr done))))
    · exact goes asked kept ((atmrReply_engine listed engine).trans (congrArg (goOn · seq) (if_pos failed)))
  case flushed =>
    refine ⟨fun done waits => ?_, fun done none => ?_, fun failed => goes asked kept (frrReply_failed listed failed)⟩
    · exact goes asked kept ((frrReply_done listed done).trans (if_pos waits))
    · exact goes asked kept ((frrReply_done listed done).trans (if_neg ((Bool.not_eq_true _).mpr none)))

end Sys2Proof.Machine
end

section
/-! ### Pre-emption requests (R431, R432) -/
namespace Sys2Proof.Machine

variable {s t : State} {die kind : Nat} {q : Prq} {r : PrqRun} {overdue : Bool}

/-- A record that still satisfies the test after `updWhere` has been changed by it. -/
theorem updWhere_chosen {α : Type} {p : α → Bool} {f : α → α} {xs : List α} {y : α} (member : y ∈ updWhere p f xs)
    (chosen : p y = true) : ∃ x, y = f x := by
  obtain ⟨x, -, rfl⟩ := List.mem_map.mp member
  by_cases named : p x = true
  · exact ⟨x, if_pos named⟩
  · exact absurd (by rwa [if_neg named] at chosen) named

@[simp] theorem updDie_prqs (s : State) (d : Nat) (f : Die → Die) : (updDie s d f).prqs = s.prqs := apply_ite State.prqs _ _ _ |>.trans (ite_self _)

theorem prqSpans_updDie (s : State) (d kind : Nat) (f : Die → Die) (q : Prq) : prqSpans (updDie s d f) kind q = prqSpans s kind q := by
  unfold updDie
  split <;> rfl

theorem prqPiers_updDie (s : State) (d die kind : Nat) (f : Die → Die) (q : Prq) : prqPiers (updDie s d f) die kind q = prqPiers s die kind q := by
  unfold updDie
  split <;> rfl

/-! #### The end of a request -/

theorem prqComplete_counts (s : State) (die : Nat) (overdue : Bool) :
    (getDie (prqComplete s die overdue) die).prqDone = (getDie s die).prqDone + 1 ∧
      (getDie (prqComplete s die overdue) die).prqOverdue = ((getDie s die).prqOverdue || overdue) := by
  rw [prqComplete, getDie_updDie]
  exact ⟨rfl, rfl⟩

theorem prqComplete_frees (s : State) (die : Nat) (overdue : Bool) : prqBusy (prqComplete s die overdue) die = false := by
  simp [prqBusy, prqComplete]

/-! #### The start of a request -/

theorem startPrq_busy (busy : prqBusy s die = true) : startPrq s die kind q = s := if_pos busy

/-- The die as a new request finds it. -/
def prqFresh (s : State) (die : Nat) : State := updDie s die (fun d => { d with prqOverdue := false })

theorem prqFresh_counts (s : State) (die : Nat) : (getDie (prqFresh s die) die).prqDone = (getDie s die).prqDone ∧
    (getDie (prqFresh s die) die).prqOverdue = false := by
  rw [prqFresh, getDie_updDie]
  exact ⟨rfl, rfl⟩

section
variable (free : prqBusy s die = false)
include free

theorem startPrq_bad (bad : q.bad = true) : startPrq s die kind q = prqComplete (prqFresh s die) die true :=
  (if_neg ((Bool.not_eq_true _).mpr free)).trans (if_pos bad)

variable (good : q.bad = false)
include good

theorem startPrq_release : startPrq s die 4 q = prqComplete { prqFresh s die with
    piers := updWhere (fun p => memNat p.span (prqSpans s 4 q)) (fun p => { p with held := false }) (prqFresh s die).piers } die false := by
  rw [startPrq, if_neg ((Bool.not_eq_true _).mpr free), if_neg ((Bool.not_eq_true _).mpr good), if_pos rfl]
  simp only [prqSpans_updDie]
  rfl

end

/-- A course that a debug stop names. -/
def debugNamed (die : Nat) (q : Prq) (c : Course) : Bool := c.exists && c.qid == q.qid && c.slot == q.slot && c.tenant == q.tenant && c.die == die

/-- A debug stop has been asked for, whose acknowledgements the courses `ids` owe. -/
def debugAsked (s : State) (die : Nat) (q : Prq) (ids : List Nat) : State :=
  { updCourses (prqFresh s die) (debugNamed die q) (fun c => { c with debugReq := true }) with
      prqs := (prqFresh s die).prqs ++ [{ die := die, kind := 5, req := q, courses := ids, overdue := false }] }

/-- A halt has been asked for, whose acknowledgements the courses `ids` owe, on the quoins `qs`. -/
def haltAsked (s : State) (die kind : Nat) (q : Prq) (ids qs : List Nat) : State :=
  { updCourses (prqFresh s die) (fun c => c.life = .live && memNat c.pier (prqPiers s die kind q)) (fun c => { c with haltReq := true, held := q.hold }) with
      piers := updWhere (fun p => memNat p.id (prqPiers s die kind q)) (fun p => { p with held := q.hold, save := some q.save, saveQuoins := qs })
        (prqFresh s die).piers
      prqs := (prqFresh s die).prqs ++ [{ die := die, kind := kind, req := q, courses := ids, overdue := false }] }

section
variable (free : prqBusy s die = false) (good : q.bad = false)
include free good

theorem startPrq_debug : ∃ ids, startPrq s die 5 q = debugAsked s die q ids := by
  rw [startPrq, if_neg ((Bool.not_eq_true _).mpr free), if_neg ((Bool.not_eq_true _).mpr good), if_neg (by decide), if_pos rfl]
  exact ⟨_, rfl⟩

theorem startPrq_halting (halting : kind ≤ 3) : ∃ ids qs, startPrq s die kind q = haltAsked s die kind q ids qs := by
  rw [startPrq, if_neg ((Bool.not_eq_true _).mpr free), if_neg ((Bool.not_eq_true _).mpr good), if_neg (by omega), if_neg (by omega)]
  simp only [prqPiers_updDie]
  exact ⟨_, _, rfl⟩

end

theorem debugAsked_names (ids : List Nat) :
    prqBusy (debugAsked s die q ids) die = true ∧ (debugNamed die q s.cur = true → (debugAsked s die q ids).cur.debugReq = true) ∧
      ∀ c ∈ (debugAsked s die q ids).courses, debugNamed die q c = true → c.debugReq = true := by
  refine ⟨by simp [prqBusy, debugAsked], fun named => ?_, fun c member named => ?_⟩
  · simp [debugAsked, updCourses, prqFresh, named]
  · obtain ⟨c', rfl⟩ := updWhere_chosen member named
    rfl

/-- Every live course of the piers that a halting request names is asked to halt, and those piers are held or not as it says. -/
theorem haltAsked_names (ids qs : List Nat) :
    (∀ p ∈ (haltAsked s die kind q ids qs).piers, memNat p.id (prqPiers s die kind q) = true → p.held = q.hold ∧ p.save = some q.save) ∧
    (s.cur.life = .live → memNat s.cur.pier (prqPiers s die kind q) = true →
      (haltAsked s die kind q ids qs).cur.haltReq = true ∧ (haltAsked s die kind q ids qs).cur.held = q.hold) ∧
    (∀ c ∈ (haltAsked s die kind q ids qs).courses, c.life = .live → memNat c.pier (prqPiers s die kind q) = true →
      c.haltReq = true ∧ c.held = q.hold) := by
  refine ⟨fun p member named => ?_, fun live named => ?_, fun c member live named => ?_⟩
  · obtain ⟨p', rfl⟩ := updWhere_chosen member named
    exact ⟨rfl, rfl⟩
  · simp [haltAsked, updCourses, prqFresh, live, named]
  · obtain ⟨c', rfl⟩ := updWhere_chosen member (by simp [live, named])
    exact ⟨rfl, rfl⟩

/-- Each of the five instructions starts a request of its kind. -/
theorem exec_startPrq {i : Instr} (request : (i = .preemptSpan die q ∧ kind = 1) ∨ (i = .preemptPier die q ∧ kind = 2) ∨
    (i = .preemptTenant die q ∧ kind = 3) ∨ (i = .preemptRelease die q ∧ kind = 4) ∨ (i = .debugStop die q ∧ kind = 5)) :
    exec i s = .next (startPrq s die kind q) := by
  rcases request with ⟨rfl, rfl⟩ | ⟨rfl, rfl⟩ | ⟨rfl, rfl⟩ | ⟨rfl, rfl⟩ | ⟨rfl, rfl⟩ <;> rfl

/-! #### Requests under way -/

theorem execPreemptRequestDone_acked (acked : firstPrq (settlePiers s) (prqAcked (settlePiers s)) = some r) :
    execPreemptRequestDone s = .next (prqComplete (settlePiers s) r.die r.overdue) := by
  simp only [execPreemptRequestDone, acked]

theorem execPreemptRequestDone_none (none : firstPrq (settlePiers s) (prqAcked (settlePiers s)) = none) :
    execPreemptRequestDone s = .next (settlePiers s) := by
  simp only [execPreemptRequestDone, none]

/-- A request marked overdue, and its die. -/
def overdueMarked (s : State) (r : PrqRun) : State :=
  updDie { s with prqs := updWhere (fun x => x.die == r.die) (fun x => { x with overdue := true }) s.prqs } r.die (fun d => { d with prqOverdue := true })

/-- The course in the issue unit, if it is live and untrapped and its command has not reached its unit, takes (20, 1). -/
def commandTrapped (s : State) : State :=
  match runningCommand s.cur with
  | some o => match o.kind with
    | .engine _ maj _ _ _ _ _ =>
      if s.cur.life = .live && s.cur.stopRing.isNone then raise s 0x141 s.cur.live o.pc (maj + 65536 * (s.cur.core % 96)) 0 else s
    | _ => s
  | none => s

theorem execPreemptOverdue_late (late : firstPrq s (fun r => !r.overdue && !prqAcked s r) = some r) : execPreemptOverdue s =
    .next (if r.kind = 5 then overdueMarked s r else r.courses.foldl (fun t id => atCourse t id commandTrapped) (overdueMarked s r)) := by
  simp only [execPreemptOverdue, late]
  rfl

/-- Settles O52: a request starts as `startPrq` says of its kind, and ends by `prqComplete`. -/
theorem preemption : Obligations.Preemption := by
  refine ⟨fun s die q i kind request => ?starts, fun s r => ⟨fun acked => ?done, execPreemptRequestDone_none,
    fun late => ⟨fun debug => ?debug, fun command => ?command⟩, fun none => ?intime⟩⟩
  case starts =>
    rw [exec_startPrq request]
    refine ⟨fun busy => congrArg Host.Outcome.next (startPrq_busy busy), fun free bad => ?bad, fun free good release => ?release,
      fun free good halting => ?halting, fun free good debug => ?stop⟩
    case bad =>
      refine ⟨_, congrArg Host.Outcome.next (startPrq_bad free bad), ?_⟩
      obtain ⟨done, late⟩ := prqComplete_counts (prqFresh s die) die true
      exact ⟨done.trans (congrArg (· + 1) (prqFresh_counts s die).1), by rw [late, Bool.or_true],
        by simp [prqComplete, prqFresh], by simp [prqComplete, prqFresh]⟩
    case release =>
      subst release
      refine ⟨_, congrArg Host.Outcome.next (startPrq_release free good), ?_, ?_, fun p member named => ?_⟩
      · exact (prqComplete_counts ..).1.trans (congrArg (· + 1) (prqFresh_counts s die).1)
      · exact (prqComplete_counts ..).2.trans ((Bool.or_false _).trans (prqFresh_counts s die).2)
      · rw [prqComplete, updDie_piers] at member
        obtain ⟨p', rfl⟩ := updWhere_chosen member named
        rfl
    case halting =>
      obtain ⟨ids, qs, starts⟩ := startPrq_halting free good halting
      exact ⟨_, congrArg Host.Outcome.next starts, by simp [prqBusy, haltAsked], (prqFresh_counts s die).1, haltAsked_names ids qs⟩
    case stop =>
      subst debug
      obtain ⟨ids, starts⟩ := startPrq_debug free good
      obtain ⟨busy, current, others⟩ := debugAsked_names (s := s) (die := die) (q := q) ids
      have named (c : Course) : debugNamed die q c = true ↔
          c.exists = true ∧ c.qid = q.qid ∧ c.slot = q.slot ∧ c.tenant = q.tenant ∧ c.die = die := by
        simp [debugNamed, and_assoc]
      exact ⟨_, congrArg Host.Outcome.next starts, busy, current ∘ (named _).mpr, fun c member => others c member ∘ (named c).mpr⟩
  case done =>
    exact ⟨_, execPreemptRequestDone_acked acked, prqComplete_frees .., (prqComplete_counts ..).1⟩
  case debug => exact (execPreemptOverdue_late late).trans (congrArg Host.Outcome.next (if_pos debug))
  case command => exact (execPreemptOverdue_late late).trans (congrArg Host.Outcome.next (if_neg command))
  case intime => change execPreemptOverdue s = _; simp only [execPreemptOverdue, none]

end Sys2Proof.Machine
end
